-- ==== Sys2Proof/Word.lean ====
section
/-! DEFINITION. The word types (00 R7, R10, R11) and the plain sparse table. -/

namespace Sys2Proof

abbrev Byte := BitVec 8
abbrev Half := BitVec 16
abbrev Word := BitVec 32
abbrev DWord := BitVec 64

/-- A sparse table: the pairs written so far. An unlisted key reads as the default its reader names. -/
abbrev Tbl (κ ν : Type) := List (κ × ν)

/-- Byte memory: address and byte, addresses strictly rising, no zero byte listed (see Memory.wf). -/
abbrev Memory := List (Nat × BitVec 8)

/-- Bits hi down to lo of a word, as a number. -/
def Word.field (w : Word) (hi lo : Nat) : Nat := (w.toNat >>> lo) % 2 ^ (hi + 1 - lo)

/-- One bit of a word. -/
def Word.bit (w : Word) (i : Nat) : Bool := w.toNat.testBit i

end Sys2Proof
end

