-- ==== Sys2Proof/Syntax.lean ====
section
/-! DEFINITION. The commands: one constructor for each row of the table of operations and events, with its operands.
Partitions are named by their lowest unit (15 R521); functions by number (0 = PF); times are DEVTIME in ns. Operands that
the part receives from outside or from analogue (converter codes, frames, test results) are written out in the command. -/

namespace Sys2Proof

/-- An agent inside the package, as SAFE.PROT_AGENT names it (15 R543). -/
structure Agent where
  die : Nat
  num : Nat
  deriving DecidableEq, Repr

/-- Where a register access is aimed: BAR0 of a function, or a physical offset by an agent (01 R26, 13 R462). -/
inductive Target where
  | bar0 (fn off : Nat)
  | phys (who : Agent) (addr : Nat)
  deriving DecidableEq, Repr

/-- Where a mailbox request comes from: the PF mailbox, MCTP, or a control processor's internal mailbox (15 R524). -/
inductive MbxSource where
  | pf | mctp | proc (who : Agent)
  deriving DecidableEq, Repr

/-- The source and SEQ of a mailbox request (15 R523). -/
structure MbxReq where
  src : MbxSource
  seq : Word
  deriving DecidableEq, Repr

/-- A frame received at a link port: whether its FCS is right, its VLAN (0 = untagged), its MACsec protection as the port found
it, and the ILT packet in it (14 R492-R494). -/
structure Frame where
  port : Nat
  fcsOk : Bool
  vlan : Nat
  secured : Bool
  an : Nat
  pn : Nat
  icvOk : Bool
  bytes : List Byte
  deriving DecidableEq, Repr

/-- A descriptor queue of a partition, by the position of its core, stream unit or mover (08 R283). -/
inductive Queue where
  | core (i : Nat) | stream (j : Nat) | attention | mover (m : Nat) | control
  deriving DecidableEq, Repr

/-- How a host read ends (13 R459). -/
inductive HostErr where
  | unsupported | abort | poisoned | timeout
  deriving DecidableEq, Repr

/-- What a timed-out host read was for (13 R459). -/
inductive HostReader where
  | doorbell | descriptor (sq : Nat) | command (sq cmdId : Nat) | step
  deriving DecidableEq, Repr

/-- The units an in-field test can find failing (12 R444). -/
inductive TestFault where
  | converter (array conv : Nat)
  | row (array : Nat)
  | engine (engine : Nat)
  | fixative (core : Nat)
  | stream (su : Nat)
  deriving DecidableEq, Repr

/-- What the converters of an array read in a calibration slot: the columns, or a reference line through the multiplexer (02 R61). -/
inductive CalSource where
  | columns | zero | mid | full
  deriving DecidableEq, Repr

/-- A calibration slot (02 R61, 11 R390): the array and bank driven, the segment, the range code, the rows with their polarity (true is
reversed), and the codes read: by physical column, or by converter where a reference is read. A code not listed is 0; of the mid and
full references only listed converters read. -/
structure CalSlot where
  array : Nat
  bank : Nat
  seg : Nat
  rcode : Nat
  rows : List (Nat × Bool)
  source : CalSource
  codes : List (Nat × Int)
  deriving DecidableEq, Repr

/-- The values of an Accord (11 R389): offset codes, reference trims that are not 32 and allowances by position and converter or array,
column trims by array, bank and column. -/
structure Measured where
  zc : List (Nat × Int)
  art : List (Nat × Int)
  gt : List ((Nat × Nat × Nat) × Int)
  ot : List ((Nat × Nat × Nat) × Int)
  allowance : List (Nat × Nat)
  deriving DecidableEq, Repr

/-- What a start of the part finds outside the model (16 R556, R557, R566, 11 R397): which Warden pairs pass their self-test,
whether everything a trial boot needs starts and trains, whether a trial that fails had already migrated the settings, the read-back's failing rows as array, bank and row,
the first temperatures by die and sensor in 1/16 °C, and the calibration slots of the initial Accords by engine. -/
structure Start where
  activeOk : Bool
  standbyOk : Bool
  trialOk : Bool
  trialMigrated : Bool
  readback : List (Nat × Nat × Nat)
  temps : List ((Nat × Nat) × Int)
  accords : List (Nat × List CalSlot)
  deriving DecidableEq, Repr

/-- What is on the board and in the fuses before the part is first powered (16 R559-R563, R570): flash by offset, the chip identity,
the production fuse, digests of the firmware and debug keys by slot, revoked slots, fuses blown by image kind, and what was measured
at test: each die's V_BGH in 10 µV and the divider ratios of its channels (11 R388, R399), and the SMB_ADDR straps (17 R576). -/
structure Board where
  flash : List (Nat × List Byte)
  uid : List Byte
  prod : Bool
  fwKeys : List (Nat × List Byte)
  fwRevoked : List Nat
  dbgKeys : List (Nat × List Byte)
  dbgRevoked : List Nat
  rollback : List (Nat × Nat)
  vbgh : List (Nat × Nat)
  dividers : List ((Nat × Nat) × (Nat × Nat))
  smbAddr : Nat
  deriving DecidableEq, Repr

inductive Instr where
  -- host commands and steps
  | stepRun (fn : Nat)
  | stepBegin (p : Nat)
  | opDispatch (p : Nat)
  | stepDeadlineExpiry (p : Nat)
  | scoreboardTimeout (p : Nat) (queue : Queue)
  -- core ops
  | pass (p core : Nat)
  | passAdmit (p core : Nat) (codes : List (Nat × Int))
  | budgetRefill (core : Nat)
  | passPromote (p core : Nat)
  | fixRecomputeDone (p core : Nat)
  | arbitrationDone (p core : Nat)
  | accOpen (p core : Nat)
  | accClose (p core : Nat)
  | groupClose (p core engine group : Nat)
  -- attention ops
  | kvAppend (p : Nat) (units : List Nat)
  | attend (p : Nat) (units : List Nat)
  | attendFold (p op entry : Nat)
  | kvRollback (p : Nat)
  -- stream-unit ops
  | norm (p su : Nat)
  | rotate (p su : Nat)
  | elem (p su : Nat)
  | reduce (p su : Nat)
  | route (p su : Nat)
  | sample (p su : Nat)
  -- mover ops
  | copy (p mover : Nat)
  | gather (p mover : Nat)
  | scatter (p mover : Nat)
  | collective (p mover : Nat)
  | collTimeout (p op : Nat)
  -- control ops
  | fence (p : Nat)
  | fenceSatisfied (p : Nat)
  | fenceTimeout (p : Nat)
  | check (p : Nat)
  | checkSatisfied (p : Nat)
  | commit (p : Nat)
  -- cache edits
  | kvEditOpen (fn : Nat)
  | kvEditRelist (fn : Nat)
  | kvEditTrim (fn : Nat)
  | kvEditFree (fn : Nat)
  | kvEditApply (p seq : Nat)
  | swapOut (fn : Nat)
  | swapIn (fn : Nat)
  -- weights
  | shardBegin (fn : Nat)
  | shardRepair (fn : Nat)
  | shardData (fn : Nat)
  | shardCommit (fn : Nat)
  | bankProgramDone (p array bank : Nat) (badCols : List Nat)
  | epochSwitch (fn : Nat)
  | epochRetire (fn : Nat)
  | epochRetireDeadline (p : Nat)
  -- serving
  | serveCfg (fn : Nat)
  | reqOpen (fn : Nat)
  | reqAppend (fn : Nat)
  | reqCancel (fn : Nat)
  | kvExport (fn : Nat)
  | kvImport (fn : Nat)
  | serveBoundary (p : Nat)
  | reqQueueTimeout (p handle : Nat)
  | reqPreemptTimeout (p handle : Nat)
  | reqHoldTimeout (p handle : Nat)
  | importTimeout (p slot : Nat)
  -- administrative host commands
  | calRequest (fn : Nat)
  | partQuery (fn : Nat)
  | telemSnapshot (fn : Nat)
  -- rings and pages
  | doorbellPoll (fn : Nat)
  | descriptorAccept (fn sq : Nat)
  | completionWrite (fn cq : Nat)
  | statusPageWrite (fn : Nat)
  | statWriteNow (fn : Nat)
  | ringCfgWrite (fn : Nat) (cq : Bool) (n : Nat) (value : Word)
  | functionLevelReset (fn : Nat)
  | bmeWrite (fn : Nat) (on : Bool)
  -- registers
  | registerWrite (target : Target) (bytes : Nat) (value : DWord)
  | statusBitClear (target : Target) (value : Word)
  | counterClear (target : Target) (value : Word)
  | pairLowRead (target : Target)
  | pairHighWrite (target : Target) (value : Word)
  | handleCommit (p n : Nat) (value : Word)
  | windowCommit (p n : Nat) (value : Word)
  | kvCfgWrite (p off : Nat) (value : Word)
  | imageRegionWrite (p off : Nat) (value : Word)
  | degradedForce (p : Nat)
  | resetTags (p : Nat)
  -- Warden mailbox
  | partCreate (req : MbxReq) (units : Nat) (strict : Bool)
  | partRelease (req : MbxReq) (lowest : Nat)
  | partScrubDone (p : Nat) (failed : List Nat)
  | partStrict (req : MbxReq) (lowest : Nat) (strict : Bool)
  | unitScrub (req : MbxReq) (unit : Nat)
  | keyGrant (req : MbxReq) (key lowest : Nat)
  | keyRevoke (req : MbxReq) (key : Nat)
  | regRead (req : MbxReq) (addr : Nat)
  | regWrite (req : MbxReq) (addr : Nat) (value : Word)
  | snsCaptureZero (sel : Nat)
  | snsCaptureFull (sel full : Nat)
  | snsClear (sel : Nat)
  | snsCaptureDone (readings : List Int)
  | fwuBegin (req : MbxReq)
  | fwuWrite (req : MbxReq) (off bytes host : Nat)
  | fwuVerify (req : MbxReq)
  | fwuActivate (req : MbxReq)
  | fwuAbort (req : MbxReq)
  | pwrSetLive (req : MbxReq) (start : Start)
  | pwrSetEve (req : MbxReq)
  | pwrSetVigil (req : MbxReq)
  | pwrSetSolstice (req : MbxReq)
  | pwrCfg (req : MbxReq) (value : Word)
  | pwrLimit (req : MbxReq) (watts : Nat)
  | pkgReset (req : MbxReq) (start : Start)
  | dbgChallenge (req : MbxReq)
  | dbgUnlock (req : MbxReq) (token : List Byte)
  | dbgLock (req : MbxReq)
  | dbgChallengeLapse
  | dbgExpiry
  | mctpSetEndpointId (op eid : Nat)
  | mctpGetEndpointId
  | mctpGetVersionSupport (msgType : Nat)
  | mctpGetMessageType
  -- test port
  | jtagBypass (tdi : List Bool)
  | jtagIdcode
  | jtagSamplePreload (bits : List Bool)
  | jtagExtest
  | jtagClamp
  | jtagHighz
  | dbgHalt (who : Agent)
  | dbgSingleStep (who : Agent)
  | dbgBreakpoint (who : Agent) (n : Nat) (watch : Bool) (addr : Nat)
  | dbgMemoryAccess (who : Agent) (write : Bool) (addr bytes : Nat) (value : DWord)
  -- calibration, integrity
  | accordReady (engine : Nat) (slots : List CalSlot)
  | calibrationSlot (engine : Nat) (slot : CalSlot)
  | scrubRead (p array bank row : Nat) (bad : List Nat)
  | refreshDone (p array bank col : Nat) (stuck : Bool)
  | digestCheck (p epoch : Nat)
  | iftRun (p : Nat) (faults : List TestFault)
  | iftUnowned (faults : List TestFault)
  -- telemetry, temperature, power
  | telemConversion (die conv : Nat) (code : Int)
  | telemUrgent (die conv chan : Nat) (who : Agent)
  | graceExpiry
  | thermLevelTick
  | powerLimitTick (watts : Nat)
  | eveIdleExpiry
  | vigilIdleExpiry
  -- time, pins
  | devtimeAlignPulse (die : Nat)
  | devtimePulseMiss (die : Nat)
  | porstNRelease (start : Start)
  | porstNAssert
  | pwrgdFall
  | perstNAssert
  | refclkSdLoss
  | refclkPcieLoss
  -- Warden, processors, interrupts
  | settingsWrite (bytes : List Byte)
  | wardenTakeover (cause : Nat)
  | wardenCheckpoint
  | cpWatchdogRestart (who : Agent)
  | vicSourceEdge (who : Agent) (source : Nat) (asserted : Bool)
  | vicPendSet (who : Agent) (word : Nat) (value : Word)
  | vicDeliver (who : Agent) (mie : Bool)
  | vicEoi (who : Agent)
  | vicHoldoffExpiry (who : Agent) (group : Nat)
  -- fabric
  | macsecSwitchTx (port : Nat)
  | sakInstall (port : Nat) (value : Word)
  | portUp (port partner : Nat)
  | portDown (port : Nat)
  | helloSend (port : Nat)
  | iltHello (f : Frame)
  | iltOpen (f : Frame)
  | iltOpenAck (f : Frame)
  | iltWrite (f : Frame)
  | iltReadReq (f : Frame)
  | iltReadResp (f : Frame)
  | iltColl (f : Frame)
  | iltAck (f : Frame)
  | iltNak (f : Frame)
  | iltClose (f : Frame)
  | iltBadPacket (f : Frame)
  | pauseFrame (port : Nat)
  | iltForward (f : Frame)
  | iltAckTimer (flow : Nat)
  | iltRtoExpiry (flow psn : Nat)
  | flowIdleClose (flow : Nat)
  -- pins, continued
  | perstNRelease
  | pwrgdRise (board : Board)
  | refclkPcieReturn
  | completionTimeout (fn : Nat) (reader : HostReader)
  deriving DecidableEq, Repr

end Sys2Proof
end

