-- ==== Sys2Proof/Config.lean ====
section
/-! DEFINITION. Values the manual leaves open: uninterpreted, so that a claim holds whatever they are. -/

namespace Sys2Proof.Config

/-- The fresh nonce of a debug challenge (16 R570), a function of a counter in the state (log entry 3). -/
opaque nonceByte : Nat → Nat → Byte

/-- A quotient by zero: a telemetry reading while band-gap and ground read alike (11 R401; log entry 45). -/
opaque divByZero : Int → Int

/-- A byte in the write set of an op that did not complete (07 R263), by a counter in the state and its place (log entry 78). -/
opaque staleByte : Nat → Nat → Byte

/-- The token at a position of an imported sequence that this side has not seen (09 R346; log entry 80). -/
opaque lostToken : Nat → Nat

/-- The page that a list entry written against the rules reaches (06 R201; log entry 79). -/
opaque strayPage : Nat → Nat

/-- The offset of a converter whose zero-reference readings all clipped (11 R390; log entry 83). -/
opaque openOffset : Nat → Int

/-- The needed gain (0) or offset trim (1) of a column whose readings fix no fit (11 R390; log entry 83). -/
opaque openTrim : Nat → Nat → Int

/-- Zurovel's JEDEC manufacturer identity, which the manual does not number (16 R570; log entry 46). -/
opaque jedec : BitVec 11

/-- Zurovel's PCI-SIG vendor ID, which the manual does not number (13 R457, 15 R525; log entry 46). -/
opaque vendorId : BitVec 16

end Sys2Proof.Config
end

