-- ==== Sys2Proof/Machine/Table.lean ====
section
/-! DEFINITION. Reading and writing sparse tables and byte memories: the only code that knows how they are held. -/

namespace Sys2Proof

/-- The value listed for a key, if any. -/
def Tbl.find? {κ ν : Type} [DecidableEq κ] (k : κ) : Tbl κ ν → Option ν
  | [] => none
  | (k', v) :: t => if k' = k then some v else Tbl.find? k t

/-- The value of a key, with the value an unlisted key has. -/
def Tbl.get {κ ν : Type} [DecidableEq κ] (d : ν) (k : κ) (t : Tbl κ ν) : ν := (Tbl.find? k t).getD d

/-- Write a key. -/
def Tbl.set {κ ν : Type} [DecidableEq κ] (k : κ) (v : ν) : Tbl κ ν → Tbl κ ν
  | [] => [(k, v)]
  | (k', v') :: t => if k' = k then (k, v) :: t else (k', v') :: Tbl.set k v t

/-- Remove a key. -/
def Tbl.del {κ ν : Type} [DecidableEq κ] (k : κ) (t : Tbl κ ν) : Tbl κ ν := t.filter (fun e => decide (e.1 ≠ k))

/-- Replace the entry of a key by a function of what it holds. -/
def Tbl.upd {κ ν : Type} [DecidableEq κ] (d : ν) (k : κ) (f : ν → ν) (t : Tbl κ ν) : Tbl κ ν := Tbl.set k (f (Tbl.get d k t)) t

/-- The byte at an address: 0 where nothing is listed (07 R264, 15 R528; elsewhere log entry 4). -/
def Memory.byte : Memory → Nat → Byte
  | [], _ => 0
  | (a, v) :: t, k => if a = k then v else if k < a then 0 else Memory.byte t k

/-- Write one byte, keeping the canonical form. -/
def Memory.put : Memory → Nat → Byte → Memory
  | [], k, v => if v = 0 then [] else [(k, v)]
  | (a, w) :: t, k, v =>
    if a < k then (a, w) :: Memory.put t k v
    else if a = k then (if v = 0 then t else (k, v) :: t)
    else if v = 0 then (a, w) :: t else (k, v) :: (a, w) :: t

/-- Every listed address is at least lo, addresses rise strictly, and no byte is 0. -/
def Memory.wfFrom : Nat → Memory → Bool
  | _, [] => true
  | lo, (a, v) :: t => decide (lo ≤ a) && decide (v ≠ 0) && Memory.wfFrom (a + 1) t

/-- The canonical form of a byte memory. -/
def Memory.wf (m : Memory) : Bool := Memory.wfFrom 0 m

/-- Write consecutive bytes. -/
def Memory.write (m : Memory) (a : Nat) : List Byte → Memory
  | [] => m
  | b :: bs => Memory.write (Memory.put m a b) (a + 1) bs

/-- Read n consecutive bytes. -/
def Memory.read (m : Memory) (a : Nat) : Nat → List Byte
  | 0 => []
  | n + 1 => Memory.byte m a :: Memory.read m (a + 1) n

/-- Zero the bytes of lo up to, not including, hi. -/
def Memory.zero (m : Memory) (lo hi : Nat) : Memory := m.filter (fun c => decide (c.1 < lo ∨ hi ≤ c.1))

/-- A number from little-endian bytes (00 R7). -/
def leNat : List Byte → Nat
  | [] => 0
  | b :: bs => b.toNat + 256 * leNat bs

/-- The n little-endian bytes of a number (00 R7). -/
def leBytes : Nat → Nat → List Byte
  | 0, _ => []
  | n + 1, v => BitVec.ofNat 8 v :: leBytes n (v / 256)

/-- The number held in n bytes at an address. -/
def Memory.le (m : Memory) (a n : Nat) : Nat := leNat (Memory.read m a n)

/-- The number held in bytes lo to lo + n - 1 of a record. -/
def bytesLe (bs : List Byte) (lo n : Nat) : Nat := leNat ((bs.drop lo).take n)

/-- All of bytes lo to hi of a record are 0. -/
def bytesZero (bs : List Byte) (lo hi : Nat) : Bool := ((bs.drop lo).take (hi + 1 - lo)).all (fun b => b == 0)

/-- Fold over 0, 1, …, n - 1. -/
def foldN {σ : Type} (n : Nat) (f : σ → Nat → σ) (s : σ) : σ := (List.range n).foldl f s

end Sys2Proof
end

