-- ==== Sys2Proof/Machine/Digest.lean ====
section
/-! DEFINITION. CRC-32C (06 R229, 08 R280, 12 R429), SHA-256 (10 R354), SHA-384 and ECDSA P-384 (16 R561-R570).
PRESUMED: the algorithms are those of FIPS 180-4 and FIPS 186-5, which the spec names without repeating (log entry 8). -/

namespace Sys2Proof

/-- n steps of the reflected CRC-32C register, polynomial 0x1EDC6F41 reversed. -/
def crcBits : Nat → Nat → Nat
  | 0, c => c
  | n + 1, c => crcBits n (if c % 2 = 1 then (c / 2) ^^^ 0x82F63B78 else c / 2)

/-- The CRC register after more bytes. -/
def crcFeed (c : Nat) (bs : List Byte) : Nat := bs.foldl (fun c b => crcBits 8 (c ^^^ b.toNat)) c

/-- CRC-32C of a byte string. -/
def crc32c (bs : List Byte) : Nat := (crcFeed 0xFFFFFFFF bs) ^^^ 0xFFFFFFFF

/-- The number held in bytes, first byte most significant. -/
def beNat (bs : List Byte) : Nat := bs.foldl (fun a b => a * 256 + b.toNat) 0

/-- The n bytes of a number, most significant first. -/
def beBytes (n v : Nat) : List Byte := (leBytes n v).reverse

/-- A number's n digits of w bits, uppermost first. -/
def digitsOf (w : Nat) : Nat → Nat → List Nat
  | 0, _ => []
  | n + 1, v => v / 2 ^ (w * n) % 2 ^ w :: digitsOf w n v

/-- The round constants, eight digits of 64 bits to a number; a 32-bit member takes the upper halves. -/
def shaConst : List Nat :=
  [0x428a2f98d728ae227137449123ef65cdb5c0fbcfec4d3b2fe9b5dba58189dbbc3956c25bf348b53859f111f1b605d019923f82a4af194f9bab1c5ed5da6d8118,
   0xd807aa98a303024212835b0145706fbe243185be4ee4b28c550c7dc3d5ffb4e272be5d74f27b896f80deb1fe3b1696b19bdc06a725c71235c19bf174cf692694,
   0xe49b69c19ef14ad2efbe4786384f25e30fc19dc68b8cd5b5240ca1cc77ac9c652de92c6f592b02754a7484aa6ea6e4835cb0a9dcbd41fbd476f988da831153b5,
   0x983e5152ee66dfaba831c66d2db43210b00327c898fb213fbf597fc7beef0ee4c6e00bf33da88fc2d5a79147930aa72506ca6351e003826f142929670a0e6e70,
   0x27b70a8546d22ffc2e1b21385c26c9264d2c6dfc5ac42aed53380d139d95b3df650a73548baf63de766a0abb3c77b2a881c2c92e47edaee692722c851482353b,
   0xa2bfe8a14cf10364a81a664bbc423001c24b8b70d0f89791c76c51a30654be30d192e819d6ef5218d69906245565a910f40e35855771202a106aa07032bbd1b8,
   0x19a4c116b8d2d0c81e376c085141ab532748774cdf8eeb9934b0bcb5e19b48a8391c0cb3c5c95a634ed8aa4ae3418acb5b9cca4f7763e373682e6ff3d6b2b8a3,
   0x748f82ee5defb2fc78a5636f43172f6084c87814a1f0ab728cc702081a6439ec90befffa23631e28a4506cebde82bde9bef9a3f7b2c67915c67178f2e372532b,
   0xca273eceea26619cd186b8c721c0c207eada7dd6cde0eb1ef57d4f7fee6ed17806f067aa72176fba0a637dc5a2c898a6113f9804bef90dae1b710b35131c471b,
   0x28db77f523047d8432caab7b40c724933c9ebe0a15c9bebc431d67c49c100d4c4cc5d4becb3e42b6597f299cfc657e2a5fcb6fab3ad6faec6c44198c4a475817]

/-- A member of the SHA-2 family: word bits, rounds, the start value as eight digits, and the rotations (with a shift, for the message
schedule) whose exclusive or its four mixing functions take. -/
structure Sha where
  wbits : Nat
  turns : Nat
  start : Nat
  near : List Nat × Nat
  far : List Nat × Nat
  up : List Nat
  down : List Nat

def sha256 : Sha :=
  { wbits := 32, turns := 64, start := 0x6a09e667bb67ae853c6ef372a54ff53a510e527f9b05688c1f83d9ab5be0cd19, near := ([7, 18], 3), far := ([17, 19], 10),
    up := [6, 11, 25], down := [2, 13, 22] }

def sha384 : Sha :=
  { wbits := 64, turns := 80,
    start := 0xcbbb9d5dc1059ed8629a292a367cd5079159015a3070dd17152fecd8f70e593967332667ffc00b318eb44a8768581511db0c2e0d64f98fa747b5481dbefa4fa4,
    near := ([1, 8], 7), far := ([19, 61], 6), up := [14, 18, 41], down := [28, 34, 39] }

/-- The round constants of a member. -/
def Sha.consts (s : Sha) : List Nat := ((shaConst.flatMap (digitsOf 64 8)).take s.turns).map (· / 2 ^ (64 - s.wbits))

/-- The exclusive or of rotations to the right of a word, onto a start. -/
def Sha.spin (s : Sha) (ks : List Nat) (x z : Nat) : Nat :=
  ks.foldl (fun y k => y ^^^ (x / 2 ^ k + x % 2 ^ k * 2 ^ (s.wbits - k))) z

/-- The words of a block under way: the eight working words, and the next sixteen of the message schedule. -/
structure ShaRun where
  work : List Nat
  window : List Nat

/-- One round, with its constant. -/
def Sha.turn (s : Sha) (u : ShaRun) (k : Nat) : ShaRun :=
  let m := 2 ^ s.wbits
  let v (i : Nat) : Nat := u.work.getD i 0
  let w (i : Nat) : Nat := u.window.getD i 0
  let chosen := (v 4 &&& v 5) + ((m - 1 - v 4) &&& v 6)
  let common := (v 0 &&& (v 1 ||| v 2)) ||| (v 1 &&& v 2)
  let t := v 7 + s.spin s.up (v 4) 0 + chosen + k + w 0
  let next := s.spin s.near.1 (w 1) (w 1 / 2 ^ s.near.2) + s.spin s.far.1 (w 14) (w 14 / 2 ^ s.far.2) + w 0 + w 9
  { work := (t + s.spin s.down (v 0) 0 + common) % m :: (u.work.take 7).set 3 ((v 3 + t) % m)
    window := u.window.drop 1 ++ [next % m] }

/-- A block added to the value so far. -/
def Sha.absorb (s : Sha) (v : List Nat) (blk : List Byte) : List Nat :=
  let u := s.consts.foldl s.turn { work := v, window := digitsOf s.wbits 16 (beNat blk) }
  (v.zip u.work).map (fun e => (e.1 + e.2) % 2 ^ s.wbits)

/-- The message with its padding: a 1 bit, zeros, and the length in bits. -/
def Sha.pad (s : Sha) (bs : List Byte) : List Byte :=
  let size := 2 * s.wbits
  let tail := s.wbits / 4
  bs ++ 0x80 :: List.replicate ((size - (bs.length + 1 + tail) % size) % size) 0 ++ beBytes tail (8 * bs.length)

/-- The value after n blocks of a message. -/
def Sha.value (s : Sha) (msg : List Byte) (n : Nat) : List Nat :=
  foldN n (fun v i => s.absorb v ((msg.drop (2 * s.wbits * i)).take (2 * s.wbits))) (digitsOf s.wbits 8 s.start)

/-- The first n bytes of the digest, most significant first. -/
def Sha.digest (s : Sha) (n : Nat) (bs : List Byte) : List Byte :=
  let msg := s.pad bs
  ((s.value msg (msg.length / (2 * s.wbits))).flatMap (beBytes (s.wbits / 8))).take n

def sha256Of (bs : List Byte) : List Byte := sha256.digest 32 bs
def sha384Of (bs : List Byte) : List Byte := sha384.digest 48 bs

/-- The field, coefficient, order and base point of P-384. -/
def p384 : Nat := 2 ^ 384 - 2 ^ 128 - 2 ^ 96 + 2 ^ 32 - 1
def p384b : Nat := 0xb3312fa7e23ee7e4988e056be3f82d19181d9c6efe8141120314088f5013875ac656398d8a2ed19d2a85c8edd3ec2aef
def p384n : Nat := 0xffffffffffffffffffffffffffffffffffffffffffffffffc7634d81f4372ddf581a0db248b0a77aecec196accc52973
def p384gx : Nat := 0xaa87ca22be8b05378eb1c71ef320ad746e1d3b628ba79b9859f741e082542a385502f25dbf55296c3a545e3872760ab7
def p384gy : Nat := 0x3617de4a96262c6f5d9e98bf9292dc29f8f41dbd289a147ce9da3113b5f0b8c00a60b1ce1d7e819d7a431d7c90ea0e5f

/-- A point in Jacobian coordinates; z = 0 is the point at infinity. -/
structure JPoint where
  x : Nat
  y : Nat
  z : Nat
  deriving DecidableEq, Repr

def subP (a b : Nat) : Nat := (a + (p384 - b % p384)) % p384

def JPoint.double (q : JPoint) : JPoint :=
  if q.z = 0 ∨ q.y = 0 then ⟨1, 1, 0⟩ else
  let z2 := q.z * q.z % p384
  let m := 3 * (subP q.x z2 * ((q.x + z2) % p384) % p384) % p384
  let y2 := q.y * q.y % p384
  let s := 4 * q.x * y2 % p384
  let x' := subP (m * m % p384) (2 * s % p384)
  ⟨x', subP (m * subP s x' % p384) (8 * (y2 * y2 % p384) % p384), 2 * q.y * q.z % p384⟩

def JPoint.add (a b : JPoint) : JPoint :=
  if a.z = 0 then b else if b.z = 0 then a else
  let az := a.z * a.z % p384
  let bz := b.z * b.z % p384
  let u1 := a.x * bz % p384
  let u2 := b.x * az % p384
  let s1 := a.y * bz % p384 * b.z % p384
  let s2 := b.y * az % p384 * a.z % p384
  if u1 = u2 then (if s1 = s2 then a.double else ⟨1, 1, 0⟩) else
  let h := subP u2 u1
  let r := subP s2 s1
  let h2 := h * h % p384
  let h3 := h2 * h % p384
  let v := u1 * h2 % p384
  let x' := subP (subP (r * r % p384) h3) (2 * v % p384)
  ⟨x', subP (r * subP v x' % p384) (s1 * h3 % p384), a.z * b.z % p384 * h % p384⟩

/-- k times a point, from bit n - 1 down. -/
def JPoint.mulBits (q : JPoint) (k : Nat) : Nat → JPoint → JPoint
  | 0, acc => acc
  | n + 1, acc =>
    let d := acc.double
    JPoint.mulBits q k n (if k.testBit n then d.add q else d)

def JPoint.mul (q : JPoint) (k : Nat) : JPoint := q.mulBits k 384 ⟨1, 1, 0⟩

/-- b^k modulo m, from bit n - 1 down. -/
def powMod (b k m : Nat) : Nat → Nat → Nat
  | 0, acc => acc
  | n + 1, acc =>
    let d := acc * acc % m
    powMod b k m n (if k.testBit n then d * b % m else d)

/-- The inverse modulo a 384-bit prime. -/
def invMod (b m : Nat) : Nat := powMod b (m - 2) m 384 1

/-- ECDSA P-384 verification of signature (r, s) on a digest under public key (qx, qy). -/
def ecdsaVerify (qx qy r s : Nat) (digest : List Byte) : Bool :=
  decide (0 < r ∧ r < p384n ∧ 0 < s ∧ s < p384n ∧ qx < p384 ∧ qy < p384) &&
  (qy * qy % p384 == (qx * qx * qx + (p384 - 3) * qx + p384b) % p384) &&
  (let w := invMod s p384n
   let e := beNat (digest.take 48)
   let p := (JPoint.mul ⟨p384gx, p384gy, 1⟩ (e * w % p384n)).add (JPoint.mul ⟨qx, qy, 1⟩ (r * w % p384n))
   p.z != 0 &&
   (let zi := invMod p.z p384
    (p.x * (zi * zi % p384) % p384) % p384n == r))

end Sys2Proof
end

