-- ==== Sys2Proof/Machine/Float.lean ====
section
/-! DEFINITION. Number formats, rounding and the elementary operations (03 R83-R94, 04 R134, 06 R212, 08 R293-R295). -/

namespace Sys2Proof

/-- An exact value: (-1)^neg × num / den × 2^e, an infinity, or a NaN. -/
inductive Val where
  | nan
  | inf (neg : Bool)
  | fin (neg : Bool) (num den : Nat) (e : Int)
  deriving DecidableEq, Repr

/-- A binary floating-point format (03 R84): mantissa bits, bias, largest finite magnitude word, infinity and NaN words. -/
structure Fmt where
  width : Nat
  mb : Nat
  bias : Nat
  maxMag : Nat
  infMag : Option Nat
  nanMag : Option Nat
  deriving DecidableEq, Repr

def fp32 : Fmt := ⟨32, 23, 127, 0x7F7FFFFF, some 0x7F800000, some 0x7FC00000⟩
def bf16 : Fmt := ⟨16, 7, 127, 0x7F7F, some 0x7F80, some 0x7FC0⟩
def e4m3 : Fmt := ⟨8, 3, 7, 0x7E, none, some 0x7F⟩
def e5m2 : Fmt := ⟨8, 2, 15, 0x7B, some 0x7C, some 0x7E⟩
def e2m1 : Fmt := ⟨4, 1, 1, 0x7, none, none⟩

/-- Exponent of the smallest subnormal. -/
def Fmt.emin (f : Fmt) : Int := 1 - (f.bias : Int) - (f.mb : Int)

/-- The value of a stored word (03 R85, R86). -/
def Fmt.decode (f : Fmt) (w : Nat) : Val :=
  let neg := w.testBit (f.width - 1)
  let mag := w % 2 ^ (f.width - 1)
  if f.infMag = some mag then .inf neg
  else if f.maxMag < mag then .nan
  else
    let e := mag / 2 ^ f.mb
    let m := mag % 2 ^ f.mb
    if e = 0 then .fin neg m 1 f.emin else .fin neg (m + 2 ^ f.mb) 1 (f.emin + (e : Int) - 1)

/-- 2^e × n as a fraction. -/
def scaleUp (n den : Nat) (e : Int) : Nat × Nat := if 0 ≤ e then (n * 2 ^ e.toNat, den) else (n, den * 2 ^ (-e).toNat)

/-- num / den to the nearest integer, ties to even (03 R90). -/
def divEven (num den : Nat) : Nat :=
  let q := num / den
  let r := num % den
  if 2 * r < den then q else if den < 2 * r then q + 1 else q + q % 2

/-- num / den rounded upwards. -/
def divUp (num den : Nat) : Nat := (num + den - 1) / den

/-- Floor of log2 of num / den × 2^e, for num > 0. -/
def log2Q (num den : Nat) (e : Int) : Int :=
  let l : Int := (num.log2 : Int) - (den.log2 : Int)
  let (n, d) := scaleUp num den (-l)
  (if n < d then l - 1 else l) + e

/-- The magnitude word nearest num / den × 2^e on the format's grid, before any overflow rule (03 R90);
up rounds towards +∞ instead. A result above maxMag overflows. -/
def Fmt.roundMag (f : Fmt) (up : Bool) (num den : Nat) (e : Int) : Nat :=
  if num = 0 then 0 else
  let u := max (log2Q num den e - (f.mb : Int)) f.emin
  let (n, d) := scaleUp num den (e - u)
  let q := if up then divUp n d else divEven n d
  (u - f.emin).toNat * 2 ^ f.mb + q

def Fmt.signed (f : Fmt) (neg : Bool) (mag : Nat) : Nat := if neg then mag + 2 ^ (f.width - 1) else mag

/-- A wide conversion: rounded once, overflow to infinity, canonical NaN (03 R87, R93). -/
def Fmt.wide (f : Fmt) : Val → Nat
  | .nan => f.nanMag.getD f.maxMag
  | .inf neg => f.signed neg (f.infMag.getD f.maxMag)
  | .fin neg num den e =>
    let m := f.roundMag false num den e
    f.signed neg (if f.maxMag < m then f.infMag.getD f.maxMag else m)

/-- A narrow conversion into a floating format, with whether the operand was non-finite and whether a finite result
saturated (03 R91, R92). A negative value that rounds to zero keeps its sign (DESIGN CHOICE, log entry 72). -/
def Fmt.narrow (f : Fmt) : Val → Nat × Bool × Bool
  | .nan => (f.maxMag, true, false)
  | .inf neg => (f.signed neg f.maxMag, true, false)
  | .fin neg num den e =>
    let m := f.roundMag false num den e
    (f.signed neg (min m f.maxMag), false, decide (f.maxMag < m))

/-- A narrow conversion into a two's complement integer of the given width, as a signed value (03 R91): half is
2^(width - 1); an infinite or NaN operand gives ±(half - 1). -/
def narrowInt (half : Nat) : Val → Int × Bool × Bool
  | .nan => ((half : Int) - 1, true, false)
  | .inf neg => (if neg then -((half : Int) - 1) else (half : Int) - 1, true, false)
  | .fin neg num den e =>
    let (n, d) := scaleUp num den e
    let q := divEven n d
    if neg then (if half < q then (-(half : Int), false, true) else (-(q : Int), false, false))
    else if half ≤ q then ((half : Int) - 1, false, true) else ((q : Int), false, false)

/-- Exact product; 0 × ∞ is NaN (03 R112). -/
def Val.mul : Val → Val → Val
  | .nan, _ => .nan
  | _, .nan => .nan
  | .inf a, .inf b => .inf (a != b)
  | .inf a, .fin b n _ _ => if n = 0 then .nan else .inf (a != b)
  | .fin a n _ _, .inf b => if n = 0 then .nan else .inf (a != b)
  | .fin a n d e, .fin b n' d' e' => .fin (a != b) (n * n') (d * d') (e + e')

/-- Exact quotient (IEEE 754 for zero and infinite operands). -/
def Val.div : Val → Val → Val
  | .nan, _ => .nan
  | _, .nan => .nan
  | .inf _, .inf _ => .nan
  | .inf a, .fin b _ _ _ => .inf (a != b)
  | .fin a _ _ _, .inf b => .fin (a != b) 0 1 0
  | .fin a n d e, .fin b n' d' e' =>
    if n' = 0 then (if n = 0 then .nan else .inf (a != b)) else .fin (a != b) (n * d') (d * n') (e - e')

/-- A signed integer times 2^e. -/
def Val.ofInt (i : Int) (e : Int) : Val := .fin (decide (i < 0)) i.natAbs 1 e

/-- Exact sum; opposite infinities give NaN; an exact zero of unlike signs is +0. -/
def Val.add : Val → Val → Val
  | .nan, _ => .nan
  | _, .nan => .nan
  | .inf a, .inf b => if a = b then .inf a else .nan
  | .inf a, .fin _ _ _ _ => .inf a
  | .fin _ _ _ _, .inf b => .inf b
  | .fin a n d e, .fin b n' d' e' =>
    let m := min e e'
    let x : Int := (n * d' * 2 ^ (e - m).toNat : Nat)
    let y : Int := (n' * d * 2 ^ (e' - m).toNat : Nat)
    let s := (if a then -x else x) + (if b then -y else y)
    if s = 0 then .fin (a && b) 0 1 0 else .fin (decide (s < 0)) s.natAbs (d * d') m

def Val.neg : Val → Val
  | .nan => .nan
  | .inf a => .inf (!a)
  | .fin a n d e => .fin (!a) n d e

def Val.finite : Val → Bool
  | .fin _ _ _ _ => true
  | _ => false

/-- The value is zero. -/
def Val.isZero : Val → Bool
  | .fin _ n _ _ => n == 0
  | _ => false

def Val.abs : Val → Val
  | .nan => .nan
  | .inf _ => .inf false
  | .fin _ n d e => .fin false n d e

/-- Exact comparison of two finite values: a ≤ b; false where one is not finite. -/
def Val.le (a b : Val) : Bool :=
  match Val.add b (Val.neg a) with
  | .fin neg n _ _ => !neg || n == 0
  | _ => false

/-- One FP32 word from an exact value (03 R90, R93): rnd32. -/
def rnd32 (v : Val) : Word := BitVec.ofNat 32 (fp32.wide v)

def f32 (w : Word) : Val := fp32.decode w.toNat
def bfv (w : Nat) : Val := bf16.decode w
def fadd (a b : Word) : Word := rnd32 (Val.add (f32 a) (f32 b))
def fsub (a b : Word) : Word := rnd32 (Val.add (f32 a) (Val.neg (f32 b)))
def fmul (a b : Word) : Word := rnd32 (Val.mul (f32 a) (f32 b))
def fdiv (a b : Word) : Word := rnd32 (Val.div (f32 a) (f32 b))

/-- The word itself, but for a NaN, which becomes the canonical one (03 R87). -/
def canon (w : Word) : Word := rnd32 (f32 w)

/-- A BF16 word widened exactly to FP32. -/
def bfToF32 (w : Nat) : Word := rnd32 (bfv w)

/-- An FP32 word converted to BF16 (03 R93). -/
def f32ToBf (w : Word) : Nat := bf16.wide (f32 w)

/-- A natural number as an FP32 value, rounded once. -/
def natF32 (n : Nat) : Word := rnd32 (.fin false n 1 0)

/-- Integer square root by bits, from bit k - 1 down. -/
def isqrtBits : Nat → Nat → Nat → Nat
  | 0, _, r => r
  | k + 1, n, r => let t := r + 2 ^ k; isqrtBits k n (if t * t ≤ n then t else r)

/-- Floor of the square root. -/
def isqrt (n : Nat) : Nat := isqrtBits (n.log2 / 2 + 1) n 0

/-- The correctly rounded FP32 square root (05 R169, 08 R293). -/
def fsqrt (w : Word) : Word :=
  match f32 w with
  | .nan => rnd32 .nan
  | .inf true => rnd32 .nan
  | .inf false => w
  | .fin neg n _ e =>
    if n = 0 then w else if neg then rnd32 .nan else
    -- n × 2^e = m × 2^(2h), m widened so that its root has 60 bits below the point; a remainder sets the last bit
    let e2 := if e % 2 = 0 then e else e - 1
    let m := (if e % 2 = 0 then n else 2 * n) * 2 ^ 120
    let r := isqrt m
    rnd32 (.fin false (2 * r + (if r * r = m then 0 else 1)) 1 (e2 / 2 - 61))

/-- Fixed point with 320 fraction bits, for exp, sin and cos. -/
def fxBits : Nat := 320

/-- Σ y^i / i! over i < n from the given term, y in fixed point. -/
def expSeries : Nat → Nat → Int → Int → Int → Int
  | 0, _, _, _, acc => acc
  | n + 1, i, y, term, acc =>
    let t := (term * y) / ((i : Int) * 2 ^ fxBits)
    expSeries n (i + 1) y t (acc + t)

/-- v squared n times, in fixed point. -/
def squareTimes : Nat → Int → Int
  | 0, v => v
  | n + 1, v => squareTimes n (v * v / 2 ^ fxBits)

/-- A finite value in fixed point, truncated. -/
def toFx (neg : Bool) (num : Nat) (e : Int) : Int :=
  let s := e + (fxBits : Int)
  let m : Nat := if 0 ≤ s then num * 2 ^ s.toNat else num / 2 ^ (-s).toNat
  if neg then -(m : Int) else m

/-- The correctly rounded FP32 value of e^x, exp(-∞) = +0 (06 R212). -/
def fexp (w : Word) : Word :=
  match f32 w with
  | .nan => rnd32 .nan
  | .inf true => 0
  | .inf false => w
  | .fin neg n _ e =>
    if n = 0 then 0x3F800000 else
    if 7 < log2Q n 1 e then (if neg then 0 else 0x7F800000) else
    let y := toFx neg n e / 256
    let s := squareTimes 8 (expSeries 64 1 y (2 ^ fxBits) (2 ^ fxBits))
    rnd32 (.fin false s.toNat 1 (-(fxBits : Int)))

/-- π × 2^640. -/
def piFx : Int := 0x3243f6a8885a308d313198a2e03707344a4093822299f31d0082efa98ec4e6c89452821e638d01377be5466cf34e90c6cc0ac29b7c97c50dd3f84d5b5b54709179216d5d98979fb1bd1310ba698dfb5ac

/-- The remainder of a finite value modulo 2π, in fixed point. -/
def modTwoPi (neg : Bool) (num : Nat) (e : Int) : Int :=
  let s := e + 640
  let m : Nat := if 0 ≤ s then num * 2 ^ s.toNat else num / 2 ^ (-s).toNat
  let v : Int := if neg then -(m : Int) else (m : Int)
  v % (2 * piFx) / (2 : Int) ^ 320

/-- Σ of the alternating series of sine (i = 1) or cosine (i = 0): each term is the last × -x² / ((i+1)(i+2)). -/
def trigSeries : Nat → Nat → Int → Int → Int → Int
  | 0, _, _, _, acc => acc
  | n + 1, i, x2, term, acc =>
    let t := -(term * x2) / ((((i + 1) * (i + 2) : Nat) : Int) * 2 ^ fxBits)
    trigSeries n (i + 2) x2 t (acc + t)

/-- Correctly rounded FP32 sine or cosine (08 R294). A non-finite angle gives the canonical NaN. -/
def ftrig (isSin : Bool) (w : Word) : Word :=
  match f32 w with
  | .fin neg n _ e =>
    if n = 0 then (if isSin then w else 0x3F800000)
    -- below 2^-40 the series' first term decides the rounding, so the value itself is used with its next term
    else if isSin && log2Q n 1 e < -40 then
      rnd32 (Val.add (.fin neg n 1 e) (.fin (!neg) (n * n * n) 6 (3 * e)))
    else
      let x := modTwoPi neg n e
      let x2 := x * x / 2 ^ fxBits
      let v := if isSin then trigSeries 64 1 x2 x x else trigSeries 64 0 x2 (2 ^ fxBits) (2 ^ fxBits)
      rnd32 (Val.ofInt v (-(fxBits : Int)))
  | _ => rnd32 .nan

def fsin (w : Word) : Word := ftrig true w
def fcos (w : Word) : Word := ftrig false w

/-- σ(a) = rnd32(1 / rnd32(1 + exp(−a))) (08 R295). -/
def fsigmoid (a : Word) : Word := fdiv 0x3F800000 (fadd 0x3F800000 (fexp (rnd32 (Val.neg (f32 a)))))

def fIsNan (w : Word) : Bool := match f32 w with | .nan => true | _ => false
def fFinite (w : Word) : Bool := (f32 w).finite

/-- Order key of a non-NaN FP32 word: −0.0 and +0.0 are equal. -/
def fKey (w : Word) : Int := let m : Nat := w.toNat % 2 ^ 31; if w.toNat.testBit 31 then -(m : Int) else (m : Int)

/-- Element (a, i) ranks before element (b, j), for a maximum or a minimum (04 R134). -/
def ranksBefore (isMax : Bool) (a : Word) (i : Nat) (b : Word) (j : Nat) : Bool :=
  if fIsNan a then fIsNan b && decide (i < j)
  else if fIsNan b then true
  else if fKey a = fKey b then decide (i < j)
  else if isMax then decide (fKey b < fKey a) else decide (fKey a < fKey b)

/-- a < b as FP32 numbers; false with a NaN. -/
def flt (a b : Word) : Bool := !fIsNan a && !fIsNan b && decide (fKey a < fKey b)

/-- The element that ranks first (04 R134), over (value, index) pairs. -/
def rankFirst (isMax : Bool) : List (Word × Nat) → Option (Word × Nat)
  | [] => none
  | x :: xs =>
    match rankFirst isMax xs with
    | none => some x
    | some y => if ranksBefore isMax y.1 y.2 x.1 x.2 then some y else some x

/-- The greater of two FP32 words in the maximum order (04 R134, 06 R214). -/
def fmaxRank (a b : Word) : Word := if ranksBefore true b 1 a 0 then b else a

/-- The elements in rank order (maximum order), by insertion. -/
def rankInsert (x : Word × Nat) : List (Word × Nat) → List (Word × Nat)
  | [] => [x]
  | y :: ys => if ranksBefore true x.1 x.2 y.1 y.2 then x :: y :: ys else y :: rankInsert x ys

def rankSort : List (Word × Nat) → List (Word × Nat)
  | [] => []
  | x :: xs => rankInsert x (rankSort xs)

/-- An act format: INT4, E2M1 or INT8 (02 R41). -/
inductive ActFmt where
  | int4 | e2m1 | int8
  deriving DecidableEq, Repr

/-- qmax of the quantiser (03 R105). -/
def ActFmt.qmax : ActFmt → Nat
  | .int4 => 7 | .e2m1 => 6 | .int8 => 127

/-- Code word of a value in an act format, with whether the operand was non-finite (03 R91). -/
def ActFmt.narrow (f : ActFmt) (v : Val) : Nat × Bool :=
  match f with
  | .int4 => let (i, nf, _) := narrowInt 8 v; (i % 16 |>.toNat, nf)
  | .int8 => let (i, nf, _) := narrowInt 128 v; (i % 256 |>.toNat, nf)
  | .e2m1 => let (w, nf, _) := Fmt.narrow Sys2Proof.e2m1 v; (w, nf)

/-- A narrow conversion into a BF16 side value (03 R91). -/
def narrowBf (v : Val) : Nat × Bool := let (w, nf, _) := bf16.narrow v; (w, nf)

/-- A quantised slice: codes, token scale, outlier values, the FLAGS bit, and how many non-finite values were narrowed. -/
structure Slice where
  codes : List Nat
  scale : Nat
  outVals : List Nat
  flag : Bool
  nonFinite : Nat
  deriving DecidableEq, Repr

/-- The largest finite magnitude outside the outlier channels. -/
def amaxOf (xs : List Word) (skip : List Nat) : Word :=
  (xs.zipIdx).foldl (fun acc p =>
    if skip.contains p.2 then acc else
    match f32 p.1 with
    | .fin _ n d e => let w := rnd32 (.fin false n d e); if flt acc w then w else acc
    | _ => acc) 0

/-- quantise_slice (03 R105, R106): where no finite value outside the outliers differs from zero, the finite ones become code 0. -/
def quantiseSlice (xs : List Word) (f : ActFmt) (outliers : List Nat) : Slice :=
  let amax := amaxOf xs outliers
  let s : Nat := match f32 amax with
    | .fin _ n d e => if n = 0 then 0x3F80 else bf16.roundMag true n (d * f.qmax) e
    | _ => 0x3F80
  let sv := bfv s
  let rs := (xs.zipIdx).map (fun p =>
    if outliers.contains p.2 || (decide (amax = 0) && fFinite p.1) then (0, false) else f.narrow (Val.div (f32 p.1) sv))
  let outs := outliers.map (fun c => narrowBf (f32 (xs.getD c 0)))
  { codes := rs.map Prod.fst, scale := s, outVals := outs.map Prod.fst
    flag := xs.any (fun x => !fFinite x)
    nonFinite := (rs.filter Prod.snd).length + (outs.filter Prod.snd).length }

end Sys2Proof
end

