-- ==== Sys2Proof/Machine/Regs.lean ====
section
/-! DEFINITION. Every register of the manual: its block, offset, write behaviour and reset value (each chapter's register
section; types and field rules 00 R8-R12). A bit outside rw and w1c ignores writes; wo bits read as zero. -/

namespace Sys2Proof

/-- The register blocks, one constructor per block page of 13 R462 and per physical block. The block number of a register
is: a function (hostif, stat, ring), a core (eng, acc, fix, cal), a cluster (att), a partition unit (fixP, kv, scr, seq, wgt,
calP, integ), a die (telem, therm), 2 × link + port (link), 8 × die + VIC index (vic), or 0. -/
inductive Block where
  | hostif | stat | ring | eng | acc | fix | fixP | att | kv | scr | seq | wgt | cal | calP | telem | therm | integ
  | link | ilt | part | safeW | mbx | vic | pwr | fwu | dbg
  deriving DecidableEq, Repr

/-- Every register by name. A register that repeats within its block (SEQ.ARRIVEn, handle words, …) is numbered by an index. -/
inductive RegName where
  | hostifChipId | hostifFuncInfo | hostifCaps | hostifStatus | hostifDevtimeLo | hostifDevtimeHi | statCtrl
  | statPeriodUs | statPageBaseLo | statPageBaseHi | statStatus | statSeqLo | statSeqHi | ringCtrl | ringPollNs
  | ringDbBaseLo | ringDbBaseHi | ringStatus | ringSqBaseLo | ringSqBaseHi | ringSqCfg | ringSqHead | ringCqBaseLo
  | ringCqBaseHi | ringCqCfg | ringCqTail | engCaps | engPhasePeriod | engBudgetCfg | engBudgetStat | engStatus
  | engEvtOclip | engEvtGclip | engEvtRaised | engEvtSubphase | engEvtSkip | engEvtBudgetWait | engEvtClear
  | engEvtCsclip | engArraySel | engArrayInfo | engRemapInfo | accCaps | accStatus | accLimit | accGroupSel
  | accGroupInfo | accGroupRows | accEvtNarrow | accEvtLong | accEvtSubst | accEvtNanRed | accEvtClear | fixCaps
  | fixStatus | fixLayerBase | fixBindBase | fixOlistBase | fixTableCfg | fixQueueStat | fixEvtNarrow | fixEvtRecomp
  | fixEvtTrip | fixEvtRefpass | fixEvtTrimLimit | fixEvtClear | fixPCfg | fixPStat | fixPEvtEntry | attCaps
  | attClock | attStatus | attEvtNarrow | attEvtSpans | attEvtFolds | attEvtClear | attEvtNanRed | kvCfg
  | kvPageBytes | kvPoolBaseLo | kvPoolBaseHi | kvPoolPages | kvPoolCfg | kvFreePages | kvMetaBaseLo | kvMetaBaseHi
  | kvSeqCount | kvSwapBaseLo | kvSwapBaseHi | kvSwapSlots | kvFreeSlots | kvStatus | kvEvtKvsat | kvEvtPending
  | kvEvtSwapOut | kvEvtSwapIn | kvEvtClear | almLimits | almLast | almClassSel | almClassCount | almEvtReject
  | almEvtClear | scrCaps | scrStatus | scrWatchdog | scrStallStat | scrEvtStall | scrEvtTimeout | scrEvtBankWait
  | scrEvtWinDenied | scrEvtClear | scrHandleW0 | scrHandleW1 | scrHandleW2 | scrHandleW3 | scrWindowW0 | scrWindowW1
  | scrWindowW2 | scrWindowW3 | scrWindowW4 | scrWindowW5 | iltPGroupBaseLo | iltPGroupBaseHi | iltPCfg | iltPCtrl
  | seqCaps | seqStatus | seqDispatch | seqLastFail | seqTagLo | seqTagHi | seqStepsLo | seqStepsHi | seqEvtAbort
  | seqEvtCorrected | seqEvtFenceTimeout | seqEvtClear | seqArrive | wgtCaps | wgtStatus | wgtImageBaseLo
  | wgtImageBaseHi | wgtImageSize | wgtEpochForce | wgtEpochRetiring | wgtEpochBuild | wgtBuildStat | wgtDigestCfg
  | wgtDigestTimeLo | wgtDigestTimeHi | wgtArraySel | wgtWear | wgtEvtRemap | wgtEvtRefresh | wgtEvtScrub
  | wgtEvtDigestFail | wgtEvtNospare | wgtEvtClear | calCfg | calStatus | calEngSel | calAccordCount
  | calAccordTimeLo | calAccordTimeHi | calAccordTemp | calEvtStale | calEvtConvFail | calEvtClear | calPRounds
  | calPOldestLo | calPOldestHi | telemCfg | telemStatus | telemChSel | telemChValue | telemSnsCtrl | telemSnsStat
  | telemSns | telemEvtFault | telemEvtUrgent | telemEvtClear | thermCfg | thermStatus | thermMax | thermLevel
  | thermSensorSel | thermSensor | thermEvtWarn | thermEvtEnforce | thermEvtBroken | thermEvtClear | safeIntCfg
  | safeIntStatus | safeIntCover | safeIftStat | safeLateStepLo | safeLateStepHi | safeEvtCe | safeEvtUe
  | safeEvtParity | safeEvtBlock | safeEvtDisagree | safeEvtCheckerWrong | safeEvtCorrectedCol | safeEvtTripFault
  | safeEvtLate | safeEvtIftRun | safeEvtIftInsert | safeEvtIftFail | safeEvtClear | linkPortCtrl | linkStatus
  | linkMacsecCtrl | linkMacLo | linkMacHi | linkEvtFcs | linkEvtMacsecDrop | linkEvtDown | linkEvtClear | linkIp
  | linkSakSel | linkSakData | iltChip | iltTorus | iltEncap | iltRetry | iltStatus | iltUdp | iltEvtNak | iltEvtBad
  | iltEvtTransit | iltEvtClear | iltRoute | iltNextHop | iltKeys | partUnit | partEvtScrubFail | safeWStatus
  | safeProtLastLo | safeProtLastHi | safeProtAgent | safeEvtProtWrite | safeEvtTakeover | safeEvtCpRestart
  | safeEvtWClear | safeMbxCtrl | safeMbxStatus | vicCtrl | vicVbaseLo | vicVbaseHi | vicActive | vicEoi | vicSrcCfg
  | vicPending | vicPendSet | vicHoldoff | pwrState | pwrCfg | pwrLimit | pwrPower | pwrWake | pwrEvtEve
  | pwrEvtVigil | pwrEvtSolstice | pwrEvtClear | fwuStatus | fwuRelease | fwuRollbackSel | fwuRollback | fwuSettings
  | fwuVersion | fwuEvtRevert | fwuEvtClear | dbgStatus | dbgIdcode | dbgExpiryLo | dbgExpiryHi | dbgEvtUnlock
  | dbgEvtFail | dbgEvtClear
  deriving DecidableEq, Repr

/-- A register: its name, its block's number and its index within the block. -/
structure Reg where
  name : RegName
  blk : Nat := 0
  idx : Nat := 0
  deriving DecidableEq, Repr

/-- What the manual's table gives a register. -/
structure RegInfo where
  block : Block
  off : Nat
  count : Nat
  stride : Nat
  rw : Nat
  w1c : Nat
  wo : Nat
  reset : Nat
  deriving DecidableEq, Repr

/-- The register tables. Each row: block, offset, count, stride, RW mask, RW1C mask, WO mask, reset value. -/
def RegName.info : RegName → RegInfo
  | .hostifChipId => ⟨.hostif, 0x0, 1, 4, 0x0, 0x0, 0x0, 0x1200C86⟩
  | .hostifFuncInfo => ⟨.hostif, 0x4, 1, 4, 0x0, 0x0, 0x0, 0x0⟩
  | .hostifCaps => ⟨.hostif, 0x8, 1, 4, 0x0, 0x0, 0x0, 0x813F⟩
  | .hostifStatus => ⟨.hostif, 0xC, 1, 4, 0x0, 0x4, 0x0, 0x0⟩
  | .hostifDevtimeLo => ⟨.hostif, 0x10, 1, 4, 0x0, 0x0, 0x0, 0x0⟩
  | .hostifDevtimeHi => ⟨.hostif, 0x14, 1, 4, 0x0, 0x0, 0x0, 0x0⟩
  | .statCtrl => ⟨.stat, 0x0, 1, 4, 0x1, 0x0, 0x2, 0x0⟩
  | .statPeriodUs => ⟨.stat, 0x4, 1, 4, 0x1FFFF, 0x0, 0x0, 0x3E8⟩
  | .statPageBaseLo => ⟨.stat, 0x8, 1, 4, 0xFFFFF000, 0x0, 0x0, 0x0⟩
  | .statPageBaseHi => ⟨.stat, 0xC, 1, 4, 0xFFFFFFFF, 0x0, 0x0, 0x0⟩
  | .statStatus => ⟨.stat, 0x10, 1, 4, 0x0, 0x1, 0x0, 0x0⟩
  | .statSeqLo => ⟨.stat, 0x18, 1, 4, 0x0, 0x0, 0x0, 0x0⟩
  | .statSeqHi => ⟨.stat, 0x1C, 1, 4, 0x0, 0x0, 0x0, 0x0⟩
  | .ringCtrl => ⟨.ring, 0x0, 1, 4, 0x1, 0x0, 0x0, 0x0⟩
  | .ringPollNs => ⟨.ring, 0x4, 1, 4, 0xFFFFF, 0x0, 0x0, 0x7D0⟩
  | .ringDbBaseLo => ⟨.ring, 0x8, 1, 4, 0xFFFFFFC0, 0x0, 0x0, 0x0⟩
  | .ringDbBaseHi => ⟨.ring, 0xC, 1, 4, 0xFFFFFFFF, 0x0, 0x0, 0x0⟩
  | .ringStatus => ⟨.ring, 0x10, 1, 4, 0x0, 0xFFFF03, 0x0, 0x0⟩
  | .ringSqBaseLo => ⟨.ring, 0x100, 8, 32, 0xFFFFF000, 0x0, 0x0, 0x0⟩
  | .ringSqBaseHi => ⟨.ring, 0x104, 8, 32, 0xFFFFFFFF, 0x0, 0x0, 0x0⟩
  | .ringSqCfg => ⟨.ring, 0x108, 8, 32, 0x8000071F, 0x0, 0x0, 0x4⟩
  | .ringSqHead => ⟨.ring, 0x10C, 8, 32, 0x0, 0x0, 0x0, 0x0⟩
  | .ringCqBaseLo => ⟨.ring, 0x200, 8, 32, 0xFFFFF000, 0x0, 0x0, 0x0⟩
  | .ringCqBaseHi => ⟨.ring, 0x204, 8, 32, 0xFFFFFFFF, 0x0, 0x0, 0x0⟩
  | .ringCqCfg => ⟨.ring, 0x208, 8, 32, 0x8000001F, 0x0, 0x0, 0x4⟩
  | .ringCqTail => ⟨.ring, 0x20C, 8, 32, 0x0, 0x0, 0x0, 0x10000⟩
  | .engCaps => ⟨.eng, 0x0, 1, 4, 0x0, 0x0, 0x0, 0xB02440⟩
  | .engPhasePeriod => ⟨.eng, 0x4, 1, 4, 0x0, 0x0, 0x0, 0x7D0⟩
  | .engBudgetCfg => ⟨.eng, 0x8, 1, 4, 0x0, 0x0, 0x0, 0x80⟩
  | .engBudgetStat => ⟨.eng, 0xC, 1, 4, 0x0, 0x0, 0x0, 0x80⟩
  | .engStatus => ⟨.eng, 0x10, 1, 4, 0x0, 0xF, 0x0, 0x0⟩
  | .engEvtOclip => ⟨.eng, 0x20, 1, 4, 0x0, 0x0, 0x0, 0x0⟩
  | .engEvtGclip => ⟨.eng, 0x24, 1, 4, 0x0, 0x0, 0x0, 0x0⟩
  | .engEvtRaised => ⟨.eng, 0x28, 1, 4, 0x0, 0x0, 0x0, 0x0⟩
  | .engEvtSubphase => ⟨.eng, 0x2C, 1, 4, 0x0, 0x0, 0x0, 0x0⟩
  | .engEvtSkip => ⟨.eng, 0x30, 1, 4, 0x0, 0x0, 0x0, 0x0⟩
  | .engEvtBudgetWait => ⟨.eng, 0x34, 1, 4, 0x0, 0x0, 0x0, 0x0⟩
  | .engEvtClear => ⟨.eng, 0x38, 1, 4, 0x0, 0x0, 0xFF, 0x0⟩
  | .engEvtCsclip => ⟨.eng, 0x3C, 1, 4, 0x0, 0x0, 0x0, 0x0⟩
  | .engArraySel => ⟨.eng, 0x40, 1, 4, 0x1FFF, 0x0, 0x0, 0x0⟩
  | .engArrayInfo => ⟨.eng, 0x44, 1, 4, 0x0, 0x0, 0x0, 0x14⟩
  | .engRemapInfo => ⟨.eng, 0x48, 1, 4, 0x0, 0x0, 0x0, 0x0⟩
  | .accCaps => ⟨.acc, 0x0, 1, 4, 0x0, 0x0, 0x0, 0xE40008⟩
  | .accStatus => ⟨.acc, 0x4, 1, 4, 0x0, 0x7, 0x0, 0x0⟩
  | .accLimit => ⟨.acc, 0x8, 1, 4, 0x0, 0x0, 0x0, 0x40000⟩
  | .accGroupSel => ⟨.acc, 0x10, 1, 4, 0x1FF, 0x0, 0x0, 0x0⟩
  | .accGroupInfo => ⟨.acc, 0x14, 1, 4, 0x0, 0x0, 0x0, 0x0⟩
  | .accGroupRows => ⟨.acc, 0x18, 1, 4, 0x0, 0x0, 0x0, 0x0⟩
  | .accEvtNarrow => ⟨.acc, 0x20, 1, 4, 0x0, 0x0, 0x0, 0x0⟩
  | .accEvtLong => ⟨.acc, 0x24, 1, 4, 0x0, 0x0, 0x0, 0x0⟩
  | .accEvtSubst => ⟨.acc, 0x28, 1, 4, 0x0, 0x0, 0x0, 0x0⟩
  | .accEvtNanRed => ⟨.acc, 0x2C, 1, 4, 0x0, 0x0, 0x0, 0x0⟩
  | .accEvtClear => ⟨.acc, 0x30, 1, 4, 0x0, 0x0, 0xF, 0x0⟩
  | .fixCaps => ⟨.fix, 0x0, 1, 4, 0x0, 0x0, 0x0, 0x808400⟩
  | .fixStatus => ⟨.fix, 0x4, 1, 4, 0x0, 0xF, 0x0, 0x0⟩
  | .fixLayerBase => ⟨.fix, 0x8, 1, 4, 0x7FFFC0, 0x0, 0x0, 0x0⟩
  | .fixBindBase => ⟨.fix, 0xC, 1, 4, 0x7FFFC0, 0x0, 0x0, 0x0⟩
  | .fixOlistBase => ⟨.fix, 0x10, 1, 4, 0x7FFFC0, 0x0, 0x0, 0x0⟩
  | .fixTableCfg => ⟨.fix, 0x14, 1, 4, 0xFFFFFFFF, 0x0, 0x0, 0x0⟩
  | .fixQueueStat => ⟨.fix, 0x18, 1, 4, 0x0, 0x0, 0x0, 0x0⟩
  | .fixEvtNarrow => ⟨.fix, 0x20, 1, 4, 0x0, 0x0, 0x0, 0x0⟩
  | .fixEvtRecomp => ⟨.fix, 0x24, 1, 4, 0x0, 0x0, 0x0, 0x0⟩
  | .fixEvtTrip => ⟨.fix, 0x28, 1, 4, 0x0, 0x0, 0x0, 0x0⟩
  | .fixEvtRefpass => ⟨.fix, 0x2C, 1, 4, 0x0, 0x0, 0x0, 0x0⟩
  | .fixEvtTrimLimit => ⟨.fix, 0x30, 1, 4, 0x0, 0x0, 0x0, 0x0⟩
  | .fixEvtClear => ⟨.fix, 0x34, 1, 4, 0x0, 0x0, 0x1F, 0x0⟩
  | .fixPCfg => ⟨.fixP, 0x0, 1, 4, 0xFFFFFF, 0x0, 0x1000000, 0x10080⟩
  | .fixPStat => ⟨.fixP, 0x4, 1, 4, 0x0, 0x0, 0x0, 0x0⟩
  | .fixPEvtEntry => ⟨.fixP, 0x8, 1, 4, 0x0, 0x0, 0x0, 0x0⟩
  | .attCaps => ⟨.att, 0x0, 1, 4, 0x0, 0x0, 0x0, 0x10071000⟩
  | .attClock => ⟨.att, 0x4, 1, 4, 0x0, 0x0, 0x0, 0x708⟩
  | .attStatus => ⟨.att, 0x8, 1, 4, 0x0, 0x7, 0x0, 0x0⟩
  | .attEvtNarrow => ⟨.att, 0x20, 1, 4, 0x0, 0x0, 0x0, 0x0⟩
  | .attEvtSpans => ⟨.att, 0x24, 1, 4, 0x0, 0x0, 0x0, 0x0⟩
  | .attEvtFolds => ⟨.att, 0x28, 1, 4, 0x0, 0x0, 0x0, 0x0⟩
  | .attEvtClear => ⟨.att, 0x2C, 1, 4, 0x0, 0x0, 0x1F, 0x0⟩
  | .attEvtNanRed => ⟨.att, 0x30, 1, 4, 0x0, 0x0, 0x0, 0x0⟩
  | .kvCfg => ⟨.kv, 0x0, 1, 4, 0xFFFFFF, 0x0, 0x0, 0x141⟩
  | .kvPageBytes => ⟨.kv, 0x4, 1, 4, 0x0, 0x0, 0x0, 0x8000⟩
  | .kvPoolBaseLo => ⟨.kv, 0x8, 1, 4, 0xFFFFF000, 0x0, 0x0, 0x0⟩
  | .kvPoolBaseHi => ⟨.kv, 0xC, 1, 4, 0xFFFFFFFF, 0x0, 0x0, 0x0⟩
  | .kvPoolPages => ⟨.kv, 0x10, 1, 4, 0xFFFFFF, 0x0, 0x0, 0x0⟩
  | .kvPoolCfg => ⟨.kv, 0x14, 1, 4, 0xFFFFFF, 0x0, 0x0, 0x0⟩
  | .kvFreePages => ⟨.kv, 0x18, 1, 4, 0x0, 0x0, 0x0, 0x0⟩
  | .kvMetaBaseLo => ⟨.kv, 0x20, 1, 4, 0xFFFFF000, 0x0, 0x0, 0x0⟩
  | .kvMetaBaseHi => ⟨.kv, 0x24, 1, 4, 0xFFFFFFFF, 0x0, 0x0, 0x0⟩
  | .kvSeqCount => ⟨.kv, 0x28, 1, 4, 0xFFFFFF, 0x0, 0x0, 0x0⟩
  | .kvSwapBaseLo => ⟨.kv, 0x30, 1, 4, 0xFFFFF000, 0x0, 0x0, 0x0⟩
  | .kvSwapBaseHi => ⟨.kv, 0x34, 1, 4, 0xFFFFFFFF, 0x0, 0x0, 0x0⟩
  | .kvSwapSlots => ⟨.kv, 0x38, 1, 4, 0xFFFFFF, 0x0, 0x0, 0x0⟩
  | .kvFreeSlots => ⟨.kv, 0x3C, 1, 4, 0x0, 0x0, 0x0, 0x0⟩
  | .kvStatus => ⟨.kv, 0x40, 1, 4, 0x0, 0xE, 0x0, 0x0⟩
  | .kvEvtKvsat => ⟨.kv, 0x50, 1, 4, 0x0, 0x0, 0x0, 0x0⟩
  | .kvEvtPending => ⟨.kv, 0x54, 1, 4, 0x0, 0x0, 0x0, 0x0⟩
  | .kvEvtSwapOut => ⟨.kv, 0x58, 1, 4, 0x0, 0x0, 0x0, 0x0⟩
  | .kvEvtSwapIn => ⟨.kv, 0x5C, 1, 4, 0x0, 0x0, 0x0, 0x0⟩
  | .kvEvtClear => ⟨.kv, 0x60, 1, 4, 0x0, 0x0, 0xF, 0x0⟩
  | .almLimits => ⟨.kv, 0x80, 1, 4, 0x0, 0x0, 0x0, 0x20001000⟩
  | .almLast => ⟨.kv, 0x84, 1, 4, 0x0, 0x0, 0x0, 0x0⟩
  | .almClassSel => ⟨.kv, 0x88, 1, 4, 0x1F, 0x0, 0x0, 0x6⟩
  | .almClassCount => ⟨.kv, 0x8C, 1, 4, 0x0, 0x0, 0x0, 0x0⟩
  | .almEvtReject => ⟨.kv, 0x90, 1, 4, 0x0, 0x0, 0x0, 0x0⟩
  | .almEvtClear => ⟨.kv, 0x94, 1, 4, 0x0, 0x0, 0xF, 0x0⟩
  | .scrCaps => ⟨.scr, 0x0, 1, 4, 0x0, 0x0, 0x0, 0x40204100⟩
  | .scrStatus => ⟨.scr, 0x4, 1, 4, 0x0, 0xF, 0x0, 0x0⟩
  | .scrWatchdog => ⟨.scr, 0x8, 1, 4, 0xFFFFF, 0x0, 0x0, 0x3E8⟩
  | .scrStallStat => ⟨.scr, 0xC, 1, 4, 0x0, 0x0, 0x0, 0x0⟩
  | .scrEvtStall => ⟨.scr, 0x20, 1, 4, 0x0, 0x0, 0x0, 0x0⟩
  | .scrEvtTimeout => ⟨.scr, 0x24, 1, 4, 0x0, 0x0, 0x0, 0x0⟩
  | .scrEvtBankWait => ⟨.scr, 0x28, 1, 4, 0x0, 0x0, 0x0, 0x0⟩
  | .scrEvtWinDenied => ⟨.scr, 0x2C, 1, 4, 0x0, 0x0, 0x0, 0x0⟩
  | .scrEvtClear => ⟨.scr, 0x30, 1, 4, 0x0, 0x0, 0xF, 0x0⟩
  | .scrHandleW0 => ⟨.scr, 0x1000, 256, 16, 0xFFFFFFC0, 0x0, 0x0, 0x0⟩
  | .scrHandleW1 => ⟨.scr, 0x1004, 256, 16, 0xFFFF, 0x0, 0x0, 0x0⟩
  | .scrHandleW2 => ⟨.scr, 0x1008, 256, 16, 0x3FFFFF, 0x0, 0x0, 0x0⟩
  | .scrHandleW3 => ⟨.scr, 0x100C, 256, 16, 0xF, 0x0, 0x0, 0x0⟩
  | .scrWindowW0 => ⟨.scr, 0x2000, 32, 32, 0xFFFFFFC0, 0x0, 0x0, 0x0⟩
  | .scrWindowW1 => ⟨.scr, 0x2004, 32, 32, 0xFFFF, 0x0, 0x0, 0x0⟩
  | .scrWindowW2 => ⟨.scr, 0x2008, 32, 32, 0x3FFFFFF, 0x0, 0x0, 0x0⟩
  | .scrWindowW3 => ⟨.scr, 0x200C, 32, 32, 0xFFFFFFFF, 0x0, 0x0, 0x0⟩
  | .scrWindowW4 => ⟨.scr, 0x2010, 32, 32, 0xFFFF, 0x0, 0x0, 0x0⟩
  | .scrWindowW5 => ⟨.scr, 0x2014, 32, 32, 0x7, 0x0, 0x0, 0x0⟩
  | .iltPGroupBaseLo => ⟨.scr, 0x3000, 1, 4, 0xFFFFF000, 0x0, 0x0, 0x0⟩
  | .iltPGroupBaseHi => ⟨.scr, 0x3004, 1, 4, 0xFFFF, 0x0, 0x0, 0x0⟩
  | .iltPCfg => ⟨.scr, 0x3008, 1, 4, 0xFFFFFF, 0x0, 0x0, 0xA00⟩
  | .iltPCtrl => ⟨.scr, 0x300C, 1, 4, 0x0, 0x0, 0x1, 0x0⟩
  | .seqCaps => ⟨.seq, 0x0, 1, 4, 0x0, 0x0, 0x0, 0x1040FFFF⟩
  | .seqStatus => ⟨.seq, 0x4, 1, 4, 0x0, 0x1E, 0x0, 0x0⟩
  | .seqDispatch => ⟨.seq, 0x8, 1, 4, 0x0, 0x0, 0x0, 0x0⟩
  | .seqLastFail => ⟨.seq, 0xC, 1, 4, 0x0, 0x0, 0x0, 0x0⟩
  | .seqTagLo => ⟨.seq, 0x10, 1, 4, 0x0, 0x0, 0x0, 0x0⟩
  | .seqTagHi => ⟨.seq, 0x14, 1, 4, 0x0, 0x0, 0x0, 0x0⟩
  | .seqStepsLo => ⟨.seq, 0x18, 1, 4, 0x0, 0x0, 0x0, 0x0⟩
  | .seqStepsHi => ⟨.seq, 0x1C, 1, 4, 0x0, 0x0, 0x0, 0x0⟩
  | .seqEvtAbort => ⟨.seq, 0x20, 1, 4, 0x0, 0x0, 0x0, 0x0⟩
  | .seqEvtCorrected => ⟨.seq, 0x24, 1, 4, 0x0, 0x0, 0x0, 0x0⟩
  | .seqEvtFenceTimeout => ⟨.seq, 0x28, 1, 4, 0x0, 0x0, 0x0, 0x0⟩
  | .seqEvtClear => ⟨.seq, 0x2C, 1, 4, 0x0, 0x0, 0x7, 0x0⟩
  | .seqArrive => ⟨.seq, 0x40, 16, 4, 0x0, 0x0, 0x0, 0x0⟩
  | .wgtCaps => ⟨.wgt, 0x0, 1, 4, 0x0, 0x0, 0x0, 0xFF64A000⟩
  | .wgtStatus => ⟨.wgt, 0x4, 1, 4, 0x0, 0x1D, 0x0, 0x0⟩
  | .wgtImageBaseLo => ⟨.wgt, 0x8, 1, 4, 0xFFFFF000, 0x0, 0x0, 0x0⟩
  | .wgtImageBaseHi => ⟨.wgt, 0xC, 1, 4, 0xFFFFFFFF, 0x0, 0x0, 0x0⟩
  | .wgtImageSize => ⟨.wgt, 0x10, 1, 4, 0xFFFF, 0x0, 0x0, 0x0⟩
  | .wgtEpochForce => ⟨.wgt, 0x14, 1, 4, 0x0, 0x0, 0x0, 0x0⟩
  | .wgtEpochRetiring => ⟨.wgt, 0x18, 1, 4, 0x0, 0x0, 0x0, 0x0⟩
  | .wgtEpochBuild => ⟨.wgt, 0x1C, 1, 4, 0x0, 0x0, 0x0, 0x0⟩
  | .wgtBuildStat => ⟨.wgt, 0x20, 1, 4, 0x0, 0x0, 0x0, 0x0⟩
  | .wgtDigestCfg => ⟨.wgt, 0x24, 1, 4, 0xFF, 0x0, 0x0, 0x18⟩
  | .wgtDigestTimeLo => ⟨.wgt, 0x28, 1, 4, 0x0, 0x0, 0x0, 0x0⟩
  | .wgtDigestTimeHi => ⟨.wgt, 0x2C, 1, 4, 0x0, 0x0, 0x0, 0x0⟩
  | .wgtArraySel => ⟨.wgt, 0x30, 1, 4, 0x1FFFF, 0x0, 0x0, 0x0⟩
  | .wgtWear => ⟨.wgt, 0x34, 1, 4, 0x0, 0x0, 0x0, 0x0⟩
  | .wgtEvtRemap => ⟨.wgt, 0x40, 1, 4, 0x0, 0x0, 0x0, 0x0⟩
  | .wgtEvtRefresh => ⟨.wgt, 0x44, 1, 4, 0x0, 0x0, 0x0, 0x0⟩
  | .wgtEvtScrub => ⟨.wgt, 0x48, 1, 4, 0x0, 0x0, 0x0, 0x0⟩
  | .wgtEvtDigestFail => ⟨.wgt, 0x4C, 1, 4, 0x0, 0x0, 0x0, 0x0⟩
  | .wgtEvtNospare => ⟨.wgt, 0x50, 1, 4, 0x0, 0x0, 0x0, 0x0⟩
  | .wgtEvtClear => ⟨.wgt, 0x54, 1, 4, 0x0, 0x0, 0x1F, 0x0⟩
  | .calCfg => ⟨.cal, 0x0, 1, 4, 0x3FF01FF, 0x0, 0x0, 0xFA0010⟩
  | .calStatus => ⟨.cal, 0x4, 1, 4, 0x0, 0x1, 0x0, 0x0⟩
  | .calEngSel => ⟨.cal, 0x8, 1, 4, 0x3F, 0x0, 0x0, 0x0⟩
  | .calAccordCount => ⟨.cal, 0xC, 1, 4, 0x0, 0x0, 0x0, 0x0⟩
  | .calAccordTimeLo => ⟨.cal, 0x10, 1, 4, 0x0, 0x0, 0x0, 0x0⟩
  | .calAccordTimeHi => ⟨.cal, 0x14, 1, 4, 0x0, 0x0, 0x0, 0x0⟩
  | .calAccordTemp => ⟨.cal, 0x18, 1, 4, 0x0, 0x0, 0x0, 0x0⟩
  | .calEvtStale => ⟨.cal, 0x20, 1, 4, 0x0, 0x0, 0x0, 0x0⟩
  | .calEvtConvFail => ⟨.cal, 0x24, 1, 4, 0x0, 0x0, 0x0, 0x0⟩
  | .calEvtClear => ⟨.cal, 0x28, 1, 4, 0x0, 0x0, 0x3, 0x0⟩
  | .calPRounds => ⟨.calP, 0x0, 1, 4, 0x0, 0x0, 0x0, 0x0⟩
  | .calPOldestLo => ⟨.calP, 0x8, 1, 4, 0x0, 0x0, 0x0, 0x0⟩
  | .calPOldestHi => ⟨.calP, 0xC, 1, 4, 0x0, 0x0, 0x0, 0x0⟩
  | .telemCfg => ⟨.telem, 0x0, 1, 4, 0xFF, 0x0, 0x0, 0x18⟩
  | .telemStatus => ⟨.telem, 0x4, 1, 4, 0x0, 0x1, 0x0, 0x0⟩
  | .telemChSel => ⟨.telem, 0x8, 1, 4, 0x3F, 0x0, 0x0, 0x0⟩
  | .telemChValue => ⟨.telem, 0xC, 1, 4, 0x0, 0x0, 0x0, 0x0⟩
  | .telemSnsCtrl => ⟨.telem, 0x10, 1, 4, 0x3FFFF, 0x0, 0xC0000, 0x0⟩
  | .telemSnsStat => ⟨.telem, 0x14, 1, 4, 0x0, 0x20, 0x0, 0x0⟩
  | .telemSns => ⟨.telem, 0x18, 4, 4, 0x0, 0x0, 0x0, 0x8000⟩
  | .telemEvtFault => ⟨.telem, 0x30, 1, 4, 0x0, 0x0, 0x0, 0x0⟩
  | .telemEvtUrgent => ⟨.telem, 0x34, 1, 4, 0x0, 0x0, 0x0, 0x0⟩
  | .telemEvtClear => ⟨.telem, 0x38, 1, 4, 0x0, 0x0, 0x3, 0x0⟩
  | .thermCfg => ⟨.therm, 0x0, 1, 4, 0x1FF, 0x0, 0x0, 0x14⟩
  | .thermStatus => ⟨.therm, 0x4, 1, 4, 0x0, 0xC, 0x0, 0x0⟩
  | .thermMax => ⟨.therm, 0x8, 1, 4, 0x0, 0x0, 0x0, 0x0⟩
  | .thermLevel => ⟨.therm, 0xC, 1, 4, 0x0, 0x0, 0x0, 0x0⟩
  | .thermSensorSel => ⟨.therm, 0x10, 1, 4, 0x1F, 0x0, 0x0, 0x0⟩
  | .thermSensor => ⟨.therm, 0x14, 1, 4, 0x0, 0x0, 0x0, 0x0⟩
  | .thermEvtWarn => ⟨.therm, 0x20, 1, 4, 0x0, 0x0, 0x0, 0x0⟩
  | .thermEvtEnforce => ⟨.therm, 0x24, 1, 4, 0x0, 0x0, 0x0, 0x0⟩
  | .thermEvtBroken => ⟨.therm, 0x28, 1, 4, 0x0, 0x0, 0x0, 0x0⟩
  | .thermEvtClear => ⟨.therm, 0x2C, 1, 4, 0x0, 0x0, 0x7, 0x0⟩
  | .safeIntCfg => ⟨.integ, 0x0, 1, 4, 0xFFFFFF03, 0x0, 0x0, 0x10004001⟩
  | .safeIntStatus => ⟨.integ, 0x4, 1, 4, 0x0, 0xFF, 0x0, 0x0⟩
  | .safeIntCover => ⟨.integ, 0x8, 1, 4, 0x0, 0x0, 0x0, 0x41⟩
  | .safeIftStat => ⟨.integ, 0xC, 1, 4, 0x0, 0x0, 0x0, 0x0⟩
  | .safeLateStepLo => ⟨.integ, 0x10, 1, 4, 0x0, 0x0, 0x0, 0x0⟩
  | .safeLateStepHi => ⟨.integ, 0x14, 1, 4, 0x0, 0x0, 0x0, 0x0⟩
  | .safeEvtCe => ⟨.integ, 0x20, 1, 4, 0x0, 0x0, 0x0, 0x0⟩
  | .safeEvtUe => ⟨.integ, 0x24, 1, 4, 0x0, 0x0, 0x0, 0x0⟩
  | .safeEvtParity => ⟨.integ, 0x28, 1, 4, 0x0, 0x0, 0x0, 0x0⟩
  | .safeEvtBlock => ⟨.integ, 0x2C, 1, 4, 0x0, 0x0, 0x0, 0x0⟩
  | .safeEvtDisagree => ⟨.integ, 0x30, 1, 4, 0x0, 0x0, 0x0, 0x0⟩
  | .safeEvtCheckerWrong => ⟨.integ, 0x34, 1, 4, 0x0, 0x0, 0x0, 0x0⟩
  | .safeEvtCorrectedCol => ⟨.integ, 0x38, 1, 4, 0x0, 0x0, 0x0, 0x0⟩
  | .safeEvtTripFault => ⟨.integ, 0x3C, 1, 4, 0x0, 0x0, 0x0, 0x0⟩
  | .safeEvtLate => ⟨.integ, 0x40, 1, 4, 0x0, 0x0, 0x0, 0x0⟩
  | .safeEvtIftRun => ⟨.integ, 0x44, 1, 4, 0x0, 0x0, 0x0, 0x0⟩
  | .safeEvtIftInsert => ⟨.integ, 0x48, 1, 4, 0x0, 0x0, 0x0, 0x0⟩
  | .safeEvtIftFail => ⟨.integ, 0x4C, 1, 4, 0x0, 0x0, 0x0, 0x0⟩
  | .safeEvtClear => ⟨.integ, 0x50, 1, 4, 0x0, 0x0, 0xFFF, 0x0⟩
  | .linkPortCtrl => ⟨.link, 0x0, 1, 4, 0x1FFE001F, 0x0, 0x0, 0x0⟩
  | .linkStatus => ⟨.link, 0x4, 1, 4, 0x0, 0x0, 0x0, 0x0⟩
  | .linkMacsecCtrl => ⟨.link, 0x8, 1, 4, 0x5, 0x0, 0x8, 0x4⟩
  | .linkMacLo => ⟨.link, 0xC, 1, 4, 0xFFFFFFFF, 0x0, 0x0, 0x0⟩
  | .linkMacHi => ⟨.link, 0x10, 1, 4, 0xFFFF, 0x0, 0x0, 0x0⟩
  | .linkEvtFcs => ⟨.link, 0x20, 1, 4, 0x0, 0x0, 0x0, 0x0⟩
  | .linkEvtMacsecDrop => ⟨.link, 0x24, 1, 4, 0x0, 0x0, 0x0, 0x0⟩
  | .linkEvtDown => ⟨.link, 0x28, 1, 4, 0x0, 0x0, 0x0, 0x0⟩
  | .linkEvtClear => ⟨.link, 0x2C, 1, 4, 0x0, 0x0, 0x7, 0x0⟩
  | .linkIp => ⟨.link, 0x40, 4, 4, 0xFFFFFFFF, 0x0, 0x0, 0x0⟩
  | .linkSakSel => ⟨.link, 0x50, 1, 4, 0x7, 0x0, 0x0, 0x0⟩
  | .linkSakData => ⟨.link, 0x60, 8, 4, 0x0, 0x0, 0xFFFFFFFF, 0x0⟩
  | .iltChip => ⟨.ilt, 0x0, 1, 4, 0x1FFFF, 0x0, 0x0, 0x0⟩
  | .iltTorus => ⟨.ilt, 0x4, 1, 4, 0xFFFFFFFF, 0x0, 0x0, 0x0⟩
  | .iltEncap => ⟨.ilt, 0x8, 1, 4, 0xFFFFFF00, 0x0, 0x0, 0x88B58000⟩
  | .iltRetry => ⟨.ilt, 0xC, 1, 4, 0xFFFF, 0x0, 0x0, 0x1014⟩
  | .iltStatus => ⟨.ilt, 0x10, 1, 4, 0x0, 0x0, 0x0, 0x0⟩
  | .iltUdp => ⟨.ilt, 0x14, 1, 4, 0xFFFF, 0x0, 0x0, 0xC0DE⟩
  | .iltEvtNak => ⟨.ilt, 0x20, 1, 4, 0x0, 0x0, 0x0, 0x0⟩
  | .iltEvtBad => ⟨.ilt, 0x24, 1, 4, 0x0, 0x0, 0x0, 0x0⟩
  | .iltEvtTransit => ⟨.ilt, 0x28, 1, 4, 0x0, 0x0, 0x0, 0x0⟩
  | .iltEvtClear => ⟨.ilt, 0x2C, 1, 4, 0x0, 0x0, 0x7, 0x0⟩
  | .iltRoute => ⟨.ilt, 0x10000, 65536, 4, 0xC000FFFF, 0x0, 0x0, 0x0⟩
  | .iltNextHop => ⟨.ilt, 0x100000, 32768, 4, 0xFFFFFFFF, 0x0, 0x0, 0x0⟩
  | .iltKeys => ⟨.ilt, 0x200000, 16384, 4, 0x8F8F8F8F, 0x0, 0x0, 0x0⟩
  | .partUnit => ⟨.part, 0x0, 16, 4, 0x0, 0x0, 0x0, 0x0⟩
  | .partEvtScrubFail => ⟨.part, 0x40, 1, 4, 0x0, 0x0, 0x0, 0x0⟩
  | .safeWStatus => ⟨.safeW, 0x0, 1, 4, 0x0, 0x0, 0x0, 0x2⟩
  | .safeProtLastLo => ⟨.safeW, 0x8, 1, 4, 0x0, 0x0, 0x0, 0x0⟩
  | .safeProtLastHi => ⟨.safeW, 0xC, 1, 4, 0x0, 0x0, 0x0, 0x0⟩
  | .safeProtAgent => ⟨.safeW, 0x10, 1, 4, 0x0, 0x0, 0x0, 0x0⟩
  | .safeEvtProtWrite => ⟨.safeW, 0x20, 1, 4, 0x0, 0x0, 0x0, 0x0⟩
  | .safeEvtTakeover => ⟨.safeW, 0x24, 1, 4, 0x0, 0x0, 0x0, 0x0⟩
  | .safeEvtCpRestart => ⟨.safeW, 0x28, 1, 4, 0x0, 0x0, 0x0, 0x0⟩
  | .safeEvtWClear => ⟨.safeW, 0x2C, 1, 4, 0x0, 0x0, 0x7, 0x0⟩
  | .safeMbxCtrl => ⟨.mbx, 0xF000, 1, 4, 0x0, 0x0, 0x1, 0x0⟩
  | .safeMbxStatus => ⟨.mbx, 0xF004, 1, 4, 0x0, 0x0, 0x0, 0x0⟩
  | .vicCtrl => ⟨.vic, 0x0, 1, 4, 0x3, 0x0, 0x0, 0x0⟩
  | .vicVbaseLo => ⟨.vic, 0x8, 1, 4, 0xFFFFF000, 0x0, 0x0, 0x0⟩
  | .vicVbaseHi => ⟨.vic, 0xC, 1, 4, 0xFFFFFFFF, 0x0, 0x0, 0x0⟩
  | .vicActive => ⟨.vic, 0x10, 1, 4, 0x0, 0x0, 0x0, 0x0⟩
  | .vicEoi => ⟨.vic, 0x14, 1, 4, 0x0, 0x0, 0x1, 0x0⟩
  | .vicSrcCfg => ⟨.vic, 0x400, 256, 4, 0xF, 0x0, 0x0, 0x0⟩
  | .vicPending => ⟨.vic, 0x800, 8, 4, 0x0, 0xFFFFFFFF, 0x0, 0x0⟩
  | .vicPendSet => ⟨.vic, 0x820, 8, 4, 0x0, 0x0, 0xFFFFFFFF, 0x0⟩
  | .vicHoldoff => ⟨.vic, 0x900, 32, 4, 0xFFFF, 0x0, 0x0, 0x0⟩
  | .pwrState => ⟨.pwr, 0x0, 1, 4, 0x0, 0x0, 0x0, 0x0⟩
  | .pwrCfg => ⟨.pwr, 0x4, 1, 4, 0x8FFFFFFF, 0x0, 0x0, 0x640032⟩
  | .pwrLimit => ⟨.pwr, 0x8, 1, 4, 0x7FF, 0x0, 0x0, 0x5DC⟩
  | .pwrPower => ⟨.pwr, 0xC, 1, 4, 0x0, 0x0, 0x0, 0x0⟩
  | .pwrWake => ⟨.pwr, 0x10, 1, 4, 0x0, 0x0, 0x0, 0x0⟩
  | .pwrEvtEve => ⟨.pwr, 0x20, 1, 4, 0x0, 0x0, 0x0, 0x0⟩
  | .pwrEvtVigil => ⟨.pwr, 0x24, 1, 4, 0x0, 0x0, 0x0, 0x0⟩
  | .pwrEvtSolstice => ⟨.pwr, 0x28, 1, 4, 0x0, 0x0, 0x0, 0x0⟩
  | .pwrEvtClear => ⟨.pwr, 0x2C, 1, 4, 0x0, 0x0, 0x7, 0x0⟩
  | .fwuStatus => ⟨.fwu, 0x0, 1, 4, 0x0, 0xA0, 0x0, 0x0⟩
  | .fwuRelease => ⟨.fwu, 0x4, 1, 4, 0x0, 0x0, 0x0, 0x0⟩
  | .fwuRollbackSel => ⟨.fwu, 0x8, 1, 4, 0x7, 0x0, 0x0, 0x1⟩
  | .fwuRollback => ⟨.fwu, 0xC, 1, 4, 0x0, 0x0, 0x0, 0x0⟩
  | .fwuSettings => ⟨.fwu, 0x10, 1, 4, 0x0, 0x0, 0x0, 0x0⟩
  | .fwuVersion => ⟨.fwu, 0x14, 1, 4, 0x0, 0x0, 0x0, 0x0⟩
  | .fwuEvtRevert => ⟨.fwu, 0x20, 1, 4, 0x0, 0x0, 0x0, 0x0⟩
  | .fwuEvtClear => ⟨.fwu, 0x24, 1, 4, 0x0, 0x0, 0x1, 0x0⟩
  | .dbgStatus => ⟨.dbg, 0x0, 1, 4, 0x0, 0x0, 0x0, 0x20⟩
  | .dbgIdcode => ⟨.dbg, 0x4, 1, 4, 0x0, 0x0, 0x0, 0x0⟩
  | .dbgExpiryLo => ⟨.dbg, 0x8, 1, 4, 0x0, 0x0, 0x0, 0x0⟩
  | .dbgExpiryHi => ⟨.dbg, 0xC, 1, 4, 0x0, 0x0, 0x0, 0x0⟩
  | .dbgEvtUnlock => ⟨.dbg, 0x20, 1, 4, 0x0, 0x0, 0x0, 0x0⟩
  | .dbgEvtFail => ⟨.dbg, 0x24, 1, 4, 0x0, 0x0, 0x0, 0x0⟩
  | .dbgEvtClear => ⟨.dbg, 0x28, 1, 4, 0x0, 0x0, 0x3, 0x0⟩

/-- The registers of each block, in the order of its table. -/
def Block.regs : Block → List RegName
  | .hostif => [.hostifChipId, .hostifFuncInfo, .hostifCaps, .hostifStatus, .hostifDevtimeLo, .hostifDevtimeHi]
  | .stat => [.statCtrl, .statPeriodUs, .statPageBaseLo, .statPageBaseHi, .statStatus, .statSeqLo, .statSeqHi]
  | .ring => [.ringCtrl, .ringPollNs, .ringDbBaseLo, .ringDbBaseHi, .ringStatus, .ringSqBaseLo, .ringSqBaseHi,
      .ringSqCfg, .ringSqHead, .ringCqBaseLo, .ringCqBaseHi, .ringCqCfg, .ringCqTail]
  | .eng => [.engCaps, .engPhasePeriod, .engBudgetCfg, .engBudgetStat, .engStatus, .engEvtOclip, .engEvtGclip,
      .engEvtRaised, .engEvtSubphase, .engEvtSkip, .engEvtBudgetWait, .engEvtClear, .engEvtCsclip, .engArraySel,
      .engArrayInfo, .engRemapInfo]
  | .acc => [.accCaps, .accStatus, .accLimit, .accGroupSel, .accGroupInfo, .accGroupRows, .accEvtNarrow, .accEvtLong,
      .accEvtSubst, .accEvtNanRed, .accEvtClear]
  | .fix => [.fixCaps, .fixStatus, .fixLayerBase, .fixBindBase, .fixOlistBase, .fixTableCfg, .fixQueueStat,
      .fixEvtNarrow, .fixEvtRecomp, .fixEvtTrip, .fixEvtRefpass, .fixEvtTrimLimit, .fixEvtClear]
  | .fixP => [.fixPCfg, .fixPStat, .fixPEvtEntry]
  | .att => [.attCaps, .attClock, .attStatus, .attEvtNarrow, .attEvtSpans, .attEvtFolds, .attEvtClear, .attEvtNanRed]
  | .kv => [.kvCfg, .kvPageBytes, .kvPoolBaseLo, .kvPoolBaseHi, .kvPoolPages, .kvPoolCfg, .kvFreePages,
      .kvMetaBaseLo, .kvMetaBaseHi, .kvSeqCount, .kvSwapBaseLo, .kvSwapBaseHi, .kvSwapSlots, .kvFreeSlots, .kvStatus,
      .kvEvtKvsat, .kvEvtPending, .kvEvtSwapOut, .kvEvtSwapIn, .kvEvtClear, .almLimits, .almLast, .almClassSel,
      .almClassCount, .almEvtReject, .almEvtClear]
  | .scr => [.scrCaps, .scrStatus, .scrWatchdog, .scrStallStat, .scrEvtStall, .scrEvtTimeout, .scrEvtBankWait,
      .scrEvtWinDenied, .scrEvtClear, .scrHandleW0, .scrHandleW1, .scrHandleW2, .scrHandleW3, .scrWindowW0,
      .scrWindowW1, .scrWindowW2, .scrWindowW3, .scrWindowW4, .scrWindowW5, .iltPGroupBaseLo, .iltPGroupBaseHi,
      .iltPCfg, .iltPCtrl]
  | .seq => [.seqCaps, .seqStatus, .seqDispatch, .seqLastFail, .seqTagLo, .seqTagHi, .seqStepsLo, .seqStepsHi,
      .seqEvtAbort, .seqEvtCorrected, .seqEvtFenceTimeout, .seqEvtClear, .seqArrive]
  | .wgt => [.wgtCaps, .wgtStatus, .wgtImageBaseLo, .wgtImageBaseHi, .wgtImageSize, .wgtEpochForce,
      .wgtEpochRetiring, .wgtEpochBuild, .wgtBuildStat, .wgtDigestCfg, .wgtDigestTimeLo, .wgtDigestTimeHi,
      .wgtArraySel, .wgtWear, .wgtEvtRemap, .wgtEvtRefresh, .wgtEvtScrub, .wgtEvtDigestFail, .wgtEvtNospare,
      .wgtEvtClear]
  | .cal => [.calCfg, .calStatus, .calEngSel, .calAccordCount, .calAccordTimeLo, .calAccordTimeHi, .calAccordTemp,
      .calEvtStale, .calEvtConvFail, .calEvtClear]
  | .calP => [.calPRounds, .calPOldestLo, .calPOldestHi]
  | .telem => [.telemCfg, .telemStatus, .telemChSel, .telemChValue, .telemSnsCtrl, .telemSnsStat, .telemSns,
      .telemEvtFault, .telemEvtUrgent, .telemEvtClear]
  | .therm => [.thermCfg, .thermStatus, .thermMax, .thermLevel, .thermSensorSel, .thermSensor, .thermEvtWarn,
      .thermEvtEnforce, .thermEvtBroken, .thermEvtClear]
  | .integ => [.safeIntCfg, .safeIntStatus, .safeIntCover, .safeIftStat, .safeLateStepLo, .safeLateStepHi,
      .safeEvtCe, .safeEvtUe, .safeEvtParity, .safeEvtBlock, .safeEvtDisagree, .safeEvtCheckerWrong,
      .safeEvtCorrectedCol, .safeEvtTripFault, .safeEvtLate, .safeEvtIftRun, .safeEvtIftInsert, .safeEvtIftFail,
      .safeEvtClear]
  | .link => [.linkPortCtrl, .linkStatus, .linkMacsecCtrl, .linkMacLo, .linkMacHi, .linkEvtFcs, .linkEvtMacsecDrop,
      .linkEvtDown, .linkEvtClear, .linkIp, .linkSakSel, .linkSakData]
  | .ilt => [.iltChip, .iltTorus, .iltEncap, .iltRetry, .iltStatus, .iltUdp, .iltEvtNak, .iltEvtBad, .iltEvtTransit,
      .iltEvtClear, .iltRoute, .iltNextHop, .iltKeys]
  | .part => [.partUnit, .partEvtScrubFail]
  | .safeW => [.safeWStatus, .safeProtLastLo, .safeProtLastHi, .safeProtAgent, .safeEvtProtWrite, .safeEvtTakeover,
      .safeEvtCpRestart, .safeEvtWClear]
  | .mbx => [.safeMbxCtrl, .safeMbxStatus]
  | .vic => [.vicCtrl, .vicVbaseLo, .vicVbaseHi, .vicActive, .vicEoi, .vicSrcCfg, .vicPending, .vicPendSet,
      .vicHoldoff]
  | .pwr => [.pwrState, .pwrCfg, .pwrLimit, .pwrPower, .pwrWake, .pwrEvtEve, .pwrEvtVigil, .pwrEvtSolstice,
      .pwrEvtClear]
  | .fwu => [.fwuStatus, .fwuRelease, .fwuRollbackSel, .fwuRollback, .fwuSettings, .fwuVersion, .fwuEvtRevert,
      .fwuEvtClear]
  | .dbg => [.dbgStatus, .dbgIdcode, .dbgExpiryLo, .dbgExpiryHi, .dbgEvtUnlock, .dbgEvtFail, .dbgEvtClear]

/-- The reset value of a register (the tables' Reset column; a dash: log entry 5). -/
def Reg.reset (r : Reg) : Word := BitVec.ofNat 32 r.name.info.reset

/-- The register at an offset of a block. -/
def regAt (b : Block) (blk off : Nat) : Option Reg :=
  (b.regs.find? (fun n =>
    let i := n.info
    decide (i.off ≤ off) && (off - i.off) % i.stride == 0 && decide ((off - i.off) / i.stride < i.count))).map
    (fun n => ⟨n, blk, (off - n.info.off) / n.info.stride⟩)

end Sys2Proof
end

