-- ==== Sys2Proof/Machine/State.lean ====
section
/-! DEFINITION. The state of the part as plain data, and its value at reset. INVENTORY.md lists each piece with its rule. -/

namespace Sys2Proof.Machine

/-- Why a command stops the machine. -/
inductive Fault where
  /-- An access by a control processor to a physical offset outside the map (01 R28: bus error). Raised by REGISTER_WRITE, STATUS_BIT_CLEAR,
  COUNTER_CLEAR, PAIR_LOW_READ, PAIR_HIGH_WRITE and DBG_MEMORY_ACCESS. Safe: nothing of the part changes. -/
  | busError (addr : Nat)
  deriving DecidableEq, Repr

/-- Why the model gives a command no meaning. -/
inductive Refusal where
  /-- A command the model does not cover yet, by its mnemonic. Raised by the dispatcher only. Safe: nothing is claimed. -/
  | notModelled (mnemonic : String)
  deriving DecidableEq, Repr

/-- The completion statuses (13 R473). -/
inductive Status where
  | ok | corrected | degraded | pending | state | malformed | denied | noResource | cancelled | superseded
  | integrityFail | scoreboardTimeout | linkLost | timeout | internal | preempted
  deriving DecidableEq, Repr

/-! Time (01 R22-R24) -/

/-- The DEVTIME copy of one die: slew is 0 aligned, 1 catching up (17 for 16), 2 falling back (15 for 16). -/
structure Clock where
  now : Nat := 0
  slew : Nat := 0
  phase : Nat := 0
  lastPulse : Nat := 0
  unreliable : Bool := false
  missed : Bool := false
  deriving DecidableEq, Repr

/-! The host side of a function (13 R458-R484) -/

/-- A command accepted from a submission ring and not yet started (13 R469-R471): its arguments are bytes 63:16, record is the
record read at ARG_ADDR. -/
structure Cmd where
  sq : Nat
  cq : Nat
  opcode : Nat
  cmdId : Nat
  tag : Nat
  args : List Byte
  record : List Byte
  recordErr : Option HostErr
  status : Status
  time : Nat
  deriving DecidableEq, Repr

/-- A command's ring and identity, for its completions; era is the number of resets of its function at
acceptance, and first tells that none was generated yet (its CQ slot is reserved). -/
structure Ticket where
  fn : Nat := 0
  era : Nat := 0
  sq : Nat := 0
  cq : Nat := 0
  cmdId : Nat := 0
  tag : Nat := 0
  first : Bool := true
  deriving DecidableEq, Repr

/-- A completion generated and waiting to be written (13 R472). -/
structure Completion where
  cq : Nat
  tag : Nat
  result : Nat
  cmdId : Nat
  sqHead : Nat
  status : Status
  sq : Nat
  more : Bool
  opIndex : Option Nat
  time : Nat
  reserved : Bool
  deriving DecidableEq, Repr

/-- A function's state beside its registers: Bus Master Enable, how often it was reset, tails and heads last read, CQ slots reserved, CQs stopped
by a head error, commands accepted, completions generated, host writes held while Bus Master Enable is 0 (13 R458, R484), a page
write due, and when the last periodic page was written and the next poll is due. -/
structure Func where
  bme : Bool := false
  era : Nat := 0
  tails : Tbl Nat Nat := []
  heads : Tbl Nat Nat := []
  reserved : Tbl Nat Nat := []
  stopped : List Nat := []
  accepted : List Cmd := []
  waiting : List Completion := []
  writes : List (Nat × List Byte) := []
  pageDue : Bool := false
  lastPage : Nat := 0
  pollAt : Nat := 0
  deriving DecidableEq, Repr

/-- Host memory by bus address, and the 4 KiB pages whose reads fail (13 R459). -/
structure HostMem where
  mem : Memory := []
  errors : Tbl Nat HostErr := []
  deriving DecidableEq, Repr

/-! Steps (08) -/

/-- A step waiting to begin: a STEP_RUN (ticket), or a firmware step of the request processor (none), whose program the processor
holds (kind 2; log entry 35). -/
structure StepReq where
  addr : Nat := 0
  kind : Nat := 1
  prog : List Byte := []
  selector : Nat := 0
  ticket : Option Ticket := none
  deriving DecidableEq, Repr

/-- A dispatched op: its index and its 64 bytes. -/
structure Op where
  idx : Nat
  desc : List Byte
  deriving DecidableEq, Repr

/-- An issued op that is not complete: its read and write ranges in physical 64-byte granules, lo to hi - 1 (07 R259). -/
structure Issued where
  idx : Nat
  queue : Queue
  reads : List (Nat × Nat)
  writes : List (Nat × Nat)
  deriving DecidableEq, Repr

/-- A handle entry in force (07 R277): physical base and bytes. -/
structure Handle where
  base : Nat
  bytes : Nat
  region : Nat
  writable : Bool
  deriving DecidableEq, Repr

/-- How far a pass has come (02 R69, 04 R118). -/
inductive PassPhase where
  | issued | admitted | promoted
  deriving DecidableEq, Repr

/-- A pass from issue to the end of its step. wide tells the WIDE8 layout; banks are the driven (array, bank); rEff the range
code of each array; slices and sides the latched inputs; outs the outlier channels, weights and scales of each slice; av the analogue addend of each output column before os (an unlisted
column has +0.0); sub the output columns promoted from a reference value; todo those of its columns not yet recomputed;
vals the reference values; wait the columns not yet in the Fixative queue; suspect the arrays in disagreement. -/
structure PassRec where
  op : Nat
  core : Nat
  engine : Nat
  layer : Nat
  arrange : Nat
  array : Nat
  range : Nat
  optimistic : Bool
  quiet : Bool
  afmt : Nat
  wide : Bool
  group : Nat
  half : Bool
  mode : Nat
  banks : List (Nat × Nat)
  slices : List (List Byte)
  sides : List (List Byte)
  outs : List (List Nat × Nat × Nat) := []
  phase : PassPhase := .issued
  rEff : Tbl Nat Nat := []
  av : Tbl Nat Word := []
  clips : List Nat := []
  sub : List Nat := []
  todo : List Nat := []
  wait : List Nat := []
  vals : Tbl Nat Word := []
  refBad : List Nat := []
  csBad : List Nat := []
  suspect : List Nat := []
  arbitrated : Bool := false
  deriving DecidableEq, Repr

/-- A close (04 R124-R126): members are the passes promoted into its group, totals the lanes at the close. -/
structure CloseRec where
  op : Nat
  core : Nat
  engine : Nat
  group : Nat
  desc : List Byte
  closed : Bool := false
  tripped : Bool := false
  members : List Nat := []
  totals : Tbl Nat Word := []
  long : Bool := false
  deriving DecidableEq, Repr

/-- The norm monitor's working values of a layer on a core (05 R151, R172). -/
structure Monitor where
  mean : Word := 0
  updates : Nat := 0
  lastRms : Word := 0
  trips : Nat := 0
  deriving DecidableEq, Repr

/-- An attention op in progress: its descriptor, the entries whose fold is outstanding and the units of its spans (06 R210-R216). -/
structure AttendRec where
  op : Nat
  desc : List Byte
  entries : List Nat
  units : List Nat
  deriving DecidableEq, Repr

/-- A remote write or a collective of a step in progress, and when a collective times out (08 R300, 14 R511). -/
structure RemoteRec where
  op : Nat
  desc : List Byte
  coll : Bool
  due : Nat
  deriving DecidableEq, Repr

/-- A waiting control op and the time it was dispatched. -/
structure ControlRec where
  op : Op
  since : Nat
  deriving DecidableEq, Repr

/-- What a step did to a sequence (06 R208-R225): the KV layers appended, the length a rollback publishes, and the list
indices of the pages it allocated. -/
structure SeqUse where
  seq : Nat
  start : Nat
  new : Nat
  appended : List Nat := []
  newLen : Option Nat := none
  pages : List Nat := []
  deriving DecidableEq, Repr

/-- A running step (08 R280-R307). held are the reads of promoted passes that a monitored close holds, and promoted those of passes
promoted into a group that is open (12 R438). -/
structure StepCtx where
  req : StepReq := {}
  no : Nat := 0
  opCount : Nat := 0
  opsCrc : Nat := 0
  deadline : Option Nat := none
  tag : Nat := 0
  began : Nat := 0
  next : Nat := 0
  crc : Nat := 0xFFFFFFFF
  epoch : Nat := 0
  handles : Tbl Nat Handle := []
  tableCfg : Tbl Nat Word := []
  config : Tbl (Nat × Nat) (List Byte) := []
  act8 : List (Nat × Nat) := []
  degraded : Bool := false
  afterRound : Nat := 0
  watchdog : Nat := 1000
  collBase : Nat := 0
  collCfg : Word := 0
  parity : Bool := true
  block : Bool := false
  stale : Bool := false
  queues : Tbl Queue (List Op) := []
  stalls : Tbl Queue Nat := []
  issued : List Issued := []
  held : List Issued := []
  promoted : List Issued := []
  appends : List (Nat × Nat) := []
  passes : List PassRec := []
  closes : List CloseRec := []
  monitors : Tbl (Nat × Nat) Monitor := []
  closeCount : Tbl (Nat × Nat) Nat := []
  layersRun : List Nat := []
  closedLayers : List Nat := []
  tripped : List Nat := []
  corrected : Bool := false
  attends : List AttendRec := []
  remotes : List RemoteRec := []
  control : Option ControlRec := none
  uses : List SeqUse := []
  serving : Bool := false
  deriving DecidableEq, Repr

/-! Accumulation groups, banks, cores (02, 04, 05, 10) -/

/-- Group states (04 R120). -/
inductive GroupState where
  | free | opened | closing
  deriving DecidableEq, Repr

/-- An accumulation group: an unlisted lane holds +0.0; shadow is the compare-mode total (05 R166). -/
structure Group where
  state : GroupState := .free
  lanes : Tbl Nat Word := []
  shadow : Tbl Nat Word := []
  rows : Nat := 0
  passes : Nat := 0
  mode : Option Bool := none
  long : Bool := false
  members : List Nat := []
  deriving DecidableEq, Repr

/-- One bank of an array. cells lists the non-zero weight codes at column × 1024 + row over the physical columns; payload is
the physical address of its tile, run the epoch whose image run holds it; remap maps spare to column; refreshing lists the columns
to refresh, oldest first; cleanAt and scrubbed, by row, are the commits at programming and at the last clean read-back (12 R441);
measured tells that an Accord has measured it (12 R433); noSpare and remapWait are the logical columns left without a spare or waiting
for a valid image (10 R358, R366, R367); foundWrong holds the columns that arbitration found wrong, with the commits at the end of their
refresh once it has ended (12 R436). -/
structure Bank where
  layer : Option Nat := none
  wfmt : Nat := 0
  outCols : Nat := 0
  scale : Word := 0
  payload : Nat := 0
  run : Nat := 0
  floor : Nat := 5
  cells : Tbl Nat Int := []
  gt : Tbl Nat Int := []
  ot : Tbl Nat Int := []
  remap : Tbl Nat Nat := []
  remapPending : Tbl Nat Nat := []
  refreshing : List Nat := []
  zeroTrims : List Nat := []
  noSpare : List Nat := []
  remapWait : List Nat := []
  rewrites : Nat := 0
  csErr : Tbl Nat Int := []
  csWrong : List Nat := []
  csSuspended : Bool := false
  foundWrong : Tbl Nat (Option Nat) := []
  scrubbed : Tbl Nat Nat := []
  cleanAt : Nat := 0
  measured : Bool := false
  deriving DecidableEq, Repr

/-- An entry of a core's Fixative queue (05 R149): a column of a pass. -/
structure FixEntry where
  p : Nat
  op : Nat
  col : Nat
  deriving DecidableEq, Repr

/-- A core beside its registers: credit balance (02 R67), Fixative queue (05 R149), the last refill time. -/
structure Core where
  balance : Int := 128
  fixq : List FixEntry := []
  refilled : Nat := 0
  outOfService : Bool := false
  deriving DecidableEq, Repr

/-- An Accord (11 R389): its values, the engine's temperature, the time its measurement ended and the time it began (13 R475). -/
structure Accord where
  m : Measured := ⟨[], [], [], [], []⟩
  temp : Int := 0
  time : Nat := 0
  began : Nat := 0
  deriving DecidableEq, Repr

/-- A reading of a reference column in a pass (02 R60): the converter by position, cell-units a row, code, range code and net rows. -/
structure RefReading where
  conv : Nat
  kind : Nat
  code : Int
  rcode : Nat
  net : Int
  deriving DecidableEq, Repr

/-- An engine's calibration (11 R389-R395): converter offsets, reference trims and checksum allowances in force, Accord in force, READY
one, when the measurement under way began, CAL.CFG as the last Accord took it, and the calibration slots and reference readings since
the last Accord. readings counts the bad readings of a column in this Accord period; a unit is a column by array, bank and number or a
converter by array, 2 and number, slotAt holds the commits at the last reading of an array's bank, or of its converters under 2, and
clean those at the last clean reading of a unit whose latest one was not clean (12 R441). -/
structure Engine where
  zc : Tbl Nat Int := []
  art : Tbl Nat Int := []
  allowance : Tbl Nat Nat := []
  inForce : Option Accord := none
  ready : Option Accord := none
  count : Nat := 0
  accordAt : Nat := 0
  failedRows : List Nat := []
  outOfService : Bool := false
  readyAt : Nat := 0
  cfg : Word := 0xFA0010
  remeasure : Bool := false
  slots : List CalSlot := []
  refs : List RefReading := []
  readings : Tbl (Nat × Nat × Nat) Nat := []
  slotAt : Tbl (Nat × Nat) Nat := []
  clean : Tbl (Nat × Nat × Nat) Nat := []
  deriving DecidableEq, Repr

/-! Partitions (15), weights (10), cache (06), serving (09) -/

inductive UnitState where
  | free | active | scrubbing | failed
  deriving DecidableEq, Repr

inductive EpochState where
  | building | ready | inForce | retiring | retired
  deriving DecidableEq, Repr

/-- A tile held by an epoch (10 R350): array is package-wide. -/
structure Tile where
  array : Nat
  bank : Nat
  layer : Nat
  wfmt : Nat
  scale : Word
  outCols : Nat
  payload : Nat
  run : Nat
  rowTile : Nat
  bind : Nat
  deriving DecidableEq, Repr

/-- An epoch (10 R369): lo and size place its image run in the partition's view; layers gives, for each layer of it, the epoch whose
run holds that layer's sections (10 R353); repair tells that a repair is open, committed that its SHARD_COMMIT was taken;
lastCheck and cleanAt are the time of its last digest check and the committed steps at the last clean one (10 R358, 12 R441). -/
structure Epoch where
  num : Nat
  state : EpochState
  lo : Nat := 0
  size : Nat := 0
  digest : List Byte := []
  tiles : List Tile := []
  layers : Tbl Nat Nat := []
  invalid : Bool := false
  verified : Bool := true
  repair : Bool := false
  committed : Bool := false
  retireAt : Option Nat := none
  retireAsked : Bool := false
  lastCheck : Nat := 0
  cleanAt : Nat := 0
  deriving DecidableEq, Repr

/-- A SHARD_COMMIT in progress (10 R357 step 5): the tiles still to program or verify, and how many are done. -/
structure Build where
  epoch : Nat
  ticket : Ticket
  todo : List Tile
  done : Nat := 0
  deriving DecidableEq, Repr

/-- A pending cache edit (06 R221): the edit record, its command and whether its first completion was PENDING. -/
structure KvEdit where
  seq : Nat
  kind : Nat
  args : List Byte
  ticket : Option Ticket
  handle : Option Nat := none
  deriving DecidableEq, Repr

/-- Request states (09 R329). -/
inductive ReqState where
  | closed | opened | prefill | decode | preempted | draining
  deriving DecidableEq, Repr

/-- A serving command that waits for a boundary or for its request to close (09 R333): its opcode, ticket and arguments. -/
structure ReqCmd where
  opcode : Nat
  ticket : Ticket
  args : List Byte
  deriving DecidableEq, Repr

/-- A KV_EXPORT in progress (09 R345). -/
structure Export where
  ticket : Ticket
  chip : Nat
  key : Nat
  slot : Nat
  deriving DecidableEq, Repr

/-- A request entry of the request table (09 R328-R342): its record, the ticket of its final completion, the tokens at its positions
(input and delivered), how many of them are input, the generation limit, tokens counted against it and tokens written out, the
status of the steps that emitted its tokens, the order of its acceptance and of its admission, the time it entered its state,
whether it was decoding when pre-empted, and the drafts of the current round. -/
structure Request where
  state : ReqState := .closed
  gen : Nat := 0
  record : List Byte := []
  ticket : Option Ticket := none
  hist : List Nat := []
  inputs : Nat := 0
  limit : Nat := 0
  produced : Nat := 0
  written : Nat := 0
  kept : Status := .ok
  final : Option Status := none
  order : Nat := 0
  admitted : Nat := 0
  since : Nat := 0
  decoding : Bool := false
  swapped : Bool := false
  recompute : Bool := false
  epoch : Option Nat := none
  exporting : Option Export := none
  waits : List ReqCmd := []
  drafts : List Nat := []
  deriving DecidableEq, Repr

/-- An import slot in use (09 R344): the request, its ticket, the source and the time limit. -/
structure Import where
  req : Nat
  ticket : Ticket
  due : Option Nat
  deriving DecidableEq, Repr

/-- An entry of a firmware step (09 R337, R342): its request and sequence, the tokens of its rows, how many of its last rows are
sampled, whether it verifies drafts, and whether it is a prefill chunk. -/
structure FwEntry where
  req : Nat
  draft : Bool
  start : Nat
  toks : List Nat
  sampled : Nat
  verify : Bool
  prefill : Bool := false
  deriving DecidableEq, Repr

/-- A group of the sampling tail (09 R327): its profile, its entries by place in the step, and where its tokens and counts lie. -/
structure FwGroup where
  verify : Bool
  profile : Nat
  members : List Nat
  tok : Nat
  cnt : Nat
  deriving DecidableEq, Repr

/-- The firmware step built last (09 R326): a draft step or a main step, its epoch, entries and groups. -/
structure FwStep where
  draft : Bool
  epoch : Nat
  entries : List FwEntry
  groups : List FwGroup
  deriving DecidableEq, Repr

/-- The serving record in force and firmware's state (09 R319-R347): the blend ratio and its bounds, those that come into force at the
next boundary, main steps since the ratio changed, requests, imports, page lists in the work area (request, offset, bytes),
the step built and not yet followed up, the status that a repeated attempt must not repeat, and the partition's commits at the last
boundary that firmware served. -/
structure Serving where
  record : List Byte := []
  blend : Nat := 0
  lo : Nat := 0
  hi : Nat := 16
  next : Option (Nat × Nat) := none
  sinceBlend : Nat := 0
  steps : Nat := 0
  order : Nat := 0
  oldTurn : Bool := false
  turn : Nat := 0
  requests : Tbl Nat Request := []
  imports : Tbl Nat Import := []
  work : List (Nat × Nat × Nat) := []
  cur : Option FwStep := none
  failedOnce : Option Status := none
  seen : Nat := 0
  deriving DecidableEq, Repr

/-- What a member has sent for a tag of a group (14 R511): bytes so far, whether its message ended, and the flow and PSN that a
refusal answers. -/
structure CollPart where
  group : Nat
  tag : Nat
  rank : Nat
  kind : Nat
  fmt : Nat
  size : Nat
  got : Nat
  done : Bool
  flow : Nat
  psn : Nat
  deriving DecidableEq, Repr

/-- A partition, named by its lowest unit (15 R521). handles is the committed handle table; the running step keeps its own
copy (07 R258). commits counts committed steps; roundAt and roundLast are the commits at which the open and the last completed
Accord round began (11 R396); fallbackAt the commit that set a layer's FALLBACK, degradedAt the one that entered DEGRADED. parityNow,
blockNow, iftPeriod and iftDefer are SAFE.INT_CFG as in force (12 R427, R450); iftRun tells that the in-field test runs, iftBad holds
what failed the last one with the commits at its last clean test (12 R441); clean is the count of completed rounds when a mend of the
recovery last came into force (12 R446). -/
structure Part where
  units : Nat := 1
  strict : Bool := false
  strictNext : Bool := false
  queued : List StepReq := []
  run : Option StepCtx := none
  handles : Tbl Nat Handle := []
  windows : Tbl Nat (List Word) := []
  closing : Tbl Nat (List (Nat × Nat)) := []
  kvInit : Bool := false
  almClasses : Tbl Nat Nat := []
  edits : List KvEdit := []
  epochs : List Epoch := []
  lastEpoch : Nat := 0
  switch : List (Nat × Ticket) := []
  build : Option Build := none
  commits : Nat := 0
  stepNo : Nat := 0
  roundOpen : Bool := false
  round : List Nat := []
  roundAt : Nat := 0
  roundLast : Nat := 0
  rounds : Nat := 0
  fallbackAt : Tbl Nat Nat := []
  degraded : Bool := false
  degradedAt : Nat := 0
  stable : Nat := 0
  force : Bool := false
  trippedLast : Bool := false
  fwResult : Option (Status × Nat) := none
  parityNow : Bool := true
  blockNow : Bool := false
  iftSince : Nat := 0
  iftDeferred : Nat := 0
  iftForced : Bool := false
  iftPeriod : Nat := 4096
  iftDefer : Nat := 64
  iftBad : List (TestFault × Nat) := []
  iftRun : Bool := false
  tested : Bool := false
  recovery : Bool := false
  stale : Bool := false
  clean : Nat := 0
  serving : Option Serving := none
  nextTags : Tbl Nat Nat := []
  resetTags : Bool := false
  staged : List CollPart := []
  deriving DecidableEq, Repr

/-! Telemetry, temperature, power (11, 16) -/

/-- A capture of a sense input under way (11 R404). -/
structure Capture where
  sel : Nat
  full : Option Nat
  deriving DecidableEq, Repr

/-- A telemetry converter (11 R399-R402): the channel it converts next, the averages of channels 25 and 0 in 1/64 code, the last
accepted readings of both (65 of channel 0), scans since they were formed, averages waiting for the scan gap, the channel-0 code of the
present scan, exclusion, the urgent requests that wait and the last urgent result with its channel (11 R403). -/
structure Telem where
  chan : Nat := 0
  ng : Int := 0
  nb : Int := 131072
  zero : List Int := []
  full : List Int := []
  scans : Nat := 0
  readyGap : Option (Int × Int) := none
  this0 : Option Int := none
  excluded : Bool := false
  urgentWait : List Nat := []
  urgent : Option (Nat × Int) := none
  scan : Tbl Nat Int := []
  deriving DecidableEq, Repr

/-- A temperature sensor (11 R405-R407): the last value reported, whether one has been read, its last code and how often in a row,
the lowest and highest reading of each neighbour meanwhile, readings in a row that disagree, and whether it is broken. -/
structure Sensor where
  temp : Int := 0
  valid : Bool := false
  code : Int := 0
  same : Nat := 0
  span : Tbl Nat (Int × Int) := []
  apart : Nat := 0
  broken : Bool := false
  deriving DecidableEq, Repr

inductive ThermState where
  | normal | warned | enforcing
  deriving DecidableEq, Repr

/-- Temperature control of the package (11 R408-R410). -/
structure Therm where
  state : ThermState := .normal
  level : Nat := 0
  graceEnd : Nat := 0
  lastTick : Nat := 0
  tripping : Bool := false
  pkg : Int := 0
  hotDie : Nat := 0
  hotSensor : Nat := 0
  slowdown : Bool := false
  deriving DecidableEq, Repr

inductive PowerState where
  | live | eve | vigil | solstice
  deriving DecidableEq, Repr

/-- Power (01 R35, 16 R545-R552): the levers applied, the last average, idle time and whether the part is up; away is the time spent
outside Live so far, awayFrom when Live was last left (16 R549); noWarden and clockLost tell that the compute islands or every loop
stand still until the next PORST_N (15 R534, 17 R577). -/
structure Power where
  state : PowerState := .live
  last : PowerState := .live
  wake : Nat := 0
  lever : Nat := 0
  unmet : Bool := false
  watts : Nat := 0
  idleSince : Nat := 0
  away : Nat := 0
  awayFrom : Nat := 0
  lastTick : Nat := 0
  belowSince : Option Nat := none
  ready : Bool := false
  inReset : Bool := true
  recovery : Bool := false
  noWarden : Bool := false
  clockLost : Bool := false
  deriving DecidableEq, Repr

/-! Fabric (14) -/

/-- A MACsec key slot of a port: direction (true = transmit), association number. -/
structure Sak where
  key : List Word := []
  pn : Nat := 1
  valid : Bool := false
  deriving DecidableEq, Repr

/-- A link port (14 R489-R502); backlog is the bytes handed to it and not yet on the wire. -/
structure Port where
  up : Bool := false
  mode : Nat := 0
  peerKnown : Bool := false
  peerLink : Nat := 0
  peerMac : Nat := 0
  peerIp : List Word := []
  txAn : Option Nat := none
  saks : Tbl (Bool × Nat) Sak := []
  staging : Tbl Nat Word := []
  lastHello : Nat := 0
  backlog : Nat := 0
  deriving DecidableEq, Repr

/-- What a flow's packets belong to: an op of a step (numbered within its partition), an export, a collective, or none. -/
inductive FlowUse where
  | stepOp (p no op : Nat)
  | exported (p handle : Nat)
  | collective (p no op : Nat)
  | reply
  deriving DecidableEq, Repr

/-- An ILT packet (14 R494): the fields of its header and its payload. -/
structure Packet where
  typ : Nat
  flags : Nat := 0
  key : Nat := 0
  dst : Nat := 0
  src : Nat := 0
  flow : Nat := 0
  psn : Nat := 0
  arg : List Byte := List.replicate 8 0
  ack : Nat := 0
  crc : Nat := 0
  ext : List Byte := List.replicate 8 0
  data : List Byte := []
  deriving DecidableEq, Repr

/-- A packet sent on a flow and not acknowledged (14 R499): last tells that it ends its use. -/
structure Sent where
  pkt : Packet
  use : FlowUse
  last : Bool
  at_ : Nat
  tries : Nat := 1
  crcAgain : Bool := false
  deriving DecidableEq, Repr

/-- A message waiting for its flow to open: its header fields, payload, and where its source lies for tensor blocks. -/
structure Msg where
  pkt : Packet
  data : List Byte
  block : Bool
  base : Nat
  use : FlowUse
  last : Bool
  deriving DecidableEq, Repr

/-- A send flow (keys below 4,096) or a receive flow (from 4,096 on) (14 R496-R501): the sending unit, messages waiting for it
to open, packets not yet sent, packets not yet acknowledged; for a receive flow the next PSN, packets held ahead of a gap with the
hub that holds each, the packets of an unfinished tensor block, and the data of read responses. -/
structure Flow where
  peer : Nat
  id : Nat
  key : Nat := 0
  owner : Nat := 0
  unit : Nat := 0
  opened : Bool := false
  openAt : Nat := 0
  openTries : Nat := 0
  busy : Bool := false
  caps : Nat := 0
  waiting : List Msg := []
  queued : List (Packet × FlowUse × Bool) := []
  sent : List Sent := []
  psn : Nat := 0
  expect : Nat := 0
  acked : Nat := 0
  held : List (Nat × Packet) := []
  block : List Packet := []
  since : Nat := 0
  ackDue : Option Nat := none
  used : Nat := 0
  reopens : Nat := 0
  data : List Byte := []
  deriving DecidableEq, Repr

/-- A frame handed to a port: its MACsec association and packet number, and its bytes before protection. -/
structure TxFrame where
  port : Nat
  sa : Option (Nat × Nat)
  bytes : List Byte
  deriving DecidableEq, Repr

/-- The fabric: ports, flows by number, frames handed to the ports (oldest first). -/
structure Fabric where
  ports : Tbl Nat Port := []
  flows : Tbl Nat Flow := []
  tx : List TxFrame := []
  deriving DecidableEq, Repr

/-! Interrupt controllers (15 R537-R540) -/

/-- A VIC beside its registers: pending bits, lines that are high, the stack of (priority, source) with its top first, hold-off ends by
group, and the vector address supplied last. -/
structure Vic where
  pending : List Nat := []
  lines : List Nat := []
  stack : List (Nat × Nat) := []
  holdoff : Tbl Nat Nat := []
  vector : Option Nat := none
  deriving DecidableEq, Repr

/-- The data path and everything software or a peer can reach. Memory is keyed by physical offset (01 R26); ce and ue mark
64-bit words with a correctable or an uncorrectable error (12 R425), damaged words whose transfer breaks parity (12 R428), and
blockBad how often more the transfer of a 4 KiB range breaks its CRC (12 R429). What sets these marks is outside. hostUp tells that the PCI
Express link is up (17 R584), numVfs how many VFs the host has enabled (13 R457; log entry 51), and served the rings served in the
present turn, by function and ring (13 R466). vbgh and dividers are fused at test (11 R388, R399), sense holds the
sense inputs' coefficients (11 R404), scanChans and scanTemps what the last whole scans found (13 R477), and calWait holds the CAL_REQUESTs that wait: ticket, acceptance time, first engine and how many (13 R475). refreshTurn is the bank of an array whose refreshes run first (10 R367). scrub is
the release or the scrub being served: its request, its lowest unit, and whether it is a UNIT_SCRUB (15 R526, R527). -/
structure Chip where
  clocks : List Clock := List.replicate 8 {}
  regs : Tbl Reg Word := []
  latch : Tbl Reg Word := []
  mem : Memory := []
  ce : List Nat := []
  ue : List Nat := []
  damaged : List Nat := []
  blockBad : Tbl Nat Nat := []
  host : HostMem := {}
  hostUp : Bool := false
  numVfs : Nat := 16
  served : List (Nat × Nat) := []
  funcs : Tbl Nat Func := []
  units : Tbl Nat (UnitState × Nat) := []
  parts : Tbl Nat Part := []
  cores : Tbl Nat Core := []
  groups : Tbl (Nat × Nat) Group := []
  banks : Tbl (Nat × Nat) Bank := []
  engines : Tbl Nat Engine := []
  convFailed : List (Nat × Nat) := []
  streamDown : List Nat := []
  refreshTurn : Tbl Nat Nat := []
  calWait : List (Ticket × Nat × Nat × Nat) := []
  unownedTest : Nat := 0
  telem : Tbl (Nat × Nat) Telem := []
  chans : Tbl (Nat × Nat) Int := []
  scanChans : Tbl (Nat × Nat) Int := []
  scanTemps : Tbl (Nat × Nat) Int := []
  sensors : Tbl (Nat × Nat) Sensor := []
  vbgh : Tbl Nat Nat := []
  dividers : Tbl (Nat × Nat) (Nat × Nat) := []
  sense : Tbl Nat (Int × Int × Nat) := []
  senseZero : Tbl Nat Int := []
  capture : Option Capture := none
  therm : Therm := {}
  power : Power := {}
  fab : Fabric := {}
  vics : Tbl (Nat × Nat) Vic := []
  mbxWindow : Memory := []
  readData : Word := 0
  settingsDue : Bool := false
  scrub : Option (MbxReq × Nat × Bool) := none
  free : Nat := 0
  deriving DecidableEq, Repr

/-! Warden, firmware, debug, pins (15, 16, 17) -/

/-- The Warden (15 R523-R534) beside SAFE.W_STATUS: commands since the last checkpoint (code, SEQ), the time of that
checkpoint, the MCTP endpoint and the messages it sent, and the answers to other control processors. -/
structure Warden where
  log : List (Nat × Nat) := []
  lastCheckpoint : Nat := 0
  eid : Nat := 0
  mctp : List (List Byte) := []
  internal : List (Agent × List Byte) := []
  deriving DecidableEq, Repr

/-- The fuses (16 R563, R567, R570): chip identity, production fuse, digests of the firmware and debug keys, revoked slots, and the
fuses blown by image kind. -/
structure Fuses where
  uid : List Byte := List.replicate 16 0
  prod : Bool := true
  fwKeys : Tbl Nat (List Byte) := []
  fwRevoked : List Nat := []
  dbgKeys : Tbl Nat (List Byte) := []
  dbgRevoked : List Nat := []
  rollback : Tbl Nat Nat := []
  deriving DecidableEq, Repr

/-- The items that the settings hold (16 R554, 15 R522): unit states, partitions with their sizes and STRICT, sense
coefficients, and the restored registers. -/
structure Settings where
  units : Tbl Nat (UnitState × Nat) := []
  parts : Tbl Nat (Nat × Bool) := []
  sense : Tbl Nat (Int × Int × Nat) := []
  regs : Tbl Reg Word := []
  deriving DecidableEq, Repr

/-- A settings copy in flash, whose header and body lie there as bytes (16 R568). -/
structure SettingsCopy where
  seq : Nat
  version : Nat
  body : Settings
  deriving DecidableEq, Repr

/-- An open firmware update (16 R564). -/
structure Update where
  slot : Nat
  verified : Bool := false
  deriving DecidableEq, Repr

/-- Firmware store (16 R559-R569): flash, fuses and whether they were written in manufacture, the running slot, whether it is on trial,
the update, RELEASE, VERSION and ROLLBACK of the running images by kind, the settings copies and the version in force. -/
structure Firmware where
  flash : Memory := []
  fuses : Fuses := {}
  made : Bool := false
  slot : Nat := 0
  trial : Bool := false
  update : Option Update := none
  release : Nat := 0
  images : Tbl Nat (Nat × Nat) := []
  copies : Tbl Nat SettingsCopy := []
  settingsVersion : Nat := 0
  deriving DecidableEq, Repr

/-- Debug (16 R570, R571): the challenge with its time, failed attempts, the unlock, halted processors, breakpoints and watchpoints,
single steps taken, the last value read, what the test port shifts out, its instruction (0 BYPASS, 1 IDCODE, 2 SAMPLE/PRELOAD, 3 EXTEST,
4 CLAMP, 5 HIGHZ) and boundary cells, and whether READY has been 1 since PORST_N. -/
structure Debug where
  challenge : Option (List Byte × Nat) := none
  attempts : Nat := 0
  scope : Nat := 0
  expiry : Nat := 0
  unlocked : Bool := false
  halted : List Agent := []
  breaks : List (Agent × Nat × Bool × Nat) := []
  steps : Tbl (Nat × Nat) Nat := []
  lastRead : Nat := 0
  tdo : List Bool := []
  boundary : List Bool := []
  instr : Nat := 0
  readySeen : Bool := false
  deriving DecidableEq, Repr

/-- Pins (17 R576): level of each control pin, whether the references run, the instruction by which the test port drives the
pins (0 none), the SMB_ADDR straps, and the SMBus address taken from them when PORST_N was last released. -/
structure Pins where
  porstN : Bool := false
  pwrgd : Bool := false
  perstN : Bool := false
  thermtripN : Bool := true
  refclkSd : Bool := true
  refclkPcie : Bool := true
  drive : Nat := 0
  smbAddr : Nat := 0
  smbus : Option Nat := none
  deriving DecidableEq, Repr

/-- The system side; busErrors lists the bus errors that control processors took at poisoned or mismatched words, oldest first: the
processor and the offset (12 R426, R428). -/
structure Sys where
  warden : Warden := {}
  fw : Firmware := {}
  dbg : Debug := {}
  pins : Pins := {}
  busErrors : List (Agent × Nat) := []
  deriving DecidableEq, Repr

/-- The machine: the commands waiting, first in first out, the data path, and the system side. -/
structure State where
  pending : List Instr := []
  chip : Chip := {}
  sys : Sys := {}
  deriving DecidableEq, Repr

/-- The part held in reset: every register at its reset value (the table lists none written), memories empty, no partition,
Live, PORST_N, PWRGD and PERST_N low, nothing commanded (16 R553, 17 R576; values the spec leaves open: log entries 4-7). -/
def State.reset : State := {}

end Sys2Proof.Machine
end

