-- ==== Sys2Proof/Machine/Ops.lean ====
section
/-! DEFINITION. The named operations over the state: registers, counters, memory, the host side, completions. -/

namespace Sys2Proof.Machine

/-- The compute islands are powered, clocked and out of reset (15 R534, 16 R545, R550, R553, R563, 17 R577). -/
def Chip.powered (c : Chip) : Bool :=
  !c.power.inReset && decide (c.power.state ≠ .solstice) && !c.power.noWarden && !c.power.clockLost && !c.power.recovery

/-- The outcome of a command that only changes the data path: none while the part is in reset or in Solstice. -/
def State.onChip (s : State) (f : Chip → Chip) : Host.Outcome State Fault Refusal :=
  .next { s with chip := if s.chip.powered then f s.chip else s.chip }

/-- The outcome of a command that only changes the data path and that Solstice does not stop (16 R551). -/
def State.onPort (s : State) (f : Chip → Chip) : Host.Outcome State Fault Refusal :=
  .next { s with chip := if s.chip.power.inReset then s.chip else f s.chip }

/-- A register by name, block number and index. -/
def rg (n : RegName) (blk : Nat := 0) (idx : Nat := 0) : Reg := ⟨n, blk, idx⟩

/-! Registers -/

/-- The stored value of a register. -/
def Chip.reg (c : Chip) (r : Reg) : Word := Tbl.get r.reset r c.regs

/-- Store a register. -/
def Chip.setReg (c : Chip) (r : Reg) (v : Word) : Chip := { c with regs := Tbl.set r v c.regs }

/-- A field of a stored register. -/
def Chip.field (c : Chip) (r : Reg) (hi lo : Nat) : Nat := (c.reg r).field hi lo

/-- The Warden's pair in control (15 R534). -/
def Chip.warden (c : Chip) : Agent := ⟨if (c.reg (rg .safeWStatus)).bit 0 then 7 else 0, 2⟩

/-- A word with a field replaced. -/
def putField (w : Word) (hi lo v : Nat) : Word :=
  let mask := (2 ^ (hi + 1 - lo) - 1) <<< lo
  BitVec.ofNat 32 ((w.toNat &&& (0xFFFFFFFF ^^^ mask)) ||| ((v <<< lo) &&& mask))

/-- Replace a field of a stored register. -/
def Chip.setField (c : Chip) (r : Reg) (hi lo v : Nat) : Chip := c.setReg r (putField (c.reg r) hi lo v)

/-- Set bits of a stored register. -/
def Chip.setBits (c : Chip) (r : Reg) (mask : Nat) : Chip := c.setReg r (c.reg r ||| BitVec.ofNat 32 mask)

/-- Clear bits of a stored register. -/
def Chip.clearBits (c : Chip) (r : Reg) (mask : Nat) : Chip :=
  c.setReg r (c.reg r &&& ~~~(BitVec.ofNat 32 mask))

/-- Add to an event counter, saturating at 0xFFFF_FFFF. -/
def Chip.count (c : Chip) (r : Reg) (n : Nat := 1) : Chip :=
  c.setReg r (BitVec.ofNat 32 (min 0xFFFFFFFF ((c.reg r).toNat + n)))

/-- A 64-bit pair as a number: the named low half and its high half (00 R11). -/
def Chip.pair (c : Chip) (lo hi : Reg) : Nat := (c.reg lo).toNat + 2 ^ 32 * (c.reg hi).toNat

/-- Store a 64-bit pair. -/
def Chip.setPair (c : Chip) (lo hi : Reg) (v : Nat) : Chip :=
  (c.setReg lo (BitVec.ofNat 32 v)).setReg hi (BitVec.ofNat 32 (v / 2 ^ 32))

/-! Time -/

/-- The DEVTIME copy of a die. -/
def Chip.clock (c : Chip) (d : Nat) : Clock := c.clocks.getD d {}

/-- DEVTIME: the copy of die 0 (01 R22). -/
def Chip.now (c : Chip) : Nat := (c.clock 0).now

/-- DEVTIME less the time spent outside Live (16 R549). -/
def Chip.liveTime (c : Chip) : Nat := c.now - (c.power.away + if c.power.state = .live then 0 else c.now - c.power.awayFrom)

/-- DEVTIME as seen on a die. -/
def Chip.timeOn (c : Chip) (d : Nat) : Nat := (c.clock d).now

/-- One nanosecond on a die's copy: 17 for 16 while it lags, 15 for 16 while it leads (01 R24). -/
def Clock.tick (k : Clock) : Clock :=
  if k.slew = 0 then { k with now := k.now + 1 }
  else
    let step := if k.phase = 15 then (if k.slew = 1 then 2 else 0) else 1
    { k with now := k.now + step, phase := (k.phase + 1) % 16 }

/-- A die's copy after a nanosecond, given die 0's: it slews until the two agree. -/
def Clock.follow (k : Clock) (ref : Nat) : Clock :=
  let k := k.tick
  if (k.slew = 1 ∧ ref ≤ k.now) ∨ (k.slew = 2 ∧ k.now ≤ ref) then { k with slew := 0, phase := 0 } else k

/-- Nothing is in progress that keeps the package out of Eve (16 R546). -/
def Chip.idle (c : Chip) : Bool :=
  c.parts.all (fun e => e.2.run.isNone && e.2.queued.isEmpty && e.2.build.isNone && e.2.edits.isEmpty && !e.2.iftRun &&
    (match e.2.serving with
    | none => true
    | some v => v.imports.isEmpty && v.requests.all (fun r => decide (r.2.state ≠ .prefill ∧ r.2.state ≠ .decode) && r.2.exporting.isNone))) &&
  c.funcs.all (fun f => f.2.accepted.isEmpty) && c.calWait.isEmpty &&
  c.banks.all (fun b => b.2.refreshing.isEmpty && b.2.remapPending.isEmpty) &&
  c.fab.flows.all (fun f => f.2.waiting.isEmpty && f.2.queued.isEmpty && f.2.sent.isEmpty) && !c.settingsDue && c.scrub.isNone

/-- Something happens that breaks idleness and brings the package from Eve or Vigil back to Live; cause is PWR.WAKE's code
(16 R547, R548, R573). -/
def Chip.wake (c : Chip) (cause : Nat) : Chip :=
  if c.power.state = .eve ∨ c.power.state = .vigil then
    { c with power := { c.power with
        state := .live, last := c.power.state, wake := cause, away := c.power.away + (c.now - c.power.awayFrom), idleSince := c.now } }
  else { c with power := { c.power with idleSince := c.now } }

/-- Bytes that a port sends in a nanosecond (14 R489). -/
def modeRate (mode : Nat) : Nat := if mode = 0 then 200 else if mode = 1 then 100 else 50

/-- One nanosecond of the part: DEVTIME counts, in Solstice on die 0 only (01 R25), the ports send (14 R489), and idle time grows
while nothing is in progress (16 R547). -/
def Chip.tick (c : Chip) : Chip :=
  if c.power.inReset || c.power.clockLost then c else
  let now := (c.clock 0).tick.now
  { c with
    clocks := c.clocks.zipIdx.map (fun k => if k.2 = 0 then k.1.tick else if c.power.state = .solstice then k.1 else k.1.follow now)
    power := if c.idle then c.power else { c.power with idleSince := now }
    fab := { c.fab with ports := c.fab.ports.map (fun q => (q.1, { q.2 with backlog := q.2.backlog - modeRate q.2.mode })) } }

/-! Memory -/

def gib : Nat := 2 ^ 30
def hbmUnit : Nat := 96 * 2 ^ 30
def coreScratch : Nat := 0x20000000000
def clusterScratch : Nat := 0x20040000000

def Chip.read (c : Chip) (a n : Nat) : List Byte := c.mem.read a n
def Chip.le (c : Chip) (a n : Nat) : Nat := c.mem.le a n
def Chip.word (c : Chip) (a : Nat) : Word := BitVec.ofNat 32 (c.mem.le a 4)
def Chip.write (c : Chip) (a : Nat) (bs : List Byte) : Chip := { c with mem := c.mem.write a bs }
def Chip.zero (c : Chip) (a n : Nat) : Chip := { c with mem := c.mem.zero a (a + n) }

/-- A physical offset that is memory or a register window (01 R26). -/
def mapped (a : Nat) : Bool :=
  decide (a < 16 * hbmUnit) || (decide (coreScratch ≤ a) && decide (a < 0x200C0000000)) ||
  (decide (0x30000000000 ≤ a) && decide (a < 0x30110000000)) || (decide (0x3F000000000 ≤ a) && decide (a < 0x3F001000000))

/-- Where a byte of a partition unit's HBM lies: its stack, its pseudo-channel and its byte there (01 R27). -/
structure HbmPlace where
  stack : Nat
  channel : Nat
  byte : Nat
  deriving DecidableEq, Repr

/-- The placement of local offset o of unit u, by 256-byte granules. -/
def hbmPlace (u o : Nat) : HbmPlace :=
  let g := o / 256
  { stack := u / 2 * 3 + g % 3, channel := u % 2 * 32 + g / 3 % 32, byte := g / 96 * 256 + o % 256 }

/-- The placement of a physical offset, where it is HBM (01 R26, R27). -/
def placeOf (a : Nat) : Option HbmPlace := if a < 16 * hbmUnit then some (hbmPlace (a / hbmUnit) (a % hbmUnit)) else none

/-! Partitions -/

def Chip.part (c : Chip) (p : Nat) : Option Part := Tbl.find? p c.parts
def Chip.setPart (c : Chip) (p : Nat) (x : Part) : Chip := { c with parts := Tbl.set p x c.parts }

/-- Apply a change to a partition, if it exists. -/
def Chip.updPart (c : Chip) (p : Nat) (f : Part → Part) : Chip :=
  match c.part p with
  | some x => c.setPart p (f x)
  | none => c

/-- A function exists: the PF, and the VFs that NumVFs enables (13 R460). -/
def Chip.hasFunc (c : Chip) (fn : Nat) : Bool := decide (fn ≤ c.numVfs)

/-- The partition of a function (13 R460): VF u + 1 belongs to unit u, and serves the partition whose lowest unit is u; a VF that does not
exist reaches none. -/
def Chip.partOf (c : Chip) (fn : Nat) : Option Nat :=
  if fn = 0 ∨ !c.hasFunc fn then none else if (c.part (fn - 1)).isSome then some (fn - 1) else none

def Chip.core (c : Chip) (n : Nat) : Core := Tbl.get {} n c.cores
def Chip.setCore (c : Chip) (n : Nat) (x : Core) : Chip := { c with cores := Tbl.set n x c.cores }
def Chip.group (c : Chip) (e g : Nat) : Group := Tbl.get {} (e, g) c.groups
def Chip.setGroup (c : Chip) (e g : Nat) (x : Group) : Chip := { c with groups := Tbl.set (e, g) x c.groups }
def Chip.bank (c : Chip) (a b : Nat) : Bank := Tbl.get {} (a, b) c.banks
def Chip.setBank (c : Chip) (a b : Nat) (x : Bank) : Chip := { c with banks := Tbl.set (a, b) x c.banks }
def Chip.engine (c : Chip) (e : Nat) : Engine := Tbl.get {} e c.engines
def Chip.setEngine (c : Chip) (e : Nat) (x : Engine) : Chip := { c with engines := Tbl.set e x c.engines }

/-- A partition's cores, clusters and engines: the first and how many (01 R17, 15 R521: its units are consecutive). -/
def firstCore (p : Nat) : Nat := 8 * p
def Part.coreCount (x : Part) : Nat := 8 * x.units
def firstCluster (p : Nat) : Nat := 2 * p
def Part.clusterCount (x : Part) : Nat := 2 * x.units
def firstEngine (p : Nat) : Nat := 512 * p

/-- The partition that owns a unit. -/
def Chip.ownerOfUnit (c : Chip) (u : Nat) : Option Nat :=
  (List.find? (fun e : Nat × Part => decide (e.1 ≤ u ∧ u < e.1 + e.2.units)) c.parts).map Prod.fst

/-- The governing block number of a partition unit's registers: the lowest unit of its partition (05 R182). -/
def Chip.governing (c : Chip) (u : Nat) : Nat := (c.ownerOfUnit u).getD u

/-- Translate a partition-view offset to a physical one (01 R30). -/
def Part.phys (x : Part) (p off : Nat) : Option Nat :=
  if off < x.units * hbmUnit then some (off + p * hbmUnit)
  else if coreScratch ≤ off ∧ off < coreScratch + x.coreCount * 0x800000 then some (off + firstCore p * 0x800000)
  else if clusterScratch ≤ off ∧ off < clusterScratch + x.clusterCount * 0x4000000 then
    some (off + firstCluster p * 0x4000000)
  else none

/-- A view range wholly in one region, translated: HBM, core scratch or cluster scratch (regions 2, 0, 1). -/
def Part.range (x : Part) (p off n : Nat) : Option (Nat × Nat) :=
  let go (region lo size : Nat) : Option (Nat × Nat) :=
    if lo ≤ off ∧ off + n ≤ lo + size then (x.phys p off).map (fun a => (a, region)) else none
  match go 2 0 (x.units * hbmUnit) with
  | some r => some r
  | none =>
    match go 0 coreScratch (x.coreCount * 0x800000) with
    | some r => some r
    | none => go 1 clusterScratch (x.clusterCount * 0x4000000)

/-! The host side -/

def Chip.func (c : Chip) (fn : Nat) : Func := Tbl.get {} fn c.funcs
def Chip.setFunc (c : Chip) (fn : Nat) (x : Func) : Chip := { c with funcs := Tbl.set fn x c.funcs }
def Chip.updFunc (c : Chip) (fn : Nat) (f : Func → Func) : Chip := c.setFunc fn (f (c.func fn))

/-- The first error among the 4 KiB host pages of a range (13 R459). -/
def HostMem.errorIn (h : HostMem) (a n : Nat) : Option HostErr :=
  (List.range ((a + max n 1 - 1) / 4096 - a / 4096 + 1)).findSome? (fun i => Tbl.find? (a / 4096 + i) h.errors)

/-- Read host memory for a function (13 R458, R459). -/
def Chip.hostRead (c : Chip) (a n : Nat) : Except HostErr (List Byte) :=
  match c.host.errorIn a n with
  | some e => .error e
  | none => .ok (c.host.mem.read a n)

/-- The device may access the host for a function: it exists, its Bus Master Enable is 1 and the link is up (13 R458, R460, 17 R584). -/
def Chip.busMaster (c : Chip) (fn : Nat) : Bool := c.hasFunc fn && (c.func fn).bme && c.hostUp

/-- Write host memory for a function; while the device may not access the host the write waits (13 R458, R484). -/
def Chip.hostWrite (c : Chip) (fn a : Nat) (bs : List Byte) : Chip :=
  if c.busMaster fn then { c with host := { c.host with mem := c.host.mem.write a bs } }
  else c.setFunc fn { c.func fn with writes := (c.func fn).writes ++ [(a, bs)] }

/-- A command reads host memory when it starts (09 R321, R328, R335, 10 R354, 06 R230). -/
def Cmd.readsHost (k : Cmd) : Bool :=
  k.opcode == 0x20 || k.opcode == 0x21 || k.opcode == 0x22 || k.opcode == 0x27 || (k.opcode == 0x11 && bytesLe k.record 4 1 == 0)

/-- The status of a command or step whose host read failed (13 R459). -/
def hostErrStatus : HostErr → Status
  | .unsupported => .denied
  | .abort => .denied
  | .poisoned => .integrityFail
  | .timeout => .timeout

/-- The code of a status (13 R473). -/
def Status.code : Status → Nat
  | .ok => 0 | .corrected => 1 | .degraded => 2 | .pending => 3 | .state => 4 | .malformed => 5 | .denied => 6
  | .noResource => 7 | .cancelled => 8 | .superseded => 9 | .integrityFail => 10 | .scoreboardTimeout => 11
  | .linkLost => 12 | .timeout => 13 | .internal => 14 | .preempted => 15

/-- A completion that would carry OK carries DEGRADED while the function's partition is DEGRADED (05 R178). -/
def Chip.statusFor (c : Chip) (fn : Nat) (st : Status) : Status :=
  if st = .ok ∧ ((c.partOf fn).bind c.part).any (fun x => x.degraded) then .degraded else st

/-- Generate a completion (13 R467, R472); a command accepted before its function was reset writes none (13 R461). -/
def Chip.complete (c : Chip) (t : Ticket) (st : Status) (result : Nat := 0) (more : Bool := false)
    (opIndex : Option Nat := none) (tag : Option Nat := none) : Chip :=
  let k : Completion :=
    { cq := t.cq, tag := tag.getD t.tag, result := result, cmdId := t.cmdId, sqHead := c.field (rg .ringSqHead t.fn t.sq) 15 0,
      status := c.statusFor t.fn st, sq := t.sq, more := more, opIndex := opIndex, time := c.now, reserved := t.first }
  c.updFunc t.fn (fun f => if f.era = t.era then { f with waiting := f.waiting ++ [k] } else f)

/-- The bytes of a completion entry (13 R472). -/
def Completion.bytes (k : Completion) (phase : Nat) : List Byte :=
  leBytes 8 k.tag ++ leBytes 4 k.result ++ leBytes 2 k.cmdId ++ leBytes 2 k.sqHead ++ leBytes 1 k.status.code ++
  leBytes 1 (k.sq % 8 + (if k.more then 8 else 0) + (if k.opIndex.isSome then 16 else 0)) ++ leBytes 2 (k.opIndex.getD 0) ++
  leBytes 8 k.time ++ leBytes 3 0 ++ leBytes 1 phase

/-- The ticket of an accepted command. -/
def Cmd.ticket (k : Cmd) (fn era : Nat) : Ticket := { fn := fn, era := era, sq := k.sq, cq := k.cq, cmdId := k.cmdId, tag := k.tag }

/-- Take the oldest accepted command that a test picks. -/
def takeFirst {α : Type} (f : α → Bool) : List α → Option (α × List α)
  | [] => none
  | x :: xs => if f x then some (x, xs) else (takeFirst f xs).map (fun r => (r.1, x :: r.2))

/-- Start the oldest accepted command of a function with an opcode (and, for edits, a kind): it leaves the list and its
meaning runs on its ticket, its partition and the command. With none accepted nothing happens (log entry 9), and one that reads
host memory waits while Bus Master Enable is 0 (13 R458). A command whose partition is gone or whose record could not be read ends
here (13 R459). -/
def Chip.start (c : Chip) (fn opcode : Nat) (pick : Cmd → Bool)
    (f : Chip → Nat → Part → Ticket → Cmd → Chip) : Chip :=
  match takeFirst (fun k => decide (k.opcode = opcode) && pick k) (c.func fn).accepted with
  | none => c
  | some (k, rest) =>
    if k.readsHost && !c.busMaster fn then c else
    let c := c.updFunc fn (fun x => { x with accepted := rest })
    let t := k.ticket fn (c.func fn).era
    match (c.partOf fn).bind (fun p => (c.part p).map (fun x => (p, x))) with
    | none => c.complete t .denied
    | some (p, x) =>
      -- a serving command's record is not read where there is no serving record (09 R334)
      if k.opcode = 0x21 ∧ x.serving.isNone then c.complete t .denied
      else
        match k.recordErr with
        | some e => c.complete t (hostErrStatus e)
        | none => f c p x t k

/-- A status page write falls due for a function (13 R478). -/
def Chip.pageDue (c : Chip) (fn : Nat) : Chip := c.updFunc fn (fun f => { f with pageDue := true })

/-- A status page write falls due for every function with pages on. -/
def Chip.allPagesDue (c : Chip) : Chip := (List.range 17).foldl Chip.pageDue c

end Sys2Proof.Machine
end

