-- ==== Sys2Proof/Machine/Flags.lean ====
section
/-! DEFINITION. Status flags and the priority of statuses (08 R585), and the counters and flags of narrow conversions (03 R92). -/

namespace Sys2Proof.Machine

/-- The rank of a status among those of one op: MALFORMED, DENIED, PREEMPTED, NO_RESOURCE, then any other (08 R585). -/
def Status.rank : Status → Nat
  | .malformed => 0 | .denied => 1 | .preempted => 2 | .noResource => 3 | _ => 4

/-- The status an op carries when it breaks several rules (08 R585). -/
def worst : List Status → Option Status
  | [] => none
  | s :: rest =>
    match worst rest with
    | none => some s
    | some t => if t.rank < s.rank then some t else some s

/-- A rule: broken gives its status. -/
def rule (ok : Bool) (st : Status := .malformed) : List Status := if ok then [] else [st]

/-- Narrow conversions of non-finite values by a stream unit (03 R92, 06 R235, R236). -/
def Chip.attNarrow (c : Chip) (su n : Nat) : Chip :=
  if n = 0 then c else (c.setBits (rg .attStatus su) 1).count (rg .attEvtNarrow su) n

/-- Narrow conversions of non-finite values at an engine's close (03 R92, 04 R146). -/
def Chip.accNarrow (c : Chip) (core n : Nat) : Chip := if n = 0 then c else c.count (rg .accEvtNarrow core) n

end Sys2Proof.Machine
end

