-- ==== Sys2Proof/Machine/Kv.lean ====
section
/-! DEFINITION. The KV cache: configuration, metadata, pages, pins, the Almanac, edits (06 R194-R230, R238). -/

namespace Sys2Proof.Machine

def up4k (n : Nat) : Nat := (n + 4095) / 4096 * 4096

/-- The page geometry (06 R194): formats are 0 BF16, 1 FP8 E4M3, 2 INT4. -/
structure KvCfg where
  tokens : Nat
  kf : Nat
  vf : Nat
  dim : Nat
  headroom : Nat
  heads : Nat
  layers : Nat
  deriving DecidableEq, Repr

def kvBits (f : Nat) : Nat := if f = 0 then 16 else if f = 1 then 8 else 4

def kvCfgOf (w : Word) : KvCfg :=
  { tokens := 32 * 2 ^ w.field 1 0, kf := w.field 3 2, vf := w.field 5 4, dim := 64 * 2 ^ w.field 7 6,
    headroom := w.field 9 8, heads := w.field 15 10 + 1, layers := w.field 23 16 + 1 }

def KvCfg.headBytes (k : KvCfg) : Nat := k.tokens * k.dim * (kvBits k.kf + kvBits k.vf) / 8

def KvCfg.pageBytes (k : KvCfg) : Nat :=
  up4k (k.layers * k.heads * k.headBytes + (if k.kf ≠ 0 ∨ k.vf ≠ 0 then 4 * k.layers * k.heads else 0))

def Chip.kvCfg (c : Chip) (p : Nat) : KvCfg := kvCfgOf (c.reg (rg .kvCfg p))

/-- A view offset that a check has placed in the view, as a physical one. -/
def physOr (x : Part) (p off : Nat) : Nat := (x.phys p off).getD 0

def Chip.kvPool (c : Chip) (p : Nat) (x : Part) : Nat := physOr x p (c.pair (rg .kvPoolBaseLo p) (rg .kvPoolBaseHi p))
def Chip.kvMeta (c : Chip) (p : Nat) (x : Part) : Nat := physOr x p (c.pair (rg .kvMetaBaseLo p) (rg .kvMetaBaseHi p))
def Chip.kvPages (c : Chip) (p : Nat) : Nat := c.field (rg .kvPoolPages p) 23 0
def Chip.kvSeqs (c : Chip) (p : Nat) : Nat := c.field (rg .kvSeqCount p) 23 0
def Chip.kvSlots (c : Chip) (p : Nat) : Nat := c.field (rg .kvSwapSlots p) 23 0

/-- The metadata tables (06 R197). -/
def Chip.seqAt (c : Chip) (p : Nat) (x : Part) (seq : Nat) : Nat := c.kvMeta p x + 64 * seq
def Chip.pageStateAt (c : Chip) (p : Nat) (x : Part) (n : Nat) : Nat := c.kvMeta p x + up4k (64 * c.kvSeqs p) + 4 * n
def Chip.slotStateAt (c : Chip) (p : Nat) (x : Part) (n : Nat) : Nat :=
  c.kvMeta p x + up4k (64 * c.kvSeqs p) + up4k (4 * c.kvPages p) + 4 * n

/-- The page that a resident list entry names. One of POOL_PAGES or more, which only software can have written, reaches some page of the
pool, nothing says which (06 R198, R201; log entry 79). -/
def Chip.pageOf (c : Chip) (p n : Nat) : Nat := if n < c.kvPages p then n else Config.strayPage n % c.kvPages p

def Chip.pageAt (c : Chip) (p : Nat) (x : Part) (n : Nat) : Nat := c.kvPool p x + c.pageOf p n * (c.kvCfg p).pageBytes

/-- Write the state of a page, or of a slot, where there is such a page or slot (06 R200, R201). -/
def Chip.setPageState (c : Chip) (p : Nat) (x : Part) (n v : Nat) : Chip :=
  if n < c.kvPages p then c.write (c.pageStateAt p x n) (leBytes 4 v) else c
def Chip.setSlotState (c : Chip) (p : Nat) (x : Part) (n v : Nat) : Chip :=
  if n < c.kvSlots p then c.write (c.slotStateAt p x n) (leBytes 4 v) else c

def emptyEntry : Nat := 0xFFFFFFFF

/-- Sequence table fields (06 R199). -/
def Chip.seqList (c : Chip) (p : Nat) (x : Part) (q : Nat) : Nat := c.le (c.seqAt p x q) 8
def Chip.seqCap (c : Chip) (p : Nat) (x : Part) (q : Nat) : Nat := c.le (c.seqAt p x q + 8) 4
def Chip.seqLen (c : Chip) (p : Nat) (x : Part) (q : Nat) : Nat := c.le (c.seqAt p x q + 12) 4
def Chip.seqPin (c : Chip) (p : Nat) (x : Part) (q : Nat) : Nat := c.le (c.seqAt p x q + 16) 4
def Chip.seqFlags (c : Chip) (p : Nat) (x : Part) (q : Nat) : Nat := c.le (c.seqAt p x q + 20) 1
def Chip.seqHeldPages (c : Chip) (p : Nat) (x : Part) (q : Nat) : Nat := c.le (c.seqAt p x q + 24) 4
def Chip.seqHeldSlots (c : Chip) (p : Nat) (x : Part) (q : Nat) : Nat := c.le (c.seqAt p x q + 28) 4
/-- A sequence is VALID; none is before the initialisation that a configuration write marked (06 R238). -/
def Chip.seqValid (c : Chip) (p : Nat) (x : Part) (q : Nat) : Bool := !x.kvInit && (c.seqFlags p x q).testBit 0

def Chip.setSeq (c : Chip) (p : Nat) (x : Part) (q off n v : Nat) : Chip := c.write (c.seqAt p x q + off) (leBytes n v)

/-- Set or clear one flag of a sequence. -/
def Chip.seqFlag (c : Chip) (p : Nat) (x : Part) (q bit : Nat) (on : Bool) : Chip :=
  let f := c.seqFlags p x q
  let f' := if f.testBit bit = on then f else if on then f + 2 ^ bit else f - 2 ^ bit
  c.setSeq p x q 20 1 f'

/-- The physical address of a page-list entry (06 R198), none outside the partition's HBM view (06 R193, R201). -/
def Chip.entryAt (c : Chip) (p : Nat) (x : Part) (q i : Nat) : Option Nat :=
  match x.range p (c.seqList p x q + 4 * i) 4 with
  | some (a, 2) => some a
  | _ => none

/-- A page-list entry; what lies outside the view holds none. -/
def Chip.entry (c : Chip) (p : Nat) (x : Part) (q i : Nat) : Nat := ((c.entryAt p x q i).map (fun a => c.le a 4)).getD emptyEntry
def Chip.setEntry (c : Chip) (p : Nat) (x : Part) (q i v : Nat) : Chip :=
  (c.entryAt p x q i).elim c fun a => c.write a (leBytes 4 v)

/-- Initialise the metadata region if a configuration write marked it (06 R238). -/
def Chip.kvEnsure (c : Chip) (p : Nat) : Chip :=
  match c.part p with
  | none => c
  | some x =>
    if !x.kvInit then c else
    let c := c.zero (c.kvMeta p x) (64 * c.kvSeqs p)
    let c := c.write (c.pageStateAt p x 0) (List.replicate (4 * c.kvPages p) 0xFF)
    let c := c.write (c.slotStateAt p x 0) (List.replicate (4 * c.kvSlots p) 0xFF)
    c.setPart p { x with kvInit := false }

/-- The free entries of a state table, ascending. -/
def freeOf (c : Chip) (at_ : Nat → Nat) (n : Nat) : List Nat := (List.range n).filter (fun i => c.le (at_ i) 4 == emptyEntry)

/-- Free pages and slots; before the initialisation that a configuration write marked, all of them (06 R238, R243). -/
def Chip.kvFreePages (c : Chip) (p : Nat) (x : Part) : Nat :=
  if x.kvInit then c.kvPages p else (freeOf c (c.pageStateAt p x) (c.kvPages p)).length
def Chip.kvFreeSlots (c : Chip) (p : Nat) (x : Part) : Nat :=
  if x.kvInit then c.kvSlots p else (freeOf c (c.slotStateAt p x) (c.kvSlots p)).length

/-- KV.STATUS.LOW (06 R227). -/
def Chip.kvLow (c : Chip) (p : Nat) (x : Part) : Bool := decide (c.kvFreePages p x < c.field (rg .kvPoolCfg p) 23 0)

/-- Take the lowest free page for a sequence, TENTATIVE or not, its scales +0 (06 R196, R200). -/
def Chip.allocPage (c : Chip) (p : Nat) (x : Part) (q : Nat) (tentative : Bool) : Option (Nat × Chip) :=
  match (List.range (c.kvPages p)).find? (fun i => c.le (c.pageStateAt p x i) 4 == emptyEntry) with
  | none => none
  | some n =>
    let k := c.kvCfg p
    let c := c.setPageState p x n (q + (if tentative then 0x10000 else 0))
    let c := if k.kf ≠ 0 ∨ k.vf ≠ 0 then c.zero (c.pageAt p x n + k.layers * k.heads * k.headBytes) (4 * k.layers * k.heads) else c
    some (n, c.setSeq p x q 24 4 (c.seqHeldPages p x q + 1))

def Chip.freePage (c : Chip) (p : Nat) (x : Part) (q n : Nat) : Chip :=
  (c.setPageState p x n emptyEntry).setSeq p x q 24 4 (c.seqHeldPages p x q - 1)

def Chip.freeSlot (c : Chip) (p : Nat) (x : Part) (q n : Nat) : Chip :=
  (c.setSlotState p x n emptyEntry).setSeq p x q 28 4 (c.seqHeldSlots p x q - 1)

/-- Free what a list entry holds and set it empty (06 R223, R225). -/
def Chip.dropEntry (c : Chip) (p : Nat) (x : Part) (q i : Nat) : Chip :=
  let e := c.entry p x q i
  if e = emptyEntry then c
  else
    let c := if e < 2 ^ 31 then c.freePage p x q e else c.freeSlot p x q (e - 2 ^ 31)
    c.setEntry p x q i emptyEntry

/-- SWAPPED reads 1 while the sequence holds a slot (06 R229, R230). -/
def Chip.fixSwapped (c : Chip) (p : Nat) (x : Part) (q : Nat) : Chip := c.seqFlag p x q 2 (decide (0 < c.seqHeldSlots p x q))

/-- Free every entry from a list index on. -/
def Chip.dropFrom (c : Chip) (p : Nat) (x : Part) (q i0 : Nat) : Chip :=
  ((List.range (c.seqCap p x q)).filter (fun i => decide (i0 ≤ i))).foldl (fun c i => c.dropEntry p x q i) c

def ceilDiv (a b : Nat) : Nat := (a + b - 1) / b

/-! The Almanac (06 R202-R205) -/

structure AlmEntry where
  seq : Nat
  start : Nat
  len : Nat
  new : Nat
  list : Nat
  qoff : Nat
  deriving DecidableEq, Repr

def Chip.almEntry (c : Chip) (a i : Nat) : AlmEntry :=
  let e := a + 64 + 32 * i
  ⟨c.le e 4, c.le (e + 4) 4, c.le (e + 8) 4, c.le (e + 12) 2, c.le (e + 16) 8, c.le (e + 24) 4⟩

def Chip.almEntries (c : Chip) (a : Nat) : List AlmEntry := (List.range (min 4096 (c.le a 4))).map (c.almEntry a)

/-- The rules of R204 on an Almanac's header alone. -/
def Chip.almHeadOk (c : Chip) (p a : Nat) : Bool :=
  decide (1 ≤ c.le a 4 ∧ c.le a 4 ≤ 4096) && decide (32 * 2 ^ (c.le (a + 8) 1 - 5) = (c.kvCfg p).tokens) &&
  decide (5 ≤ c.le (a + 8) 1) && bytesZero (c.read a 64) 9 63 && decide (1 ≤ c.le (a + 4) 4 ∧ c.le (a + 4) 4 ≤ 65536)

/-- The rules of R204 on its entries, but for the swapped list entries. -/
def Chip.almEntriesOk (c : Chip) (p : Nat) (x : Part) (a : Nat) : Bool :=
  let es := c.almEntries a
  let k := c.kvCfg p
  decide (c.le (a + 4) 4 = (es.map AlmEntry.new).sum) && (es.map AlmEntry.seq).eraseDups.length == es.length &&
  es.zipIdx.all (fun y =>
    let e := y.1
    let r := c.read (a + 64 + 32 * y.2) 32
    decide (e.seq < c.kvSeqs p) && c.seqValid p x e.seq && decide (e.start = c.seqLen p x e.seq) &&
    decide (1 ≤ e.new ∧ e.new ≤ 9216) && decide (e.len = e.start + e.new) && decide (e.len ≤ 1048576) &&
    decide (ceilDiv e.len k.tokens ≤ c.seqCap p x e.seq) && decide (e.list = c.seqList p x e.seq) &&
    bytesZero r 14 15 && bytesZero r 28 31 && decide (e.qoff = ((es.take y.2).map AlmEntry.new).sum))

/-- The rules that an Almanac at an address breaks (06 R204, 07 R257, 01 R31): room is what its buffer leaves from that address, and
rules on entries beyond it are not evaluated (08 R585). -/
def Chip.almErrs (c : Chip) (p : Nat) (x : Part) (a room : Nat) : List Status :=
  rule (c.almHeadOk p a) ++
  (if 4096 < c.le a 4 then []
  else if room < 64 + 32 * c.le a 4 then [.denied]
  else rule (c.almEntriesOk p x a) ++ rule ((c.almEntries a).all (fun e => (x.phys p e.list).isSome)) .denied)

/-- The sequences of an Almanac that the table holds, with their entries: those whose page lists can be walked. -/
def Chip.almWalk (c : Chip) (p : Nat) (x : Part) (a room : Nat) : List AlmEntry :=
  if 4096 < c.le a 4 ∨ room < 64 + 32 * c.le a 4 then []
  else (c.almEntries a).filter (fun e => decide (e.seq < c.kvSeqs p) && c.seqValid p x e.seq)

/-- The length class: max 6 and the ceiling of log2 of the length (06 R205). -/
def lengthClass (len : Nat) : Nat := max 6 (if len ≤ 1 then 0 else (len - 1).log2 + 1)

/-- Record an accepted Almanac (06 R247, R249) or a refused one (06 R245). -/
def Chip.almAccepted (c : Chip) (p a : Nat) : Chip :=
  let es := c.almEntries a
  let c := c.setReg (rg .almLast p) (BitVec.ofNat 32 (c.le a 4 + 8192 * c.le (a + 4) 4))
  c.updPart p (fun x => { x with almClasses := es.foldl (fun t e => Tbl.upd 0 (lengthClass e.len) (· + 1) t) [] })

/-! Placement (06 R216, 09 R340) -/

/-- The sequence of an entry of a firmware step. -/
def FwEntry.seq (e : FwEntry) : Nat := 2 * e.req + (if e.draft then 1 else 0)

/-- The stream units that may take the work of a sequence: the first, and how many. In a firmware step that holds both kinds of entry,
prefill entries have the first of them and decode entries the rest (09 R340). -/
def Part.unitsFor (x : Part) (p seq : Nat) : Nat × Nat :=
  let u := x.clusterCount
  let all := (firstCluster p, u)
  match x.run, x.serving.bind (fun v => v.cur.map (fun s => (v, s))) with
  | some st, some (v, s) =>
    if st.serving && s.entries.any (fun e => e.prefill) && s.entries.any (fun e => !e.prefill) then
      let up := max 1 (min (u - 1) (v.blend * u / 16))
      if s.entries.any (fun e => e.seq == seq && e.prefill) then (firstCluster p, up) else (firstCluster p + up, u - up)
    else all
  | _, _ => all

/-! Pins (06 R220, R221) -/

def Chip.pin (c : Chip) (p : Nat) (x : Part) (q : Nat) : Chip := c.setSeq p x q 16 4 (c.seqPin p x q + 1)
def Chip.unpin (c : Chip) (p : Nat) (x : Part) (q : Nat) : Chip := c.setSeq p x q 16 4 (c.seqPin p x q - 1)

/-- An edit waits on a sequence, or is being applied to it (06 R221, R222). -/
def Chip.seqPending (c : Chip) (p : Nat) (x : Part) (q : Nat) : Bool := (c.seqFlags p x q).testBit 1
def Chip.seqApplying (c : Chip) (p : Nat) (x : Part) (q : Nat) : Bool := (c.seqFlags p x q).testBit 3

/-- No new pin is granted on the sequence (06 R221, R222). -/
def Chip.seqBlocked (c : Chip) (p : Nat) (x : Part) (q : Nat) : Bool := c.seqPending p x q || c.seqApplying p x q

/-! Edits (06 R219-R223, R229, R230). Kinds 0 to 3 are R223's; 4 is SWAP_OUT and 5 SWAP_IN. -/

/-- Swap area addresses (06 R228). -/
def Chip.swapBase (c : Chip) (p : Nat) : Nat := c.pair (rg .kvSwapBaseLo p) (rg .kvSwapBaseHi p)
def Chip.slotAt (c : Chip) (p n : Nat) : Nat := c.swapBase p + up4k (4 * c.kvSlots p) + n * (c.kvCfg p).pageBytes

/-- A list of a given capacity lies in the partition's HBM view (06 R198, R223). -/
def listInView (x : Part) (p ptr cap : Nat) : Bool :=
  match x.range p ptr (4 * cap) with
  | some (_, 2) => true
  | _ => false

/-- A swap is legal in the state of its request (09 R333). -/
def Part.swapLegal (x : Part) (e : KvEdit) : Bool :=
  match e.handle, x.serving with
  | some n, some v =>
    let s := (Tbl.get ({} : Request) n v.requests).state
    if e.kind = 4 then decide (s = .prefill ∨ s = .decode) else decide (s = .preempted)
  | _, _ => true

/-- The sequences an edit acts on: a swap moves both sequences of its request that are VALID (09 R330, R341). -/
def Chip.editSeqs (c : Chip) (p : Nat) (x : Part) (e : KvEdit) : List Nat :=
  if e.kind < 4 then [e.seq] else [e.seq, e.seq + 1].filter (fun q => decide (q < c.kvSeqs p) && c.seqValid p x q)

/-- The list indices of a sequence's resident pages, and of its slots. -/
def Chip.resident (c : Chip) (p : Nat) (x : Part) (q : Nat) : List Nat :=
  (List.range (c.seqCap p x q)).filter (fun i => decide (c.entry p x q i < 2 ^ 31))

/-- Copy the resident pages of a sequence to slots (06 R229). -/
def Chip.swapOutSeq (c : Chip) (p : Nat) (x : Part) (q : Nat) : Chip :=
  let idx := c.resident p x q
  let free := freeOf c (c.slotStateAt p x) (c.kvSlots p)
  let n := (c.kvCfg p).pageBytes
  let c := (idx.zip free).foldl (fun c e =>
    let pg := c.entry p x q e.1
    let bs := c.read (c.pageAt p x pg) n
    let c := c.hostWrite (p + 1) (c.slotAt p e.2) bs
    let c := c.hostWrite (p + 1) (c.swapBase p + 4 * e.2) (leBytes 4 (crc32c bs))
    let c := c.setSlotState p x e.2 q
    let c := c.setSeq p x q 28 4 (c.seqHeldSlots p x q + 1)
    let c := (c.freePage p x q pg).setEntry p x q e.1 (2 ^ 31 + e.2)
    c.count (rg .kvEvtSwapOut p)) c
  c.fixSwapped p x q

/-- Swap sequences out, if the free slots cover them. -/
def Chip.swapOut (c : Chip) (p : Nat) (x : Part) (qs : List Nat) : Chip × Status :=
  if c.kvFreeSlots p x < (qs.map (fun q => (c.resident p x q).length)).sum then (c, .noResource)
  else (qs.foldl (fun c q => c.swapOutSeq p x q) c, .ok)

/-- The list indices of a sequence's slots. -/
def Chip.slotted (c : Chip) (p : Nat) (x : Part) (q : Nat) : List Nat :=
  (List.range (c.seqCap p x q)).filter (fun i => decide (2 ^ 31 ≤ c.entry p x q i ∧ c.entry p x q i ≠ emptyEntry))

/-- The bytes of a swap slot, or what is wrong with them: a failed host read, or a CRC mismatch (06 R230). -/
def Chip.slotBytes (c : Chip) (p s : Nat) : Except (Status × Bool) (List Byte) :=
  match c.hostRead (c.slotAt p s) (c.kvCfg p).pageBytes, c.hostRead (c.swapBase p + 4 * s) 4 with
  | .ok bs, .ok k => if crc32c bs = leNat k then .ok bs else .error (.integrityFail, true)
  | .error e, _ => .error (hostErrStatus e, false)
  | _, .error e => .error (hostErrStatus e, false)

/-- A page that a swap-in has filled: its sequence, list index, slot and page. -/
structure Refill where
  seq : Nat
  idx : Nat
  slot : Nat
  page : Nat
  deriving DecidableEq, Repr

/-- Read the slots of a sequence in ascending list index into the lowest free pages, up to the first that is wrong (06 R230). -/
def Chip.fillSeq (c : Chip) (p : Nat) (x : Part) (q : Nat) (done : List Refill) : Chip × List Refill × Option (Status × Bool) :=
  (c.slotted p x q).foldl (fun r i =>
    if r.2.2.isSome then r
    else
      let s := r.1.entry p x q i - 2 ^ 31
      match r.1.slotBytes p s with
      | .error e => (r.1, r.2.1, some e)
      | .ok bs =>
        match r.1.allocPage p x q false with
        | none => r
        | some (pg, c) => (c.write (c.pageAt p x pg) bs, r.2.1 ++ [⟨q, i, s, pg⟩], none)) (c, done, none)

/-- Swap sequences in (06 R230): the pages must suffice; once every slot is in, the entries change and the slots are freed; a slot that
is wrong frees the pages filled so far. -/
def Chip.swapIn (c : Chip) (p : Nat) (x : Part) (qs : List Nat) : Chip × Status :=
  if c.kvFreePages p x < (qs.map (fun q => (c.slotted p x q).length)).sum then (c, .noResource)
  else
    let r := qs.foldl (fun r q => if r.2.2.isSome then r else r.1.fillSeq p x q r.2.1) (c, [], none)
    match r.2.2 with
    | some e =>
      let c := r.2.1.foldl (fun c f => c.freePage p x f.seq f.page) r.1
      (if e.2 then c.setBits (rg .kvStatus p) 8 else c, e.1)
    | none =>
      let c := r.2.1.foldl (fun c f =>
        ((c.freeSlot p x f.seq f.slot).setEntry p x f.seq f.idx f.page).count (rg .kvEvtSwapIn p)) r.1
      (qs.foldl (fun c q => c.fixSwapped p x q) c, .ok)

/-- The checks of an edit that are made on receipt, in the order of R223; swap commands carry no record (06 R223). -/
def Chip.editCheck (c : Chip) (p : Nat) (x : Part) (owned : Bool) (e : KvEdit) : Status :=
  let r := e.args
  let ptr := bytesLe r 8 8
  let cap := bytesLe r 16 4
  let lists := decide (e.kind = 0 ∨ e.kind = 1)
  if e.kind < 4 && !(bytesZero r 5 7 && bytesZero r 24 31) then .malformed
  else if !decide (e.kind < 6) || !decide (e.seq < c.kvSeqs p) then .malformed
  else if lists && (!decide (1 ≤ cap ∧ cap ≤ 32768) || ptr % 64 != 0) then .malformed
  else if lists && !listInView x p ptr cap then .denied
  else if owned then .denied
  else if (if e.kind = 0 then c.seqValid p x e.seq else !c.seqValid p x e.seq) then .state
  else if (c.editSeqs p x e).any (c.seqPending p x) then .noResource
  else .ok

/-- Apply an edit to its sequence (06 R222, R223, R229, R230). -/
def Chip.editApply (c : Chip) (p : Nat) (x : Part) (e : KvEdit) : Chip × Status :=
  let q := e.seq
  let k := c.kvCfg p
  let ptr := bytesLe e.args 8 8
  let cap := bytesLe e.args 16 4
  let arg := bytesLe e.args 20 4
  match e.kind with
  | 0 =>
    if c.seqValid p x q then (c, .state) else
    let c := c.zero (c.seqAt p x q) 64
    let c := ((c.setSeq p x q 0 8 ptr).setSeq p x q 8 4 cap).setSeq p x q 20 1 1
    (c.write (physOr x p ptr) (List.replicate (4 * cap) 0xFF), .ok)
  | 1 =>
    if !c.seqValid p x q then (c, .state)
    else if cap < ceilDiv (c.seqLen p x q) k.tokens then (c, .malformed)
    else
      let old := (List.range (c.seqCap p x q)).map (c.entry p x q)
      let new := (List.range cap).map (fun i => old.getD i emptyEntry)
      -- entries the new list has no place for hold nothing within LENGTH, and what they hold is freed (log entry 30)
      let c := c.dropFrom p x q cap
      let c := c.write (physOr x p ptr) (new.flatMap (leBytes 4))
      ((c.setSeq p x q 0 8 ptr).setSeq p x q 8 4 cap, .ok)
  | 2 =>
    if !c.seqValid p x q then (c, .state)
    else if c.seqLen p x q < arg then (c, .malformed)
    else ((c.dropFrom p x q (ceilDiv arg k.tokens)).setSeq p x q 12 4 arg |>.fixSwapped p x q, .ok)
  | 3 =>
    if !c.seqValid p x q then (c, .state)
    else ((c.dropFrom p x q 0).setSeq p x q 20 1 0, .ok)
  | 4 => if !c.seqValid p x q || !x.swapLegal e then (c, .state) else c.swapOut p x (c.editSeqs p x e)
  | _ => if !c.seqValid p x q || !x.swapLegal e then (c, .state) else c.swapIn p x (c.editSeqs p x e)

/-- Apply the pending edit of a sequence whose PIN is 0, and write its second completion (06 R221, R222). The change of the
request that a swap belongs to is f's (09 R333). -/
def Chip.applyPending (c : Chip) (p q : Nat) (f : Chip → KvEdit → Status → Chip) : Chip :=
  match c.part p with
  | none => c
  | some x =>
    match takeFirst (fun e => (c.editSeqs p x e).contains q) x.edits with
    | none => c
    | some (e, rest) =>
      if (c.editSeqs p x e).any (fun q => decide (c.seqPin p x q ≠ 0)) || (e.kind == 5 && !c.busMaster (p + 1)) then c
      else
        let c := (c.editSeqs p x e).foldl (fun c q => c.seqFlag p x q 1 false) c
        let c := c.setPart p { x with edits := rest }
        let r := c.editApply p x e
        let c := match e.ticket with
          | some t => r.1.complete { t with first := false } r.2
          | none => r.1
        f c e r.2

/-- An edit that passes its checks waits on its sequences (06 R221, R222). -/
def Chip.editWait (c : Chip) (p : Nat) (x : Part) (e : KvEdit) : Chip :=
  let c := (c.editSeqs p x e).foldl (fun c q => c.seqFlag p x q 1 true) c
  c.setPart p { x with edits := x.edits ++ [e] }

/-- Receive an edit (06 R221): refused, applied at once, or PENDING, which an edit received while another is being applied also is. -/
def Chip.editReceive (c : Chip) (p : Nat) (owned : Bool) (e : KvEdit) (t : Ticket) (f : Chip → KvEdit → Status → Chip) : Chip :=
  let c := c.kvEnsure p
  match c.part p with
  | none => c
  | some x =>
    match c.editCheck p x owned e with
    | .ok =>
      if (c.editSeqs p x e).all (fun q => decide (c.seqPin p x q = 0) && !c.seqApplying p x q) then
        let r := c.editApply p x e
        f (r.1.complete t r.2) e r.2
      else
        ((c.editWait p x { e with ticket := some { t with first := false } }).count (rg .kvEvtPending p)).complete t .pending 0 true
    | st => c.complete t st

/-! What a step leaves (06 R225, R226) -/

/-- A step that ends without commit: its pages are freed and its pins released (06 R226). -/
def Chip.kvUndo (c : Chip) (p : Nat) (x : Part) (uses : List SeqUse) : Chip :=
  uses.foldl (fun c u => (u.pages.foldl (fun c i => c.dropEntry p x u.seq i) c).unpin p x u.seq) c

/-- The cache actions of a commit but for the pending edits (06 R225 actions 1 to 4). -/
def Chip.kvCommit (c : Chip) (p : Nat) (x : Part) (uses : List SeqUse) : Chip :=
  let k := c.kvCfg p
  uses.foldl (fun c u =>
    let c := if u.appended = [] then c else
      let len := u.newLen.getD (u.start + u.new)
      let c := c.setSeq p x u.seq 12 4 len
      let c := u.pages.foldl (fun c i =>
        let n := c.entry p x u.seq i
        c.setPageState p x n (c.le (c.pageStateAt p x n) 4 % 0x10000)) c
      c.dropFrom p x u.seq (ceilDiv len k.tokens)
    c.unpin p x u.seq) c

end Sys2Proof.Machine
end

