-- ==== Sys2Proof/Machine/Operands.lean ====
section
/-! DEFINITION. Operands of ops: descriptors, references, layer entries, outlier lists and bindings, side records
(07 R256, R257, 08 R286-R288, 05 R150-R155, 03 R102, R103). -/

namespace Sys2Proof.Machine

/-- A field of a descriptor: n bytes from byte lo. -/
def Op.get (o : Op) (lo n : Nat) : Nat := bytesLe o.desc lo n
def Op.opcode (o : Op) : Nat := o.get 0 1
def Op.unit (o : Op) : Nat := o.get 2 2
def Op.layer (o : Op) : Nat := o.get 4 2 % 1024

/-- Bits hi to lo of a number. -/
def bitsOf (v hi lo : Nat) : Nat := (v >>> lo) % 2 ^ (hi + 1 - lo)

/-- The queue that a class and unit name (08 R283). -/
def Op.queue (o : Op) : Option Queue :=
  match o.opcode with
  | 0x01 => some (.core o.unit) | 0x02 => some (.core o.unit) | 0x03 => some (.core o.unit)
  | 0x10 => some .attention | 0x11 => some .attention | 0x12 => some .attention
  | 0x18 => some (.stream o.unit) | 0x19 => some (.stream o.unit) | 0x1A => some (.stream o.unit)
  | 0x1B => some (.stream o.unit) | 0x1C => some (.stream o.unit) | 0x1D => some (.stream o.unit)
  | 0x20 => some (.mover o.unit) | 0x21 => some (.mover o.unit) | 0x22 => some (.mover o.unit) | 0x28 => some (.mover o.unit)
  | 0x30 => some .control | 0x31 => some .control | 0x3F => some .control
  | _ => none

/-- UNIT names a queue of the op's class (08 R283). -/
def Op.unitOk (o : Op) (x : Part) : Bool :=
  match o.queue with
  | some (.core i) => decide (i < x.coreCount)
  | some (.stream j) => decide (j < x.clusterCount)
  | some (.mover m) => decide (m < x.units)
  | some _ => o.unit == 0xFFFF
  | none => false

/-- The bytes of each descriptor that carry an operand, with the bits of each that are defined (08 R288-R306). -/
def Op.defined (opcode : Nat) : List (Nat × Nat) :=
  let full (lo hi : Nat) : List (Nat × Nat) := (List.range (hi + 1 - lo)).map (fun i => (lo + i, 0xFF))
  match opcode with
  | 0x01 => [(8, 0xFF), (9, 0x0F), (10, 0x0F), (11, 0xFF)] ++ full 12 45
  | 0x02 => full 8 9
  | 0x03 => [(8, 0xFF), (9, 0x07), (10, 0x3F), (11, 0x07)] ++ full 12 37 ++ full 40 43
  | 0x10 => full 8 14 ++ [(15, 0x07)] ++ full 16 31
  | 0x11 => full 8 13 ++ [(14, 0x03)] ++ full 16 23
  | 0x12 => full 8 11 ++ full 16 19
  | 0x18 => full 8 36 ++ full 40 41 ++ full 44 47
  | 0x19 => full 8 27 ++ [(28, 0x07)]
  | 0x1A => full 8 24 ++ [(25, 0x03)] ++ full 26 26 ++ full 28 33 ++ full 36 39
  | 0x1B => full 8 25 ++ full 28 31
  | 0x1C => full 8 27 ++ [(28, 0x01)] ++ full 32 35
  | 0x1D => full 8 47
  | 0x20 => full 8 19 ++ [(20, 0x01)] ++ full 21 21 ++ full 24 33
  | 0x21 => full 8 31
  | 0x22 => full 8 31
  | 0x28 => full 8 27
  | 0x30 => full 8 9 ++ [(10, 0x01)] ++ full 12 19
  | 0x31 => [(8, 0x01)]
  | 0x3F => full 8 8 ++ full 16 63
  | _ => []

/-- Every reserved byte and bit is 0 (08 R284, R286, R288); LAYER must be 0 for ops other than PASS and ACC_CLOSE. -/
def Op.reservedOk (o : Op) : Bool :=
  let d := Op.defined o.opcode
  o.get 6 2 == 0 && decide (o.get 4 2 < 1024) && (o.opcode == 1 || o.opcode == 3 || o.get 4 2 == 0) &&
  -- FENCE's WAIT uses its low four bits
  (o.opcode != 0x30 || decide (o.get 8 1 < 16)) &&
  (o.desc.zipIdx.drop 8).all (fun e => (e.1.toNat &&& (0xFF - (Tbl.get 0 e.2 d))) == 0)

/-- The checks at dispatch (08 R284). -/
def Op.dispatchOk (o : Op) (x : Part) : Bool := o.queue.isSome && o.get 1 1 == 1 && o.unitOk x && o.reservedOk

/-! References -/

/-- What a translated reference gives: the rules it breaks, its physical address where it breaks none (08 R585), and the bytes left in
its buffer. -/
structure RefRes where
  errs : List Status
  addr : Option Nat
  room : Nat
  deriving DecidableEq, Repr

/-- Translate a reference of n bytes and check it (07 R257): place tells which region and base of a buffer suit the operand. -/
def refTo (hs : Tbl Nat Handle) (ref n align : Nat) (write : Bool) (place : Nat → Nat → Bool) : RefRes :=
  match Tbl.find? (ref / 2 ^ 24) hs with
  | none => ⟨[.malformed], none, 0⟩
  | some h =>
    let off := 8 * (ref % 2 ^ 24)
    let a := h.base + off
    let errs := rule (place h.region h.base) ++ rule (a % align == 0) ++ rule (decide (off + n ≤ h.bytes)) .denied ++
      rule (!write || h.writable) .denied
    ⟨errs, if errs.isEmpty then some a else none, h.bytes - off⟩

/-- The range of a reference, widened to 64-byte granules (07 R259). -/
def granules (a n : Nat) : Nat × Nat := (a / 64 * 64, (a + n + 63) / 64 * 64)

def RefRes.range (r : RefRes) (n : Nat) : List (Nat × Nat) :=
  match r.addr with
  | some a => if n = 0 then [] else [granules a n]
  | none => []

/-- The bytes of a reference itself, which its op consumes (12 R426). -/
def RefRes.bytes (r : RefRes) (n : Nat) : List (Nat × Nat) :=
  match r.addr with
  | some a => if n = 0 then [] else [(a, a + n)]
  | none => []

def RefRes.at (r : RefRes) : Nat := r.addr.getD 0

/-- The address of a reference that has passed its checks. -/
def refAt (hs : Tbl Nat Handle) (ref : Nat) : Nat := (refTo hs ref 0 1 false (fun _ _ => true)).at

/-- In core scratch of a core. -/
def inCore (k : Nat) (region a : Nat) : Bool := region == 0 && (a - coreScratch) / 0x800000 == k
/-- In cluster scratch of a cluster. -/
def inCluster (k : Nat) (region a : Nat) : Bool := region == 1 && (a - clusterScratch) / 0x4000000 == k
/-- In the scratch of a core or its cluster (07 R251). -/
def inCoreOrCluster (k : Nat) (region a : Nat) : Bool := inCore k region a || inCluster (k / 4) region a
/-- In a stream unit's own cluster scratch or HBM (07 R251). -/
def inStream (su : Nat) (region a : Nat) : Bool := region == 2 || inCluster su region a
/-- An attention operand: HBM or the scratch of any cluster of the partition (07 R251). -/
def inAttention (region _a : Nat) : Bool := region == 2 || region == 1
/-- Any region: movers. -/
def inAny (_region _a : Nat) : Bool := true

/-- The physical address of an offset in a core's scratch. -/
def coreAt (k off : Nat) : Nat := coreScratch + k * 0x800000 + off

/-! Layer entries (05 R151) -/

/-- The configuration fields of a layer entry are legal (05 R151): CMP_SLOTS is judged in compare mode only, where it is used. -/
def layerEntryOk (e : List Byte) : Bool :=
  let flags := bytesLe e 0 2
  let q (v lo hi : Nat) : Bool := v == 0 || (decide (lo ≤ v) && decide (v ≤ hi))
  decide (flags < 16) && decide (bitsOf flags 3 2 ≠ 3) && q (bytesLe e 4 1) 5 255 && q (bytesLe e 5 1) 5 255 &&
  q (bytesLe e 6 1) 1 10 && decide (bytesLe e 8 2 ≤ 1024) &&
  (bitsOf flags 3 2 != 2 || decide (1 ≤ bytesLe e 10 2 ∧ bytesLe e 10 2 ≤ 64)) && bytesLe e 12 4 % 4096 == 0 && bytesZero e 33 63

def layerMode (e : List Byte) : Nat := bitsOf (bytesLe e 0 2) 3 2
def layerNm (e : List Byte) : Bool := (bytesLe e 0 2).testBit 0
def layerFallbackOk (e : List Byte) : Bool := (bytesLe e 0 2).testBit 1

/-- The layer table's address on a core (05 R150). -/
def Chip.layerAt (c : Chip) (k layer : Nat) : Nat := coreAt k ((c.reg (rg .fixLayerBase k)).toNat + 64 * layer)

/-- The entry of a layer as read at the step's start; none at or beyond LAYERS (05 R150, R152). -/
def StepCtx.layerEntry (st : StepCtx) (k layer : Nat) : Option (List Byte) :=
  if layer < (Tbl.get 0 k st.tableCfg).field 10 0 then some (Tbl.get (List.replicate 64 0) (k, layer) st.config) else none

/-- The rules on a layer an op names: MALFORMED, with TABLE_FAULT where the entry itself is malformed (05 R150, R151). -/
def layerRules (st : StepCtx) (k layer : Nat) : List Status × Bool :=
  match st.layerEntry k layer with
  | none => ([.malformed], false)
  | some e => if layerEntryOk e then ([], false) else ([.malformed], true)

/-! Outlier lists and bindings (05 R153-R155) -/

/-- An outlier list at an address: its channels, or none where it breaks R153. -/
def Chip.outlierList (c : Chip) (a : Nat) : Option (List Nat) :=
  let e := c.read a 64
  let n := bytesLe e 0 1
  let ch := (List.range 16).map (fun i => bytesLe e (4 + 2 * i) 2)
  let used := ch.take n
  if n ≤ 16 ∧ bytesZero e 1 3 ∧ bytesZero e 36 63 ∧ (ch.drop n).all (· == 0) ∧ used.all (fun v => decide (v < 1024)) ∧
      (used.zip (used.drop 1)).all (fun v => decide (v.1 < v.2)) then some used else none

/-- The list of an index on a core. -/
def Chip.listOf (c : Chip) (st : StepCtx) (k idx : Nat) : Option (List Nat) :=
  if idx < (Tbl.get 0 k st.tableCfg).field 31 22 then c.outlierList (coreAt k ((c.reg (rg .fixOlistBase k)).toNat + 64 * idx))
  else none

/-- The outlier channels of one input slice: its channels, QBASE and GBASE as physical addresses, and whether its record names a list. -/
structure SliceOutliers where
  chans : List Nat := []
  q : Nat := 0
  g : Nat := 0
  listed : Bool := false
  deriving DecidableEq, Repr

/-- The blocks of a slice lie in a core's scratch, for C output columns (05 R155). -/
def SliceOutliers.fits (s : SliceOutliers) (k cols : Nat) : Bool :=
  s.chans.isEmpty || decide (s.q + s.chans.length * cols ≤ coreAt k 0x800000 ∧ s.g + 4 * s.chans.length ≤ coreAt k 0x800000)

/-- The outliers of each slice of a pass, or none where the binding or a list breaks R153 or R154. In a record whose LIST is 0xFFFF the
alignment of QBASE and GBASE is not judged (DESIGN CHOICE, log entry 73). -/
def Chip.binding (c : Chip) (st : StepCtx) (k idx slices : Nat) : Option (List SliceOutliers) :=
  if idx = 0xFFFF then some ((List.range slices).map (fun _ => {}))
  else if (Tbl.get 0 k st.tableCfg).field 21 11 ≤ idx then none
  else
    let e := c.read (coreAt k ((c.reg (rg .fixBindBase k)).toNat + 64 * idx)) 64
    if !bytesZero e 48 63 then none
    else
      (List.range slices).foldl (fun acc i =>
        match acc with
        | none => none
        | some l =>
          let li := bytesLe e (12 * i) 2
          let q := bytesLe e (12 * i + 4) 4
          let g := bytesLe e (12 * i + 8) 4
          if bytesLe e (12 * i + 2) 2 ≠ 0 then none
          else if li = 0xFFFF then some (l ++ [{}])
          else
            match c.listOf st k li with
            | none => none
            | some ch =>
              if q % 64 ≠ 0 ∨ g % 64 ≠ 0 then none
              else some (l ++ [{ chans := ch, q := coreAt k q, g := coreAt k g, listed := true }])) (some [])

/-! Side records (03 R102, R103) -/

/-- A side record is legal for a slice with the given number of outliers. -/
def sideOk (s : List Byte) (outliers : Nat) : Bool :=
  let ts := bytesLe s 0 2
  decide (ts < 0x7F80) && bytesLe s 2 1 == outliers && decide (bytesLe s 3 1 < 2) && bytesZero s 4 7 && bytesZero s 40 63

end Sys2Proof.Machine
end

