-- ==== Sys2Proof/Machine/Plans.lean ====
section
/-! DEFINITION. What each op reads and writes, and the rules it is checked against at issue (07 R257-R259, 08 R285, R289-R306). -/

namespace Sys2Proof.Machine

/-- The plan of an op. errs: rules on encoding and addresses. alm: an Almanac's address and room. ins: what it reads, and writes: its
write set. almLate: rules that the Almanac's contents decide, and rejected: whether R204 refuses it. late: rules on what the other operands
hold, judged once no conflict remains. consumes: what it reads where that is less than ins. flags: what broken rules set (08 R585);
lateFlags likewise for the rules on contents. -/
structure Plan where
  errs : List Status := []
  flags : List (Reg × Nat) := []
  alm : Option (Nat × Nat) := none
  ins : List (RefRes × Nat) := []
  writes : List (Nat × Nat) := []
  almLate : List Status := []
  rejected : Bool := false
  late : List Status := []
  consumes : Option (List (Nat × Nat)) := none
  lateFlags : List (Reg × Nat) := []
  deriving DecidableEq, Repr

/-- The read set of an op but for its Almanac (07 R259), and the bytes it consumes of it (12 R426). -/
def Plan.reads (pl : Plan) : List (Nat × Nat) := pl.ins.flatMap (fun r => r.1.range r.2)
def Plan.uses (pl : Plan) : List (Nat × Nat) := pl.consumes.getD (pl.ins.flatMap (fun r => r.1.bytes r.2))

/-! Matrix ops -/

/-- Slices an arrangement reads, arrays it drives and groups it uses (02 R63, 04 R114). -/
def arrSlices (arrange : Nat) : Nat := if arrange = 1 then 4 else if arrange = 2 then 2 else 1
def arrArrays (arrange array : Nat) : List Nat := if arrange = 0 then [array] else [0, 1, 2, 3]
def arrGroups (arrange : Nat) : Nat := if arrange = 2 then 2 else if arrange = 3 then 4 else 1
/-- The slice that array position p drives. -/
def arrSliceOf (arrange p : Nat) : Nat := if arrange = 1 then p else if arrange = 2 then p % 2 else 0
/-- The group offset that array position p feeds. -/
def arrGroupOf (arrange p : Nat) : Nat := if arrange = 2 then p / 2 else if arrange = 3 then p else 0
/-- Output columns of one group: 1,024, or 512 in the WIDE8 layout (02 R40). -/
def arrCols (wide : Bool) : Nat := if wide then 512 else 1024
/-- Rows per column (04 R114). -/
def arrRows (arrange : Nat) : Nat := 1024 * arrSlices arrange
/-- C of R155: output columns that a slice feeds. -/
def arrC (arrange : Nat) (wide : Bool) : Nat := arrGroups arrange * arrCols wide

/-- A decoded PASS (02 R62, 04 R122, 08 R289). -/
structure PassDesc where
  ctrl : Nat
  range : Nat
  optimistic : Bool
  quiet : Bool
  afmt : Nat
  arrange : Nat
  array : Nat
  wide : Bool
  group : Nat
  half : Bool
  engine : Nat
  bind : Nat
  deriving DecidableEq, Repr

def Op.pass (o : Op) : PassDesc :=
  let w := o.get 8 2
  let g := o.get 10 1
  { ctrl := w, range := bitsOf w 2 0, optimistic := w.testBit 3, quiet := w.testBit 4, afmt := bitsOf w 6 5,
    arrange := bitsOf w 8 7, array := bitsOf w 10 9, wide := w.testBit 11, group := bitsOf g 2 0, half := g.testBit 3,
    engine := o.get 11 1, bind := o.get 44 2 }

/-- The bank in force for an array under an epoch, and its tile; of two tiles of the epoch on one array, the one that holds
the named layer (02 R37, 08 R290; log entry 31). -/
def Part.tileFor (x : Part) (epoch array layer : Nat) : Option Tile :=
  match x.epochs.find? (fun e => e.num == epoch) with
  | none => none
  | some e =>
    let ts := e.tiles.filter (fun t => t.array == array)
    (ts.find? (fun t => t.layer == layer)).or ts.head?

/-- The banks a PASS drives, in ascending array position; none where an array has no bank in force. -/
def Part.passBanks (x : Part) (epoch engine layer : Nat) (d : PassDesc) : List (Option (Nat × Nat)) :=
  (arrArrays d.arrange d.array).map (fun pos =>
    (x.tileFor epoch (engine * 4 + pos) layer).map (fun t => (t.array, t.bank)))

/-- AFMT in force: act8 on a core whose entry for the layer is in fallback (05 R174). -/
def StepCtx.act8On (st : StepCtx) (k layer : Nat) : Bool := decide ((k, layer) ∈ st.act8)

def planPass (c : Chip) (p : Nat) (x : Part) (st : StepCtx) (o : Op) : Plan :=
  let k := firstCore p + o.unit
  let d := o.pass
  let layer := o.layer
  let n := arrSlices d.arrange
  let afmt := if st.act8On k layer && decide (d.afmt < 2) then 2 else d.afmt
  let bytes := if afmt = 2 then 1024 else 512
  let entry := st.layerEntry k layer
  let lr := layerRules st k layer
  let ins := (List.range n).map (fun i => refTo st.handles (o.get (12 + 4 * i) 4) bytes bytes false (inCore k))
  let sides := (List.range n).map (fun i => refTo st.handles (o.get (28 + 4 * i) 4) 64 64 false (inCore k))
  let engine := k * 64 + d.engine
  let has := decide (d.engine < 64)
  let banks := x.passBanks st.epoch engine layer d
  let bankOk (b : Option (Nat × Nat)) : Bool :=
    match b with
    | none => false
    | some (a, i) =>
      let bk := c.bank a i
      bk.layer == some layer && (d.wide == (bk.wfmt == 2))
  let groups := (List.range (arrGroups d.arrange)).map (d.group + ·)
  let groupErr := (d.arrange == 2 && d.group % 2 == 1) || (d.arrange == 3 && d.group != 0 && d.group != 4) ||
    (d.half && !d.wide) || (has && groups.any (fun g => decide ((c.group engine g).state ≠ .opened)))
  let modeOf (g : Nat) : Option Bool :=
    ((c.group engine g).mode).or
      ((st.passes.find? (fun r => r.engine == engine && r.phase != .promoted &&
        decide (r.group ≤ g ∧ g < r.group + arrGroups r.arrange))).map (fun r => r.optimistic))
  let mismatch := has && groups.any (fun g => (modeOf g).any (fun m => m != d.optimistic))
  let cols := arrC d.arrange d.wide
  let outs := c.binding st k d.bind n
  let colsErr := (outs.getD []).any (fun s => s.listed) &&
    banks.any (fun b => b.any (fun ab => let oc := (c.bank ab.1 ab.2).outCols; oc != 0 && oc != cols))
  let blocks : List (RefRes × Nat) := (outs.getD []).flatMap (fun s =>
    [(⟨[], some s.q, 0⟩, s.chans.length * cols), (⟨[], some s.g, 0⟩, 4 * s.chans.length)])
  let sideBad := sides.zipIdx.any (fun r => match r.1.addr with
    | none => false
    | some a => !sideOk (c.read a 64) (((outs.getD []).getD r.2 {}).chans.length))
  { errs := rule (decide (d.range ≤ 5)) ++ rule (d.afmt != 3) ++ rule (d.arrange == 0 || d.array == 0) ++
      rule has ++ lr.1 ++ (ins.flatMap RefRes.errs) ++ (sides.flatMap RefRes.errs) ++
      rule (banks.all bankOk) ++ rule (!groupErr) ++ rule (!mismatch) ++
      rule (entry.all (fun e => bytesLe e 2 2 == d.bind)) ++
      rule (!((has && (c.engine engine).outOfService) || (c.core k).outOfService)) .internal
    flags := (if lr.2 then [(rg .fixStatus k, 2)] else []) ++ (if groupErr then [(rg .accStatus k, 2)] else []) ++
      (if mismatch then [(rg .engStatus k, 4)] else [])
    ins := (ins.map (·, bytes)) ++ (sides.map (·, 64)) ++ blocks
    late := rule (outs.isSome && !colsErr) ++ rule ((outs.getD []).all (·.fits k cols)) ++ rule (outs.isNone || !sideBad)
    lateFlags := if outs.isNone then [(rg .fixStatus k, 2)] else [] }

def planAccOpen (c : Chip) (p : Nat) (o : Op) : Plan :=
  let k := firstCore p + o.unit
  let e := o.get 8 1
  let mask := o.get 9 1
  let has := decide (e < 64)
  let bad := has && (List.range 8).any (fun g => mask.testBit g && decide ((c.group (k * 64 + e) g).state ≠ .free))
  { errs := rule has ++ rule (!bad) ++ rule (!(has && (c.engine (k * 64 + e)).outOfService)) .internal
    flags := if bad then [(rg .accStatus k, 2)] else [] }

/-- The output format of a close, act8 where the consuming layer is in fallback (04 R127, 05 R174). -/
def closeFmt (st : StepCtx) (k : Nat) (o : Op) : Nat :=
  let f := bitsOf (o.get 11 1) 2 0
  if st.act8On k (o.get 12 2) && decide (f < 2) then 2 else f

/-- Bytes of 1,024 elements in an output format (04 R127): act4 INT4, act4 E2M1, act8, BF16, FP32. -/
def fmtBytes (f : Nat) : Nat := if f < 2 then 512 else if f = 2 then 1024 else if f = 3 then 2048 else 4096

/-- A close needs the core's Fixative: its norm stage, or the compare record (05 R148, R166). -/
def closeNeedsFix (st : StepCtx) (k layer : Nat) : Bool :=
  ((st.layerEntry k layer).map (fun e => layerNm e || layerMode e == 2)).getD false

def planClose (c : Chip) (p : Nat) (st : StepCtx) (o : Op) : Plan :=
  let k := firstCore p + o.unit
  let e := k * 64 + o.get 8 1
  let m := o.get 10 1
  let fused := bitsOf m 1 0
  let red := bitsOf m 5 4
  let f := closeFmt st k o
  let act := decide (f < 3)
  let lr := layerRules st k o.layer
  let cr := layerRules st k (o.get 12 2)
  let none_ : RefRes := ⟨[], none, 0⟩
  let fb := if m.testBit 2 then 2048 else 4096
  let fop := if fused = 1 ∨ fused = 2 then refTo st.handles (o.get 16 4) fb 64 false (inCore k) else none_
  let bias := if m.testBit 3 then refTo st.handles (o.get 20 4) 4096 64 false (inCore k) else none_
  let out := refTo st.handles (o.get 24 4) (fmtBytes f) (if act then fmtBytes f else 64) true (inCoreOrCluster k)
  let side := if act then refTo st.handles (o.get 28 4) 64 64 true (inCoreOrCluster k) else none_
  let redr := if red = 1 ∨ red = 2 then refTo st.handles (o.get 32 4) 8 8 true (inCoreOrCluster k) else none_
  let cnt := o.get 36 2
  let has := decide (o.get 8 1 < 64)
  let groupErr := has && decide ((c.group e (o.get 9 1 % 8)).state ≠ .opened)
  let ol := o.get 14 2
  let listBad := act && ol != 0xFFFF && (c.listOf st k ol).isNone
  { errs := rule has ++ lr.1 ++ cr.1 ++ rule (fused != 3) ++ rule (red != 3) ++ rule (decide (f < 5)) ++
      fop.errs ++ bias.errs ++ out.errs ++ side.errs ++ redr.errs ++ rule (!groupErr) ++
      rule (red == 0 || (decide (1 ≤ cnt ∧ cnt ≤ 1024) && decide (o.get 40 4 + cnt ≤ 0x100000000))) ++
      rule (!((has && (c.engine e).outOfService) || (closeNeedsFix st k o.layer && (c.core k).outOfService))) .internal
    flags := (if lr.2 || cr.2 then [(rg .fixStatus k, 2)] else []) ++ (if groupErr then [(rg .accStatus k, 2)] else [])
    ins := [(fop, fb), (bias, 4096)]
    writes := out.range (fmtBytes f) ++ side.range 64 ++ redr.range 8
    late := rule (!listBad)
    lateFlags := if listBad then [(rg .fixStatus k, 2)] else [] }

/-! Stream-unit ops -/

/-- The attention ops run on any stream units of the partition (06 R193, R216): they need one that is in service. -/
def attentionRule (c : Chip) (p : Nat) (x : Part) : List Status :=
  rule ((List.range x.clusterCount).any (fun i => !c.streamDown.contains (firstCluster p + i))) .internal

def elemBytes (bf : Bool) : Nat := if bf then 2 else 4

/-- Bytes of n elements in an output format. -/
def outBytes (f n : Nat) : Nat := if f < 2 then n / 2 else if f = 2 then n else if f = 3 then 2 * n else 4 * n

/-- The outlier list that a stream op's act output uses: the list table of the lowest core of its cluster (08 R293). -/
def streamList (c : Chip) (st : StepCtx) (su idx : Nat) : Option (List Nat) :=
  if idx = 0xFFFF then some [] else c.listOf st (4 * su) idx

/-- The rule on the list of an act output, and the flag that a malformed one sets (05 R153, R184). -/
def listRule (c : Chip) (st : StepCtx) (su : Nat) (act : Bool) (idx : Nat) : List Status := rule (!act || (streamList c st su idx).isSome)
def listFlags (c : Chip) (st : StepCtx) (su : Nat) (act : Bool) (idx : Nat) : List (Reg × Nat) :=
  if act && (streamList c st su idx).isNone then [(rg .fixStatus (4 * su), 2)] else []

def suOf (p : Nat) (o : Op) : Nat := firstCluster p + o.unit

/-- A stream unit out of service (12 R444). -/
def streamRule (c : Chip) (su : Nat) : List Status := rule (!c.streamDown.contains su) .internal

/-- NORM (08 R293). EPS may be either zero (03 R86). An act output needs no alignment of DST (DESIGN CHOICE, log entry 74). -/
def planNorm (c : Chip) (p : Nat) (st : StepCtx) (o : Op) : Plan :=
  let su := suOf p o
  let rows := o.get 28 4
  let n := o.get 32 2
  let ifm := o.get 35 1
  let f := o.get 36 1
  let act := decide (f < 3)
  let h := st.handles
  let src := refTo h (o.get 8 4) (rows * n * elemBytes (ifm == 1)) 1 false (inStream su)
  let dst := refTo h (o.get 12 4) (outBytes f (rows * n)) 1 true (inStream su)
  let gam := refTo h (o.get 16 4) (4 * n) 1 false (inStream su)
  let bet := if o.get 34 1 = 1 then refTo h (o.get 20 4) (4 * n) 1 false (inStream su) else ⟨[], none, 0⟩
  let side := if act then refTo h (o.get 44 4) (64 * (rows * n / 1024)) 64 true (inStream su) else ⟨[], none, 0⟩
  let eps := o.get 24 4
  { errs := rule (decide (1 ≤ rows ∧ rows ≤ 65536)) ++ rule (decide (64 ≤ n ∧ n ≤ 16384) && n % (if act then 1024 else 64) == 0) ++
      rule (decide (o.get 34 1 < 2)) ++ rule (decide (ifm < 2)) ++ rule (decide (f < 5)) ++ rule (decide (eps < 0x7F800000 ∨ eps = 0x80000000)) ++
      src.errs ++ dst.errs ++ gam.errs ++ bet.errs ++ side.errs ++ streamRule c su
    ins := [(src, rows * n * elemBytes (ifm == 1)), (gam, 4 * n), (bet, 4 * n)]
    writes := dst.range (outBytes f (rows * n)) ++ side.range (64 * (rows * n / 1024))
    late := listRule c st su act (o.get 40 2)
    lateFlags := listFlags c st su act (o.get 40 2) }

/-- ELEM (08 R295). An act output needs no alignment of DST (DESIGN CHOICE, log entry 74). -/
def planElem (c : Chip) (p : Nat) (st : StepCtx) (o : Op) : Plan :=
  let su := suOf p o
  let n := o.get 20 4
  let fn := o.get 24 1
  let fm := o.get 25 1
  let f := o.get 26 1
  let act := decide (f < 3)
  let h := st.handles
  let two := fn = 0 ∨ fn = 1 ∨ fn = 4
  let a := refTo h (o.get 8 4) (n * elemBytes (fm.testBit 0)) 1 false (inStream su)
  let b := if two then refTo h (o.get 12 4) (n * elemBytes (fm.testBit 1)) 1 false (inStream su) else ⟨[], none, 0⟩
  let d := refTo h (o.get 16 4) (outBytes f n) 1 true (inStream su)
  let side := if act then refTo h (o.get 36 4) (64 * (n / 1024)) 64 true (inStream su) else ⟨[], none, 0⟩
  { errs := rule (decide (64 ≤ n ∧ n ≤ 2 ^ 24) && n % (if act then 1024 else 64) == 0) ++ rule (decide (fn < 6)) ++
      rule (decide (f < 5)) ++ a.errs ++ b.errs ++ d.errs ++ side.errs ++ streamRule c su
    ins := [(a, n * elemBytes (fm.testBit 0)), (b, n * elemBytes (fm.testBit 1))]
    writes := d.range (outBytes f n) ++ side.range (64 * (n / 1024))
    late := listRule c st su act (o.get 32 2)
    lateFlags := listFlags c st su act (o.get 32 2) }

/-- Bytes of one REDUCE element or record, and of one result (08 R296). -/
def reduceIn (o : Op) : Nat := if 3 ≤ o.get 24 1 then 8 else elemBytes (o.get 25 1 == 1)
def reduceOut (o : Op) : Nat := if o.get 24 1 = 0 then 4 else 8

def planReduce (c : Chip) (p : Nat) (st : StepCtx) (o : Op) : Plan :=
  let su := suOf p o
  let rows := o.get 16 4
  let n := o.get 20 4
  let src := refTo st.handles (o.get 8 4) (rows * n * reduceIn o) 1 false (inStream su)
  let dst := refTo st.handles (o.get 12 4) (rows * reduceOut o) 1 true (inStream su)
  { errs := rule (decide (1 ≤ rows ∧ rows ≤ 65536)) ++ rule (decide (1 ≤ n ∧ n ≤ 2 ^ 20)) ++ rule (decide (o.get 24 1 < 5)) ++
      rule (decide (o.get 25 1 < 2 ∨ 3 ≤ o.get 24 1)) ++ src.errs ++ dst.errs ++ streamRule c su
    ins := [(src, rows * n * reduceIn o)]
    writes := dst.range (rows * reduceOut o) }

def planRoute (c : Chip) (p : Nat) (st : StepCtx) (o : Op) : Plan :=
  let su := suOf p o
  let e := o.get 24 2
  let k := o.get 26 1
  let rows := o.get 32 4
  let h := st.handles
  let src := refTo h (o.get 8 4) (4 * rows * e) 1 false (inStream su)
  let dst := refTo h (o.get 12 4) (8 * rows * k) 1 true (inStream su)
  let slot := refTo h (o.get 16 4) (4 * rows * k) 1 true (inStream su)
  let hist := if (o.get 28 1).testBit 0 then refTo h (o.get 20 4) (4 * e) 1 true (inStream su) else ⟨[], none, 0⟩
  { errs := rule (decide (2 ≤ e ∧ e ≤ 1024)) ++ rule (decide (1 ≤ k ∧ k ≤ 16 ∧ k ≤ e)) ++ rule (decide (o.get 27 1 < 3)) ++
      rule (decide (1 ≤ rows ∧ rows ≤ 65536)) ++ src.errs ++ dst.errs ++ slot.errs ++ hist.errs ++ streamRule c su
    ins := [(src, 4 * rows * e)]
    writes := dst.range (8 * rows * k) ++ slot.range (4 * rows * k) ++ hist.range (4 * e) }

/-! Ops that name an Almanac: the ranges after the Almanac's own follow from its contents (07 R259) -/

/-- The Almanac operand, 64-byte aligned, in HBM or cluster scratch (06 R202). -/
def almRef (st : StepCtx) (o : Op) (place : Nat → Nat → Bool) : RefRes := refTo st.handles (o.get 8 4) 64 64 false place

/-- The Almanac's own range: 64 + 32 × 4,096 bytes or to its buffer's end (07 R259). -/
def almRange (r : RefRes) : List (Nat × Nat) :=
  match r.addr with
  | some a => [granules a (min (64 + 32 * 4096) r.room)]
  | none => []

/-- The rules that the Almanac breaks, once its reference has passed its own. -/
def almRules (c : Chip) (p : Nat) (x : Part) (r : RefRes) : List Status :=
  match r.addr with
  | some a => c.almErrs p x a r.room
  | none => []

/-- The entries of an Almanac that its buffer holds whole. -/
def almOf (c : Chip) (r : RefRes) : List AlmEntry :=
  match r.addr with
  | some a => if r.room < 64 + 32 * c.le a 4 then [] else c.almEntries a
  | none => []

def almTokens (c : Chip) (r : RefRes) : Nat := ((almOf c r).map AlmEntry.new).sum

/-- The entries of an Almanac whose page lists can be walked. -/
def almWalkOf (c : Chip) (p : Nat) (x : Part) (r : RefRes) : List AlmEntry :=
  match r.addr with
  | some a => c.almWalk p x a r.room
  | none => []

def planRotate (c : Chip) (p : Nat) (x : Part) (st : StepCtx) (o : Op) : Plan :=
  let su := suOf p o
  let al := almRef st o (inStream su)
  let heads := o.get 24 1
  let dim := 64 * 2 ^ (o.get 25 1)
  let rot := o.get 26 2
  let fl := o.get 28 1
  let h := st.handles
  let n := almTokens c al * heads * dim
  let src := refTo h (o.get 12 4) (n * elemBytes (fl.testBit 1)) 1 false (inStream su)
  let dst := refTo h (o.get 16 4) (n * elemBytes (fl.testBit 2)) 1 true (inStream su)
  let fr := refTo h (o.get 20 4) (4 * (rot / 2)) 1 false (inStream su)
  { errs := al.errs ++ rule (decide (1 ≤ heads ∧ heads ≤ 128)) ++ rule (decide (o.get 25 1 < 3)) ++
      rule (rot % 2 == 0 && decide (2 ≤ rot ∧ rot ≤ dim)) ++ fr.errs ++ streamRule c su
    alm := al.addr.map (fun a => (a, al.room))
    ins := [(src, n * elemBytes (fl.testBit 1)), (fr, 4 * (rot / 2))]
    writes := dst.range (n * elemBytes (fl.testBit 2))
    almLate := almRules c p x al ++ src.errs ++ dst.errs
    rejected := (almRules c p x al).contains .malformed }

def planSample (c : Chip) (p : Nat) (x : Part) (st : StepCtx) (o : Op) : Plan :=
  let su := suOf p o
  let al := almRef st o (inStream su)
  let v := o.get 16 4
  let mode := o.get 20 1
  let lf := o.get 21 1
  let k := o.get 22 2
  let h := st.handles
  let toks := almTokens c al
  let ents := (almOf c al).length
  let logits := refTo h (o.get 12 4) (toks * v * elemBytes (lf == 1)) 1 false (inStream su)
  let seed := if mode = 1 ∨ mode = 3 then refTo h (o.get 32 4) (8 * ents) 1 false (inStream su) else ⟨[], none, 0⟩
  let draft := if 2 ≤ mode then refTo h (o.get 36 4) (4 * toks) 1 false (inStream su) else ⟨[], none, 0⟩
  let tok := refTo h (o.get 40 4) (4 * toks) 1 true (inStream su)
  let cnt := refTo h (o.get 44 4) (2 * ents) 1 true (inStream su)
  let sampling := mode = 1 ∨ mode = 3
  let tempOk := decide (0 < o.get 24 4 ∧ o.get 24 4 < 0x7F800000)
  let topOk := decide (0 < o.get 28 4 ∧ o.get 28 4 ≤ 0x3F800000)
  { errs := al.errs ++ rule (decide (1 ≤ v ∧ v ≤ 262144)) ++ rule (decide (mode < 4)) ++ rule (decide (lf < 2)) ++
      rule (!decide sampling || (decide (1 ≤ k ∧ k ≤ 256 ∧ k ≤ v) && tempOk && topOk)) ++ streamRule c su
    alm := al.addr.map (fun a => (a, al.room))
    ins := [(logits, toks * v * elemBytes (lf == 1)), (seed, 8 * ents), (draft, 4 * toks)]
    writes := tok.range (4 * toks) ++ cnt.range (2 * ents)
    almLate := almRules c p x al ++ logits.errs ++ seed.errs ++ draft.errs ++ tok.errs ++ cnt.errs
    rejected := (almRules c p x al).contains .malformed }

/-- The list indices of the positions lo to hi - 1. -/
def pagesOf (tokens lo hi : Nat) : List Nat := if hi ≤ lo then [] else (List.range ((hi - 1) / tokens - lo / tokens + 1)).map (lo / tokens + ·)

/-- The first position that any query of an entry sees (06 R211). -/
def firstSeen (e : AlmEntry) (causal : Bool) (window : Nat) : Nat :=
  if window = 0 then 0 else (if causal then e.start + 1 - min (e.start + 1) window else e.start + 1 - min (e.start + 1) window)

def planAppend (c : Chip) (p : Nat) (x : Part) (st : StepCtx) (o : Op) : Plan :=
  let c := c.kvEnsure p
  let al := almRef st o inAttention
  let k := c.kvCfg p
  let fmt := bitsOf (o.get 14 1) 1 0
  let n := almTokens c al * k.heads * k.dim * elemBytes (fmt == 0)
  let ka := refTo st.handles (o.get 16 4) n 64 false inAttention
  let va := refTo st.handles (o.get 20 4) n 64 false inAttention
  let ar := almRules c p x al
  let swapped := (almWalkOf c p x al).any (fun e => (pagesOf k.tokens e.start e.len).any (fun i =>
    let v := c.entry p x e.seq i; decide (2 ^ 31 ≤ v ∧ v ≠ emptyEntry)))
  { errs := al.errs ++ rule (decide (o.get 12 2 < k.layers)) ++ rule (decide (fmt < 2)) ++ attentionRule c p x
    alm := al.addr.map (fun a => (a, al.room))
    ins := [(ka, n), (va, n)]
    almLate := ar ++ ka.errs ++ va.errs ++ rule (!swapped) .preempted
    rejected := ar.contains .malformed
    lateFlags := if swapped then [(rg .attStatus (firstCluster p), 2)] else [] }

def planAttend (c : Chip) (p : Nat) (x : Part) (st : StepCtx) (o : Op) : Plan :=
  let c := c.kvEnsure p
  let al := almRef st o inAttention
  let k := c.kvCfg p
  let g := o.get 14 1
  let fmt := bitsOf (o.get 15 1) 1 0
  let causal := (o.get 15 1).testBit 2
  let w := o.get 28 4
  let rows := almTokens c al * k.heads * g * k.dim
  let q := refTo st.handles (o.get 16 4) (2 * rows) 64 false inAttention
  let out := refTo st.handles (o.get 20 4) (rows * elemBytes (fmt == 0)) 64 true inAttention
  let ar := almRules c p x al
  let touched := (almWalkOf c p x al).flatMap (fun e => (pagesOf k.tokens (firstSeen e causal w) e.len).map (fun i => c.entry p x e.seq i))
  let swapped := touched.any (fun v => decide (2 ^ 31 ≤ v ∧ v ≠ emptyEntry))
  let hole := ar.isEmpty && touched.any (· == emptyEntry)
  { errs := al.errs ++ rule (decide (o.get 12 2 < k.layers)) ++ rule (decide (1 ≤ g ∧ g ≤ 16)) ++ rule (decide (fmt < 2)) ++
      rule (decide (bitsOf (o.get 24 4) 30 23 < 255)) ++ rule (decide (w ≤ 1048576)) ++ attentionRule c p x
    alm := al.addr.map (fun a => (a, al.room))
    ins := [(q, 2 * rows)]
    writes := out.range (rows * elemBytes (fmt == 0))
    almLate := ar ++ q.errs ++ out.errs ++ rule (!swapped) .preempted ++ rule (!hole)
    rejected := ar.contains .malformed
    lateFlags := if swapped then [(rg .attStatus (firstCluster p), 2)] else [] }

def planRollback (c : Chip) (p : Nat) (x : Part) (st : StepCtx) (o : Op) : Plan :=
  let c := c.kvEnsure p
  let al := almRef st o inAttention
  let es := almOf c al
  let acc := refTo st.handles (o.get 16 4) (2 * es.length) 64 false inAttention
  let ar := almRules c p x al
  let counts := acc.addr.all (fun a => es.zipIdx.all (fun e =>
    let n := c.le (a + 2 * e.2) 2
    decide (1 ≤ n ∧ n ≤ e.1.new)))
  let appended := es.all (fun e => st.uses.any (fun u => u.seq == e.seq && !u.appended.isEmpty && u.newLen.isNone))
  { errs := al.errs ++ attentionRule c p x
    alm := al.addr.map (fun a => (a, al.room))
    ins := [(acc, 2 * es.length)]
    almLate := ar ++ acc.errs ++ rule appended
    rejected := ar.contains .malformed
    late := rule counts }

/-! Movers -/

def planCopy (p : Nat) (st : StepCtx) (o : Op) : Plan :=
  let n := o.get 16 4
  let remote := (o.get 20 1).testBit 0
  let src := refTo st.handles (o.get 8 4) n 1 false inAny
  let dst := if remote then ⟨[], none, 0⟩ else refTo st.handles (o.get 12 4) n 1 true inAny
  let arr := o.get 21 1
  { errs := rule (n % 64 == 0 && decide (64 ≤ n ∧ n ≤ 2 ^ 31)) ++ src.errs ++ dst.errs ++
      rule (!remote || decide (arr < 16) || arr == 0xFF) ++ rule (decide (p < 16))
    ins := [(src, n)]
    writes := dst.range n }

def planGather (c : Chip) (st : StepCtx) (o : Op) : Plan :=
  let cnt := o.get 20 4
  let rb := o.get 24 4
  let tr := o.get 28 4
  let tab := refTo st.handles (o.get 8 4) (rb * tr) 1 false inAny
  let idx := refTo st.handles (o.get 12 4) (4 * cnt) 1 false inAny
  let dst := refTo st.handles (o.get 16 4) (rb * cnt) 1 true inAny
  { errs := rule (decide (1 ≤ cnt ∧ cnt ≤ 65536)) ++ rule (rb % 64 == 0 && decide (64 ≤ rb)) ++
      rule (decide (1 ≤ tr ∧ tr ≤ 0xFFFFFFFE)) ++ tab.errs ++ idx.errs ++ dst.errs
    ins := [(tab, rb * tr), (idx, 4 * cnt)]
    writes := dst.range (rb * cnt)
    late := match idx.addr with
      | some a => rule ((List.range cnt).all (fun i => decide (c.le (a + 4 * i) 4 < tr)))
      | none => []
    consumes := some (idx.bytes (4 * cnt) ++ (List.range cnt).map (fun i =>
      let lo := tab.at + rb * c.le (idx.at + 4 * i) 4; (lo, lo + rb))) }

def planScatter (c : Chip) (st : StepCtx) (o : Op) : Plan :=
  let cnt := o.get 20 4
  let rb := o.get 24 4
  let tr := o.get 28 4
  let src := refTo st.handles (o.get 8 4) (rb * cnt) 1 false inAny
  let idx := refTo st.handles (o.get 12 4) (4 * cnt) 1 false inAny
  let tab := refTo st.handles (o.get 16 4) (rb * tr) 1 true inAny
  { errs := rule (decide (1 ≤ cnt ∧ cnt ≤ 65536)) ++ rule (rb % 64 == 0 && decide (64 ≤ rb)) ++
      rule (decide (1 ≤ tr ∧ tr ≤ 0xFFFFFFFE)) ++ tab.errs ++ idx.errs ++ src.errs
    ins := [(src, rb * cnt), (idx, 4 * cnt)]
    writes := tab.range (rb * tr)
    late := match idx.addr with
      | some a => rule ((List.range cnt).all (fun i => let v := c.le (a + 4 * i) 4; decide (v < tr) || v == 0xFFFFFFFF))
      | none => []
    consumes := some (idx.bytes (4 * cnt) ++ ((List.range cnt).filter (fun i => c.le (idx.at + 4 * i) 4 != 0xFFFFFFFF)).map (fun i =>
      let lo := src.at + rb * i; (lo, lo + rb))) }

/-! Collectives (14 R509-R512) -/

/-- A group table entry. -/
structure CollGroup where
  id : Nat
  members : Nat
  stage : Nat
  stageBytes : Nat
  chips : List (Nat × Nat)
  clean : Bool
  deriving DecidableEq, Repr

/-- Where the entry of a group lies; none outside the view. -/
def Part.collEntry (x : Part) (p : Nat) (st : StepCtx) (g : Nat) : Option Nat :=
  match x.range p (st.collBase + 2048 * g) 2048 with
  | some (a, 2) => some a
  | _ => none

def Chip.collGroup (c : Chip) (p : Nat) (x : Part) (st : StepCtx) (g : Nat) : Option CollGroup :=
  if st.collCfg.field 7 0 ≤ g then none
  else
    match x.collEntry p st g with
    | none => none
    | some a =>
      let m := c.le (a + 4) 2
      some ⟨c.le a 4, m, c.le (a + 8) 8, c.le (a + 16) 8,
        (List.range (min m 256)).map (fun r => (c.le (a + 64 + 4 * r) 2, c.le (a + 66 + 4 * r) 2)),
        bytesZero (c.read a 64) 6 7 && bytesZero (c.read a 64) 24 63⟩

/-- The partition that a granted key names (14 R518). -/
def Chip.keyOwner (c : Chip) (key : Nat) : Option Nat :=
  let b := (c.reg (rg .iltKeys 0 (key / 4))).toNat >>> (8 * (key % 4))
  if b.testBit 7 then some (b % 16) else none

/-- The rank of this chip and partition in a group, where it appears exactly once. -/
def Chip.collRank (c : Chip) (p : Nat) (g : CollGroup) : Option Nat :=
  match g.chips.zipIdx.filter (fun m => m.1.1 == c.field (rg .iltChip) 15 0 && c.keyOwner m.1.2 == some p) with
  | [m] => some m.2
  | _ => none

/-- Bytes a COLLECTIVE reads from SRC and writes to DST (14 R512). -/
def collSrc (kind bytes : Nat) : Nat := if kind = 4 then 0 else bytes
def collDst (kind bytes m : Nat) : Nat :=
  if kind = 0 then bytes else if kind = 1 then m * bytes else if kind = 2 then bytes / max m 1 else if kind = 3 then bytes else 0

def planCollective (c : Chip) (p : Nat) (x : Part) (st : StepCtx) (o : Op) : Plan :=
  let n := o.get 16 4
  let kind := o.get 20 1
  let own := rule (n % 64 == 0) ++ rule (kind != 4 || n == 0) ++ rule (decide (kind < 5)) ++ rule (decide (o.get 21 1 < 2)) ++
    rule (o.get 24 4 == Tbl.get 0 (o.get 22 2) x.nextTags)
  match c.collGroup p x st (o.get 22 2) with
  | none => { errs := own ++ rule (decide (o.get 22 2 < st.collCfg.field 7 0)) ++ rule (x.collEntry p st (o.get 22 2)).isSome .denied }
  | some g =>
    let m := g.members
    let src := if kind = 4 then ⟨[], none, 0⟩ else refTo st.handles (o.get 8 4) (collSrc kind n) 1 false inAny
    let dst := if kind = 4 then ⟨[], none, 0⟩ else refTo st.handles (o.get 12 4) (collDst kind n m) 1 true inAny
    let stage := x.range p g.stage g.stageBytes
    { errs := own ++ rule (decide (2 ≤ m ∧ m ≤ 256)) ++ rule g.clean ++ rule (g.stage % 4096 == 0 && stage.all (fun r => r.2 == 2)) ++
        rule stage.isSome .denied ++ rule (c.collRank p g).isSome ++
        rule (!(kind == 2 || kind == 3) || n % (64 * max m 1) == 0) ++ rule (decide (2 * m * n ≤ g.stageBytes)) ++ src.errs ++ dst.errs
      ins := [(src, collSrc kind n)]
      writes := dst.range (collDst kind n m) }

/-! COMMIT (08 R306) -/

/-- A publish entry: its source, bytes and host address. -/
def pubEntry (st : StepCtx) (o : Op) (e : Nat) : RefRes × Nat × Nat :=
  let n := o.get (20 + 16 * e) 4
  (refTo st.handles (o.get (16 + 16 * e) 4) n 1 false inAny, n, o.get (24 + 16 * e) 8)

def pubEntries (st : StepCtx) (o : Op) : List (RefRes × Nat × Nat) := (List.range (min 3 (o.get 8 1))).map (pubEntry st o)

def planCommit (st : StepCtx) (o : Op) : Plan :=
  { errs := rule (decide (o.get 8 1 ≤ 3)) ++ (pubEntries st o).flatMap (fun e =>
      rule (e.2.1 % 4 == 0 && decide (4 ≤ e.2.1 ∧ e.2.1 ≤ 1048576)) ++ rule (e.2.2 % 4 == 0) ++ e.1.errs)
    ins := (pubEntries st o).map (fun e => (e.1, e.2.1))
    -- its sources are read, and checked, as it publishes
    consumes := some [] }

/-! All ops -/

/-- The plan of an op by its opcode. -/
def planOf (c : Chip) (p : Nat) (x : Part) (st : StepCtx) (o : Op) : Plan :=
  match o.opcode with
  | 0x01 => planPass c p x st o
  | 0x02 => planAccOpen c p o
  | 0x03 => planClose c p st o
  | 0x10 => planAttend c p x st o
  | 0x11 => planAppend c p x st o
  | 0x12 => planRollback c p x st o
  | 0x18 => planNorm c p st o
  | 0x19 => planRotate c p x st o
  | 0x1A => planElem c p st o
  | 0x1B => planReduce c p st o
  | 0x1C => planRoute c p st o
  | 0x1D => planSample c p x st o
  | 0x20 => planCopy p st o
  | 0x21 => planGather c st o
  | 0x22 => planScatter c st o
  | 0x28 => planCollective c p x st o
  | 0x3F => planCommit st o
  | _ => {}

/-- The operands of an Almanac op that the Almanac decides: their references, written or read, to their buffers' ends. Used
for an op that has not issued, whose ranges are not formed yet (07 R259; log entry 32). -/
def almOuter (st : StepCtx) (o : Op) : List (Nat × Nat) × List (Nat × Nat) :=
  let toEnd (lo : Nat) : List (Nat × Nat) :=
    let r := refTo st.handles (o.get lo 4) 0 1 false inAny
    r.range r.room
  match o.opcode with
  | 0x10 => (toEnd 8 ++ toEnd 16, toEnd 20)
  | 0x11 => (toEnd 8 ++ toEnd 16 ++ toEnd 20, [])
  | 0x12 => (toEnd 8 ++ toEnd 16, [])
  | 0x19 => (toEnd 8 ++ toEnd 12 ++ toEnd 20, toEnd 16)
  | 0x1D => (toEnd 8 ++ toEnd 12 ++ toEnd 32 ++ toEnd 36, toEnd 40 ++ toEnd 44)
  | _ => ([], [])

end Sys2Proof.Machine
end

