-- ==== Sys2Proof/Machine/Boundary.lean ====
section
/-! DEFINITION. The step boundary and the end of a step without commit (08 R307 action 7, R309, 10 R373, R375, 11 R391, R396). -/

namespace Sys2Proof.Machine

/-! Epochs -/

def Part.epochIn (x : Part) (st : EpochState) : Option Epoch := x.epochs.find? (fun e => decide (e.state = st))
def Part.epochNo (x : Part) (n : Nat) : Option Epoch := x.epochs.find? (fun e => e.num == n)
def Part.setEpoch (x : Part) (e : Epoch) : Part := { x with epochs := x.epochs.map (fun f => if f.num = e.num then e else f) }

/-- The engines that hold a bank of an epoch. -/
def Epoch.engines (e : Epoch) : List Nat := (e.tiles.map (fun t => t.array / 4)).eraseDups

/-- The engines that hold a bank in force (11 R396). -/
def Part.enginesInForce (x : Part) : List Nat := ((x.epochIn .inForce).map Epoch.engines).getD []

/-! Recovery (12 R446) -/

/-- The recovery period begins, or begins again. -/
def Chip.enterRecovery (c : Chip) (p : Nat) : Chip := c.updPart p (fun x => { x with recovery := true, clean := x.rounds })

/-- A refresh or remap of the partition's banks is outstanding. -/
def Chip.mending (c : Chip) (p : Nat) (x : Part) : Bool :=
  c.banks.any (fun e => decide (2048 * p ≤ e.1.1 ∧ e.1.1 < 2048 * (p + x.units)) &&
    (!e.2.refreshing.isEmpty || !e.2.remapPending.isEmpty || !e.2.remapWait.isEmpty || !e.2.zeroTrims.isEmpty))

/-- Mends of a recovery come into force: the round that ends it completes after them. -/
def Chip.noteMends (c : Chip) (p : Nat) : Chip :=
  match c.part p with
  | none => c
  | some x => if x.recovery && c.mending p x then c.setPart p { x with clean := x.rounds } else c

/-- Recovery ends once its refreshes and remaps are in force and a round has completed after them. -/
def Chip.endRecovery (c : Chip) (p : Nat) : Chip :=
  match c.part p with
  | none => c
  | some x => if x.recovery && !c.mending p x && decide (x.clean < x.rounds) then c.setPart p { x with recovery := false } else c

/-! Accords -/

/-- An engine's new Accord counts for its partition's open round; the last one completes it (11 R396). -/
def Chip.roundStep (c : Chip) (p e : Nat) : Chip :=
  c.updPart p (fun x =>
    if !x.roundOpen then x else
    let rest := x.round.filter (· != e)
    if rest.isEmpty then
      { x with roundOpen := false, round := [], roundLast := x.roundAt, rounds := x.rounds + 1 }
    else { x with round := rest })

/-- The banks of an engine that hold an epoch in one of some states. -/
def Chip.epochBanks (c : Chip) (e : Nat) (ok : EpochState → Bool) : List (Nat × Nat) :=
  (((c.ownerOfUnit (e / 512)).bind c.part).map (fun x =>
    ((x.epochs.filter (fun f => ok f.state)).flatMap (fun f =>
      (f.tiles.filter (fun t => t.array / 4 == e)).map (fun t => (t.array, t.bank)))).eraseDups)).getD []

/-- The banks of an engine that hold a live epoch (11 R389, R398). -/
def Chip.liveBanks (c : Chip) (e : Nat) : List (Nat × Nat) := c.epochBanks e (fun s => decide (s ≠ .retired))

/-- Those that steps may run on: a bank built for an epoch that is not yet in force keeps the trims of its programming (11 R398). -/
def Chip.forceBanks (c : Chip) (e : Nat) : List (Nat × Nat) := c.epochBanks e (fun s => decide (s = .inForce ∨ s = .retiring))

/-- A READY Accord of an engine comes into force (11 R391, R392): offsets, allowances and trims replace the previous ones. -/
def Chip.accordInForce (c : Chip) (e : Nat) : Chip :=
  let g := c.engine e
  match g.ready with
  | none => c
  | some a =>
    let c := c.setEngine e { g with
      zc := a.m.zc, art := a.m.art, allowance := a.m.allowance, inForce := some a, ready := none,
      count := (g.count + 1) % 2 ^ 32, accordAt := c.now, cfg := c.reg (rg .calCfg (e / 64)) }
    let c := (c.forceBanks e).foldl (fun c k =>
      let trims (l : List ((Nat × Nat × Nat) × Int)) : Tbl Nat Int :=
        (l.filter (fun t => t.1.1 == k.1 && t.1.2.1 == k.2 && t.2 != 0)).map (fun t => (t.1.2.2, t.2))
      c.setBank k.1 k.2 { c.bank k.1 k.2 with gt := trims a.m.gt, ot := trims a.m.ot, measured := true }) c
    match c.ownerOfUnit (e / 512) with
    | some p => (c.roundStep p e).endRecovery p
    | none => c

/-- The partition's engines that have a READY Accord. -/
def Chip.readyEngines (c : Chip) (p : Nat) (x : Part) : List Nat :=
  (c.engines.filter (fun e => e.2.ready.isSome && decide (firstEngine p ≤ e.1 ∧ e.1 < firstEngine p + 512 * x.units))).map Prod.fst

/-! Banks at a boundary -/

/-- The remaps of a bank, with those not yet in force. -/
def Bank.allRemaps (b : Bank) : Tbl Nat Nat := b.remapPending.foldl (fun m t => Tbl.set t.1 t.2 m) b.remap

/-- The trims of refreshed columns become 0 and pending remaps come into force (10 R366, R367). -/
def Bank.atBoundary (b : Bank) : Bank :=
  { b with
    gt := b.gt.filter (fun t => !b.zeroTrims.contains t.1)
    ot := b.ot.filter (fun t => !b.zeroTrims.contains t.1)
    zeroTrims := []
    remap := b.allRemaps
    remapPending := [] }

def Chip.banksAtBoundary (c : Chip) (p : Nat) (x : Part) : Chip :=
  { c with banks := c.banks.map (fun e =>
      if 2048 * p ≤ e.1.1 ∧ e.1.1 < 2048 * (p + x.units) then (e.1, e.2.atBoundary) else e) }

/-- A partition that runs no step stands at a boundary: what a boundary brings into force in its banks is in force at once. -/
def Chip.restBanks (c : Chip) (p : Nat) : Chip :=
  match c.part p with
  | none => c
  | some x => if x.run.isSome then c else ((c.noteMends p).banksAtBoundary p x).endRecovery p

/-! The epoch switch and retirement -/

/-- The norm monitor's MEAN and UPDATES become 0 in every layer entry of the partition (05 R173). -/
def Chip.resetMonitors (c : Chip) (p : Nat) (x : Part) : Chip :=
  foldN x.coreCount (fun c i =>
    let k := firstCore p + i
    foldN (c.field (rg .fixTableCfg k) 10 0) (fun c l => c.zero (c.layerAt k l + 16) 6) c) c

/-- The firmware step that is queued and has not begun is taken back, to be built anew. -/
def Part.unbuild (x : Part) : Part :=
  if x.queued.any (fun q => q.ticket.isNone) then
    { x with queued := x.queued.filter (fun q => q.ticket.isSome)
             serving := x.serving.map (fun v => { v with cur := none, steps := v.steps - 1 }) }
  else x

/-- The requested switch is made (10 R373). A firmware step that has not begun was built for the epoch that was in force, and its unpinned
entries run on the new one (10 R374): it is built anew. -/
def Chip.switchEpoch (c : Chip) (p : Nat) : Chip :=
  match c.part p with
  | none => c
  | some x =>
    match x.switch with
    | [] => c
    | (n, _) :: _ =>
      let ts := x.switch.map Prod.snd
      let x := { x.unbuild with
        switch := []
        epochs := x.epochs.map (fun e =>
          if e.num = n then { e with state := .inForce }
          else if e.state = .inForce then { e with state := .retiring } else e) }
      ts.foldl (fun c t => c.complete t .ok) ((c.setPart p x).resetMonitors p x)

/-- A request goes to DRAINING with a final status (09 R332, R347). -/
def Request.drain (r : Request) (st : Status) : Request :=
  if r.state = .closed ∨ r.state = .draining then r else { r with state := .draining, final := some st }

/-- Requests pinned to an epoch (10 R374). -/
def Part.pinnedTo (x : Part) (n : Nat) : Bool :=
  (x.serving.map (fun v => v.requests.any (fun r => decide (r.2.epoch = some n ∧ r.2.state ≠ .closed)))).getD false

/-- An accepted STEP_RUN selects the epoch: queued, or accepted and not started. -/
def Chip.selects (c : Chip) (p : Nat) (x : Part) (n : Nat) : Bool :=
  x.queued.any (fun q => q.selector == n) ||
  (c.func (p + 1)).accepted.any (fun k => k.opcode == 1 && bytesLe k.args 12 4 == n)

/-- The RETIRING epoch becomes RETIRED where a condition of R375 holds: its banks become FREE and its run is freed. -/
def Chip.retire (c : Chip) (p : Nat) : Chip :=
  match c.part p with
  | none => c
  | some x =>
    match x.epochIn .retiring with
    | none => c
    | some e =>
      let due := e.retireAsked && ((!x.pinnedTo e.num && !c.selects p x e.num) || e.retireAt.any (fun d => decide (d ≤ c.now)))
      if !due then c else
      let x := x.setEpoch { e with state := .retired, tiles := [], layers := [] }
      let x := { x with serving := x.serving.map (fun v =>
        { v with requests := v.requests.map (fun r => (r.1, if r.2.epoch = some e.num then r.2.drain .superseded else r.2)) }) }
      c.setPart p x

/-! The in-field test at a boundary (12 R443) -/

/-- The test is due. -/
def Part.iftDue (x : Part) : Bool := x.iftForced || decide (x.iftPeriod ≤ x.iftSince)

/-- A due test is deferred while a step waits to begin, until IFT_DEFER boundaries have passed. -/
def Part.iftWaits (x : Part) : Bool := !x.iftForced && !x.queued.isEmpty && decide (x.iftDeferred < x.iftDefer)

/-- A due test runs with no step waiting to begin, after a fault trip, or inserted; the next step waits for it. -/
def Chip.iftBoundary (c : Chip) (p : Nat) : Chip :=
  match c.part p with
  | none => c
  | some x =>
    if !x.iftDue || x.iftRun then c
    else if x.iftWaits then c.setPart p { x with iftDeferred := x.iftDeferred + 1 }
    else
      let c := c.setPart p { x with iftRun := true }
      if x.iftForced || x.queued.isEmpty then c else c.count (rg .safeEvtIftInsert p)

/-- SAFE.INT_CFG comes into force at a boundary (12 R427, R450). -/
def Chip.takeSafeCfg (c : Chip) (p : Nat) : Chip :=
  let w := c.reg (rg .safeIntCfg p)
  c.updPart p (fun x => { x with parityNow := w.bit 0, blockNow := w.bit 1, iftPeriod := w.field 31 16, iftDefer := w.field 15 8 })

/-- A partition that runs no step stands at a boundary: SAFE.INT_CFG is in force at once. -/
def Chip.safeCfgIdle (c : Chip) (p : Nat) : Chip := if (c.part p).any (fun x => x.run.isNone) then c.takeSafeCfg p else c

/-- The boundary closes: Accords, remaps, a requested switch, retirement, SAFE.INT_CFG and STRICT come into force, and a due in-field
test begins (08 R307 action 7, 10 R373, R375, 11 R391, 12 R427, R443, 15 R524). -/
def Chip.boundary (c : Chip) (p : Nat) : Chip :=
  match c.part p with
  | none => c
  | some x =>
    let c := (((c.readyEngines p x).foldl Chip.accordInForce c).noteMends p).banksAtBoundary p x
    let c := (c.switchEpoch p).retire p
    let c := ((c.endRecovery p).takeSafeCfg p).iftBoundary p
    c.updPart p (fun x => { x with
      nextTags := if x.resetTags then [] else x.nextTags, resetTags := false, strict := x.strictNext })

/-! The end of a step without commit -/

/-- Groups of a partition's cores become FREE (04 R120). -/
def Chip.freeGroups (c : Chip) (p : Nat) (x : Part) : Chip :=
  { c with groups := c.groups.filter (fun g => !decide (firstEngine p ≤ g.1.1 ∧ g.1.1 < firstEngine p + 512 * x.units)) }

/-- Fixative entries of a partition's passes leave their queues. -/
def Chip.dropFix (c : Chip) (p : Nat) : Chip :=
  { c with cores := c.cores.map (fun k => (k.1, { k.2 with fixq := k.2.fixq.filter (fun e => e.p != p) })) }

/-- A use of a flow belongs to a step of a partition. -/
def FlowUse.ofStep (p no : Nat) : FlowUse → Bool
  | .stepOp q n _ => q == p && n == no
  | .collective q n _ => q == p && n == no
  | _ => false

/-- What a step has not sent is not sent; what it has sent lands (14 R515). -/
def Chip.dropUnsent (c : Chip) (p no : Nat) : Chip :=
  { c with fab := { c.fab with flows := c.fab.flows.map (fun f => (f.1, { f.2 with
      waiting := f.2.waiting.filter (fun m => !m.use.ofStep p no),
      queued := f.2.queued.filter (fun q => !q.2.1.ofStep p no) })) } }

/-- What a step's end takes away, with or without commit: its groups and Fixative entries. -/
def Chip.clearStep (c : Chip) (p : Nat) (x : Part) : Chip := (c.freeGroups p x).dropFix p

/-- The registers of a failed step (08 R314, R315, R317). -/
def Chip.noteFail (c : Chip) (p : Nat) (st : Status) (idx : Nat) : Chip :=
  let c := (c.setBits (rg .seqStatus p) 2).count (rg .seqEvtAbort p)
  c.setReg (rg .seqLastFail p) (BitVec.ofNat 32 (st.code * 65536 + idx % 65536))

/-- Ranges in the write set of ops that did not complete hold undefined values (07 R263): free ones (log entry 78). -/
def Chip.spoil (c : Chip) (rs : List (Nat × Nat)) : Chip :=
  rs.foldl (fun c r =>
    ({ c with free := c.free + 1 } : Chip).write r.1 ((List.range (r.2 - r.1)).map (fun i => Config.staleByte c.free (r.1 + i)))) c

/-- A step ends without commit (08 R309, 06 R226): nothing is published, its completion carries the status and index. -/
def Chip.endStep (c : Chip) (p : Nat) (status : Status) (idx : Nat) : Chip :=
  match c.part p with
  | none => c
  | some x =>
    match x.run with
    | none => c
    | some st =>
      let c := (c.kvUndo p x st.uses).spoil (st.issued.flatMap Issued.writes)
      let c := (c.clearStep p x).dropUnsent p st.no
      let c := c.noteFail p status idx
      let c := c.setPart p { x with
        run := none, trippedLast := false,
        fwResult := if st.serving then some (status, c.now - st.began) else x.fwResult }
      let c := match st.req.ticket with
        | some t => c.complete t status 0 false (some idx) (some st.tag)
        | none => c
      c.boundary p

/-- A step that fails before any op is dispatched (08 R281, R309): index 0xFFFF. -/
def programLevel : Nat := 0xFFFF

/-- Set the flags that broken rules name. -/
def Chip.applyFlags (c : Chip) (fl : List (Reg × Nat)) : Chip := fl.foldl (fun c f => c.setBits f.1 f.2) c

/-- Replace a partition's running step. -/
def Chip.setStep (c : Chip) (p : Nat) (st : StepCtx) : Chip := c.updPart p (fun x => { x with run := some st })

/-- Apply a change to a partition's running step. -/
def Chip.updStep (c : Chip) (p : Nat) (f : StepCtx → StepCtx) : Chip :=
  c.updPart p (fun x => { x with run := x.run.map f })

/-- A running step of a partition, with the partition. -/
def Chip.running (c : Chip) (p : Nat) : Option (Part × StepCtx) :=
  match c.part p with
  | some x => x.run.map (fun st => (x, st))
  | none => none

end Sys2Proof.Machine
end

