-- ==== Sys2Proof/Machine/Issue.lean ====
section
/-! DEFINITION. The scoreboard and the issue of ops (07 R259-R262, 08 R285, R585, 12 R425, R426, R438). -/

namespace Sys2Proof.Machine

/-- Two lists of ranges meet. -/
def meets (a b : List (Nat × Nat)) : Bool := a.any (fun r => b.any (fun s => decide (r.1 < s.2 ∧ s.1 < r.2)))

/-- Read and write sets conflict with those of an earlier op (07 R260). -/
def conflict (reads writes r w : List (Nat × Nat)) : Bool := meets reads w || meets writes r || meets writes w

/-- The sets of an op that waits in a queue. -/
def queuedSets (c : Chip) (p : Nat) (x : Part) (st : StepCtx) (o : Op) : List (Nat × Nat) × List (Nat × Nat) :=
  let pl := planOf c p x st o
  if pl.alm.isSome then almOuter st o else (pl.reads, pl.writes)

/-- An op's sets conflict with an earlier op of the step, issued and not complete, held for the monitor, or queued (07 R260). -/
def blocked (c : Chip) (p : Nat) (x : Part) (st : StepCtx) (idx : Nat) (reads writes : List (Nat × Nat)) : Bool :=
  (st.issued ++ st.held).any (fun i => decide (i.idx < idx) && conflict reads writes i.reads i.writes) ||
  st.queues.any (fun q => q.2.any (fun o => decide (o.idx < idx) &&
    (let s := queuedSets c p x st o; conflict reads writes s.1 s.2)))

/-- The die that issues a queue's ops. -/
def queueDie (p : Nat) : Queue → Nat
  | .core i => (firstCore p + i) / 16
  | .stream j => (firstCluster p + j) / 4
  | .mover m => (p + m) / 2
  | .attention => p / 2
  | .control => p / 2

/-- A stall at issue begins, or goes on (07 R262). -/
def Chip.stall (c : Chip) (p : Nat) (st : StepCtx) (q : Queue) : Chip :=
  if (Tbl.find? q st.stalls).isSome then c
  else (c.count (rg .scrEvtStall p)).setStep p { st with stalls := Tbl.set q (c.timeOn (queueDie p q)) st.stalls }

/-- The 64-bit words of a list of addresses that meet ranges. -/
def wordsIn (ws : List Nat) (rs : List (Nat × Nat)) : List Nat := ws.filter (fun a => rs.any (fun r => decide (r.1 < a + 8 ∧ a < r.2)))

/-- Corrected errors in ranges that are read are counted and written back (12 R425). -/
def Chip.correct (c : Chip) (p : Nat) (rs : List (Nat × Nat)) : Chip :=
  let hit := wordsIn c.ce rs
  if hit.isEmpty then c
  else ({ c with ce := c.ce.filter (fun a => !hit.contains a) } : Chip).count (rg .safeEvtCe p) hit.length

/-- An uncorrectable error was consumed (12 R426). -/
def Chip.noteUe (c : Chip) (p n : Nat) : Chip :=
  ((c.setBits (rg .safeIntStatus p) 1).count (rg .safeEvtUe p) n).enterRecovery p

/-- A parity mismatch (12 R428). -/
def Chip.noteParity (c : Chip) (p : Nat) : Chip := (c.setBits (rg .safeIntStatus p) 2).count (rg .safeEvtParity p)

/-- The sequences that an op's Almanac names. -/
def almSeqs (c : Chip) (p : Nat) (x : Part) (al : Option (Nat × Nat)) : List Nat :=
  (al.map (fun a => (c.almWalk p x a.1 a.2).map AlmEntry.seq)).getD []

/-- The bytes of its Almanac that an op consumes: the header and the entries. -/
def almBytes (c : Chip) (al : Option (Nat × Nat)) : List (Nat × Nat) := (al.map (fun a => (a.1, a.1 + 64 + 32 * min 4096 (c.le a.1 4)))).toList

/-- An attention op pins its sequences, so it waits for a pending edit of one it does not hold (06 R220, R221). -/
def waitsEdit (c : Chip) (p : Nat) (x : Part) (st : StepCtx) (o : Op) (seqs : List Nat) : Bool :=
  o.queue == some .attention && seqs.any (fun q => c.seqBlocked p x q && !st.uses.any (fun u => u.seq == q))

/-- An ATTEND needs an earlier KV_APPEND of its layer on the same Almanac (06 R217). -/
def appendRule (st : StepCtx) (o : Op) (al : Option (Nat × Nat)) : List Status :=
  if o.opcode = 0x10 then rule ((al.map (fun a => decide ((o.get 12 2, a.1) ∈ st.appends))).getD true) else []

/-- An op completes with a failure status: flags and counters of its broken rules, those on contents where they could be judged, then the
step ends (08 R309, R585). -/
def Chip.failOp (c : Chip) (p : Nat) (o : Op) (pl : Plan) (st : Status) (judged : Bool) : Chip :=
  let c := c.applyFlags pl.flags
  let c := if judged then c.applyFlags pl.lateFlags else c
  let c := if judged && pl.rejected then c.count (rg .almEvtReject p) else c
  c.endStep p st o.idx

/-- What an op reads is checked: a poisoned word or a parity mismatch fails it, a corrected error is counted (12 R425, R426, R428). -/
def Chip.readCheck (c : Chip) (p : Nat) (parity : Bool) (rs : List (Nat × Nat)) : Chip × Bool :=
  let ue := (wordsIn c.ue rs).length
  if ue ≠ 0 then (c.noteUe p ue, false)
  else if parity && !(wordsIn c.damaged rs).isEmpty then (c.noteParity p, false)
  else (c.correct p rs, true)

/-- The image that an epoch's run holds is invalid (12 R426). -/
def Part.invalidate (x : Part) (run : Nat) : Part :=
  { x with epochs := x.epochs.map (fun e => if e.num = run then { e with invalid := true } else e) }

/-- What the device reads outside any op is checked: a corrected error and a parity mismatch are counted, a poisoned word spoils the
read (12 R425, R426, R428; log entry 84). -/
def Chip.deviceRead (c : Chip) (p : Nat) (rs : List (Nat × Nat)) : Chip × Bool :=
  let broken := ((c.part p).map (fun x => x.parityNow)).getD true && !(wordsIn c.damaged rs).isEmpty
  let c := (if broken then c.noteParity p else c).correct p rs
  let ue := (wordsIn c.ue rs).length
  if ue = 0 then (c, true) else (c.noteUe p ue, false)

/-- The same for a master image: a poisoned word in it marks it invalid. -/
def Chip.imageRead (c : Chip) (p run : Nat) (rs : List (Nat × Nat)) : Chip × Bool :=
  let r := c.deviceRead p rs
  if r.2 then r else (r.1.updPart p (fun x => x.invalidate run), false)

/-! Tensor blocks (12 R429) -/

/-- Under BLOCK, read n bytes at an address block by block: a block whose CRC fails once is read again, and one that fails twice ends
the transfer. The number is that of the bytes before such a block, n where there is none. -/
def Chip.blockRead (c : Chip) (p : Nat) (on : Bool) (a n : Nat) : Chip × Nat :=
  let hit := if on && n != 0 then (c.blockBad.filter (fun e => decide (a / 4096 ≤ e.1 ∧ e.1 ≤ (a + n - 1) / 4096 ∧ e.2 ≠ 0))) else []
  let bad := (hit.filter (fun e => decide (2 ≤ e.2))).map Prod.fst
  let stop := bad.foldl min ((a + n) / 4096 + 1)
  let used := hit.foldl (fun t e => if e.1 < stop then Tbl.set e.1 (e.2 - 1) t else if e.1 = stop then Tbl.set e.1 (e.2 - 2) t else t) c.blockBad
  let c := { c with blockBad := used }
  if bad.isEmpty then (c, n)
  else ((c.setBits (rg .safeIntStatus p) 4).count (rg .safeEvtBlock p), max a (4096 * stop) - a)

/-- A command moves bytes of memory, checked as they are read, block by block under BLOCK; false where a word or a block was bad
(12 R425, R426, R429). -/
def Chip.dataMove (c : Chip) (p a dst n : Nat) : Chip × Bool :=
  let r := c.deviceRead p [(a / 8 * 8, a + n)]
  if !r.2 then r
  else
    let b := r.1.blockRead p (((c.part p).map (fun x => x.blockNow)).getD false) a n
    (b.1.write dst (c.read a b.2), b.2 == n)

/-- An op that has begun to execute fails: what it was to write is undefined (07 R263). -/
def Chip.abandonOp (c : Chip) (p : Nat) (o : Op) (pl : Plan) (st : Status) : Chip := (c.spoil pl.writes).endStep p st o.idx

/-- The range of a plan's Almanac (07 R259). -/
def Plan.almReads (pl : Plan) : List (Nat × Nat) := almRange ⟨[], pl.alm.map Prod.fst, (pl.alm.map Prod.snd).getD 0⟩

/-- Issue the op at the head of a queue if its opcode is the one named (08 R285, 07 R261): it is refused, it stalls, or run
carries it out on the state in which it has left its queue. -/
def Chip.issue (c : Chip) (p : Nat) (q : Queue) (opcode : Nat) (run : Chip → Part → StepCtx → Op → Chip) : Chip :=
  match c.running p with
  | none => c
  | some (_, st) =>
    match Tbl.get [] q st.queues with
    | [] => c
    | o :: rest =>
      if o.opcode ≠ opcode then c
      else
        let c := if q = .attention then c.kvEnsure p else c
        match c.part p with
        | none => c
        | some x =>
          let pl := planOf c p x st o
          let almReads := pl.almReads
          let calm := !(pl.alm.isSome && blocked c p x st o.idx almReads [])
          let clear := calm && !blocked c p x st o.idx (almReads ++ pl.reads) pl.writes
          let onAlm := if calm then pl.almLate ++ appendRule st o pl.alm else []
          let late := onAlm ++ (if clear then pl.late else [])
          let judged := if pl.alm.isSome then calm else clear
          match worst pl.errs with
          | some _ => c.failOp p o pl ((worst (pl.errs ++ late)).getD .malformed) judged
          | none =>
            if !calm || waitsEdit c p x st o (almSeqs c p x pl.alm) then c.stall p st q
            else
              match worst onAlm with
              | some _ => c.failOp p o pl ((worst late).getD .malformed) true
              | none =>
                if !clear then c.stall p st q
                else
                match worst late with
                | some e => c.failOp p o pl e true
                | none =>
                  let r := c.readCheck p st.parity (almBytes c pl.alm ++ pl.uses)
                  if !r.2 then r.1.abandonOp p o pl .integrityFail
                  else
                    let st := { st with queues := Tbl.set q rest st.queues, stalls := Tbl.del q st.stalls }
                    let c := r.1.setStep p st
                    let c := match pl.alm with
                      | some a => c.almAccepted p a.1
                      | none => c
                    match c.running p with
                    | none => c
                    | some (x, st) => run c x st o

/-- An op is issued and not complete. -/
def StepCtx.issue (st : StepCtx) (o : Op) (q : Queue) (pl : Plan) : StepCtx :=
  { st with issued := st.issued ++ [⟨o.idx, q, pl.reads, pl.writes⟩] }

/-- An op is complete. -/
def StepCtx.finish (st : StepCtx) (idx : Nat) : StepCtx := { st with issued := st.issued.filter (fun i => i.idx != idx) }

/-- An operand of an op that has passed its checks. -/
def Op.at (o : Op) (st : StepCtx) (lo : Nat) : Nat := refAt st.handles (o.get lo 4)

/-- The core queue of a core of the partition. -/
def coreQueue (p core : Nat) : Queue := .core (core - firstCore p)
def streamQueue (p su : Nat) : Queue := .stream (su - firstCluster p)

/-- A core belongs to a partition. -/
def ownsCore (x : Part) (p core : Nat) : Bool := decide (firstCore p ≤ core ∧ core < firstCore p + x.coreCount)

end Sys2Proof.Machine
end

