-- ==== Sys2Proof/Machine/Banks.lean ====
section
/-! DEFINITION. Tile payloads, programming a bank, remaps and the wear of banks (02 R48, R58, R59, 03 R95-R97, 10 R351,
R361-R366). -/

namespace Sys2Proof.Machine

/-! Payloads (03 R88, R89, R95, 10 R351) -/

/-- Bytes of one image column, image columns, bytes of codes and of the whole payload; formats are 0 INT4, 1 S5, 2 INT8. -/
def wBytes (f : Nat) : Nat := if f = 0 then 512 else if f = 1 then 640 else 1024
def wCols (f : Nat) : Nat := if f = 2 then 512 else 1024
def codesBytes (f : Nat) : Nat := wBytes f * wCols f
def payloadBytes (f : Nat) : Nat := codesBytes f + 4096

/-- The address of the block scale of an image column and segment. -/
def scaleAt (payload f col seg : Nat) : Nat := payload + codesBytes f + 4 * col + seg

def int4Of (v : Nat) : Int := if v < 8 then v else (v : Int) - 16
def int8Of (v : Nat) : Int := if v < 128 then v else (v : Int) - 256
/-- S5: sign and magnitude (03 R89). -/
def s5Of (v : Nat) : Int := if v / 16 % 2 = 1 then -((v % 16 : Nat) : Int) else ((v % 16 : Nat) : Int)

/-- Codes come in groups of bytes: one byte of two INT4 codes, five of eight S5 codes, one of one INT8 code. -/
def groupLen (f : Nat) : Nat := if f = 1 then 5 else 1
def groupRows (f : Nat) : Nat := if f = 0 then 2 else if f = 1 then 8 else 1
def groupCodes (f v : Nat) : List Int :=
  if f = 0 then [int4Of (v % 16), int4Of (v / 16)]
  else if f = 1 then (List.range 8).map (fun i => s5Of (v / 2 ^ (5 * i) % 32))
  else [int8Of v]

/-- The image code of an image column and row: for INT8 the 8-bit value (03 R108). -/
def Chip.imageCode (c : Chip) (payload f col row : Nat) : Int :=
  let g := row / groupRows f
  (groupCodes f (c.le (payload + col * wBytes f + g * groupLen f) (groupLen f))).getD (row % groupRows f) 0

/-- Keep one of each run of equal neighbours. -/
def dedup : List Nat → List Nat
  | [] => []
  | x :: xs =>
    match dedup xs with
    | [] => [x]
    | y :: ys => if x = y then y :: ys else x :: y :: ys

/-- The groups of a payload that hold a non-zero byte. -/
def Chip.listedGroups (c : Chip) (payload f : Nat) : List Nat :=
  dedup ((c.mem.filter (fun e => decide (payload ≤ e.1 ∧ e.1 < payload + codesBytes f))).map (fun e =>
    (e.1 - payload) / groupLen f))

/-- The non-zero codes of a tile: image column, row and code. -/
def Chip.tileCodes (c : Chip) (payload f : Nat) : List (Nat × Nat × Int) :=
  let perCol := wBytes f / groupLen f
  (c.listedGroups payload f).flatMap (fun g =>
    (((groupCodes f (c.le (payload + g * groupLen f) (groupLen f))).zipIdx).filter (fun e => e.1 != 0)).map (fun e =>
      (g / perCol, g % perCol * groupRows f + e.2, e.1)))

/-- The codes of the logical columns: an INT8 code becomes its lo and hi slices (02 R40, 03 R96). -/
def sliceCodes (f : Nat) (cs : List (Nat × Nat × Int)) : List (Nat × Nat × Int) :=
  if f = 2 then
    (cs.flatMap (fun e => [(2 * e.1, e.2.1, e.2.2 % 16), (2 * e.1 + 1, e.2.1, e.2.2 / 16)])).filter (fun e => e.2.2 != 0)
  else cs

/-! Columns (02 R36, R58, R59) -/

/-- The physical column that stands for a logical column: the spare that replaced it last, or its own. Spares are taken in
ascending order (10 R366), so that is the highest. -/
def Bank.effective (b : Bank) (col : Nat) : Nat :=
  (b.remap.filter (fun e => e.2 == col)).foldl (fun m e => max m (1024 + e.1)) col

/-- A bank with its pending remaps in force. -/
def Bank.merged (b : Bank) : Bank := { b with remap := b.allRemaps, remapPending := [] }

/-- The logical column that a physical one stands for. -/
def Bank.logicalOf (b : Bank) (phys : Nat) : Option Nat :=
  if phys < 1024 then (if b.effective phys = phys then some phys else none)
  else (Tbl.find? (phys - 1024) b.remap).bind (fun l => if b.effective l = phys then some l else none)

/-- The code of a cell: the mid and full references hold fixed codes (02 R60). -/
def Bank.code (b : Bank) (phys row : Nat) : Int :=
  if phys = 1042 then 8 else if phys = 1043 then 15 else Tbl.get 0 (phys * 1024 + row) b.cells

/-- Every code of some logical columns is 0 in a segment (03 R99). -/
def Bank.blockZero (b : Bank) (cols : List Nat) (seg : Nat) : Bool :=
  !b.cells.any (fun e => e.2 != 0 && cols.any (fun n => e.1 / 256 == 4 * b.effective n + seg))

/-- num / den to the nearest integer, ties to even (03 R90). -/
def rheInt (num : Int) (den : Nat) : Int := if num < 0 then -(divEven num.natAbs den : Int) else (divEven num.natAbs den : Int)

/-- The checksum code of a row sum (02 R59). -/
def csCode (s : Int) : Int := max (-15) (min 15 (rheInt s 1024))

def insertDesc (v : Nat) : List Nat → List Nat
  | [] => [v]
  | w :: ws => if w ≤ v then v :: w :: ws else w :: insertDesc v ws

/-- L(r) (02 R50). -/
def rowLimit (r : Nat) : Nat := 34 * 2 ^ r

/-- The guarantee floor of programmed cells (02 R48): each list holds the magnitudes of one column-segment, largest first. -/
def floorOf (cells : Tbl Nat Int) : Nat :=
  let segs : Tbl Nat (List Nat) := cells.foldl (fun t e => Tbl.upd [] (e.1 / 256) (insertDesc e.2.natAbs) t) []
  ((List.range 5).find? (fun r => segs.all (fun e => decide ((e.2.take (rowLimit r)).sum ≤ 120 * 2 ^ r)))).getD 5

/-! Programming (10 R361-R363) -/

/-- Spare e of an array is withdrawn: its converter has failed (11 R395). -/
def Chip.withdrawn (c : Chip) (array e : Nat) : Bool := c.convFailed.contains (array, 512 + e / 2)

/-- The free spares of a bank, lowest first. -/
def Chip.freeSpares (c : Chip) (array : Nat) (b : Bank) : List Nat :=
  (List.range 16).filter (fun e => (Tbl.find? e b.remap).isNone && (Tbl.find? e b.remapPending).isNone && !c.withdrawn array e)

/-- Columns whose own converter or whose spare's converter has failed (11 R395). -/
def Chip.deadColumns (c : Chip) (array : Nat) (b : Bank) : List Nat :=
  (c.convFailed.filter (fun f => f.1 == array && decide (f.2 < 520))).flatMap (fun f =>
    [2 * f.2, 2 * f.2 + 1].filterMap b.logicalOf)

/-- The remaps of a bank that is being programmed: the bank, how many there were, and whether every column found a spare. -/
structure BuildRemap where
  bank : Bank
  count : Nat := 0
  ok : Bool := true
  deriving DecidableEq, Repr

/-- A logical column goes to the first of some free spares, and on from a spare whose own cells fail. -/
def BuildRemap.place (bad : List Nat) (col : Nat) : List Nat → BuildRemap → BuildRemap
  | [], r => { r with ok := false }
  | e :: es, r =>
    let r := { r with bank := { r.bank with remap := Tbl.set e col r.bank.remap }, count := r.count + 1 }
    if bad.contains (1024 + e) then r.place bad col es else r

/-- Remap the columns of a bank that is being programmed whose cells or converters fail; bad lists the physical columns whose cells did. -/
def Chip.buildRemap (c : Chip) (array : Nat) (b : Bank) (bad : List Nat) : BuildRemap :=
  (bad.filterMap b.logicalOf ++ c.deadColumns array b).eraseDups.foldl (fun r col => r.place bad col (c.freeSpares array r.bank)) { bank := b }

/-- The bank after programming a tile: its cells, checksum column and row errors, floor, zero trims, record and wear. -/
def Bank.programmed (b : Bank) (t : Tile) (codes : List (Nat × Nat × Int)) : Bank :=
  let sums : Tbl Nat Int := codes.foldl (fun s e => Tbl.upd 0 e.2.1 (· + e.2.2) s) []
  let cs := (sums.map (fun e => (1040 * 1024 + e.1, csCode e.2))).filter (fun e => e.2 != 0)
  let cells := codes.map (fun e => (b.effective e.1 * 1024 + e.2.1, e.2.2)) ++ cs
  { b with
    layer := some t.layer, wfmt := t.wfmt, outCols := t.outCols, scale := t.scale, payload := t.payload, run := t.run,
    cells := cells, floor := floorOf cells, gt := [], ot := [], refreshing := [], zeroTrims := [], noSpare := [], remapWait := [],
    foundWrong := [],
    csErr := (sums.map (fun e => (e.1, 1024 * csCode e.2 - e.2))).filter (fun e => e.2 != 0),
    csWrong := [], csSuspended := false, rewrites := b.rewrites + 1 }

/-- A bank passed its rating (10 R364). -/
def Chip.noteWear (c : Chip) (p : Nat) (b : Bank) : Chip := if 100000 < b.rewrites then c.setBits (rg .wgtStatus p) 4 else c

/-! Remaps of a bank in force (10 R366) -/

/-- The image that a bank's tile lies in cannot be read: invalid or not verified (10 R358, R359, 16 R555). -/
def Chip.imageInvalid (c : Chip) (array bank : Nat) : Bool :=
  match (c.ownerOfUnit (array / 2048)).bind c.part with
  | none => false
  | some x => x.epochs.any (fun e => e.num == (c.bank array bank).run && (e.invalid || !e.verified))

/-- The first refresh of a bank that can run: the oldest column, while the image can be read. -/
def Chip.headRefresh (c : Chip) (array bank : Nat) : Option (Nat × Nat) :=
  if c.imageInvalid array bank then none else (c.bank array bank).refreshing.head?.map (bank, ·)

/-- The refresh that runs on an array, as bank and column: one at a time, one bank's before the other's (10 R367). The order among those
that wait is the model's (DESIGN CHOICE, log entry 85). -/
def Chip.refreshRuns (c : Chip) (array : Nat) : Option (Nat × Nat) :=
  let turn := Tbl.get 0 array c.refreshTurn
  (c.headRefresh array turn).or (c.headRefresh array (1 - turn))

/-- The bank whose refresh runs keeps its turn. -/
def Chip.keepTurn (c : Chip) (array : Nat) : Chip :=
  match c.refreshRuns array with
  | none => c
  | some r => { c with refreshTurn := Tbl.set array r.1 c.refreshTurn }

/-- Columns of a bank join its refreshes (10 R367). -/
def Chip.refresh (c : Chip) (a b : Nat) (cols : List Nat) : Chip :=
  let k := c.bank a b
  (c.keepTurn a).setBank a b { k with refreshing := k.refreshing ++ (cols.eraseDups.filter (fun x => !k.refreshing.contains x)) }

/-- The image bytes of a logical column's codes; of the checksum column those of the whole tile. -/
def Bank.imageOf (b : Bank) (phys : Nat) : List (Nat × Nat) :=
  if phys = 1040 then [(b.payload, b.payload + codesBytes b.wfmt)]
  else
    match b.merged.logicalOf phys with
    | none => []
    | some col => let a := b.payload + (if b.wfmt = 2 then col / 2 else col) * wBytes b.wfmt; [(a, a + wBytes b.wfmt)]

/-- Remap a logical column to the lowest free spare: in force at the next boundary, put off while the image cannot be read, or left
without a spare. -/
def Chip.remapLogical (c : Chip) (p array bank col : Nat) : Chip :=
  let b := c.bank array bank
  let old := b.merged.effective col
  let wait (c : Chip) : Chip :=
    c.setBank array bank { b with remapWait := if b.remapWait.contains col then b.remapWait else b.remapWait ++ [col] }
  if b.noSpare.contains col then c
  else if c.imageInvalid array bank then wait c
  else
    match (c.freeSpares array b).head? with
    | none => ((c.setBank array bank { b with noSpare := b.noSpare ++ [col] }).setBits (rg .wgtStatus p) 8).count (rg .wgtEvtNospare p)
    | some e =>
      let r := c.imageRead p b.run (b.imageOf old)
      if !r.2 then wait r.1
      else
        let moved := b.cells.map (fun x => if x.1 / 1024 = old then ((1024 + e) * 1024 + x.1 % 1024, x.2) else x)
        (r.1.setBank array bank { b with
          cells := moved, remapPending := Tbl.set e col b.remapPending, refreshing := b.refreshing.filter (· != old) }).count (rg .wgtEvtRemap p)

/-- Remap the column that a physical column stands for, or will at the next boundary; a column that stands for none is left (02 R58,
10 R366). -/
def Chip.remapColumn (c : Chip) (p array bank phys : Nat) : Chip :=
  match (c.bank array bank).merged.logicalOf phys with
  | none => c
  | some col => c.remapLogical p array bank col

/-- A column found wrong is refreshed, or remapped where it is found wrong again within 10,000 committed steps of that refresh
(12 R435, R436). -/
def Chip.mendColumn (c : Chip) (p array bank phys : Nat) : Chip :=
  let b := c.bank array bank
  let now := ((c.part p).map Part.commits).getD 0
  match Tbl.find? phys b.foundWrong with
  | some (some t) =>
    if now ≤ t + 10000 then (c.setBank array bank { b with foundWrong := Tbl.del phys b.foundWrong }).remapColumn p array bank phys
    else (c.setBank array bank { b with foundWrong := Tbl.set phys none b.foundWrong }).refresh array bank [phys]
  | _ => (c.setBank array bank { b with foundWrong := Tbl.set phys none b.foundWrong }).refresh array bank [phys]

end Sys2Proof.Machine
end

