-- ==== Sys2Proof/Machine/Slices.lean ====
section
/-! DEFINITION. Writing FP32 values in an output format: act slices with side records, BF16, FP32 (03 R101, R102, R105,
04 R126, R127). -/

namespace Sys2Proof.Machine

/-- Nibbles in pairs, the lower first (03 R101). -/
def packNibbles : List Nat → List Byte
  | a :: b :: t => BitVec.ofNat 8 (a % 16 + 16 * (b % 16)) :: packNibbles t
  | [a] => [BitVec.ofNat 8 (a % 16)]
  | [] => []

/-- The codes of a slice as bytes. -/
def packCodes (f : ActFmt) (codes : List Nat) : List Byte :=
  match f with
  | .int8 => codes.map (BitVec.ofNat 8)
  | _ => packNibbles codes

/-- The side record of a slice (03 R102). -/
def sliceSide (s : Slice) : List Byte :=
  let outs := s.outVals.flatMap (leBytes 2)
  leBytes 2 s.scale ++ leBytes 1 s.outVals.length ++ leBytes 1 (if s.flag then 1 else 0) ++ leBytes 4 0 ++
  outs ++ List.replicate (32 - outs.length) 0 ++ List.replicate 24 0

/-- The act format of an output format code (04 R127). -/
def actOf (f : Nat) : ActFmt := if f = 0 then .int4 else if f = 1 then .e2m1 else .int8

/-- Runs of 1,024 values. -/
def runsOf : Nat → List Word → List (List Word)
  | 0, _ => []
  | n + 1, xs => xs.take 1024 :: runsOf n (xs.drop 1024)

/-- Write values in an output format at an address, act slices with their side records 64 bytes apart. The number is that of
narrow conversions of non-finite values (03 R92). -/
def Chip.writeOut (c : Chip) (f : Nat) (out : List Word) (dst side : Nat) (olist : List Nat) : Chip × Nat :=
  if f < 3 then
    let fmt := actOf f
    let step := if f = 2 then 1024 else 512
    (runsOf (out.length / 1024) out).zipIdx.foldl (fun r x =>
      let s := quantiseSlice x.1 fmt olist
      ((r.1.write (dst + step * x.2) (packCodes fmt s.codes)).write (side + 64 * x.2) (sliceSide s), r.2 + s.nonFinite)) (c, 0)
  else if f = 3 then (c.write dst (out.flatMap (fun w => leBytes 2 (f32ToBf w))), 0)
  else (c.write dst (out.flatMap (fun w => leBytes 4 w.toNat)), 0)

/-- n FP32 or BF16 values at an address, widened to FP32. -/
def Chip.readVals (c : Chip) (a n : Nat) (bf : Bool) : List Word :=
  if bf then (List.range n).map (fun i => bfToF32 (c.le (a + 2 * i) 2)) else (List.range n).map (fun i => c.word (a + 4 * i))

/-- The sum of FP32 values, in order, into +0.0 (03 R90). -/
def sumF (xs : List Word) : Word := xs.foldl fadd 0

/-- A reduction record of 8 bytes (04 R135): a NaN is written as the canonical NaN. -/
def redRecord (v : Word) (idx : Nat) : List Byte := leBytes 4 (if fIsNan v then 0x7FC00000 else v.toNat) ++ leBytes 4 idx

end Sys2Proof.Machine
end

