-- ==== Sys2Proof/Machine/Attention.lean ====
section
/-! DEFINITION. Attention ops: appending to the cache, attention and its fold, rollback (06 R205-R226). -/

namespace Sys2Proof.Machine

/-! Pages (06 R195, R196) -/

/-- The start of a region (0 keys, 1 values) of a layer and head in a page. -/
def Chip.kvRegionAt (c : Chip) (p : Nat) (x : Part) (page layer head region : Nat) : Nat :=
  let k := c.kvCfg p
  c.pageAt p x page + (layer * k.heads + head) * k.headBytes + region * (k.tokens * k.dim * kvBits k.kf / 8)

/-- The scale of a region. -/
def Chip.kvScaleAt (c : Chip) (p : Nat) (x : Part) (page layer head region : Nat) : Nat :=
  let k := c.kvCfg p
  c.pageAt p x page + k.layers * k.heads * k.headBytes + 4 * (layer * k.heads + head) + 2 * region

/-- The stored code of an element of a region at an address, in 16, 8 or 4 bits. -/
def Chip.kvCode (c : Chip) (a fmt dim slot d : Nat) : Nat :=
  if fmt = 0 then c.le (a + 2 * (slot * dim + d)) 2
  else if fmt = 1 then c.le (a + slot * dim + d) 1
  else c.le (a + slot * dim / 2 + d / 2) 1 / 16 ^ (d % 2) % 16

def Chip.setKvCode (c : Chip) (a fmt dim slot d v : Nat) : Chip :=
  if fmt = 0 then c.write (a + 2 * (slot * dim + d)) (leBytes 2 v)
  else if fmt = 1 then c.write (a + slot * dim + d) (leBytes 1 v)
  else
    let b := a + slot * dim / 2 + d / 2
    let old := c.le b 1
    c.write b (leBytes 1 (if d % 2 = 0 then old / 16 * 16 + v % 16 else old % 16 + 16 * (v % 16)))

/-- An element widened to BF16 and from there to FP32 (03 R94, 06 R196). -/
def widenKv (fmt code scale : Nat) : Word :=
  if fmt = 0 then bfToF32 code
  else
    let v := if fmt = 1 then e4m3.decode code else Val.ofInt (int4Of code) 0
    bfToF32 (bf16.wide (Val.mul v (bfv scale)))

/-- The key or value of a position of a sequence. -/
def Chip.kvElem (c : Chip) (p : Nat) (x : Part) (q layer head region pos d : Nat) : Word :=
  let k := c.kvCfg p
  let page := c.entry p x q (pos / k.tokens)
  let fmt := if region = 0 then k.kf else k.vf
  widenKv fmt (c.kvCode (c.kvRegionAt p x page layer head region) fmt k.dim (pos % k.tokens) d)
    (c.le (c.kvScaleAt p x page layer head region) 2)

/-! KV_APPEND (06 R207-R209) -/

/-- The scale that an unset region takes from the values written (06 R209): 0 stays unset. -/
def newScale (fmt headroom : Nat) (xs : List Word) : Nat :=
  match f32 (amaxOf xs []) with
  | .fin _ n d e =>
    if n ≠ 0 then min 0x7F7F (bf16.roundMag true n (d * (if fmt = 1 then 448 else 7)) (e + (headroom : Int)))
    else if xs.any (fun w => !fFinite w) then 0x3F80 else 0
  | _ => 0

/-- A code for a value, with whether it was non-finite and whether it saturated (03 R91). -/
def kvNarrow (fmt scale : Nat) (w : Word) : Nat × Bool × Bool :=
  let v := Val.div (f32 w) (bfv scale)
  if fmt = 1 then e4m3.narrow v
  else
    let r := narrowInt 8 v
    ((r.1 % 16).toNat, r.2)

/-- Write the values of one region of a page: slots with their rows of D values. The numbers are those of non-finite values and
of saturated ones. A pool of no pages takes nothing (06 R201). -/
def Chip.kvWriteRegion (c : Chip) (p : Nat) (x : Part) (page layer head region : Nat) (rows : List (Nat × List Word)) :
    Chip × Nat × Nat :=
  if c.kvPages p = 0 then (c, 0, 0) else
  let k := c.kvCfg p
  let fmt := if region = 0 then k.kf else k.vf
  let a := c.kvRegionAt p x page layer head region
  let sa := c.kvScaleAt p x page layer head region
  let old := c.le sa 2
  let scale := if fmt = 0 then 0 else if old = 0 then newScale fmt k.headroom (rows.flatMap Prod.snd) else old
  let c := if fmt ≠ 0 ∧ old = 0 then c.write sa (leBytes 2 scale) else c
  rows.foldl (fun r row =>
    row.2.zipIdx.foldl (fun r e =>
      if fmt = 0 then (r.1.setKvCode a fmt k.dim row.1 e.2 (f32ToBf e.1), r.2)
      else if scale = 0 then (r.1.setKvCode a fmt k.dim row.1 e.2 0, r.2)
      else
        let n := kvNarrow fmt scale e.1
        (r.1.setKvCode a fmt k.dim row.1 e.2 n.1, r.2.1 + (if n.2.1 then 1 else 0), r.2.2 + (if n.2.2 then 1 else 0))) r) (c, 0, 0)

/-- The stream unit that takes work item i, of a sequence: as commanded where it is in service and may, else the first of those, or of the
partition where none of those is in service. -/
def Chip.attUnit (c : Chip) (x : Part) (p : Nat) (units : List Nat) (seq i : Nat) : Nat :=
  let us := x.unitsFor p seq
  let up (l : List Nat) : List Nat := l.filter (fun u => !c.streamDown.contains u)
  let may := up ((List.range us.2).map (us.1 + ·))
  let u := units.getD i us.1
  if may.contains u then u else ((may ++ up ((List.range x.clusterCount).map (firstCluster p + ·))).head?).getD us.1

/-- Take the pin of an entry at the first op of the step that names its sequence (06 R220). -/
def Chip.usePin (c : Chip) (p : Nat) (x : Part) (e : AlmEntry) : Chip :=
  if (x.run.map (fun st => st.uses.any (fun u => u.seq == e.seq))).getD false then c
  else (c.pin p x e.seq).updStep p (fun st => { st with uses := st.uses ++ [{ seq := e.seq, start := e.start, new := e.new }] })

/-- Change what the step did to a sequence. -/
def StepCtx.updUse (st : StepCtx) (q : Nat) (f : SeqUse → SeqUse) : StepCtx :=
  { st with uses := st.uses.map (fun u => if u.seq = q then f u else u) }

/-- Allocate the pages that an entry's new positions need (06 R208); none where the pool is empty. -/
def Chip.appendPages (c : Chip) (p : Nat) (x : Part) (e : AlmEntry) : Chip × Bool :=
  (pagesOf (c.kvCfg p).tokens e.start e.len).foldl (fun r i =>
    if !r.2 || r.1.entry p x e.seq i != emptyEntry then r
    else
      match r.1.allocPage p x e.seq true with
      | none => (r.1, false)
      | some (n, c) =>
        ((c.setEntry p x e.seq i n).updStep p (·.updUse e.seq (fun u => { u with pages := u.pages ++ [i] })), true)) (c, true)

/-- Write an entry's keys and values of a layer, and count on the unit that does it. -/
def Chip.appendEntry (c : Chip) (p : Nat) (x : Part) (su layer kAt vAt : Nat) (bf : Bool) (e : AlmEntry) : Chip :=
  let k := c.kvCfg p
  let row (base h pos : Nat) : List Word :=
    c.readVals (base + ((e.qoff + (pos - e.start)) * k.heads + h) * k.dim * elemBytes bf) k.dim bf
  let r := (pagesOf k.tokens e.start e.len).foldl (fun r i =>
    let page := r.1.entry p x e.seq i
    let ps := (List.range k.tokens).map (i * k.tokens + ·) |>.filter (fun t => decide (e.start ≤ t ∧ t < e.len))
    (List.range k.heads).foldl (fun r h =>
      let w0 := r.1.kvWriteRegion p x page layer h 0 (ps.map (fun t => (t % k.tokens, row kAt h t)))
      let w1 := w0.1.kvWriteRegion p x page layer h 1 (ps.map (fun t => (t % k.tokens, row vAt h t)))
      (w1.1, r.2.1 + w0.2.1 + w1.2.1, r.2.2 + w0.2.2 + w1.2.2)) r) (c, 0, 0)
  ((r.1.attNarrow su r.2.1).count (rg .kvEvtKvsat p) r.2.2).updStep p (·.updUse e.seq (fun u =>
    { u with appended := if u.appended.contains layer then u.appended else u.appended ++ [layer] }))

def Chip.kvAppend (c : Chip) (p : Nat) (units : List Nat) : Chip :=
  c.issue p .attention 0x11 (fun c x st o =>
    let a := (almRef st o inAttention).at
    let es := c.almEntries a
    let c := es.foldl (fun c e => match c.part p with | some x => c.usePin p x e | none => c) c
    let r := es.foldl (fun r e => if r.2 then r.1.appendPages p x e else r) (c, true)
    if !r.2 then (r.1.setBits (rg .kvStatus p) 4).endStep p .noResource o.idx
    else
      let bf := bitsOf (o.get 14 1) 1 0 == 0
      let kAt := refAt st.handles (o.get 16 4)
      let vAt := refAt st.handles (o.get 20 4)
      let layer := o.get 12 2
      let c := es.zipIdx.foldl (fun c e => c.appendEntry p x (c.attUnit x p units e.1.seq e.2) layer kAt vAt bf e.1) r.1
      c.updStep p (fun st => { st with appends := st.appends ++ [(layer, a)] }))

def execKvAppend (p : Nat) (units : List Nat) (s : State) : Host.Outcome State Fault Refusal := s.onChip (·.kvAppend p units)

/-! ATTEND (06 R205, R210-R217) -/

/-- The span size and span count of an entry (06 R205). -/
def spanSize (tokens len : Nat) : Nat := max tokens (2 ^ (lengthClass len - 4))
def spanCount (tokens len : Nat) : Nat := ceilDiv len (spanSize tokens len)

/-- Place the spans of every entry: the units are listed entry by entry and span by span. -/
def Chip.attend (c : Chip) (p : Nat) (units : List Nat) : Chip :=
  c.issue p .attention 0x10 (fun c x st o =>
    let es := c.almEntries (almRef st o inAttention).at
    let c := es.foldl (fun c e => match c.part p with | some x => c.usePin p x e | none => c) c
    let items := es.flatMap (fun e => List.replicate (spanCount (c.kvCfg p).tokens e.len) e.seq)
    let pl := planOf c p x st o
    let reads := pl.almReads ++ pl.reads
    c.updStep p (fun st => { st with
      issued := st.issued ++ [⟨o.idx, .attention, reads, pl.writes⟩],
      attends := st.attends ++ [{ op := o.idx, desc := o.desc, entries := List.range es.length, units := items.zipIdx.map (fun e => c.attUnit x p units e.1 e.2) }] }))

def execAttend (p : Nat) (units : List Nat) (s : State) : Host.Outcome State Fault Refusal := s.onChip (·.attend p units)

/-- The masking and numbers of an ATTEND. -/
structure AttnArgs where
  layer : Nat
  g : Nat
  bf : Bool
  causal : Bool
  scale : Word
  window : Nat
  q : Nat
  out : Nat
  deriving DecidableEq, Repr

/-- A position is seen by a query (06 R211). -/
def AttnArgs.sees (a : AttnArgs) (pi t : Nat) : Bool :=
  (!a.causal || decide (t ≤ pi)) && (a.window == 0 || decide (pi + 1 ≤ t + a.window))

/-- A partial (m, l, o) over seen positions (06 R212, R213). -/
structure Partial where
  m : Word
  l : Word
  o : List Word
  deriving DecidableEq, Repr

def dotOf (q k : List Word) : Word := (q.zip k).foldl (fun s e => fadd s (fmul e.1 e.2)) 0

def partialOf (q : List Word) (scale : Word) (dim : Nat) (kv : List (List Word × List Word)) : Option Partial :=
  let s := kv.map (fun e => fmul (dotOf q e.1) scale)
  match rankFirst true s.zipIdx with
  | none => none
  | some w =>
    some ((s.zip (kv.map Prod.snd)).foldl (fun (r : Partial) e =>
      let ex := fexp (fsub e.1 w.1)
      { r with l := fadd r.l ex, o := (r.o.zip e.2).map (fun y => fadd y.1 (fmul ex y.2)) })
      ⟨w.1, 0, List.replicate dim 0⟩)

/-- The fold of two partials (06 R214). -/
def foldPartial (a b : Partial) : Partial :=
  let mn := fmaxRank a.m b.m
  let x := fexp (fsub a.m mn)
  let y := fexp (fsub b.m mn)
  ⟨mn, fadd (fmul a.l x) (fmul b.l y), (a.o.zip b.o).map (fun e => fadd (fmul e.1 x) (fmul e.2 y))⟩

/-- The output of one query and head: its partials in ascending span order, folded and normalised. -/
def foldOut (dim : Nat) : List Partial → List Word
  | [] => List.replicate dim 0
  | r :: rs => let t := rs.foldl foldPartial r; t.o.map (fun v => fdiv v t.l)

/-- The seen positions of a span for a query. -/
def AttnArgs.seen (a : AttnArgs) (e : AlmEntry) (z pi j : Nat) : List Nat :=
  ((List.range (min z (e.len - j * z))).map (j * z + ·)).filter (a.sees pi)

/-- The output row of new token n of an entry and query head h. -/
def Chip.attnRow (c : Chip) (p : Nat) (x : Part) (a : AttnArgs) (e : AlmEntry) (n h : Nat) : List Word :=
  let k := c.kvCfg p
  let z := spanSize k.tokens e.len
  let qs := c.readVals (a.q + 2 * (((e.qoff + n) * (k.heads * a.g) + h) * k.dim)) k.dim true
  let kvAt (t : Nat) : List Word × List Word :=
    ((List.range k.dim).map (c.kvElem p x e.seq a.layer (h / a.g) 0 t), (List.range k.dim).map (c.kvElem p x e.seq a.layer (h / a.g) 1 t))
  foldOut k.dim ((List.range (spanCount k.tokens e.len)).filterMap (fun j =>
    partialOf qs a.scale k.dim ((a.seen e z (e.start + n) j).map kvAt)))

/-- The spans of an entry that some query sees: each forms a partial. -/
def AttnArgs.spans (a : AttnArgs) (tokens : Nat) (e : AlmEntry) : List Nat :=
  let z := spanSize tokens e.len
  (List.range (spanCount tokens e.len)).filter (fun j => (List.range e.new).any (fun n => !(a.seen e z (e.start + n) j).isEmpty))

/-- The head blocks of a layer that an entry's seen positions lie in. -/
def Chip.attnReads (c : Chip) (p : Nat) (x : Part) (a : AttnArgs) (e : AlmEntry) : List (Nat × Nat) :=
  let k := c.kvCfg p
  (pagesOf k.tokens (firstSeen e a.causal a.window) e.len).map (fun i =>
    let lo := c.kvRegionAt p x (c.entry p x e.seq i) a.layer 0 0
    (lo / 8 * 8, lo + k.heads * k.headBytes))

def Op.attnArgs (o : Op) (st : StepCtx) : AttnArgs :=
  { layer := o.get 12 2, g := o.get 14 1, bf := bitsOf (o.get 15 1) 1 0 == 0, causal := (o.get 15 1).testBit 2,
    scale := BitVec.ofNat 32 (o.get 24 4), window := o.get 28 4, q := refAt st.handles (o.get 16 4),
    out := refAt st.handles (o.get 20 4) }

/-- The unit that holds span 0 of an entry folds its partials and writes the output; the op completes with its last entry. -/
def Chip.attendFold (c : Chip) (p op entry : Nat) : Chip :=
  match c.running p with
  | none => c
  | some (x, st) =>
    match st.attends.find? (fun r => r.op == op) with
    | none => c
    | some r =>
      if !r.entries.contains entry then c
      else
        let o : Op := ⟨r.op, r.desc⟩
        let a := o.attnArgs st
        let es := c.almEntries (almRef st o inAttention).at
        let e := es.getD entry ⟨0, 0, 0, 0, 0, 0⟩
        let k := c.kvCfg p
        let reads := c.attnReads p x a e
        let read := c.readCheck p st.parity reads
        if !read.2 then read.1.endStep p .integrityFail op
        else
          let c := read.1
          let first := ((es.take entry).map (fun y => spanCount k.tokens y.len)).sum
          let unit (j : Nat) : Nat := r.units.getD (first + j) (firstCluster p)
          let spans := a.spans k.tokens e
          let rows := (List.range e.new).flatMap (fun n => (List.range (k.heads * a.g)).map (fun h =>
            (((e.qoff + n) * (k.heads * a.g) + h) * k.dim * elemBytes a.bf, c.attnRow p x a e n h)))
          let c := rows.foldl (fun c w => (c.writeOut (if a.bf then 3 else 4) w.2 (a.out + w.1) 0 []).1) c
          let c := spans.foldl (fun c j => c.count (rg .attEvtSpans (unit j))) c
          let c := if 2 ≤ spans.length then c.count (rg .attEvtFolds (unit 0)) else c
          let rest := r.entries.filter (· != entry)
          c.updStep p (fun st =>
            if rest.isEmpty then { st with
              attends := st.attends.filter (fun q => q.op != op), issued := st.issued.filter (fun i => i.idx != op) }
            else { st with attends := st.attends.map (fun q => if q.op = op then { q with entries := rest } else q) })

def execAttendFold (p op entry : Nat) (s : State) : Host.Outcome State Fault Refusal := s.onChip (·.attendFold p op entry)

/-! KV_ROLLBACK (06 R224) -/

def Chip.kvRollback (c : Chip) (p : Nat) : Chip :=
  c.issue p .attention 0x12 (fun c _ st o =>
    let es := c.almEntries (almRef st o inAttention).at
    let a := refAt st.handles (o.get 16 4)
    es.zipIdx.foldl (fun c e =>
      c.updStep p (·.updUse e.1.seq (fun u => { u with newLen := some (e.1.start + c.le (a + 2 * e.2) 2) }))) c)

def execKvRollback (p : Nat) (s : State) : Host.Outcome State Fault Refusal := s.onChip (·.kvRollback p)

end Sys2Proof.Machine
end

