-- ==== Sys2Proof/Machine/Passes.lean ====
section
/-! DEFINITION. What a pass computes: planes, slots and conversions (02 R41-R60), segment values and trims (05 R157), the short
run (04 R114-R118), outlier sums (05 R156), the reference arithmetic (03 R108-R110) and its error bound (04 R130), the per-pass
checks (12 R430-R432). -/

namespace Sys2Proof.Machine

/-! Drive (02 R41, R42) -/

/-- Whether a code drives with reversed polarity, and its magnitude. -/
def driveOf (afmt code : Nat) : Bool × Nat :=
  if afmt = 0 then (decide (int4Of code < 0), (int4Of code).natAbs)
  else if afmt = 1 then (decide (8 ≤ code), [0, 1, 2, 3, 4, 6, 8, 12].getD (code % 8) 0)
  else (decide (int8Of code < 0), (int8Of code).natAbs)

/-- The code of a channel of a latched slice. -/
def codeIn (afmt : Nat) (slice : List Byte) (i : Nat) : Nat :=
  if afmt = 2 then (slice.getD i 0).toNat else ((slice.getD (i / 2) 0).toNat / 16 ^ (i % 2)) % 16

/-- The non-zero drives of a slice: row, polarity and magnitude, ascending. -/
def drives (afmt : Nat) (slice : List Byte) : List (Nat × Bool × Nat) :=
  ((List.range 1024).map (fun i => (i, driveOf afmt (codeIn afmt slice i)))).filter (fun d => d.2.2 != 0)

/-- A conversion of a column-segment: the slot it starts in, its plane weight, its segment and the rows it drives. -/
structure Conv where
  slot : Nat
  m : Nat
  seg : Nat
  rows : List (Nat × Bool)
  deriving DecidableEq, Repr

/-- An array that a pass drives: its position, itself, its bank and its drives. -/
structure Lane where
  pos : Nat
  array : Nat
  bank : Nat
  ds : List (Nat × Bool × Nat)
  deriving DecidableEq, Repr

def PassRec.lanes (r : PassRec) : List Lane :=
  ((arrArrays r.arrange r.array).zip r.banks).map (fun e =>
    ⟨e.1, e.2.1, e.2.2, drives r.afmt (r.slices.getD (arrSliceOf r.arrange e.1) [])⟩)

/-- The rows of a plane in a segment, ascending. -/
def Lane.rows (l : Lane) (k s : Nat) : List (Nat × Bool) :=
  (l.ds.filter (fun d => d.1 / 256 == s && d.2.2.testBit k)).map (fun d => (d.1, d.2.1))

/-- The range code in force on an array (02 R49). -/
def PassRec.reff (r : PassRec) (array : Nat) : Nat := Tbl.get r.range array r.rEff

/-- The row limit of an array in this pass (02 R51). -/
def PassRec.limit (r : PassRec) (array : Nat) : Nat := if r.optimistic then 256 else rowLimit (r.reff array)

/-- The plan of a pass (02 R51): slots elapsed, slots charged, slots of skipped planes, slots of sub-phases after the first, and
the driven sub-phases with their first slot, plane and number. -/
structure PassPlan where
  slots : Nat := 0
  cost : Nat := 0
  skipped : Nat := 0
  subs : Nat := 0
  driven : List (Nat × Nat × Nat) := []
  deriving DecidableEq, Repr

/-- The largest row count of a plane over the segments of an array. -/
def Lane.most (l : Lane) (k : Nat) : Nat := ([0, 1, 2, 3].map (fun s => (l.rows k s).length)).foldl max 0

/-- The split of a plane: 0 for a plane without an active row. -/
def PassRec.split (r : PassRec) (ls : List Lane) (k : Nat) : Nat :=
  if ls.all (fun l => l.most k == 0) then 0
  else if r.optimistic then 1
  else (ls.map (fun l => ceilDiv (l.most k) (r.limit l.array))).foldl max 0

def PassRec.plan (r : PassRec) (ls : List Lane) : PassPlan :=
  let q := if r.quiet then 2 else 1
  foldN (if r.afmt = 2 then 8 else 4) (fun pl k =>
    let n := r.split ls k
    if n = 0 then { pl with slots := pl.slots + q, skipped := pl.skipped + q }
    else { pl with
      slots := pl.slots + n * q, cost := pl.cost + n * q, subs := pl.subs + (n - 1) * q,
      driven := pl.driven ++ (List.range n).map (fun j => (pl.slots + j * q, k, j)) }) {}

/-- The credits that a pass costs (02 R67); a reference-mode pass costs none (02 R69). -/
def PassRec.cost (r : PassRec) : Nat := if r.mode = 1 then 0 else (if r.arrange = 0 then 1 else 4) * (r.plan r.lanes).cost

/-- A pass that a balance holds back at admission (02 R69). -/
def PassRec.overBudget (r : PassRec) (b : Int) : Bool := r.mode ≠ 1 && decide (b < r.cost) && decide (b ≠ 128)

/-- The conversions of an array: a segment without rows in a sub-phase is skipped (02 R51, R55). -/
def PassRec.convs (r : PassRec) (pl : PassPlan) (l : Lane) : List Conv :=
  let la := r.limit l.array
  pl.driven.flatMap (fun d => ([0, 1, 2, 3].map (fun s =>
    (⟨d.1, 2 ^ d.2.1, s, ((l.rows d.2.1 s).drop (d.2.2 * la)).take la⟩ : Conv))).filter (fun v => !v.rows.isEmpty))

/-- Rows driven normally less rows driven reversed. -/
def Conv.net (v : Conv) : Int := v.rows.foldl (fun n e => if e.2 then n - 1 else n + 1) 0

/-! Codes to segment values (02 R43, R45, 05 R157, R158) -/

/-- The code that the converters gave for a slot of a pass: unlisted codes are 0. -/
def sample (codes : Tbl Nat Int) (pos slot phys seg : Nat) : Int := Tbl.get 0 ((slot * 4 + pos) * 4176 + 4 * phys + seg) codes

/-- Twice c of R45, from both samples in quiet mode. -/
def PassRec.c2 (r : PassRec) (codes : Tbl Nat Int) (z : Int) (pos phys : Nat) (v : Conv) : Int :=
  let q := sample codes pos v.slot phys v.seg
  if r.quiet then q + sample codes pos (v.slot + 1) phys v.seg - 2 * z else 2 * (q - z)

/-- A code that is a clip (02 R53). -/
def isClip (q : Int) : Bool := q == -128 || q == 127

/-- A conversion clipped, in either sample (02 R57). -/
def PassRec.clipped (r : PassRec) (codes : Tbl Nat Int) (pos phys : Nat) (v : Conv) : Bool :=
  isClip (sample codes pos v.slot phys v.seg) || (r.quiet && isClip (sample codes pos (v.slot + 1) phys v.seg))

/-- The offset code of the converter of a physical column (02 R43, 11 R389): one entry for each position and converter. -/
def Engine.zOf (g : Engine) (pos phys : Nat) : Int := Tbl.get 0 (pos * 522 + phys / 2) g.zc

/-- D of R116, twice the trimmed segment value: ties go to the even multiple of 2^r. -/
def trimmed (r : Nat) (d0 gt ot aSum : Int) : Int :=
  2 ^ r * rheInt (d0 * (4096 + gt) - ot * aSum * 128) (4096 * 2 ^ r)

/-- The trimmed value of a physical column in a segment of an array, doubled. -/
def PassRec.segVal (r : PassRec) (c : Chip) (codes : Tbl Nat Int) (l : Lane) (cs : List Conv) (phys seg : Nat) : Int :=
  let z := (c.engine r.engine).zOf l.pos phys
  let vs := cs.filter (fun v => v.seg == seg)
  let b := c.bank l.array l.bank
  let d0 := 2 ^ (r.reff l.array) * (vs.map (fun v => (v.m : Int) * r.c2 codes z l.pos phys v)).sum
  let aSum := (vs.map (fun v => (v.m : Int) * v.net)).sum
  trimmed (r.reff l.array) d0 (Tbl.get 0 phys b.gt) (Tbl.get 0 phys b.ot) aSum

/-- The physical columns whose value can differ from 0: those with a listed code, an offset code or an offset trim. -/
def PassRec.touched (r : PassRec) (c : Chip) (codes : Tbl Nat Int) (l : Lane) : List Nat :=
  let fromCodes := (codes.filter (fun e => e.1 / 4176 % 4 == l.pos)).map (fun e => e.1 % 4176 / 4)
  let fromZ := ((c.engine r.engine).zc.filter (fun e => e.2 != 0 && e.1 / 522 == l.pos)).flatMap (fun e =>
    [2 * (e.1 % 522), 2 * (e.1 % 522) + 1])
  let fromOt := ((c.bank l.array l.bank).ot.filter (fun e => e.2 != 0)).map Prod.fst
  (fromCodes ++ fromZ ++ fromOt).eraseDups

/-! Output columns (02 R40, R63, 04 R114) -/

/-- An output column counts over the groups: group offset × columns + column in its group. -/
def PassRec.cols (r : PassRec) : Nat := arrCols r.wide
def PassRec.count (r : PassRec) : Nat := arrGroups r.arrange * r.cols
def PassRec.allCols (r : PassRec) : List Nat := List.range r.count

/-- The logical columns that form an output column of an array. -/
def PassRec.logical (r : PassRec) (j : Nat) : List Nat := let n := j % r.cols; if r.wide then [2 * n, 2 * n + 1] else [n]

/-- The arrays that feed an output column, in ascending position. -/
def PassRec.feeds (r : PassRec) (ls : List Lane) (j : Nat) : List Lane := ls.filter (fun l => arrGroupOf r.arrange l.pos == j / r.cols)

/-- The output column that a logical column of an array belongs to. -/
def PassRec.outCol (r : PassRec) (l : Lane) (col : Nat) : Nat :=
  arrGroupOf r.arrange l.pos * r.cols + (if r.wide then col / 2 else col)

/-- The output columns that an array feeds. -/
def PassRec.fedBy (r : PassRec) (l : Lane) : List Nat := (List.range r.cols).map (arrGroupOf r.arrange l.pos * r.cols + ·)

/-- Those output columns of a pass that a list names, ascending and once each. -/
def PassRec.ordered (r : PassRec) (js : List Nat) : List Nat := if js.isEmpty then [] else r.allCols.filter (fun j => js.contains j)

/-! Scales and the short run (04 R115-R118) -/

def blockSig (b : Nat) : Nat × Int := let e := b / 8 % 16; let f := b % 8; (if e = 0 then f else 8 + f, ((max e 1 : Nat) : Int) - 10)
def tokenSig (s : Nat) : Nat × Int := let e := s / 128 % 256; let f := s % 128; (if e = 0 then f else 128 + f, ((max e 1 : Nat) : Int) - 134)
/-- The exponent of the drive unit. -/
def driveExp (afmt : Nat) : Int := if afmt = 1 then -1 else 0

/-- The token scale of the slice that drives an array position. -/
def PassRec.tokenScale (r : PassRec) (pos : Nat) : Nat := bytesLe (r.sides.getD (arrSliceOf r.arrange pos) []) 0 2

/-- The block scale byte of an output column and segment on an array. -/
def Chip.blockScale (c : Chip) (l : Lane) (n seg : Nat) : Nat :=
  let b := c.bank l.array l.bank
  c.le (scaleAt b.payload b.wfmt n seg) 1

/-- The scale that the adder tree applies to an output column's segment: zero where all its codes are 0 (03 R99, 04 R115). -/
def PassRec.treeScale (r : PassRec) (c : Chip) (l : Lane) (j seg : Nat) : Nat :=
  if (c.bank l.array l.bank).blockZero (r.logical j) seg then 0 else c.blockScale l (j % r.cols) seg

def bitLen (n : Nat) : Nat := if n = 0 then 0 else n.log2 + 1

/-- The short run of a column's terms. -/
def shortRun (terms : List (Int × Int)) : Int × Int :=
  match terms.filter (fun t => t.1 != 0) with
  | [] => (0, 0)
  | t :: ts =>
    let top := ts.foldl (fun m u => max m (u.2 + (bitLen u.1.natAbs : Int))) (t.2 + (bitLen t.1.natAbs : Int))
    let x := top - 22
    ((t :: ts).foldl (fun s u =>
      s + (if x ≤ u.2 then u.1 * 2 ^ (u.2 - x).toNat else rheInt u.1 (2 ^ (x - u.2).toNat))) 0, x)

/-- The analogue addend of an output column before os. -/
def PassRec.addend (r : PassRec) (c : Chip) (codes : Tbl Nat Int) (ls : List (Lane × List Conv)) (j : Nat) : Word :=
  let terms := (ls.filter (fun e => arrGroupOf r.arrange e.1.pos == j / r.cols)).flatMap (fun e =>
    let l := e.1
    let b := c.bank l.array l.bank
    let ts := tokenSig (r.tokenScale l.pos)
    [0, 1, 2, 3].map (fun seg =>
      let v (col : Nat) : Int := r.segVal c codes l e.2 (b.effective col) seg
      let d : Int := match r.logical j with
        | [lo, hi] => 16 * v hi + v lo
        | [n] => v n
        | _ => 0
      let bs := blockSig (r.treeScale c l j seg)
      (d * (bs.1 : Int) * (ts.1 : Int), bs.2 + ts.2 + driveExp r.afmt - 1)))
  let sr := shortRun terms
  let t := ((r.lanes.head?).map (fun l => (c.bank l.array l.bank).scale)).getD 0
  rnd32 (Val.mul (Val.ofInt sr.1 sr.2) (f32 t))

/-! The Fixative's sums (03 R108-R110, 05 R155, R156) -/

/-- OUT_VAL j of a side record, widened. -/
def outVal (side : List Byte) (j : Nat) : Word := bfToF32 (bytesLe side (8 + 2 * j) 2)

/-- Activation a_i of a channel of a slice (03 R104, R108). -/
def PassRec.act (r : PassRec) (slice i : Nat) : Word :=
  let side := r.sides.getD slice []
  match (r.outs.getD slice ([], 0, 0)).1.idxOf? i with
  | some j => outVal side j
  | none =>
    let k := codeIn r.afmt (r.slices.getD slice []) i
    let v := if r.afmt = 0 then Val.ofInt (int4Of k) 0 else if r.afmt = 1 then e2m1.decode k else Val.ofInt (int8Of k) 0
    rnd32 (Val.mul v (bfv (bytesLe side 0 2)))

/-- The outlier products of an output column, in channel order across slices. -/
def PassRec.outlierTerms (r : PassRec) (c : Chip) (j : Nat) : List Word :=
  r.outs.zipIdx.flatMap (fun e =>
    (List.range e.1.1.length).map (fun o =>
      let q := int8Of (c.le (e.1.2.1 + o * r.count + j) 1)
      let u := rnd32 (Val.mul (Val.ofInt q 0) (f32 (c.word (e.1.2.2 + 4 * o))))
      fmul (outVal (r.sides.getD e.2 []) o) u))

/-- os(j): the outlier sum of an output column. -/
def PassRec.os (r : PassRec) (c : Chip) (j : Nat) : Word := (r.outlierTerms c j).foldl fadd 0

/-- The products of a row segment of an output column on an array. A row with weight 0 and a finite activation adds ±0.0, which
leaves a sum from +0.0 as it is, so it is passed over. -/
def PassRec.rowTerms (r : PassRec) (c : Chip) (l : Lane) (j seg : Nat) : List Word :=
  let b := c.bank l.array l.bank
  let slice := arrSliceOf r.arrange l.pos
  let n := j % r.cols
  let scale := Val.mul (e4m3.decode (c.blockScale l n seg)) (f32 b.scale)
  let skip := (r.outs.getD slice ([], 0, 0)).1
  (List.range 256).filterMap (fun i =>
    let row := 256 * seg + i
    let w := if skip.contains row then 0 else c.imageCode b.payload b.wfmt n row
    let a := r.act slice row
    if w = 0 ∧ fFinite a = true then none
    else some (fmul a (rnd32 (Val.mul (Val.ofInt w 0) scale))))

/-- reference_pass_value(j) (03 R109). -/
def PassRec.refValue (r : PassRec) (c : Chip) (j : Nat) : Word :=
  let pv := (r.feeds r.lanes j).foldl (fun pv l =>
    [0, 1, 2, 3].foldl (fun pv seg => fadd pv ((r.rowTerms c l j seg).foldl fadd 0)) pv) 0
  fadd pv (r.os c j)

/-! The error bound (04 R130) -/

/-- Five times F of one pass for an output column: Σ of scale × Δ over its converted column-segments. -/
def PassRec.bound5 (r : PassRec) (c : Chip) (j : Nat) : Val :=
  let pl := r.plan r.lanes
  (r.feeds r.lanes j).foldl (fun acc l =>
    let b := c.bank l.array l.bank
    let cs := r.convs pl l
    [0, 1, 2, 3].foldl (fun acc seg =>
      let delta (col : Nat) : Nat := ((cs.filter (fun v => v.seg == seg)).map (fun v =>
        v.m * (20 * 2 ^ (r.reff l.array) + (v.rows.filter (fun e => b.code (b.effective col) e.1 != 0)).length))).sum
      let d := match r.logical j with
        | [lo, hi] => 16 * delta hi + delta lo
        | [n] => delta n
        | _ => 0
      let sigma := Val.mul (Val.mul (e4m3.decode (r.treeScale c l j seg)) (bfv (r.tokenScale l.pos)))
        (Val.mul (Val.fin false 1 1 (driveExp r.afmt)) (Val.abs (f32 b.scale)))
      Val.add acc (Val.mul (Val.ofInt d 0) sigma)) acc) (.fin false 0 1 0)

/-- U of one pass for an output column. -/
def PassRec.absSum (r : PassRec) (c : Chip) (j : Nat) : Val :=
  ((r.feeds r.lanes j).flatMap (fun l => [0, 1, 2, 3].flatMap (r.rowTerms c l j)) ++ r.outlierTerms c j).foldl
    (fun acc w => Val.add acc (Val.abs (f32 w))) (.fin false 0 1 0)

/-- Two values meet the bound of R130, given five times F and U; non-finite values only where both are and are equal
(12 R435, R439). -/
def withinBound (v ref : Word) (f5 u : Val) : Bool :=
  if fFinite v && fFinite ref then
    let d := Val.abs (Val.add (f32 v) (Val.neg (f32 ref)))
    let five : Val := .fin false 5 1 0
    Val.le (Val.mul five d) (Val.add f5 (Val.mul five (Val.add (Val.mul u (.fin false 1 1 (-14))) (.fin false 1 1 (-120)))))
  else !fFinite v && !fFinite ref && decide (v = ref)

/-! The per-pass checks (12 R430-R432) -/

/-- A reference reading fails in a conversion: kinds are 0, 8 and 15 cell-units a row on columns 1041, 1042 and 1043. -/
def PassRec.refFails (r : PassRec) (c : Chip) (codes : Tbl Nat Int) (l : Lane) (v : Conv) (phys kind : Nat) : Bool :=
  if r.clipped codes l.pos phys v then false
  else
    let z := (c.engine r.engine).zOf l.pos phys
    let p : Int := 2 ^ (r.reff l.array)
    let got := 5 * r.c2 codes z l.pos phys v * p
    let want := 10 * (kind : Int) * v.net
    decide (40 * p + 2 * (v.rows.length : Int) < ((got - want).natAbs : Int))

/-- A reference disagreement on an array; references whose converter has failed are not read in passes (11 R395). -/
def PassRec.refDisagrees (r : PassRec) (c : Chip) (codes : Tbl Nat Int) (l : Lane) (cs : List Conv) : Bool :=
  let zero := !c.convFailed.contains (l.array, 520)
  let both := !c.convFailed.contains (l.array, 521)
  cs.any (fun v => (zero && r.refFails c codes l v 1041 0) || (both && (r.refFails c codes l v 1042 8 || r.refFails c codes l v 1043 15)))

/-- The checksum column clipped in a segment. -/
def PassRec.csClips (r : PassRec) (codes : Tbl Nat Int) (l : Lane) (cs : List Conv) (seg : Nat) : Bool :=
  cs.any (fun v => v.seg == seg && r.clipped codes l.pos 1040 v)

/-- An effective logical column clipped in a segment. -/
def PassRec.segClips (r : PassRec) (c : Chip) (codes : Tbl Nat Int) (l : Lane) (cs : List Conv) (seg : Nat) : Bool :=
  let b := c.bank l.array l.bank
  ((r.touched c codes l).filter (fun k => (b.logicalOf k).isSome)).any (fun k =>
    cs.any (fun v => v.seg == seg && r.clipped codes l.pos k v))

/-- Twice the checksum residual of a segment (12 R431). -/
def PassRec.residual2 (r : PassRec) (c : Chip) (codes : Tbl Nat Int) (l : Lane) (cs : List Conv) (seg : Nat) : Int :=
  let b := c.bank l.array l.bank
  let vs := cs.filter (fun v => v.seg == seg)
  let cols := (r.touched c codes l).filter (fun k => (b.logicalOf k).isSome)
  (cols.map (fun k => r.segVal c codes l cs k seg)).sum - 1024 * r.segVal c codes l cs 1040 seg +
    2 * (vs.map (fun v => (v.m : Int) * (v.rows.map (fun e => (if e.2 then -1 else 1) * Tbl.get 0 e.1 b.csErr)).sum)).sum

/-- The comparison of a segment is not made (12 R432). -/
def PassRec.csExempt (r : PassRec) (c : Chip) (codes : Tbl Nat Int) (l : Lane) (cs : List Conv) (seg : Nat) : Bool :=
  !cs.any (fun v => v.seg == seg) || r.segClips c codes l cs seg || r.csClips codes l cs seg || (c.refreshRuns l.array).isSome ||
    c.convFailed.contains (l.array, 520) || (c.bank l.array l.bank).csSuspended

/-- The checksum comparison of a segment disagrees (12 R431). -/
def PassRec.csDisagrees (r : PassRec) (c : Chip) (codes : Tbl Nat Int) (l : Lane) (cs : List Conv) (seg : Nat) : Bool :=
  if r.csExempt c codes l cs seg then false
  else
    let allow := if (c.bank l.array l.bank).measured then Tbl.get 2048 l.pos (c.engine r.engine).allowance else 2048
    let band := ((cs.filter (fun v => v.seg == seg)).map (fun v => v.m * (2 ^ (r.reff l.array) * (4096 + allow) + 205 * v.rows.length))).sum
    decide (2 * band < (r.residual2 c codes l cs seg).natAbs)

/-- The readings of the reference columns in a pass, for the next Accord: clips are discarded, and a failed converter's references are
read in calibration slots alone (02 R60, 11 R390, R395). -/
def PassRec.refReadings (r : PassRec) (c : Chip) (codes : Tbl Nat Int) (ls : List (Lane × List Conv)) : List RefReading :=
  ls.flatMap (fun e =>
    let l := e.1
    e.2.flatMap (fun v =>
      (if r.quiet then [v.slot, v.slot + 1] else [v.slot]).flatMap (fun n =>
        ([(1041, 520, 0), (1042, 521, 8), (1043, 521, 15)] : List (Nat × Nat × Nat)).filterMap (fun k =>
          let q := sample codes l.pos n k.1 v.seg
          if isClip q || c.convFailed.contains (l.array, k.2.1) then none
          else some ⟨522 * l.pos + k.2.1, k.2.2, q, r.reff l.array, v.net⟩))))

end Sys2Proof.Machine
end

