-- ==== Sys2Proof/Machine/Measure.lean ====
section
/-! DEFINITION. What an engine measures for an Accord from the readings since the last one (11 R389, R390, 05 R159, 12 R433). -/

namespace Sys2Proof

open Machine

/-! Calibration slots (02 R61) -/

/-- Rows driven normally less rows driven reversed. -/
def CalSlot.net (k : CalSlot) : Int := k.rows.foldl (fun n e => if e.2 then n - 1 else n + 1) 0

/-- The code that a column or a converter gave. -/
def CalSlot.code (k : CalSlot) (n : Nat) : Int := Tbl.get 0 n k.codes

/-- What a column should read, from the codes in force, in cell-units. -/
def CalSlot.expected (k : CalSlot) (b : Bank) (phys : Nat) : Int :=
  k.rows.foldl (fun s e => if e.2 then s - b.code phys e.1 else s + b.code phys e.1) 0

/-- A slot as a pass of one plane: its conversion, its codes and the array it drives. -/
def CalSlot.conv (k : CalSlot) : Conv := ⟨0, 1, k.seg, k.rows⟩
def CalSlot.lane (k : CalSlot) : Lane := ⟨k.array % 4, k.array, k.bank, []⟩
def CalSlot.samples (k : CalSlot) : Tbl Nat Int := k.codes.map (fun e => (k.array % 4 * 4176 + 4 * e.1 + k.seg, e.2))
def CalSlot.asPass (k : CalSlot) : PassRec :=
  { op := 0, core := k.array / 256, engine := k.array / 4, layer := 0, arrange := 0, array := k.array % 4, range := k.rcode, optimistic := true,
    quiet := false, afmt := 0, wide := false, group := 0, half := false, mode := 0, banks := [(k.array, k.bank)], slices := [], sides := [],
    rEff := [(k.array, k.rcode)] }

end Sys2Proof

namespace Sys2Proof.Machine

/-! Readings -/

/-- The slots of an engine in which an array's converters read the zero reference. -/
def Engine.zeroSlots (g : Engine) (pos : Nat) : List CalSlot :=
  g.slots.filter (fun k => decide (k.source = .zero) && k.array % 4 == pos)

/-- The slots that drive a bank; in one segment. -/
def Engine.bankSlots (g : Engine) (array bank : Nat) : List CalSlot :=
  g.slots.filter (fun k => decide (k.source = .columns) && k.array == array && k.bank == bank)

/-- The readings that an Accord needs have been taken: 256 of the zero reference by each converter, and 16 of each column-segment of the
banks that steps may run on. -/
def Chip.measuredEnough (c : Chip) (e : Nat) : Bool :=
  let g := c.engine e
  [0, 1, 2, 3].all (fun pos => decide (256 ≤ (g.zeroSlots pos).length)) &&
    (c.forceBanks e).all (fun b => [0, 1, 2, 3].all (fun seg => decide (16 ≤ ((g.bankSlots b.1 b.2).filter (fun k => k.seg == seg)).length)))

/-- The slots of an engine in which an array's columns are read. -/
def Engine.columnSlots (g : Engine) (pos : Nat) : List CalSlot :=
  g.slots.filter (fun k => decide (k.source = .columns) && k.array % 4 == pos)

/-- The readings of a reference by a converter in passes. -/
def Engine.refReads (g : Engine) (kind pos conv : Nat) : List RefReading :=
  g.refs.filter (fun r => r.kind == kind && r.conv == 522 * pos + conv)

/-- The zero-reference codes of a converter that did not clip: through the multiplexer, and of converter 520 the zero column's. -/
def Engine.zeroCodes (g : Engine) (pos conv : Nat) : List Int :=
  let mux := (g.zeroSlots pos).map (fun k => k.code conv)
  let own := if conv = 520 then (g.columnSlots pos).map (fun k => k.code 1041) else []
  let pass := (g.refReads 0 pos conv).map RefReading.code
  (mux ++ own ++ pass).filter (fun q => !isClip q)

/-- The full-reference readings of a converter that did not clip: code, range code and net rows. -/
def Engine.fullReads (g : Engine) (pos conv : Nat) : List (Int × Nat × Int) :=
  let mux := (g.slots.filter (fun k => decide (k.source = .full) && k.array % 4 == pos)).filterMap (fun k =>
    (Tbl.find? conv k.codes).map (fun q => (q, k.rcode, k.net)))
  let own := if conv = 521 then (g.columnSlots pos).map (fun k => (k.code 1043, k.rcode, k.net)) else []
  let pass := (g.refReads 15 pos conv).map (fun r => (r.code, r.rcode, r.net))
  (mux ++ own ++ pass).filter (fun r => !isClip r.1 && r.2.2 != 0)

/-! Offsets and reference trims -/

def clampInt (lo hi v : Int) : Int := max lo (min hi v)

/-- num / den to the nearest integer, ties to even; den is not 0. -/
def nearest (num den : Int) : Int := rheInt (if den < 0 then -num else num) den.natAbs

/-- The offset code of a converter: the rounded mean of its zero-reference readings, free where all of them clipped. -/
def Engine.measuredZ (g : Engine) (pos conv : Nat) : Int :=
  let qs := g.zeroCodes pos conv
  clampInt (-8) 7 (if qs.isEmpty then Config.openOffset (522 * pos + conv) else nearest qs.sum qs.length)

/-- A sum of fractions, as one. -/
def sumFrac (l : List (Int × Int)) : Int × Int := l.foldl (fun s f => (s.1 * f.2 + f.1 * s.2, s.2 * f.2)) (0, 1)

/-- The reference trim of a converter: the code that brings the mean ratio of its full-reference readings, less the offset, to 15 cell-units
a row nearest to 1, where a step up raises a reading by 0.1 % (DESIGN CHOICE, log entry 83). -/
def Engine.measuredArt (g : Engine) (pos conv : Nat) : Int :=
  let z := g.measuredZ pos conv
  let now := Tbl.get 32 (522 * pos + conv) g.art
  let rs := (g.fullReads pos conv).map (fun r => ((r.1 - z) * 2 ^ r.2.1, 15 * r.2.2))
  if rs.isEmpty then now
  else
    let s := sumFrac rs
    let n := s.2 * (rs.length : Int)
    clampInt 0 63 (now + nearest (1000 * (n - s.1)) n)

/-! Column trims -/

/-- The sums of a least-squares fit of M = (1 + γ) E + ω n. -/
structure Fit where
  ee : Int := 0
  en : Int := 0
  nn : Int := 0
  em : Int := 0
  nm : Int := 0
  deriving DecidableEq, Repr

def Fit.add (f : Fit) (e n m : Int) : Fit :=
  { ee := f.ee + e * e, en := f.en + e * n, nn := f.nn + n * n, em := f.em + e * m, nm := f.nm + n * m }

/-- The determinant of the fit; (1 + γ) and ω are gain and offset over it. -/
def Fit.det (f : Fit) : Int := f.ee * f.nn - f.en * f.en
def Fit.gain (f : Fit) : Int := f.em * f.nn - f.nm * f.en
def Fit.offset (f : Fit) : Int := f.nm * f.ee - f.em * f.en

/-- The readings fix both values. -/
def Fit.fixed (f : Fit) : Bool := f.det != 0 && f.gain != 0

/-- The fit of a column over its readings that did not clip. -/
def Chip.columnFit (c : Chip) (array bank phys : Nat) : Fit :=
  let g := c.engine (array / 4)
  let z := g.measuredZ (array % 4) (phys / 2)
  let b := c.bank array bank
  ((g.bankSlots array bank).filter (fun k => !isClip (k.code phys))).foldl (fun f k =>
    f.add (k.expected b phys) k.net ((k.code phys - z) * 2 ^ k.rcode)) {}

/-- A free trim below the limit of R159, where the readings fix no fit (log entry 83). -/
def openTrim (kind array bank phys : Nat) : Int := Config.openTrim kind ((2 * array + bank) * 1044 + phys) % 239 - 119

/-- The needed trims 4,096 / (1 + γ) − 4,096 and 64 ω / (1 + γ), rounded and clamped. -/
def Chip.columnTrims (c : Chip) (array bank phys : Nat) : Int × Int :=
  let f := c.columnFit array bank phys
  if !f.fixed then (openTrim 0 array bank phys, openTrim 1 array bank phys)
  else (clampInt (-127) 127 (nearest (4096 * (f.det - f.gain)) f.gain), clampInt (-127) 127 (nearest (64 * f.offset) f.gain))

/-- A needed trim of a column has a magnitude of 120 or more, before the clamp (05 R159). -/
def Chip.trimLimit (c : Chip) (array bank phys : Nat) : Bool :=
  let f := c.columnFit array bank phys
  f.fixed && (decide (120 * f.gain.natAbs ≤ (4096 * (f.det - f.gain)).natAbs) || decide (120 * f.gain.natAbs ≤ (64 * f.offset).natAbs))

/-! Checksum allowances (12 R433) -/

/-- The least number whose square is not less. -/
def ceilSqrt (n : Nat) : Nat := let r := isqrt n; if r * r = n then r else r + 1

/-- The residuals of an array's slots that did not clip: twice ρ, with the range code. -/
def Chip.residuals (c : Chip) (e pos : Nat) : List (Int × Nat) :=
  (((c.engine e).slots.filter (fun k => decide (k.source = .columns) && k.array == 4 * e + pos)).filter (fun k =>
    !(k.asPass.segClips c k.samples k.lane [k.conv] k.seg || k.asPass.csClips k.samples k.lane [k.conv] k.seg))).map (fun k =>
      (k.asPass.residual2 c k.samples k.lane [k.conv] k.seg, k.rcode))

/-- A_a: 8 times the rms of ρ in LSB of the slots' range code, rounded up, from 64 to 2,048; the previous one where no residual was formed. -/
def Chip.measuredAllowance (c : Chip) (e pos : Nat) : Nat :=
  let rs := c.residuals e pos
  if rs.isEmpty then Tbl.get 2048 pos (c.engine e).allowance
  else
    let sum := (rs.map (fun r => r.1.natAbs * r.1.natAbs * 4 ^ (5 - r.2))).sum
    max 64 (min 2048 (ceilSqrt (ceilDiv (64 * sum) (4 * 4 ^ 5 * rs.length))))

/-! The measurement -/

/-- The entries of a list of keys whose value is not the one that an unlisted key has. -/
def listed {κ ν : Type} [DecidableEq ν] (d : ν) (f : κ → ν) (l : List κ) : List (κ × ν) := (l.map (fun k => (k, f k))).filter (fun e => decide (e.2 ≠ d))

/-- The columns that an Accord covers: every physical column of every bank that holds a live epoch. -/
def Chip.coveredColumns (c : Chip) (e : Nat) : List (Nat × Nat × Nat) :=
  (c.liveBanks e).flatMap (fun b => (List.range 1044).map (fun k => (b.1, b.2, k)))

/-- What the readings of an engine measure. -/
def Chip.measure (c : Chip) (e : Nat) : Measured :=
  let g := c.engine e
  let convs := List.range 2088
  let cols := c.coveredColumns e
  { zc := listed 0 (fun k => g.measuredZ (k / 522) (k % 522)) convs
    art := listed 32 (fun k => g.measuredArt (k / 522) (k % 522)) convs
    gt := listed 0 (fun k => (c.columnTrims k.1 k.2.1 k.2.2).1) cols
    ot := listed 0 (fun k => (c.columnTrims k.1 k.2.1 k.2.2).2) cols
    allowance := listed 2048 (c.measuredAllowance e) [0, 1, 2, 3] }

end Sys2Proof.Machine
end

