-- ==== Sys2Proof/Machine/Steps.lean ====
section
/-! DEFINITION. Step programs: running, beginning, dispatch, deadlines, the watchdog, fences and checks (08 R279-R305, 07 R262). -/

namespace Sys2Proof.Machine

/-! STEP_RUN (08 R279) -/

/-- The step that a STEP_RUN names (13 R470). -/
def Cmd.stepReq (k : Cmd) (t : Ticket) : StepReq :=
  { addr := bytesLe k.args 0 8, kind := bytesLe k.args 8 1, selector := bytesLe k.args 12 4, ticket := some t }

/-- Queue a step program, in order of acceptance. -/
def Chip.stepRun (c : Chip) (fn : Nat) : Chip :=
  c.start fn 0x01 (fun _ => true) (fun c p x t k =>
    c.setPart p { x with queued := x.queued ++ [k.stepReq t] })

def execStepRun (fn : Nat) (s : State) : Host.Outcome State Fault Refusal := s.onChip (·.stepRun fn)

/-! STEP_BEGIN (08 R280-R282) -/

/-- Bytes of a program: from host memory, or from the partition's view (08 R279). -/
def Chip.progRead (c : Chip) (p : Nat) (x : Part) (q : StepReq) (off n : Nat) : Except Status (List Byte) :=
  if q.kind = 2 then .ok ((q.prog.drop off).take n)
  else if q.kind = 0 then
    match c.hostRead (q.addr + off) n with
    | .ok bs => .ok bs
    | .error e => .error (hostErrStatus e)
  else
    match x.range p (q.addr + off) n with
    | some (a, _) => .ok (c.read a n)
    | none => .error .denied

/-- What is read of a program in the partition's HBM is checked (12 R425, R426, R428); ranges are offset and length. -/
def Chip.progWords (c : Chip) (p : Nat) (x : Part) (q : StepReq) (rs : List (Nat × Nat)) : Chip × Bool :=
  if q.kind ≠ 1 then (c, true)
  else c.readCheck p x.parityNow (rs.filterMap (fun r => (x.range p (q.addr + r.1) r.2).map (fun a => (a.1, a.1 + r.2))))

/-- The op count that a program's header gives, at most 65,535; 0 where the header cannot be read. -/
def Chip.progOps (c : Chip) (p : Nat) (x : Part) (q : StepReq) : Nat :=
  match c.progRead p x q 4 4 with
  | .ok b => min 65535 (bytesLe b 0 4)
  | .error _ => 0

/-- The header rules of R280, with the header's fields; the program's only COMMIT is its last op (R281). -/
def headerOk (h : List Byte) : Bool :=
  bytesLe h 0 2 == 1 && bytesZero h 2 3 && decide (2 ≤ bytesLe h 4 4 ∧ bytesLe h 4 4 ≤ 65535) &&
  decide (bytesLe h 12 4 ≤ 10000000) && bytesZero h 24 63

/-- The opcodes of a program's descriptors: COMMIT is the last and only one. -/
def Chip.commitLast (c : Chip) (p : Nat) (x : Part) (q : StepReq) (n : Nat) : Except Status Bool :=
  (List.range n).foldl (fun acc i =>
    match acc with
    | .error e => .error e
    | .ok ok =>
      match c.progRead p x q (64 + 64 * i) 1 with
      | .error e => .error e
      | .ok b => .ok (ok && ((bytesLe b 0 1 == 0x3F) == (i + 1 == n)))) (.ok true)

/-- The address check of R279: a program outside the view is DENIED, one in the view but outside its HBM MALFORMED. -/
def progPlace (x : Part) (p : Nat) (q : StepReq) (n : Nat) : Option Status :=
  if q.kind ≠ 1 then none
  else
    match x.range p q.addr (64 + 64 * n) with
    | some (_, 2) => none
    | some _ => some .malformed
    | none => if (x.range p q.addr 64).isSome && (x.phys p (q.addr + 63 + 64 * n)).isSome then some .malformed else some .denied

/-- The epoch a selector names, or the status that ends the step (10 R370, 16 R555). -/
def Part.select (x : Part) (sel : Nat) : Except Status Nat :=
  let live (e : Epoch) : Bool := decide (e.state ≠ .retired)
  let check (e : Epoch) : Except Status Nat := if e.verified then .ok e.num else .error .state
  if sel = 0 then
    match x.epochIn .inForce with
    | some e => check e
    | none => .ok 0
  else
    match x.epochNo sel with
    | some e =>
      if e.state = .retired then .error .superseded
      else if e.state = .inForce ∨ e.state = .retiring then check e
      else .error .malformed
    | none => if x.epochs.any (fun e => live e && decide (sel < e.num)) then
        (if x.epochs.any (fun e => live e && decide (e.num ≤ sel)) then .error .malformed else .error .superseded)
      else .error .malformed

/-- The first failing check of a program, in the order of R309, or its header and epoch. -/
def Chip.progCheck (c : Chip) (p : Nat) (x : Part) (q : StepReq) : Except Status (List Byte × Nat) :=
  match c.progRead p x q 0 64 with
  | .error e => .error e
  | .ok h =>
    if !headerOk h then .error .malformed
    else
      let n := bytesLe h 4 4
      match progPlace x p q n with
      | some .denied => .error .denied
      | place =>
        match c.commitLast p x q n with
        | .error e => .error e
        | .ok false => .error .malformed
        | .ok true =>
          match place with
          | some e => .error e
          | none =>
            match x.select q.selector with
            | .error e => .error e
            | .ok ep => .ok (h, ep)

/-- The array temperature of a core: sensor k mod 16 of its die (11 R405). -/
def Chip.coreTemp (c : Chip) (k : Nat) : Int := (Tbl.get ({} : Sensor) (k / 16, k % 16) c.sensors).temp

/-- An engine's Accord is outside its refresh interval (11 R393). -/
def Chip.staleEngine (c : Chip) (e : Nat) : Bool :=
  let g := c.engine e
  match g.inForce with
  | none => true
  | some a =>
    decide (g.accordAt + 1000000 * g.cfg.field 25 16 < c.now) ||
    decide (128 < (c.coreTemp (e / 64) - a.temp).natAbs)

/-- The configuration fields of every layer entry, as they stand at the step's start (05 R152); an entry of zeros is not listed. -/
def Chip.layerConfigs (c : Chip) (p : Nat) (x : Part) : Tbl (Nat × Nat) (List Byte) :=
  (List.range x.coreCount).flatMap (fun i =>
    let k := firstCore p + i
    ((List.range (c.field (rg .fixTableCfg k) 10 0)).map (fun l => ((k, l), c.read (c.layerAt k l) 64))).filter
      (fun e => !e.2.all (· == 0)))

/-- The engines that hold a bank of the epoch that a step selects. -/
def Part.enginesOf (x : Part) (epoch : Nat) : List Nat := ((x.epochNo epoch).map Epoch.engines).getD []

/-- The step context at a step's beginning (08 R282). -/
def Chip.newStep (c : Chip) (p : Nat) (x : Part) (q : StepReq) (h : List Byte) (epoch : Nat) : StepCtx :=
  let config := c.layerConfigs p x
  { req := q, no := x.stepNo, opCount := bytesLe h 4 4, opsCrc := bytesLe h 8 4,
    deadline := if bytesLe h 12 4 = 0 then none else some (c.now + 1000 * bytesLe h 12 4),
    tag := bytesLe h 16 8, began := c.now, epoch := epoch, handles := x.handles,
    tableCfg := (List.range x.coreCount).map (fun i => (firstCore p + i, c.reg (rg .fixTableCfg (firstCore p + i)))),
    config := config,
    act8 := (config.filter (fun e => (bytesLe e.2 32 1).testBit 0 || (layerFallbackOk e.2 && x.degraded))).map Prod.fst,
    degraded := x.degraded, afterRound := x.roundLast, watchdog := c.field (rg .scrWatchdog p) 19 0,
    collBase := c.pair (rg .iltPGroupBaseLo p) (rg .iltPGroupBaseHi p), collCfg := c.reg (rg .iltPCfg p),
    parity := x.parityNow, block := x.blockNow, stale := (x.enginesOf epoch).any c.staleEngine, serving := q.ticket.isNone }

/-- Each engine of the step whose Accord is stale sets CAL.STATUS.STALE and counts (11 R394). -/
def Chip.noteStale (c : Chip) (x : Part) (epoch : Nat) : Chip :=
  ((x.enginesOf epoch).filter c.staleEngine).foldl (fun c e =>
    (c.setBits (rg .calStatus (e / 64)) 1).count (rg .calEvtStale (e / 64))) c

/-- The STEP_TAG of a program's header, 0 where the header cannot be read: a host program is not read with Bus Master Enable 0
(13 R458, R472). -/
def Chip.headerTag (c : Chip) (p : Nat) (x : Part) (q : StepReq) : Nat :=
  if q.kind = 0 ∧ !c.busMaster (p + 1) then 0
  else
    match c.progRead p x q 0 64 with
    | .ok h => bytesLe h 16 8
    | .error _ => 0

/-- SEQ at a step's beginning: no op is dispatched, and TAG is the step's (08 R315, R316). -/
def Chip.seqBegin (c : Chip) (p tag : Nat) : Chip :=
  (c.setReg (rg .seqDispatch p) 0).setPair (rg .seqTagLo p) (rg .seqTagHi p) tag

/-- A step ends before any op runs (08 R309): index 0xFFFF. -/
def Chip.refuseStep (c : Chip) (p : Nat) (x : Part) (q : StepReq) (st : Status) : Chip :=
  let tag := c.headerTag p x q
  let c := (c.seqBegin p tag).setPart p { x with run := some { req := q, tag := tag, serving := q.ticket.isNone } }
  c.endStep p st programLevel

/-- Every engine of the partition that holds a bank in force has an Accord (11 R397). -/
def Part.calibrated (x : Part) (c : Chip) : Bool := x.enginesInForce.all (fun e => (c.engine e).inForce.isSome)

/-- The oldest queued step begins, if none runs (08 R279, R282). -/
def Chip.stepBegin (c : Chip) (p : Nat) : Chip :=
  match c.part p with
  | none => c
  | some x =>
    match x.run, x.queued with
    | none, q :: rest =>
      if c.power.state ≠ .live ∨ !x.calibrated c ∨ x.iftRun ∨ (q.kind = 0 ∧ !c.busMaster (p + 1)) then c
      else
        let r := c.progWords p x q ((0, 64) :: (List.range (c.progOps p x q)).map (fun i => (64 + 64 * i, 1)))
        let y := { x with queued := rest, stepNo := x.stepNo + 1 }
        if !r.2 then r.1.refuseStep p y q .integrityFail
        else
          let c := r.1
          match c.progCheck p x q with
          | .error e => c.refuseStep p y q e
          | .ok (h, ep) =>
            let st := c.newStep p y q h ep
            ((c.seqBegin p st.tag).setPart p { y with run := some st, stale := st.stale }).noteStale y ep
    | _, _ => c

def execStepBegin (p : Nat) (s : State) : Host.Outcome State Fault Refusal := s.onChip (·.stepBegin p)

/-! OP_DISPATCH (08 R281, R284) -/

/-- The mismatch of OPS_CRC (08 R281). -/
def Chip.crcFail (c : Chip) (p : Nat) : Chip := (c.setBits (rg .seqStatus p) 4).endStep p .malformed programLevel

/-- The next descriptor is read, checked and appended to its queue, unless its queue is full or a control op waits. -/
def Chip.opDispatch (c : Chip) (p : Nat) : Chip :=
  match c.running p with
  | none => c
  | some (x, st) =>
    let m := c.progWords p x st.req [(64 + 64 * st.next, 64)]
    if st.opCount ≤ st.next ∨ st.control.isSome ∨ Tbl.get [] .control st.queues ≠ [] ∨
        (st.req.kind = 0 ∧ !c.busMaster (p + 1)) then c
    else if !m.2 then m.1.endStep p .integrityFail programLevel
    else
      let c := m.1
      match c.progRead p x st.req (64 + 64 * st.next) 64 with
      | .error e => c.endStep p e programLevel
      | .ok d =>
        let o : Op := ⟨st.next, d⟩
        let crc := crcFeed st.crc d
        let last := decide (st.next + 1 = st.opCount)
        if last && (crc ^^^ 0xFFFFFFFF) != st.opsCrc then c.crcFail p
        else if !o.dispatchOk x then c.endStep p .malformed o.idx
        else
          match o.queue with
          | none => c
          | some q =>
            let l := Tbl.get [] q st.queues
            if 64 ≤ l.length then c
            else
              (c.setReg (rg .seqDispatch p) (BitVec.ofNat 32 (st.next + 1))).setStep p
                { st with next := st.next + 1, crc := crc, queues := Tbl.set q (l ++ [o]) st.queues }

def execOpDispatch (p : Nat) (s : State) : Host.Outcome State Fault Refusal := s.onChip (·.opDispatch p)

/-! Deadlines and the watchdog -/

/-- The lowest op not yet complete (08 R309). -/
def StepCtx.lowestOpen (st : StepCtx) : Nat :=
  let open_ := st.issued.map Issued.idx ++ st.queues.flatMap (fun q => q.2.map Op.idx) ++ (st.control.map (fun r => r.op.idx)).toList
  open_.foldl min st.next

/-- The step's deadline passes before action 3 of its COMMIT (08 R307, R309). -/
def Chip.stepDeadline (c : Chip) (p : Nat) : Chip :=
  match c.running p with
  | none => c
  | some (_, st) =>
    match st.deadline with
    | none => c
    | some d => if c.now < d then c else (c.setBits (rg .seqStatus p) 8).endStep p .timeout st.lowestOpen

def execStepDeadlineExpiry (p : Nat) (s : State) : Host.Outcome State Fault Refusal := s.onChip (·.stepDeadline p)

/-- A stall at issue has reached the watchdog limit (07 R262). -/
def Chip.sbTimeout (c : Chip) (p : Nat) (q : Queue) : Chip :=
  match c.running p with
  | none => c
  | some (_, st) =>
    match Tbl.find? q st.stalls, Tbl.get [] q st.queues with
    | some t, o :: _ =>
      if c.timeOn (queueDie p q) < t + 1000 * st.watchdog then c
      else ((c.setBits (rg .scrStatus p) 1).count (rg .scrEvtTimeout p)).endStep p .scoreboardTimeout o.idx
    | _, _ => c

def execScoreboardTimeout (p : Nat) (q : Queue) (s : State) : Host.Outcome State Fault Refusal := s.onChip (·.sbTimeout p q)

/-! FENCE (08 R303) -/

/-- The class of a queue as FENCE's WAIT numbers it. -/
def queueClass : Queue → Nat
  | .core _ => 0 | .stream _ => 1 | .attention => 2 | .mover _ => 3 | .control => 4

/-- Every op of a class before an index is complete. -/
def StepCtx.classDone (st : StepCtx) (cls idx : Nat) : Bool :=
  st.queues.all (fun q => queueClass q.1 != cls || q.2.all (fun o => decide (idx ≤ o.idx))) &&
  st.issued.all (fun i => queueClass i.queue != cls || decide (idx ≤ i.idx))

/-- Every op before an index is complete. -/
def StepCtx.allDone (st : StepCtx) (idx : Nat) : Bool := [0, 1, 2, 3].all (fun k => st.classDone k idx)

/-- A control op starts to wait. -/
def Chip.controlWait (c : Chip) (p : Nat) (st : StepCtx) (o : Op) : Chip := c.setStep p { st with control := some ⟨o, c.now⟩ }

def fenceOk (o : Op) : Bool := (decide (o.get 9 1 < 16) || o.get 9 1 == 0xFF) && decide (o.get 16 4 ≤ 1000000)

def Chip.fence (c : Chip) (p : Nat) : Chip :=
  c.issue p .control 0x30 (fun c _ st o => if fenceOk o then c.controlWait p st o else c.endStep p .malformed o.idx)

def execFence (p : Nat) (s : State) : Host.Outcome State Fault Refusal := s.onChip (·.fence p)

/-- The waiting control op of a step, if it has the opcode. -/
def StepCtx.waiting (st : StepCtx) (opcode : Nat) : Option ControlRec :=
  st.control.bind (fun r => if r.op.opcode = opcode then some r else none)

/-- A FENCE's conditions: the classes it names are complete and its arrival counter has reached the value. -/
def Chip.fenceHolds (c : Chip) (p : Nat) (st : StepCtx) (o : Op) : Bool :=
  let w := o.get 8 1
  let n := o.get 9 1
  [0, 1, 2, 3].all (fun k => !w.testBit k || st.classDone k o.idx) &&
  (n == 0xFF || decide (o.get 12 4 ≤ (c.reg (rg .seqArrive p n)).toNat))

/-- A waiting FENCE completes, and consumes its counter if CONSUME is set. -/
def Chip.fenceSatisfied (c : Chip) (p : Nat) : Chip :=
  match c.running p with
  | none => c
  | some (_, st) =>
    match st.waiting 0x30 with
    | none => c
    | some r =>
      if !c.fenceHolds p st r.op then c
      else
        let n := r.op.get 9 1
        let a := rg .seqArrive p n
        let c := if (r.op.get 10 1).testBit 0 && n != 0xFF then c.setReg a (c.reg a - BitVec.ofNat 32 (r.op.get 12 4)) else c
        c.setStep p { st with control := none }

def execFenceSatisfied (p : Nat) (s : State) : Host.Outcome State Fault Refusal := s.onChip (·.fenceSatisfied p)

/-- A FENCE's limit expires. -/
def Chip.fenceTimeout (c : Chip) (p : Nat) : Chip :=
  match c.running p with
  | none => c
  | some (_, st) =>
    match st.waiting 0x30 with
    | none => c
    | some r =>
      let lim := if r.op.get 16 4 = 0 then st.watchdog else r.op.get 16 4
      if c.now < r.since + 1000 * lim then c
      else ((c.setBits (rg .seqStatus p) 16).count (rg .seqEvtFenceTimeout p)).endStep p .timeout r.op.idx

def execFenceTimeout (p : Nat) (s : State) : Host.Outcome State Fault Refusal := s.onChip (·.fenceTimeout p)

/-! CHECK (08 R305, 12 R437) -/

def Chip.check (c : Chip) (p : Nat) : Chip := c.issue p .control 0x31 (fun c _ st o => c.controlWait p st o)

def execCheck (p : Nat) (s : State) : Host.Outcome State Fault Refusal := s.onChip (·.check p)

/-- A pass that is suspect (12 R434). -/
def PassRec.isSuspect (r : PassRec) : Bool := !r.suspect.isEmpty

/-- The refreshes that a CHECK with ABORT_ON_SUSPECT leaves: the checksum and reference columns of a suspect array, and every
column that clipped (12 R437). -/
def Chip.suspectRefresh (c : Chip) (r : PassRec) : Chip :=
  r.banks.foldl (fun c ab =>
    c.refresh ab.1 ab.2 ((if r.suspect.contains ab.1 then [1040, 1041, 1042, 1043] else []) ++
      r.clips.filterMap (fun k => if k / 1044 = ab.1 then some (k % 1044) else none))) c

/-- Earlier verdicts are final, or an earlier suspect op ends the step under ABORT_ON_SUSPECT. -/
def Chip.checkSatisfied (c : Chip) (p : Nat) : Chip :=
  match c.running p with
  | none => c
  | some (_, st) =>
    match st.waiting 0x31 with
    | none => c
    | some r =>
      let i := r.op.idx
      let earlier := st.passes.filter (fun x => decide (x.op < i))
      let closes := st.closes.filter (fun x => decide (x.op < i))
      let sus := earlier.filter PassRec.isSuspect
      if (r.op.get 8 1).testBit 0 && (!sus.isEmpty || closes.any (fun x => x.tripped)) then
        (sus.foldl Chip.suspectRefresh c).endStep p .integrityFail i
      else if st.queues.any (fun q => queueClass q.1 == 0 && q.2.any (fun o => decide (o.idx < i))) ||
          earlier.any (fun x => x.phase == .issued || (x.isSuspect && !x.arbitrated)) || closes.any (fun x => !x.closed) then c
      else c.setStep p { st with control := none }

def execCheckSatisfied (p : Nat) (s : State) : Host.Outcome State Fault Refusal := s.onChip (·.checkSatisfied p)

end Sys2Proof.Machine
end

