-- ==== Sys2Proof/Machine/Weights.lean ====
section
/-! DEFINITION. Shard images, builds, repairs, programming, epochs, digests, scrub and refreshes (10 R348-R377, 12 R441). -/

namespace Sys2Proof.Machine

/-! Late detections (12 R441) -/

/-- A periodic check found a fault in a bank in force: since is SEQ.STEPS at the last clean check of the kind on the unit. -/
def Chip.late (c : Chip) (p since : Nat) : Chip :=
  let was := (c.reg (rg .safeIntStatus p)).bit 6
  let c := ((c.setBits (rg .safeIntStatus p) 64).count (rg .safeEvtLate p)).setPair (rg .safeLateStepLo p) (rg .safeLateStepHi p) since
  if was then c else c.pageDue (p + 1)

/-! Image runs (10 R371) -/

def Epoch.live (e : Epoch) : Bool := decide (e.state ≠ .retired)

/-- A run is in use: its epoch is live, or a live epoch takes sections from it. -/
def Part.runLive (x : Part) (n : Nat) : Bool := x.epochs.any (fun e => e.live && (e.num == n || e.layers.any (fun l => l.2 == n)))

/-- The lowest free run of the image region, as an offset in the partition's view. -/
def Chip.freeRun (c : Chip) (p : Nat) (x : Part) (n : Nat) : Option Nat :=
  let lo := c.pair (rg .wgtImageBaseLo p) (rg .wgtImageBaseHi p)
  let hi := lo + c.field (rg .wgtImageSize p) 15 0 * 2 ^ 20
  let runs := x.epochs.filter (fun e => x.runLive e.num)
  let fits (a : Nat) : Bool := decide (lo ≤ a ∧ a + n ≤ hi) && runs.all (fun e => decide (a + n ≤ e.lo ∨ e.lo + e.size ≤ a))
  ((lo :: runs.map (fun e => e.lo + e.size)).filter fits).foldl (fun m a => some (min a (m.getD a))) none

/-- A bank is held by a live epoch (10 R372). -/
def Part.bankHeld (x : Part) (array bank : Nat) : Bool :=
  x.epochs.any (fun e => e.live && e.tiles.any (fun t => t.array == array && t.bank == bank))

/-! SHARD_BEGIN, SHARD_REPAIR, SHARD_DATA (10 R354-R356, R359) -/

def beginOk (r : List Byte) : Bool :=
  decide (bytesLe r 4 1 < 2) && bytesZero r 5 7 && bytesZero r 16 31 && bytesLe r 8 8 % 4096 == 0 && decide (4096 ≤ bytesLe r 8 8)

def Chip.shardBegin (c : Chip) (fn : Nat) : Chip :=
  c.start fn 0x10 (fun k => !(bytesLe k.record 4 1).testBit 0) (fun c p x t k =>
    let n := bytesLe k.record 0 4
    let size := bytesLe k.record 8 8
    if !beginOk k.record then c.complete t .malformed
    else if x.epochs.any (fun e => decide (e.state = .building ∨ e.state = .ready)) then c.complete t .state
    else if n ≤ x.lastEpoch then c.complete t .malformed
    else
      match c.freeRun p x size with
      | none => c.complete t .noResource
      | some lo =>
        let e : Epoch := { num := n, state := .building, lo := lo, size := size, digest := (k.record.drop 32).take 32 }
        ((c.zero (physOr x p lo) size).setPart p { x with epochs := x.epochs ++ [e], lastEpoch := n }).complete t .ok)

def execShardBegin (fn : Nat) (s : State) : Host.Outcome State Fault Refusal := s.onChip (·.shardBegin fn)

/-- The image of a live epoch is opened again; its bytes stand until written (log entry 44). -/
def Chip.shardRepair (c : Chip) (fn : Nat) : Chip :=
  c.start fn 0x10 (fun k => (bytesLe k.record 4 1).testBit 0) (fun c p x t k =>
    match x.epochNo (bytesLe k.record 0 4) with
    | none => c.complete t .malformed
    | some e =>
      if !beginOk k.record ∨ !e.live ∨ e.state = .building ∨ e.size ≠ bytesLe k.record 8 8 ∨ e.digest ≠ (k.record.drop 32).take 32 then
        c.complete t .malformed
      else if x.build.any (fun b => b.epoch == e.num) then c.complete t .state
      else (c.setPart p (x.setEpoch { e with repair := true, committed := false })).complete t .ok)

def execShardRepair (fn : Nat) (s : State) : Host.Outcome State Fault Refusal := s.onChip (·.shardRepair fn)

/-- Before the oldest accepted command of one opcode, a command of another opcode for the same epoch was accepted. -/
def Chip.epochCmdAhead (c : Chip) (fn opcode other : Nat) : Bool :=
  let acc := (c.func fn).accepted
  ((acc.find? (fun k => k.opcode == opcode)).map (fun k =>
    (acc.takeWhile (fun j => j.opcode != opcode)).any (fun j =>
      j.opcode == other && bytesLe j.record 0 4 == bytesLe k.record 0 4))).getD false

/-- Bytes of the image are copied from the host or from the partition's HBM. -/
def Chip.shardData (c : Chip) (fn : Nat) : Chip :=
  let late := c.epochCmdAhead fn 0x11 0x12
  c.start fn 0x11 (fun _ => true) (fun c p x t k =>
    let r := k.record
    let off := bytesLe r 8 8
    let n := bytesLe r 16 4
    let src := bytesLe r 24 8
    if n % 64 ≠ 0 ∨ n < 64 ∨ 2 ^ 30 < n ∨ 1 < bytesLe r 4 1 ∨ !(bytesZero r 5 7 && bytesZero r 20 23 && bytesZero r 32 63) then
      c.complete t .malformed
    else
      match x.epochNo (bytesLe r 0 4) with
      | none => c.complete t .state
      | some e =>
        if late ∨ e.committed ∨ (e.state ≠ .building ∧ !e.repair) then c.complete t .state
        else if e.size < off + n then c.complete t .malformed
        else
          let dst := physOr x p e.lo + off
          if bytesLe r 4 1 = 0 then
            match c.hostRead src n with
            | .error er => c.complete t (hostErrStatus er)
            | .ok bs => (c.write dst bs).complete t .ok
          else
            match x.range p src n with
            | some (a, 2) =>
              let r := c.dataMove p a dst n
              r.1.complete t (if r.2 then .ok else .integrityFail)
            | _ => c.complete t .denied)

def execShardData (fn : Nat) (s : State) : Host.Outcome State Fault Refusal := s.onChip (·.shardData fn)

/-! The image's sections (10 R348-R353) -/

/-- A layer directory entry. -/
structure LayerDir where
  layer : Nat
  wfmt : Nat
  flags : Nat
  scale : Nat
  first : Nat
  count : Nat
  olist : Nat
  bind : Nat
  outOff : Nat
  outBytes : Nat
  outCols : Nat
  deriving DecidableEq, Repr

def LayerDir.carry (d : LayerDir) : Bool := d.flags == 1

/-- A tile table entry. -/
structure TileRow where
  array : Nat
  bank : Nat
  rowTile : Nat
  payload : Nat
  deriving DecidableEq, Repr

def Chip.dirs (c : Chip) (img : Nat) : List LayerDir :=
  (List.range (min 1024 (c.le (img + 8) 4))).map (fun i =>
    let a := img + c.le (img + 24) 4 + 64 * i
    ⟨c.le a 2, c.le (a + 2) 1, c.le (a + 3) 1, c.le (a + 4) 4, c.le (a + 8) 4, c.le (a + 12) 4, c.le (a + 16) 2, c.le (a + 18) 2,
      c.le (a + 20) 4, c.le (a + 24) 4, c.le (a + 28) 2⟩)

def Chip.tileRows (c : Chip) (img : Nat) : List TileRow :=
  (List.range (min 65536 (c.le (img + 12) 4))).map (fun n =>
    let a := img + c.le (img + 28) 4 + 16 * n
    ⟨c.le a 2, c.le (a + 2) 1, c.le (a + 4) 2, c.le (a + 8) 8⟩)

/-- The header's rules. -/
def Chip.headerFault (c : Chip) (x : Part) (e : Epoch) (img : Nat) : Bool :=
  let layers := c.le (img + 8) 4
  let tiles := c.le (img + 12) 4
  let dir := c.le (img + 24) 4
  let tab := c.le (img + 28) 4
  c.le img 4 != 1 || c.le (img + 4) 4 != e.num || !decide (1 ≤ layers ∧ layers ≤ 1024) || !decide (tiles ≤ 4096 * x.units) ||
  c.le (img + 16) 8 != e.size || dir % 4096 != 0 || tab % 4096 != 0 || !decide (dir + 64 * layers ≤ e.size) ||
  !decide (tab + 16 * tiles ≤ e.size) || !bytesZero (c.read img 256) 32 255

/-- The cores that hold a tile of a layer. -/
def layerCores (p : Nat) (rows : List TileRow) (d : LayerDir) : List Nat :=
  (((rows.drop d.first).take d.count).map (fun t => (2048 * p + t.array) / 256)).eraseDups

/-- The channels of a list index as a layer's binding sees it: from this section, from another layer's section, or from the tables
of the layer's cores, which must agree (10 R352). -/
def Chip.imageList (c : Chip) (p img : Nat) (ds : List LayerDir) (rows : List TileRow) (d : LayerDir) (idx : Nat) : Option (List Nat) :=
  if idx = d.olist then c.outlierList (img + d.outOff)
  else
    match ds.find? (fun o => o.olist == idx && !o.carry) with
    | some o => c.outlierList (img + o.outOff)
    | none =>
      let ls := (layerCores p rows d).map (fun k =>
        if idx < (c.reg (rg .fixTableCfg k)).field 31 22 then c.outlierList (coreAt k ((c.reg (rg .fixOlistBase k)).toNat + 64 * idx)) else none)
      match ls with
      | [] => none
      | l :: rest => if rest.all (· == l) then l else none

/-- A block pair of an outlier section: the binding's slice, its channels, and where its q and g lie and go. -/
structure OutBlock where
  slice : Nat
  chans : List Nat
  qsrc : Nat
  gsrc : Nat
  q : Nat
  g : Nat
  deriving DecidableEq, Repr

/-- The blocks of a layer's outlier section, or none where a list, the binding or a block breaks its rule (05 R153-R155, 10 R352). -/
def Chip.outBlocks (c : Chip) (p img : Nat) (ds : List LayerDir) (rows : List TileRow) (d : LayerDir) : Option (List OutBlock) :=
  let sec := img + d.outOff
  let b := c.read (sec + 64) 64
  if !bytesZero b 48 63 || (c.outlierList sec).isNone then none
  else
    ((List.range 4).foldl (fun (acc : Option (List OutBlock × Nat)) k =>
      match acc with
      | none => none
      | some (l, at_) =>
        let li := bytesLe b (12 * k) 2
        let q := bytesLe b (12 * k + 4) 4
        let g := bytesLe b (12 * k + 8) 4
        if bytesLe b (12 * k + 2) 2 ≠ 0 then none
        else if li = 0xFFFF then some (l, at_)
        else
          match c.imageList p img ds rows d li with
          | none => none
          | some ch =>
            let qn := ch.length * d.outCols
            if q % 64 ≠ 0 ∨ g % 64 ≠ 0 ∨ 0x800000 < q + qn ∨ 0x800000 < g + 4 * ch.length then none
            else some (l ++ [⟨k, ch, at_, at_ + qn, q, g⟩], at_ + qn + 4 * ch.length)) (some ([], sec + 128))).map Prod.fst

/-- The rules of a directory entry (10 R349, R352, R353, 03 R98); force is the epoch in force. -/
def Chip.layerFault (c : Chip) (p img : Nat) (e : Epoch) (force : Option Epoch) (ds : List LayerDir) (rows : List TileRow) (i : Nat)
    (d : LayerDir) : Bool :=
  let a := img + c.le (img + 24) 4 + 64 * i
  let rest := !bytesZero (c.read a 64) 30 63 || !decide (d.layer < 1024) || !decide (d.wfmt < 3) || !decide (d.flags < 2) ||
    d.scale / 2 ^ 23 % 256 == 255 || !decide (d.first + d.count ≤ rows.length) ||
    (ds.zipIdx.any (fun o => decide (o.2 < i) && (o.1.layer == d.layer ||
      (decide (0 < d.count ∧ 0 < o.1.count) && decide (d.first < o.1.first + o.1.count ∧ o.1.first < d.first + d.count)))))
  rest || (d.olist == 0xFFFF && d.bind != 0xFFFF) ||
  (if d.carry then
    d.count != 0 || d.outBytes != 0 || d.outCols != 0 || !force.any (fun f => f.layers.any (fun l => l.1 == d.layer))
  else if d.olist = 0xFFFF then d.outBytes != 0 || d.outCols != 0
  else
    d.outOff % 4096 != 0 || !decide (d.outOff + d.outBytes ≤ e.size) ||
    (match c.outBlocks p img ds rows d with
    | none => true
    | some bs =>
      d.outBytes != 128 + (bs.map (fun b => b.chans.length * (d.outCols + 4))).sum ||
      !(if bs.isEmpty then d.outCols == 0 else d.outCols == 512 || d.outCols == 1024 || d.outCols == 2048 || d.outCols == 4096)))

/-- The layer that names a tile. -/
def layerOf (ds : List LayerDir) (n : Nat) : Option LayerDir := ds.find? (fun d => decide (d.first ≤ n ∧ n < d.first + d.count))

/-- The rules of a tile table entry and its payload (10 R350-R352, 03 R89, R97). -/
def Chip.tileFault (c : Chip) (p img : Nat) (e : Epoch) (ds : List LayerDir) (rows : List TileRow) (n : Nat) (t : TileRow) : Bool :=
  match layerOf ds n with
  | none => true
  | some d =>
    let at_ := img + t.payload
    let scales := at_ + codesBytes d.wfmt
    let outRows := if d.olist = 0xFFFF then [] else
      ((((c.outBlocks p img ds rows d).getD []).find? (fun b => b.slice == t.rowTile % 4)).map OutBlock.chans).getD []
    !decide (t.bank < 2) || c.le (img + c.le (img + 28) 4 + 16 * n + 3) 1 != 0 || t.payload % 4096 != 0 ||
    !decide (t.payload + payloadBytes d.wfmt ≤ e.size) ||
    rows.zipIdx.any (fun o => decide (o.2 < n) && o.1.array == t.array && o.1.bank == t.bank) ||
    (d.wfmt == 1 && (c.listedGroups at_ 1).any (fun g => (List.range 8).any (fun i => c.le (at_ + 5 * g) 5 / 2 ^ (5 * i) % 32 == 16))) ||
    c.mem.any (fun b => decide (scales ≤ b.1 ∧ b.1 < scales + 4 * wCols d.wfmt) && decide (0x7F ≤ b.2.toNat)) ||
    (!outRows.isEmpty && (c.tileCodes at_ d.wfmt).any (fun k => outRows.contains k.2.1))

/-- The tile that a row of the table describes. -/
def tileOf (p img : Nat) (e : Epoch) (d : LayerDir) (t : TileRow) : Tile :=
  { array := 2048 * p + t.array, bank := t.bank, layer := d.layer, wfmt := d.wfmt, scale := BitVec.ofNat 32 d.scale, outCols := d.outCols,
    payload := img + t.payload, run := e.num, rowTile := t.rowTile, bind := d.bind }

/-- The result word of a failed commit: a layer or a tile (13 R472). -/
def layerWord (i : Nat) : Nat := 2 ^ 31 + i % 65536
def tileWord (n : Nat) : Nat := n % 65536

/-- Steps 2 to 4 of SHARD_COMMIT: the first failure with its result word, or nothing (10 R357). -/
def Chip.commitFault (c : Chip) (p : Nat) (x : Part) (e : Epoch) : Option (Status × Nat) :=
  let img := physOr x p e.lo
  if c.headerFault x e img then some (.malformed, 0)
  else
    let ds := c.dirs img
    let rows := c.tileRows img
    match ds.zipIdx.find? (fun d => c.layerFault p img e (x.epochIn .inForce) ds rows d.2 d.1) with
    | some d => some (.malformed, layerWord d.2)
    | none =>
      match rows.zipIdx.find? (fun t => c.tileFault p img e ds rows t.2 t.1) with
      | some t => some (.malformed, tileWord t.2)
      | none =>
        match rows.zipIdx.find? (fun t => decide (2048 * x.units ≤ t.1.array)) with
        | some t => some (.denied, tileWord t.2)
        | none =>
          match rows.zipIdx.find? (fun t => x.bankHeld (2048 * p + t.1.array) t.1.bank) with
          | some t => some (.noResource, tileWord t.2)
          | none =>
            (ds.zipIdx.find? (fun d => !d.1.carry && d.1.olist != 0xFFFF && (layerCores p rows d.1).any (fun k =>
              let cfg := c.reg (rg .fixTableCfg k)
              decide (cfg.field 31 22 ≤ d.1.olist ∨ cfg.field 21 11 ≤ d.1.bind)))).map (fun d => (Status.noResource, layerWord d.2))

/-- What a commit that passed its checks holds: its tiles in table order and its layers with the runs they lie in. -/
def Chip.committed (c : Chip) (p : Nat) (x : Part) (e : Epoch) : Epoch :=
  let img := physOr x p e.lo
  let ds := c.dirs img
  let own := (c.tileRows img).zipIdx.filterMap (fun t => (layerOf ds t.2).map (fun d => tileOf p img e d t.1))
  let from_ (d : LayerDir) : Nat := ((x.epochIn .inForce).map (fun f => Tbl.get f.num d.layer f.layers)).getD e.num
  let carried := ((x.epochIn .inForce).map (fun f =>
    f.tiles.filter (fun t => ds.any (fun d => d.carry && d.layer == t.layer)))).getD []
  { e with tiles := own ++ carried, layers := ds.map (fun d => (d.layer, if d.carry then from_ d else e.num)), committed := true }

/-! SHARD_COMMIT and BANK_PROGRAM_DONE (10 R357, R359, R361-R363, R366) -/

/-- A failed commit discards its epoch and frees its run; the completion names the first failing tile or layer. -/
def Chip.discardEpoch (c : Chip) (p n : Nat) : Chip :=
  c.updPart p (fun x => { x with
    epochs := x.epochs.filter (fun e => e.num != n), build := if x.build.any (fun b => b.epoch == n) then none else x.build })

/-- Step 6: lists, bindings and blocks are written to the cores that hold tiles of their layers. -/
def Chip.writeOutliers (c : Chip) (p : Nat) (x : Part) (e : Epoch) : Chip :=
  let img := physOr x p e.lo
  let ds := c.dirs img
  let rows := c.tileRows img
  (ds.filter (fun d => !d.carry && d.olist != 0xFFFF)).foldl (fun c d =>
    let sec := img + d.outOff
    (layerCores p rows d).foldl (fun c k =>
      let c := c.write (coreAt k ((c.reg (rg .fixOlistBase k)).toNat + 64 * d.olist)) (c.read sec 64)
      let c := c.write (coreAt k ((c.reg (rg .fixBindBase k)).toNat + 64 * d.bind)) (c.read (sec + 64) 64)
      ((c.outBlocks p img ds rows d).getD []).foldl (fun c b =>
        let c := c.write (coreAt k b.q) (c.read b.qsrc (b.chans.length * d.outCols))
        c.write (coreAt k b.g) (c.read b.gsrc (4 * b.chans.length))) c) c) c

/-- Remaps that waited for a valid image resume (10 R359). -/
def Chip.resumeRemaps (c : Chip) (p n : Nat) (tiles : List Tile) : Chip :=
  (tiles.filter (fun t => t.run == n)).foldl (fun c t =>
    let b := c.bank t.array t.bank
    b.remapWait.foldl (fun c col => c.remapLogical p t.array t.bank col) (c.setBank t.array t.bank { b with remapWait := [] })) c

/-- The arrays that a partition's epochs hold. -/
def Part.arrays (x : Part) (p : Nat) : List Nat :=
  ((x.epochs.flatMap Epoch.tiles).map Tile.array).eraseDups.filter (fun a => decide (2048 * p ≤ a ∧ a < 2048 * (p + x.units)))

/-- A build or a repair whose banks are all done ends: the epoch is READY, or its image is valid again. -/
def Chip.buildDone (c : Chip) (p : Nat) : Chip :=
  match c.part p with
  | none => c
  | some x =>
    match x.build with
    | none => c
    | some b =>
      match x.epochNo b.epoch with
      | none => c
      | some e =>
        if !b.todo.isEmpty then c
        else if e.repair then
          let c := (x.arrays p).foldl Chip.keepTurn c
          let c := c.setPart p { x.setEpoch { e with repair := false, committed := false, invalid := false, verified := true,
                                                     lastCheck := c.liveTime, cleanAt := x.commits } with build := none }
          ((c.resumeRemaps p e.num (x.epochs.flatMap Epoch.tiles)).restBanks p).complete b.ticket .ok
        else
          let c := c.writeOutliers p x e
          let c := c.setPart p { x.setEpoch { e with state := .ready, committed := false, lastCheck := c.liveTime, cleanAt := x.commits } with build := none }
          c.complete b.ticket .ok

/-- A commit fails: a build's epoch is discarded, and a repair ends with its image invalid. -/
def Chip.commitFails (c : Chip) (p : Nat) (t : Ticket) (e : Epoch) (st : Status) (word : Nat := 0) : Chip :=
  (if e.repair then c.updPart p (fun x => { (x.setEpoch { e with repair := false, committed := false, invalid := true }) with build := none })
   else c.discardEpoch p e.num).complete t st word

/-- SHARD_COMMIT, once the SHARD_DATA of its epoch that were accepted before it are complete and no other commit runs. -/
def Chip.shardCommit (c : Chip) (fn : Nat) : Chip :=
  if c.epochCmdAhead fn 0x12 0x11 || ((c.partOf fn).bind c.part).any (fun x => x.build.isSome) then c
  else
    c.start fn 0x12 (fun _ => true) (fun c p x t k =>
      if !bytesZero k.record 4 63 then c.complete t .malformed
      else
        match x.epochNo (bytesLe k.record 0 4) with
        | none => c.complete t .state
        | some e =>
          let img := physOr x p e.lo
          if e.committed ∨ (e.state ≠ .building ∧ !e.repair) then c.complete t .state
          else
          let r := c.deviceRead p [(img, img + e.size)]
          if !r.2 || sha256Of (c.read img e.size) != e.digest then r.1.commitFails p t e .integrityFail
          else
          let c := r.1
          if e.repair then
            let b : Build := { epoch := e.num, ticket := t, todo := e.tiles }
            (c.setPart p { x.setEpoch { e with committed := true } with build := some b }).buildDone p
          else
            match c.commitFault p x e with
            | some (st, w) => c.commitFails p t e st w
            | none =>
              let e := c.committed p x e
              let b : Build := { epoch := e.num, ticket := t, todo := e.tiles.filter (fun y => y.run == e.num) }
              (c.setPart p { x.setEpoch e with build := some b }).buildDone p)

def execShardCommit (fn : Nat) (s : State) : Host.Outcome State Fault Refusal := s.onChip (·.shardCommit fn)

/-- A tile's round: banks of one unit are programmed 256 at a time, in ascending array index (10 R362); of all the tiles of a build,
those of the running round are being programmed. -/
def roundOf (own : List Tile) (t : Tile) : Nat :=
  (own.filter (fun u => u.array / 2048 == t.array / 2048 && decide (2 * u.array + u.bank < 2 * t.array + t.bank))).length / 256

/-- No bank of the same unit is still to program in an earlier round. -/
def inRound (own todo : List Tile) (t : Tile) : Bool :=
  !todo.any (fun u => u.array / 2048 == t.array / 2048 && decide (roundOf own u < roundOf own t))

/-- The bytes of a tile's payload. -/
def Tile.bytes (t : Tile) : List (Nat × Nat) := [(t.payload, t.payload + payloadBytes t.wfmt)]

/-- A bank is programmed and verified, with the physical columns that failed; in a repair, it is verified, with the columns that
differ from the image. A poisoned word of its tile fails the commit (12 R426; log entry 84). -/
def Chip.bankProgramDone (c : Chip) (p array bank : Nat) (badCols : List Nat) : Chip :=
  match c.part p with
  | none => c
  | some x =>
    match x.build with
    | none => c
    | some b =>
      match x.epochNo b.epoch, b.todo.find? (fun t => t.array == array && t.bank == bank) with
      | some e, some t =>
        let next : Build := { b with todo := b.todo.filter (· != t), done := b.done + 1 }
        let own := e.tiles.filter (fun u => u.run == e.num)
        let word := tileWord (own.takeWhile (· != t)).length
        if !e.repair && !inRound own b.todo t then c
        else
          let m := c.imageRead p t.run t.bytes
          if !m.2 then m.1.commitFails p b.ticket e .integrityFail word
          else if e.repair then ((m.1.refresh array bank badCols).updPart p (fun x => { x with build := some next })).buildDone p
          else
            let c := m.1
            let r := c.buildRemap array (c.bank array bank).merged badCols
            let c := c.count (rg .wgtEvtRemap p) r.count
            if !r.ok then (c.setBank array bank r.bank).commitFails p b.ticket e .noResource word
            else
              let nb := { r.bank.programmed t (sliceCodes t.wfmt (c.tileCodes t.payload t.wfmt)) with cleanAt := x.commits, scrubbed := [], measured := false }
              (((c.setBank array bank nb).noteWear p nb).updPart p (fun x => { x with build := some next })).buildDone p
      | _, _ => c

def execBankProgramDone (p array bank : Nat) (badCols : List Nat) (s : State) : Host.Outcome State Fault Refusal :=
  s.onChip (·.bankProgramDone p array bank badCols)

/-! Epochs (10 R373-R375) -/

/-- A switch is requested: at the next boundary, or at once where no step runs. -/
def Chip.epochSwitch (c : Chip) (fn : Nat) : Chip :=
  c.start fn 0x13 (fun _ => true) (fun c p x t k =>
    if !bytesZero k.record 4 63 then c.complete t .malformed
    else
      match x.epochNo (bytesLe k.record 0 4) with
      | none => c.complete t .state
      | some e =>
        if e.state ≠ .ready ∨ (x.epochIn .retiring).isSome then c.complete t .state
        else
          let c := c.setPart p { x with switch := x.switch ++ [(e.num, t)] }
          if x.run.isSome then c else c.switchEpoch p)

def execEpochSwitch (fn : Nat) (s : State) : Host.Outcome State Fault Refusal := s.onChip (·.epochSwitch fn)

def Chip.epochRetire (c : Chip) (fn : Nat) : Chip :=
  c.start fn 0x14 (fun _ => true) (fun c p x t k =>
    if !(bytesZero k.record 4 7 && bytesZero k.record 16 63) then c.complete t .malformed
    else
      match x.epochNo (bytesLe k.record 0 4) with
      | none => c.complete t .state
      | some e =>
        if e.state ≠ .retiring then c.complete t .state
        else
          let c := (c.setPart p (x.setEpoch { e with retireAsked := true, retireAt := some (bytesLe k.record 8 8) })).complete t .ok
          if x.run.isSome then c else c.retire p)

def execEpochRetire (fn : Nat) (s : State) : Host.Outcome State Fault Refusal := s.onChip (·.epochRetire fn)

/-- While no step runs, an epoch retires as soon as its deadline passes or nothing selects it. -/
def Chip.epochRetireDeadline (c : Chip) (p : Nat) : Chip :=
  if (c.part p).any (fun x => x.run.isNone) then c.retire p else c

def execEpochRetireDeadline (p : Nat) (s : State) : Host.Outcome State Fault Refusal := s.onChip (·.epochRetireDeadline p)

/-! Digests, scrub and refreshes (10 R358, R360, R367, R368) -/

/-- A bank is held by the epoch in force. -/
def Part.bankInForce (x : Part) (array bank : Nat) : Bool :=
  (x.epochIn .inForce).any (fun e => e.tiles.any (fun t => t.array == array && t.bank == bank))

/-- The periodic check of a live image, once its period has passed. -/
def Chip.digestCheck (c : Chip) (p n : Nat) : Chip :=
  match c.part p with
  | none => c
  | some x =>
    match x.epochNo n with
    | none => c
    | some e =>
      let period := 3600 * 10 ^ 9 * c.field (rg .wgtDigestCfg p) 7 0
      if e.state = .building ∨ !x.runLive n ∨ c.liveTime < e.lastCheck + period ∨ c.power.state ≠ .live then c
      else
        let img := physOr x p e.lo
        let r := (c.setPair (rg .wgtDigestTimeLo p) (rg .wgtDigestTimeHi p) c.now).imageRead p n [(img, img + e.size)]
        let c := r.1.updPart p (fun x => { x with epochs := x.epochs.map (fun f => if f.num = n then { f with lastCheck := c.liveTime } else f) })
        if !r.2 then c
        else if sha256Of (c.read img e.size) == e.digest then
          c.updPart p (fun x => { x with epochs := x.epochs.map (fun f => if f.num = n then { f with cleanAt := x.commits } else f) })
        else
          let c := ((c.setBits (rg .wgtStatus p) 1).count (rg .wgtEvtDigestFail p)).updPart p (fun x => x.invalidate n)
          if (x.epochIn .inForce).any (fun f => f.num == n || f.layers.any (fun l => l.2 == n)) then c.late p e.cleanAt else c

def execDigestCheck (p epoch : Nat) (s : State) : Host.Outcome State Fault Refusal := s.onChip (·.digestCheck p epoch)

/-- A physical column that a pass may drive or a check reads: a logical column's, the checksum column or a reference. -/
def Bank.inUse (b : Bank) (phys : Nat) : Bool := decide (1040 ≤ phys) || (b.merged.logicalOf phys).isSome

/-- A row of a bank of a live epoch is read back; bad names the physical columns whose level is wrong. -/
def Chip.scrubRead (c : Chip) (p array bank row : Nat) (bad : List Nat) : Chip :=
  match c.part p with
  | none => c
  | some x =>
    if !x.bankHeld array bank ∨ c.power.state ≠ .live then c
    else
      let b := c.bank array bank
      let wrong := bad.filter b.inUse
      if wrong.isEmpty then c.setBank array bank { b with scrubbed := Tbl.set row x.commits b.scrubbed }
      else
        let c := (c.count (rg .wgtEvtScrub p) wrong.length).refresh array bank wrong
        if x.bankInForce array bank then c.late p (Tbl.get b.cleanAt row b.scrubbed) else c

def execScrubRead (p array bank row : Nat) (bad : List Nat) (s : State) : Host.Outcome State Fault Refusal :=
  s.onChip (·.scrubRead p array bank row bad)

/-- The end of the refresh of a column that was found wrong is noted (12 R436). -/
def Bank.noteMended (b : Bank) (col now : Nat) : Bank :=
  if Tbl.find? col b.foundWrong = some none then { b with foundWrong := Tbl.set col (some now) b.foundWrong } else b

/-- The refresh that runs on an array ends; a stuck column is remapped, and one that stands for none is let go. A column whose image
holds a poisoned word is not refreshed (12 R426). -/
def Chip.refreshDone (c : Chip) (p array bank col : Nat) (stuck : Bool) : Chip :=
  match c.part p with
  | none => c
  | some x =>
    let b := c.bank array bank
    if c.refreshRuns array ≠ some (bank, col) ∨ array / 2048 < p ∨ p + x.units ≤ array / 2048 ∨ c.power.state ≠ .live then c
    else
      let m := c.imageRead p b.run (b.imageOf col)
      if !m.2 then m.1
      else
        let b := { b with refreshing := b.refreshing.filter (· != col), rewrites := b.rewrites + 1 }
        let c := m.1.noteWear p b
        (if stuck then (c.setBank array bank b).remapColumn p array bank col
         else (c.setBank array bank { b.noteMended col x.commits with zeroTrims := b.zeroTrims ++ [col] }).count (rg .wgtEvtRefresh p)).restBanks p

def execRefreshDone (p array bank col : Nat) (stuck : Bool) (s : State) : Host.Outcome State Fault Refusal :=
  s.onChip (·.refreshDone p array bank col stuck)

end Sys2Proof.Machine
end

