-- ==== Sys2Proof/Machine/Calibration.lean ====
section
/-! DEFINITION. Accords, calibration slots, CAL_REQUEST and the in-field test (11 R389-R398, 05 R159, 12 R441-R444, 13 R475). -/

namespace Sys2Proof.Machine

/-! Converters (11 R395) -/

/-- A converter fails for good: the columns it serves, or that a spare it serves stands for, are remapped in every bank that holds a live
epoch. ENG.STATUS.CONV_FAULT is set by each Accord that finds it (02 R44), and by the in-field test that does (DESIGN CHOICE, log
entry 77). -/
def Chip.converterFails (c : Chip) (array conv : Nat) : Chip :=
  let k := array / 256
  let c := c.setBits (rg .engStatus k) 8
  if c.convFailed.contains (array, conv) then c
  else
    let c := ({ c with convFailed := c.convFailed ++ [(array, conv)] }).count (rg .calEvtConvFail k)
    match c.ownerOfUnit (array / 2048) with
    | none => c
    | some p =>
      if 520 ≤ conv then c
      else ((c.liveBanks (array / 4)).filter (fun b => b.1 == array)).foldl (fun c b =>
        (c.remapColumn p b.1 b.2 (2 * conv)).remapColumn p b.1 b.2 (2 * conv + 1)) c

/-! A new Accord (11 R389-R393, 05 R159) -/

/-- The columns whose needed trims reach the limit of R159, in banks that hold a live epoch. -/
def Chip.trimLimits (c : Chip) (e : Nat) : List (Nat × Nat × Nat) := (c.coveredColumns e).filter (fun k => c.trimLimit k.1 k.2.1 k.2.2)

/-- The converters of an engine whose measured offset is beyond ±3 (02 R44), by position. -/
def Engine.wildConverters (g : Engine) : List Nat := (List.range 2088).filter (fun k => decide (3 < (g.measuredZ (k / 522) (k % 522)).natAbs))

/-- A new Accord of an engine is due: its period has passed, its temperature has moved by 4 °C, or it has no Accord yet. -/
def Chip.accordDue (c : Chip) (e : Nat) : Bool :=
  let g := c.engine e
  c.power.state == .live && !c.power.inReset &&
  ((g.inForce.isNone && g.ready.isNone) || decide (g.readyAt + 1000000 * g.cfg.field 8 0 ≤ c.now) ||
    g.inForce.any (fun a => decide (64 ≤ (c.coreTemp (e / 64) - a.temp).natAbs)))

/-- CAL_REQUESTs whose engines all hold an Accord whose measurement began since they were accepted complete (13 R475). -/
def Chip.calDone (c : Chip) : Chip :=
  let done (w : Ticket × Nat × Nat × Nat) : Bool := (List.range w.2.2.2).all (fun i =>
    let g := c.engine (w.2.2.1 + i)
    (g.ready.or g.inForce).any (fun a => decide (w.2.1 ≤ a.began)))
  (c.calWait.filter done).foldl (fun c w => c.complete w.1 .ok) { c with calWait := c.calWait.filter (fun w => !done w) }

/-- The Accord that an engine's readings make. -/
def Chip.accordOf (c : Chip) (e : Nat) : Accord :=
  { m := c.measure e, temp := c.coreTemp (e / 64), time := c.now, began := (c.engine e).readyAt }

/-- An engine's measurement ends and the next begins. -/
def Engine.measured (g : Engine) (a : Accord) : Engine :=
  { g with ready := some a, readyAt := a.time, remeasure := false, slots := [], refs := [], readings := [] }

/-- A new Accord is READY: it comes into force at the next boundary, or at once. It has measured the columns refreshed before it. -/
def Chip.newAccord (c : Chip) (e : Nat) : Chip :=
  let k := e / 64
  let wild := (c.engine e).wildConverters
  let limits := c.trimLimits e
  let c := c.setEngine e ((c.engine e).measured (c.accordOf e))
  let c := (c.liveBanks e).foldl (fun c b => c.setBank b.1 b.2 { c.bank b.1 b.2 with zeroTrims := [] }) c
  let c := wild.foldl (fun c z => c.converterFails (4 * e + z / 522) (z % 522)) c
  let c := limits.foldl (fun c t =>
    ((c.refresh t.1 t.2.1 [t.2.2]).setBits (rg .fixStatus k) 8).count (rg .fixEvtTrimLimit k)) c
  let c := if ((c.ownerOfUnit (e / 512)).bind c.part).any (fun x => x.run.isSome) then c else c.accordInForce e
  (((c.ownerOfUnit (e / 512)).map c.restBanks).getD c).calDone

/-- CAL_REQUEST waits for new Accords on every engine of the function's partition, or of the package. -/
def Chip.calRequest (c : Chip) (fn : Nat) : Chip :=
  match takeFirst (fun k => k.opcode == 0x30) (c.func fn).accepted with
  | none => c
  | some (k, rest) =>
    let c := c.updFunc fn (fun f => { f with accepted := rest })
    let t := k.ticket fn (c.func fn).era
    if fn = 0 then ({ c with calWait := c.calWait ++ [(t, k.time, 0, 8192)] }).calDone
    else
      match (c.partOf fn).bind (fun p => (c.part p).map (fun x => (p, x))) with
      | none => c.complete t .denied
      | some (p, x) => ({ c with calWait := c.calWait ++ [(t, k.time, firstEngine p, 512 * x.units)] }).calDone

def execCalRequest (fn : Nat) (s : State) : Host.Outcome State Fault Refusal := s.onChip (·.calRequest fn)

/-! Calibration slots (02 R61, 11 R390, 12 R441) -/

/-- A column's reading lies too far from what it should be; values are c × 2^r under R45 (DEDUCED, log entry 83). -/
def Chip.columnBad (c : Chip) (k : CalSlot) (phys : Nat) : Bool :=
  let z := (c.engine (k.array / 4)).zOf (k.array % 4) phys
  let off := ((k.code phys - z) * 2 ^ k.rcode - k.expected (c.bank k.array k.bank) phys).natAbs
  decide (40 * 2 ^ k.rcode + k.rows.length < 5 * off)

/-- A zero-reference reading lies beyond ±4 LSB of the converter's offset code. -/
def Chip.zeroBad (c : Chip) (k : CalSlot) (conv code : Nat) : Bool :=
  decide (4 < (k.code code - Tbl.get 0 (k.array % 4 * 522 + conv) (c.engine (k.array / 4)).zc).natAbs)

/-- The units that a slot reads, and those of them whose reading is bad: columns in use by array, bank and number, converters by array, 2
and number. -/
def Chip.slotUnits (c : Chip) (k : CalSlot) : List ((Nat × Nat × Nat) × Bool) :=
  match k.source with
  | .columns => ((List.range 1044).filter (c.bank k.array k.bank).inUse).map (fun n => ((k.array, k.bank, n), c.columnBad k n)) ++
      [((k.array, 2, 520), c.zeroBad k 520 1041)]
  | .zero => (List.range 522).map (fun n => ((k.array, 2, n), c.zeroBad k n n))
  | _ => []

/-- The commits at the last clean reading of a unit before a slot. -/
def Engine.lastClean (g : Engine) (b : Bank) (u : Nat × Nat × Nat) : Nat := Tbl.get (Tbl.get b.cleanAt (u.1, u.2.1) g.slotAt) u g.clean

/-- A bad reading is a detection: any of a converter, the fourth of a column in an Accord period. -/
def Engine.detects (g : Engine) (u : Nat × Nat × Nat) : Bool := u.2.1 == 2 || Tbl.get 0 u g.readings == 3

/-- The judged units of a slot are noted; now is the partition's committed steps. -/
def Engine.noteSlot (g : Engine) (b : Bank) (now : Nat) (us : List ((Nat × Nat × Nat) × Bool)) : Engine :=
  let g' := us.foldl (fun h u =>
    if u.2 then { h with
      readings := if u.1.2.1 = 2 then h.readings else Tbl.set u.1 (if g.detects u.1 then 0 else Tbl.get 0 u.1 g.readings + 1) h.readings
      clean := Tbl.set u.1 (g.lastClean b u.1) h.clean }
    else { h with clean := Tbl.del u.1 h.clean }) g
  { g' with slotAt := (us.map (fun u => (u.1.1, u.1.2.1))).eraseDups.foldl (fun t k => Tbl.set k now t) g'.slotAt }

/-- A slot's readings are kept for the engine's next Accord. -/
def Engine.takeSlot (g : Engine) (k : CalSlot) : Engine := { g with slots := g.slots ++ [k] }

/-- A slot drives its pattern and takes its readings, in a bank that holds a live epoch or of a reference; each is judged as it is taken,
and a detection in a bank in force is late. -/
def Chip.calibrationSlot (c : Chip) (k : CalSlot) : Chip :=
  let e := k.array / 4
  let p := c.ownerOfUnit (k.array / 2048)
  let x := (p.bind c.part).getD {}
  if c.power.state ≠ .live ∨ (k.source = .columns ∧ !(c.liveBanks e).contains (k.array, k.bank)) then c
  else
    let g := c.engine e
    let b := c.bank k.array k.bank
    let us := c.slotUnits k
    let found := (us.filter (fun u => u.2 && g.detects u.1 &&
      (if u.1.2.1 = 2 then x.bankInForce k.array 0 || x.bankInForce k.array 1 else x.bankInForce k.array k.bank))).map (fun u => g.lastClean b u.1)
    let c := c.setEngine e ((g.noteSlot b x.commits us).takeSlot k)
    match p with
    | none => c
    | some p => found.foldl (fun c since => c.late p since) c

/-- Slots of an engine are taken one after the other; one of another engine is none. -/
def Chip.takeSlots (c : Chip) (e : Nat) (ks : List CalSlot) : Chip := (ks.filter (fun k => k.array / 4 == e)).foldl Chip.calibrationSlot c

def execCalibrationSlot (engine : Nat) (slot : CalSlot) (s : State) : Host.Outcome State Fault Refusal := s.onChip (·.takeSlots engine [slot])

/-! ACCORD_READY (11 R391) -/

/-- The last slots of a measurement are taken. It is complete once an Accord is due and the readings that it needs have been taken. -/
def Chip.accordReady (c : Chip) (e : Nat) (ks : List CalSlot) : Chip :=
  let c := c.takeSlots e ks
  if c.accordDue e && c.measuredEnough e then c.newAccord e else c

def execAccordReady (engine : Nat) (slots : List CalSlot) (s : State) : Host.Outcome State Fault Refusal :=
  s.onChip (·.accordReady engine slots)

/-! The in-field test (12 R442-R444) -/

/-- The partition unit that a failing unit lies in. -/
def faultUnit : TestFault → Nat
  | .converter array _ => array / 2048
  | .row array => array / 2048
  | .engine e => e / 512
  | .fixative core => core / 8
  | .stream su => su / 2

/-- A failing unit is failed or taken out of service (12 R444). -/
def Chip.takeOut (c : Chip) (f : TestFault) : Chip :=
  match f with
  | .converter array conv => c.converterFails array conv
  | .row array =>
    let g := c.engine (array / 4)
    c.setEngine (array / 4) { g with failedRows := if g.failedRows.contains array then g.failedRows else g.failedRows ++ [array] }
  | .engine e => c.setEngine e { c.engine e with outOfService := true }
  | .fixative core => c.setCore core { c.core core with outOfService := true }
  | .stream su => { c with streamDown := if c.streamDown.contains su then c.streamDown else c.streamDown ++ [su] }

/-- What failed in a test, each with the commits at its last clean one; now is the commits at the test before (12 R441). -/
def Part.badUnits (x : Part) (fs : List TestFault) : List (TestFault × Nat) :=
  fs.map (fun f => (f, ((x.iftBad.find? (fun e => decide (e.1 = f))).map Prod.snd).getD (x.commits - x.iftSince)))

/-- The test of a partition's engines: due with no step waiting to begin, or begun at a boundary. -/
def Chip.iftRun (c : Chip) (p : Nat) (faults : List TestFault) : Chip :=
  match c.part p with
  | none => c
  | some x =>
    if x.run.isSome ∨ c.power.state ≠ .live ∨ !(x.iftRun || (x.iftDue && x.queued.isEmpty)) then c
    else
      let bad := x.badUnits (faults.filter (fun f => decide (p ≤ faultUnit f ∧ faultUnit f < p + x.units)))
      let c := (c.count (rg .safeEvtIftRun p)).setPart p { x with
        iftSince := 0, iftDeferred := 0, iftForced := false, iftRun := false, tested := true, iftBad := bad }
      if bad.isEmpty then c
      else
        let c := bad.foldl (fun c f => ((c.takeOut f.1).count (rg .safeEvtIftFail p)).late p f.2) c
        ((c.setBits (rg .safeIntStatus p) 128).enterRecovery p).restBanks p

def execIftRun (p : Nat) (faults : List TestFault) (s : State) : Host.Outcome State Fault Refusal := s.onChip (·.iftRun p faults)

/-- Engines that no partition owns are tested once each second; their units have no committed steps. -/
def Chip.iftUnowned (c : Chip) (faults : List TestFault) : Chip :=
  if c.power.state ≠ .live ∨ c.power.inReset ∨ c.now < c.unownedTest + 1000000000 then c
  else
    let free (u : Nat) : Bool := (c.ownerOfUnit u).isNone
    let c := { c with unownedTest := c.now }
    let c := ((List.range 16).filter free).foldl (fun c u => c.count (rg .safeEvtIftRun u)) c
    (faults.filter (fun f => decide (faultUnit f < 16) && free (faultUnit f))).foldl (fun c f =>
      (((c.takeOut f).count (rg .safeEvtIftFail (faultUnit f))).setBits (rg .safeIntStatus (faultUnit f)) 128).late (faultUnit f) 0) c

def execIftUnowned (faults : List TestFault) (s : State) : Host.Outcome State Fault Refusal := s.onChip (·.iftUnowned faults)

end Sys2Proof.Machine
end

