-- ==== Sys2Proof/Machine/Fabric.lean ====
section
/-! DEFINITION. The fabric: packets and frames, routes, ports, flows, sending and resending (14 R488-R506). -/

namespace Sys2Proof.Machine

/-! Packets (14 R494, R495) -/

/-- Big-endian bytes, as the ILT header holds its fields. -/
def beAt (bs : List Byte) (lo n : Nat) : Nat := leNat ((bs.drop lo).take n).reverse

/-- The bytes of a packet. -/
def Packet.bytes (k : Packet) : List Byte :=
  [BitVec.ofNat 8 (16 + k.typ), BitVec.ofNat 8 k.flags] ++ beBytes 2 k.key ++ beBytes 2 k.dst ++ beBytes 2 k.src ++
  beBytes 2 k.flow ++ beBytes 2 k.data.length ++ beBytes 4 k.psn ++ k.arg ++ beBytes 4 k.ack ++ beBytes 4 k.crc ++ k.ext ++ k.data

/-- The LENGTH field of a packet's bytes. -/
def lengthField (bs : List Byte) : Nat := beAt bs 10 2

/-- Read a packet; none where the header is cut short or VERSION or TYPE is not one of R495. -/
def parsePacket (bs : List Byte) : Option Packet :=
  let b0 := (bs.getD 0 0).toNat
  if bs.length < 40 ∨ b0 / 16 ≠ 1 ∨ 9 < b0 % 16 then none
  else some
    { typ := b0 % 16, flags := (bs.getD 1 0).toNat, key := beAt bs 2 2, dst := beAt bs 4 2, src := beAt bs 6 2, flow := beAt bs 8 2,
      psn := beAt bs 12 4, arg := (bs.drop 16).take 8, ack := beAt bs 24 4, crc := beAt bs 28 4, ext := (bs.drop 32).take 8,
      data := (bs.drop 40).take (lengthField bs) }

def Packet.isLast (k : Packet) : Bool := k.flags.testBit 0
def Packet.hasCrc (k : Packet) : Bool := k.flags.testBit 1
def Packet.ackNow (k : Packet) : Bool := k.flags.testBit 2

/-- PSN a less PSN b, modulo 2^32 (14 R496). -/
def psnSub (a b : Nat) : Nat := (a + 2 ^ 32 - b % 2 ^ 32) % 2 ^ 32
def psnAdd (a b : Nat) : Nat := (a + b) % 2 ^ 32

/-! Routes (14 R503, R504) -/

def Chip.chipNumber (c : Chip) : Nat := c.field (rg .iltChip) 15 0

/-- The largest payload this chip sends or takes (14 R519). -/
def Chip.maxPayload (c : Chip) : Nat := 1024 * 2 ^ c.field (rg .iltEncap) 15 14

/-- Coordinates x, y and z held in 16 bits, as in ILT.TORUS (14 R519). -/
def coords (v : Nat) : List Nat := [v % 64, v / 64 % 32, v / 2048 % 32]

/-- The direction in a ring of n from m to t: none where they are equal; a tie goes to + (false). -/
def ringDir (n m t : Nat) : Option Bool :=
  let d := (t + n - m % n) % n
  if d = 0 then none else some (decide (n - d < d))

/-- The link and, for a DIRECT entry, the next-hop record by which a packet for a chip leaves; none where it is unreachable. The
chip itself is not reached through its links (log entry 33). -/
def Chip.route (c : Chip) (dst : Nat) : Option (Nat × Option Nat) :=
  let e := c.reg (rg .iltRoute 0 dst)
  if !e.bit 31 ∨ dst = c.chipNumber then none
  else if e.bit 30 then some (e.field 14 12, some (e.field 11 0))
  else
    let t := c.reg (rg .iltTorus)
    let size := (coords (t.field 31 16)).map (· + 1)
    let own := coords (t.field 15 0)
    let there := coords (e.field 15 0)
    let dims := (List.range 3).filterMap (fun i => (ringDir (size.getD i 1) (own.getD i 0) (there.getD i 0)).map (fun neg =>
      2 * i + (if neg then 1 else 0)))
    dims.head?.map (fun l => (l, none))

/-! Ports (14 R488-R493) -/

def Chip.port (c : Chip) (q : Nat) : Port := Tbl.get {} q c.fab.ports
def Chip.setPort (c : Chip) (q : Nat) (x : Port) : Chip := { c with fab := { c.fab with ports := Tbl.set q x c.fab.ports } }

/-- The port of a link that takes the next packet: of those up the one with fewer bytes queued, the first on a tie (14 R491). -/
def Chip.portOf (c : Chip) (link : Nat) : Option Nat :=
  let a := c.port (2 * link)
  let b := c.port (2 * link + 1)
  if a.up && (!b.up || decide (a.backlog ≤ b.backlog)) then some (2 * link)
  else if b.up then some (2 * link + 1) else none

/-- The six bytes of a MAC address held as a number, first byte lowest. -/
def macBytes (m : Nat) : List Byte := leBytes 6 m

/-- A port's own MAC and IP address. -/
def Chip.portMac (c : Chip) (q : Nat) : Nat := (c.reg (rg .linkMacLo q)).toNat + 2 ^ 32 * c.field (rg .linkMacHi q) 15 0
def Chip.portIp (c : Chip) (q : Nat) : List Word := (List.range 4).map (fun i => c.reg (rg .linkIp q i))
def ipBytes (ws : List Word) (n : Nat) : List Byte := (ws.flatMap (fun w => leBytes 4 w.toNat)).take n

/-- The ones'-complement sum of big-endian 16-bit words, as IP and UDP checksums use it. -/
def onesSum : List Byte → Nat
  | a :: b :: t => let s := 256 * a.toNat + b.toNat + onesSum t; s % 65536 + s / 65536
  | [a] => 256 * a.toNat
  | [] => 0
def checksum (bs : List Byte) : Nat := 65535 - onesSum bs

/-- What a frame carries in the link's encapsulation (14 R493): EtherType and what follows it. -/
def Chip.encapsulate (c : Chip) (q flow : Nat) (dstIp : List Word) (ilt : List Byte) : List Byte :=
  let mode := c.field (rg .linkPortCtrl q) 4 3
  let dscp := c.field (rg .iltEncap) 13 8
  let src := c.portIp q
  let udpLen := 8 + ilt.length
  let udp (sum : Nat) : List Byte := beBytes 2 (0xC000 + flow % 16384) ++ beBytes 2 (c.field (rg .iltUdp) 15 0) ++
    beBytes 2 udpLen ++ beBytes 2 sum ++ ilt
  if mode = 0 then beBytes 2 (c.field (rg .iltEncap) 31 16) ++ ilt
  else if mode = 1 then
    let head (sum : Nat) : List Byte := [0x45, BitVec.ofNat 8 (4 * dscp)] ++ beBytes 2 (20 + udpLen) ++ beBytes 2 0 ++
      beBytes 2 0x4000 ++ [64, 17] ++ beBytes 2 sum ++ ipBytes src 4 ++ ipBytes dstIp 4
    beBytes 2 0x0800 ++ head (checksum (head 0)) ++ udp 0
  else
    let pseudo := ipBytes src 16 ++ ipBytes dstIp 16 ++ beBytes 4 udpLen ++ beBytes 4 17
    let sum := checksum (pseudo ++ udp 0)
    beBytes 2 0x86DD ++ beBytes 4 (6 * 2 ^ 28 + 4 * dscp * 2 ^ 20) ++ beBytes 2 udpLen ++ [17, 64] ++
    ipBytes src 16 ++ ipBytes dstIp 16 ++ udp (if sum = 0 then 0xFFFF else sum)

/-- Hand a frame to a port. With MACsec on, it takes the next packet number of the transmit key; without a key it is not sent. -/
def Chip.emit (c : Chip) (q : Nat) (bytes : List Byte) : Chip :=
  let x := c.port q
  let send (c : Chip) (x : Port) (sa : Option (Nat × Nat)) : Chip :=
    let n := bytes.length + (if sa.isSome then 32 else 0)
    let c := c.setPort q { x with backlog := x.backlog + n }
    { c with fab := { c.fab with tx := c.fab.tx ++ [⟨q, sa, bytes⟩] } }
  if (c.reg (rg .linkMacsecCtrl q)).bit 0 then
    match x.txAn with
    | none => c
    | some an =>
      match Tbl.find? (true, an) x.saks with
      | none => c
      | some k => send c { x with saks := Tbl.set (true, an) { k with pn := k.pn + 1 } x.saks } (some (an, k.pn))
  else send c x none

/-- The frame of a packet on a port: destination addresses, source MAC, VLAN tag, encapsulation. -/
def Chip.frameOf (c : Chip) (q mac : Nat) (ip : List Word) (k : Packet) : List Byte :=
  let vlan := c.field (rg .linkPortCtrl q) 28 17
  macBytes mac ++ macBytes (c.portMac q) ++ (if vlan = 0 then [] else beBytes 2 0x8100 ++ beBytes 2 vlan) ++
  c.encapsulate q k.flow ip k.bytes

/-- Send a packet by a link to the addresses a route gives; a packet for a link that is down is lost. -/
def Chip.sendBy (c : Chip) (link : Nat) (hop : Option Nat) (k : Packet) : Chip :=
  match c.portOf link with
  | none => c
  | some q =>
    match hop with
    | none => c.emit q (c.frameOf q (c.port q).peerMac (c.port q).peerIp k)
    | some h =>
      let w (i : Nat) : Word := c.reg (rg .iltNextHop 0 (8 * h + i))
      c.emit q (c.frameOf q ((w 0).toNat + 2 ^ 32 * (w 1).field 15 0) [w 4, w 5, w 6, w 7] k)

/-- Send a packet for its destination chip (14 R504); without a route it is lost. -/
def Chip.transmit (c : Chip) (k : Packet) : Chip :=
  match c.route k.dst with
  | none => c
  | some (link, hop) => c.sendBy link hop k

/-! Flows (14 R496-R501) -/

def Chip.flow (c : Chip) (f : Nat) : Option Flow := Tbl.find? f c.fab.flows
def Chip.setFlow (c : Chip) (f : Nat) (x : Flow) : Chip := { c with fab := { c.fab with flows := Tbl.set f x c.fab.flows } }
def Chip.dropFlow (c : Chip) (f : Nat) : Chip := { c with fab := { c.fab with flows := Tbl.del f c.fab.flows } }

/-- What Chamaet advertises (14 R501). -/
def ownCaps : Nat := 0x6F

def Chip.rto (c : Chip) : Nat := 1000 * c.field (rg .iltRetry) 7 0
def Chip.maxTries (c : Chip) : Nat := c.field (rg .iltRetry) 15 8

/-- Send an OPEN or OPEN_ACK. -/
def Chip.sendOpen (c : Chip) (typ peer flow : Nat) : Chip :=
  c.transmit { typ := typ, dst := peer, src := c.chipNumber, flow := flow, ext := beBytes 4 ownCaps ++ List.replicate 4 0 }

/-- The packets of a message: offset, bytes, whether a tensor block ends, and where that block began (14 R494, R507, 12 R429). -/
def cutMsg (n payload base : Nat) (block : Bool) : Nat → Nat → Nat → List (Nat × Nat × Bool × Nat)
  | 0, _, _ => []
  | fuel + 1, off, start =>
    let lim := if block then min n (start + (((base + start) / 4096 * 4096 + 4096 - (base + start)) + 63) / 64 * 64) else n
    let len := min payload (lim - off)
    if n = 0 then [(0, 0, true, 0)]
    else if n ≤ off then []
    else
      let next := off + len
      (off, len, decide (next = lim), start) :: cutMsg n payload base block fuel next (if next = lim then next else start)

/-- One packet of a message; WRITE packets carry their own OFFSET, the last one LAST, the end of a block its CRC. -/
def Msg.packet (m : Msg) (x : Nat × Nat × Bool × Nat) : Packet × FlowUse × Bool :=
  let last := decide (x.1 + x.2.1 = m.data.length)
  let crc := m.block && x.2.2.1
  let k := m.pkt
  ({ k with
      flags := (if last then 1 else 0) + (if crc then 2 else 0)
      arg := if k.typ = 3 then k.arg.take 2 ++ beBytes 6 (beAt k.arg 2 6 + x.1) else k.arg
      crc := if crc then crc32c ((m.data.drop x.2.2.2).take (x.1 + x.2.1 - x.2.2.2)) else 0
      data := (m.data.drop x.1).take x.2.1 }, m.use, last && m.last)

/-- The capability bit a packet type needs of its peer (14 R501). -/
def needCap (typ : Nat) : Option Nat := if typ = 3 then some 0 else if typ = 4 then some 1 else if typ = 6 then some 2 else none

/-- What becomes of a use of a flow: done, or a status. -/
abbrev UseEvent := FlowUse × Option Status

/-- Send queued packets while fewer than 128 are unacknowledged (14 R497). -/
def Chip.pump (c : Chip) (f : Nat) : Chip :=
  match c.flow f with
  | none => c
  | some x =>
    let n := 128 - x.sent.length
    let out := (x.queued.take n).zipIdx.map (fun e =>
      let k := { e.1.1 with psn := psnAdd x.psn e.2 }
      ({ pkt := k, use := e.1.2.1, last := e.1.2.2, at_ := c.now } : Sent))
    let c := c.setFlow f { x with
      queued := x.queued.drop n, sent := x.sent ++ out, psn := psnAdd x.psn out.length, used := if out.isEmpty then x.used else c.now }
    out.foldl (fun c s => c.transmit s.pkt) c

/-- Cut the waiting messages of an open flow into packets and send; messages that need a capability the peer lacks are denied. -/
def Chip.release (c : Chip) (f : Nat) : Chip × List UseEvent :=
  match c.flow f with
  | none => (c, [])
  | some x =>
    if !x.opened then (c, [])
    else
      let payload := min c.maxPayload (2 ^ (bitsOf x.caps 7 4 + 6))
      let able (m : Msg) : Bool := (needCap m.pkt.typ).all (x.caps.testBit ·)
      let packets := (x.waiting.filter able).flatMap (fun m =>
        (cutMsg m.data.length payload m.base (m.block && x.caps.testBit 3) (m.data.length / 64 + 2) 0 0).map m.packet)
      let bad := (x.waiting.filter (fun m => !able m)).map (fun m => (m.use, some Status.denied))
      ((c.setFlow f { x with waiting := [], queued := x.queued ++ packets }).pump f, bad)

/-- The lowest free number of a range of flow keys. -/
def Chip.freeFlow (c : Chip) (lo : Nat) : Option Nat :=
  (List.range 4096).find? (fun i => (c.flow (lo + i)).isNone) |>.map (lo + ·)

/-- The open or opening send flow of a sending unit to a peer and key (14 R496). -/
def Chip.sendFlow (c : Chip) (owner unit peer key : Nat) : Option Nat :=
  (List.find? (fun e : Nat × Flow => decide (e.1 < 4096 ∧ e.2.owner = owner ∧ e.2.unit = unit ∧ e.2.peer = peer ∧ e.2.key = key))
    c.fab.flows).map Prod.fst

/-- Send a message on the flow of its sending unit, which opens where there is none; the 4,096 send flows may all be taken
(log entry 34). -/
def Chip.sendMsg (c : Chip) (owner unit : Nat) (m : Msg) : Chip × List UseEvent :=
  match c.sendFlow owner unit m.pkt.dst m.pkt.key with
  | some f =>
    let c := match c.flow f with
      | some x => c.setFlow f { x with waiting := x.waiting ++ [{ m with pkt := { m.pkt with flow := f } }], used := c.now }
      | none => c
    c.release f
  | none =>
    match c.freeFlow 0 with
    | none => (c, [(m.use, some .noResource)])
    | some f =>
      let c := c.setFlow f { peer := m.pkt.dst, id := f, key := m.pkt.key, owner := owner, unit := unit, openAt := c.now, openTries := 1,
                             waiting := [{ m with pkt := { m.pkt with flow := f } }], used := c.now }
      (c.sendOpen 1 m.pkt.dst f, [])

/-! Acknowledgement and resending at the sender (14 R498-R500) -/

/-- The SACK bitmap tells that a packet is held. -/
def sacked (ack bitmap psn : Nat) : Bool :=
  let d := psnSub psn (psnAdd ack 1)
  decide (d < 64) && bitmap.testBit d

/-- Resend packets that a test picks, with RETX. -/
def Chip.resend (c : Chip) (f : Nat) (pick : Sent → Bool) : Chip :=
  match c.flow f with
  | none => c
  | some x =>
    let again (s : Sent) : Sent := { s with pkt := { s.pkt with flags := s.pkt.flags ||| 8 }, at_ := c.now, tries := s.tries + 1 }
    let c := c.setFlow f { x with sent := x.sent.map (fun s => if pick s then again s else s), used := c.now }
    (x.sent.filter pick).foldl (fun c s => c.transmit (again s).pkt) c

/-- An ACK: packets before ACK_PSN are done, and a packet behind three held ones is resent. -/
def Chip.flowAck (c : Chip) (f ack bitmap : Nat) : Chip × List UseEvent :=
  match c.flow f with
  | none => (c, [])
  | some x =>
    -- an ACK_PSN that no packet sent so far reaches is not this flow's
    if x.sent.length < psnSub ack (x.sent.head?.map (fun s => s.pkt.psn) |>.getD x.psn) then (c, [])
    else
      let done := x.sent.filter (fun s => decide (2 ^ 31 ≤ psnSub s.pkt.psn ack))
      let rest := x.sent.filter (fun s => !decide (2 ^ 31 ≤ psnSub s.pkt.psn ack))
      let c := c.setFlow f { x with sent := rest, used := c.now, reopens := if done.isEmpty then x.reopens else 0 }
      let held := (rest.filter (fun s => sacked ack bitmap s.pkt.psn)).map (fun s => s.pkt.psn)
      let late (s : Sent) : Bool := s.tries == 1 && !held.contains s.pkt.psn &&
        decide (3 ≤ (held.filter (fun q => decide (psnSub q s.pkt.psn < 2 ^ 31))).length)
      ((c.resend f late).pump f, (done.filter (fun s => s.last)).map (fun s => (s.use, none)))

/-- A flow fails: everything that waits on it ends with a status, and it is discarded (14 R499). -/
def Chip.flowFail (c : Chip) (f : Nat) (st : Status) : Chip × List UseEvent :=
  match c.flow f with
  | none => (c, [])
  | some x =>
    let uses := x.waiting.map Msg.use ++ x.queued.map (fun q => q.2.1) ++ x.sent.map Sent.use
    (c.dropFlow f, uses.eraseDups.map (fun u => (u, some st)))

/-- A use of a flow has failed: its packets not yet sent are dropped, and so is the refused one. -/
def Chip.useRefused (c : Chip) (f psn : Nat) (st : Status) : Chip × List UseEvent :=
  match c.flow f with
  | none => (c, [])
  | some x =>
    match x.sent.find? (fun s => s.pkt.psn == psn) with
    | none => (c, [])
    | some s =>
      (c.setFlow f { x with
        sent := x.sent.filter (fun t => t.pkt.psn != psn), queued := x.queued.filter (fun q => q.2.1 != s.use), used := c.now },
       [(s.use, some st)])

/-- The packets of the block that ends at a PSN: those after the last earlier packet with a CRC. -/
def Flow.blockOf (x : Flow) (psn : Nat) : List Nat :=
  (x.sent.foldl (fun (a : List Nat × Bool) s =>
    if a.2 then a
    else if s.pkt.psn = psn then (a.1 ++ [psn], true)
    else if s.pkt.hasCrc then ([], false)
    else (a.1 ++ [s.pkt.psn], false)) ([], false)).1

/-- The flow is opened again and its unacknowledged packets are sent anew, from PSN 0 (14 R507 NO_FLOW). -/
def Chip.reopen (c : Chip) (f : Nat) : Chip :=
  match c.flow f with
  | none => c
  | some x =>
    let again := x.sent.map (fun s => (({ s.pkt with flags := s.pkt.flags ||| 8 } : Packet), s.use, s.last))
    let c := c.setFlow f { x with
      opened := false, openAt := c.now, openTries := 1, busy := false, psn := 0, sent := [], queued := again ++ x.queued,
      reopens := x.reopens + 1 }
    c.sendOpen 1 x.peer f

/-- A NAK (14 R507): what each code does at the sender; the second CRC mismatch of a block fails its op (12 R429). -/
def Chip.flowNak (c : Chip) (f code psn : Nat) : Chip × List UseEvent :=
  match c.flow f with
  | none => (c, [])
  | some x =>
    if code = 6 then c.useRefused f psn .malformed
    else if code = 1 ∨ code = 2 then c.useRefused f psn .denied
    else if code = 7 then (if x.opened then c.useRefused f psn .denied else c.flowFail f .denied)
    else if code = 3 then
      match x.sent.find? (fun s => s.pkt.psn == psn) with
      | none => (c, [])
      | some s =>
        if s.crcAgain then ((c.setBits (rg .safeIntStatus x.owner) 4).count (rg .safeEvtBlock x.owner)).useRefused f psn .integrityFail
        else
          let c := c.setFlow f { x with sent := x.sent.map (fun t => if t.pkt.psn = psn then { t with crcAgain := true } else t) }
          (c.resend f (fun t => (x.blockOf psn).contains t.pkt.psn), [])
    else if code = 9 then (c.setFlow f { x with busy := true }, [])
    else if code = 8 then (if x.reopens = 0 then (c.reopen f, []) else c.flowFail f .linkLost)
    else (c, [])

/-- The retransmission timeout of the OPEN of an unopened flow, or of a packet (14 R499). -/
def Chip.flowRto (c : Chip) (f psn : Nat) : Chip × List UseEvent :=
  match c.flow f with
  | none => (c, [])
  | some x =>
    if !x.opened ∧ f < 4096 then
      if c.now < x.openAt + c.rto then (c, [])
      else if c.maxTries ≤ x.openTries then c.flowFail f (if x.busy then .noResource else .linkLost)
      else ((c.setFlow f { x with openAt := c.now, openTries := x.openTries + 1 }).sendOpen 1 x.peer f, [])
    else
      match x.sent.find? (fun s => s.pkt.psn == psn) with
      | none => (c, [])
      | some s =>
        if c.now < s.at_ + c.rto then (c, [])
        else if c.maxTries ≤ s.tries then c.flowFail f .linkLost
        else (c.resend f (fun t => t.pkt.psn == psn), [])

end Sys2Proof.Machine
end

