-- ==== Sys2Proof/Machine/Requests.lean ====
section
/-! DEFINITION. The request table of a serving partition: handles, page lists, states, output headers, windows (09 R319-R336). -/

namespace Sys2Proof.Machine

/-! The serving record (09 R321, R322) -/

def Serving.get (v : Serving) (lo n : Nat) : Nat := bytesLe v.record lo n
def Serving.role (v : Serving) : Nat := v.get 1 1
def Serving.maxReq (v : Serving) : Nat := v.get 8 4

/-- The parts of the work area, as offsets in the partition's view: request entries, step buffers, import slots, page lists, end. -/
def recPlan (r : List Byte) : Nat := bytesLe r 56 8
def recEntries (r : List Byte) : Nat := recPlan r + up4k (bytesLe r 44 4)
def recStep (r : List Byte) : Nat := recEntries r + up4k (256 * bytesLe r 8 4)
def recSlots (r : List Byte) : Nat := recStep r + 257 * 2 ^ 20
def recLists (r : List Byte) : Nat := recSlots r + bytesLe r 68 1 * bytesLe r 72 4
def recEnd (r : List Byte) : Nat := recPlan r + bytesLe r 64 4
def Serving.slotAt (v : Serving) (s : Nat) : Nat := recSlots v.record + s * v.get 72 4

def Chip.srv (c : Chip) (p : Nat) : Option (Part × Serving) := (c.part p).bind (fun x => x.serving.map (fun v => (x, v)))
def Chip.updSrv (c : Chip) (p : Nat) (f : Serving → Serving) : Chip := c.updPart p (fun x => { x with serving := x.serving.map f })

def Serving.req (v : Serving) (n : Nat) : Request := Tbl.get {} n v.requests
def Chip.updReq (c : Chip) (p n : Nat) (f : Request → Request) : Chip :=
  c.updSrv p (fun v => { v with requests := Tbl.upd {} n f v.requests })

/-- A field of the request record (09 R328). -/
def Request.get (r : Request) (lo n : Nat) : Nat := bytesLe r.record lo n
def Request.spec (r : Request) : Nat := r.get 54 1

/-- A REQ_CANCEL waits on the request. -/
def Request.cancelling (r : Request) : Bool := r.waits.any (fun w => w.opcode == 0x23)

/-- The handle of an entry (09 R330). -/
def Serving.handleOf (v : Serving) (n : Nat) : Nat := n + 65536 * (v.req n).gen

/-- The entry that a handle names, or the status of the command (09 R330). -/
def Serving.entry (v : Serving) (h : Nat) : Except Status Nat :=
  let n := h % 65536
  if v.maxReq ≤ n then .error .malformed
  else if (v.req n).gen ≠ h / 65536 then .error .state else .ok n

/-- The state codes of 09 R332. -/
def ReqState.code : ReqState → Nat
  | .opened => 0 | .prefill => 1 | .decode => 2 | .preempted => 3 | .draining => 4 | .closed => 5

/-! Page lists (09 R322, R336) -/

/-- The lowest place for a list of a size in the work area that remains. -/
def Serving.findList (v : Serving) (size : Nat) : Option Nat :=
  let starts := recLists v.record :: v.work.map (fun w => (w.2.1 + w.2.2 + 63) / 64 * 64)
  let free (a : Nat) : Bool := decide (a + size ≤ recEnd v.record) && v.work.all (fun w => decide (a + size ≤ w.2.1 ∨ w.2.1 + w.2.2 ≤ a))
  (starts.filter free).foldl (fun m a => some (m.elim a (min a))) none

/-- LIST_CAP of a request's sequences (09 R336); an imported one also holds what was imported. -/
def Request.cap (r : Request) (tokens : Nat) : Nat := ceilDiv (max (r.inputs + r.limit) (r.hist.length + r.limit - r.produced)) tokens

/-- Where a prefill ends: a recomputed request stops before its last delivered token (09 R341). -/
def Request.target (r : Request) : Nat := if r.recompute then r.hist.length - 1 else r.hist.length

/-- The pages of the first chunk of a request, on both sequences where it speculates (09 R336). -/
def Serving.firstPages (v : Serving) (n tokens : Nat) : Nat :=
  let r := v.req n
  (if r.spec = 0 then 1 else 2) * ceilDiv (min r.target (v.get 20 4)) tokens

/-- An edit that firmware makes itself. -/
def fwEdit (q kind ptr cap arg : Nat) : KvEdit :=
  { seq := q, kind := kind, args := leBytes 8 0 ++ leBytes 8 ptr ++ leBytes 4 cap ++ leBytes 4 arg ++ leBytes 8 0, ticket := none }

/-- Open a sequence of a request on a new list; none where the work area has no room. -/
def Chip.openSeq (c : Chip) (p n q : Nat) : Option Chip :=
  let c := c.kvEnsure p
  match c.srv p with
  | none => none
  | some (x, v) =>
    let cap := (v.req n).cap (c.kvCfg p).tokens
    (v.findList (4 * cap)).map (fun ptr =>
      ((c.editApply p x (fwEdit q 0 ptr cap 0)).1).updSrv p (fun v => { v with work := v.work ++ [(n, ptr, 4 * cap)] }))

/-- Free the sequences of a request by FREE edits, and their lists; an edit that waits on them then completes STATE. -/
def Chip.freeReq (c : Chip) (p n : Nat) : Chip :=
  match c.part p with
  | none => c
  | some x =>
    let c := (x.edits.filter (fun e => e.seq / 2 == n)).foldl (fun c e => e.ticket.elim c (fun t => c.complete t .state))
      (c.setPart p { x with edits := x.edits.filter (fun e => e.seq / 2 != n) })
    let c := [2 * n, 2 * n + 1].foldl (fun c q => if c.seqValid p x q then (c.editApply p x (fwEdit q 3 0 0 0)).1 else c) c
    c.updSrv p (fun v => { v with work := v.work.filter (fun w => w.1 != n) })

/-- Open the sequences of a request: the main one, and the draft one where it speculates. What a Function Level Reset left of an earlier
request of the entry is freed first (13 R461). -/
def Chip.openReq (c : Chip) (p n : Nat) : Option Chip :=
  match c.srv p with
  | none => none
  | some (x, v) =>
    let c := if c.seqValid p x (2 * n) || c.seqValid p x (2 * n + 1) then c.freeReq p n else c
    match c.openSeq p n (2 * n) with
    | none => none
    | some c => if (v.req n).spec = 0 then some c else c.openSeq p n (2 * n + 1)

/-- The lists of a request that its sequences hold, or that a waiting RELIST is to give them; the work area frees its others. -/
def Chip.trimWork (c : Chip) (p n : Nat) : Chip :=
  match c.part p with
  | none => c
  | some x =>
    let live := ([2 * n, 2 * n + 1].filter (c.seqValid p x)).map (c.seqList p x) ++
      (x.edits.filter (fun e => e.kind == 1 && e.seq / 2 == n)).map (fun e => bytesLe e.args 8 8)
    c.updSrv p (fun v => { v with work := v.work.filter (fun w => w.1 != n || live.contains w.2.1) })

/-- Move the list of one sequence by a RELIST edit, which waits while a step or an export pins it (06 R221). None where the work area has
no room, or another edit waits. -/
def Chip.relistSeq (c : Chip) (p n q : Nat) : Option Chip :=
  match c.srv p with
  | none => some c
  | some (x, v) =>
    let cap := (v.req n).cap (c.kvCfg p).tokens
    if !c.seqValid p x q ∨ cap ≤ c.seqCap p x q then some c
    else if c.seqBlocked p x q then none
    else
      (v.findList (4 * cap)).map (fun ptr =>
        let c := c.updSrv p (fun v => { v with work := v.work ++ [(n, ptr, 4 * cap)] })
        let e : KvEdit := { fwEdit q 1 ptr cap 0 with handle := some n }
        match c.part p with
        | none => c
        | some x => if c.seqPin p x q = 0 then ((c.editApply p x e).1).trimWork p n else c.editWait p x e)

/-- Move the lists of a request's open sequences where its capacity grew (09 R336). -/
def Chip.relistReq (c : Chip) (p n : Nat) : Option Chip := (c.relistSeq p n (2 * n)).bind (fun c => c.relistSeq p n (2 * n + 1))

/-! Windows (07 R265, R278) -/

def windowRegs : List RegName := [.scrWindowW0, .scrWindowW1, .scrWindowW2, .scrWindowW3, .scrWindowW4, .scrWindowW5]

def Packet.arrive (k : Packet) : Nat := bytesLe k.arg 0 1
def Packet.offset (k : Packet) : Nat := beAt k.arg 2 6

/-- A window entry takes in an access of a sender to a range, permissions aside (07 R266). -/
def winTakes (w : List Word) (key src off n : Nat) : Bool :=
  let at_ (i : Nat) : Word := w.getD i 0
  let base := (at_ 0).toNat + 2 ^ 32 * (at_ 1).toNat
  (at_ 5).bit 0 && (at_ 4).field 15 0 == key && decide ((at_ 3).field 15 0 ≤ src ∧ src ≤ (at_ 3).field 31 16) &&
  decide (base ≤ off ∧ off + n ≤ base + 64 * (at_ 2).field 25 0)

/-- The packets that a window of a partition has admitted and that have not landed: their flow and PSN (07 R268). -/
def Chip.landing (c : Chip) (p : Nat) (w : List Word) : List (Nat × Nat) :=
  c.fab.flows.flatMap (fun f => (f.2.block.filter (fun k =>
    k.typ == 3 && c.keyOwner k.key == some p && winTakes w k.key k.src k.offset k.data.length)).map (fun k => (f.1, k.psn)))

/-- Bring a window entry into force; one that closes is CLOSING while what it admitted has not landed (07 R265, R268). -/
def Chip.setWindow (c : Chip) (p n : Nat) (ws : List Word) : Chip :=
  c.updPart p (fun x => { x with
    windows := Tbl.set n ws x.windows
    closing := if (ws.getD 5 0).bit 0 then x.closing else Tbl.set n (Tbl.get [] n x.closing ++ c.landing p (Tbl.get [] n x.windows)) x.closing })

/-- CLOSING of a window: a packet it admitted before it closed is still held. -/
def Chip.winClosing (c : Chip) (p n : Nat) : Bool :=
  (c.part p).any (fun x => (Tbl.get [] n x.closing).any (fun e => (c.flow e.1).any (fun f => f.block.any (fun k => k.psn == e.2))))

/-- Write and commit a window entry. -/
def Chip.putWindow (c : Chip) (p n : Nat) (ws : List Word) : Chip :=
  ((windowRegs.zip ws).foldl (fun c e => c.setReg (rg e.1 p n) e.2) c).setWindow p n ws

/-- Close a window. -/
def Chip.closeWindow (c : Chip) (p n : Nat) : Chip := c.putWindow p n (List.replicate 6 0)

/-- The import slot of a request. -/
def Serving.importOf (v : Serving) (n : Nat) : Option (Nat × Import) := List.find? (fun e : Nat × Import => e.2.req == n) v.imports

/-- An import ends without success: the window closes and the slot is freed (09 R346, R347). -/
def Chip.importEnd (c : Chip) (p s : Nat) (st : Status) : Chip :=
  match c.srv p with
  | none => c
  | some (_, v) =>
    match Tbl.find? s v.imports with
    | none => c
    | some i =>
      let c := (c.closeWindow p (24 + s)).updSrv p (fun v => { v with imports := Tbl.del s v.imports })
      c.complete { i.ticket with first := false } st s

/-! Output and closing (09 R331, R332) -/

/-- Write the header of a request's output buffer. -/
def Chip.outHeader (c : Chip) (p n : Nat) : Chip :=
  match c.srv p with
  | none => c
  | some (_, v) =>
    let r := v.req n
    c.hostWrite (p + 1) (r.get 16 8) (leBytes 4 r.written ++ leBytes 1 r.state.code ++
      leBytes 1 (if r.state = .closed then (r.final.getD .ok).code else 0) ++ leBytes 2 0 ++ leBytes 8 c.now ++ List.replicate 48 0)

/-- A step holds a request: a running step has pinned a sequence of it, or the firmware step built last has an entry for it
(09 R333). -/
def Chip.reqHeld (c : Chip) (p n : Nat) : Bool :=
  (c.part p).any (fun x =>
    (x.run.map (fun st => st.uses.any (fun u => u.seq / 2 == n))).getD false ||
    (x.serving.map (fun v => v.cur.any (fun s => s.entries.any (fun e => e.req == n)))).getD false)

/-- A DRAINING request that nothing holds closes: its sequences are freed, its header and final completion are written, and the
commands that wait on it end (09 R332, R333). -/
def Chip.closeReq (c : Chip) (p n : Nat) : Chip :=
  match c.srv p with
  | none => c
  | some (_, v) =>
    let r := v.req n
    if r.state ≠ .draining ∨ c.reqHeld p n ∨ r.exporting.isSome then c
    else
      let c := (c.freeReq p n).updReq p n (fun r => { r with state := .closed, waits := [], epoch := none, drafts := [] })
      let c := c.outHeader p n
      let c := match r.ticket with
        | some t => c.complete t (r.final.getD .ok) (v.handleOf n)
        | none => c
      r.waits.foldl (fun c w => c.complete w.ticket (if w.opcode = 0x23 then .ok else .state)) c

/-- A request starts to drain with a final status, and closes at once where nothing holds it. -/
def Chip.drainReq (c : Chip) (p n : Nat) (st : Status) : Chip := (c.updReq p n (·.drain st)).closeReq p n

/-! Pre-emption and readmission (09 R332, R341) -/

/-- A request becomes PREEMPTED. -/
def Request.preempt (r : Request) (swapped : Bool) (now : Nat) : Request :=
  { r with state := .preempted, decoding := decide (r.state = .decode), swapped := swapped, drafts := [], since := now,
           recompute := r.recompute || (!swapped && decide (r.state = .decode)) }

/-- A request is admitted, or comes back from PREEMPTED, to the state its tokens call for. A recomputed request prefills again. -/
def Chip.admitReq (c : Chip) (p n : Nat) : Chip :=
  match c.srv p with
  | none => c
  | some (x, v) =>
    let pinned := if ((v.req n).get 55 1).testBit 1 then (v.req n).epoch.or ((x.epochIn .inForce).map Epoch.num) else none
    let back := (v.req n).swapped && (v.req n).decoding && decide (c.seqLen p x (2 * n) + 1 = (v.req n).hist.length)
    (c.updReq p n (fun r => { r with
      state := if back then .decode else .prefill, swapped := false, epoch := pinned, admitted := v.order, since := c.now })).updSrv p
      (fun v => { v with order := v.order + 1 })

/-- What the end of a swap does to its request (09 R333). -/
def Chip.editDone (c : Chip) (p : Nat) (e : KvEdit) (st : Status) : Chip :=
  match e.handle with
  | none => c
  | some n =>
    if st ≠ .ok then c
    else if e.kind = 1 then c.trimWork p n
    else if e.kind = 4 then (c.updReq p n (·.preempt true c.now)).outHeader p n
    else c.admitReq p n

end Sys2Proof.Machine
end

