-- ==== Sys2Proof/Machine/Views.lean ====
section
/-! DEFINITION. What registers read as: stored registers, and those that the device computes (each chapter's register section). -/

namespace Sys2Proof.Machine

/-- A register value from its fields: value, lowest bit and width. -/
def packWord (fs : List (Nat × Nat × Nat)) : Word := BitVec.ofNat 32 (fs.map (fun f => f.1 % 2 ^ f.2.2 * 2 ^ f.2.1)).sum

def flag (b : Bool) : Nat := if b then 1 else 0

/-- A signed value in n bits, two's complement. -/
def twos (n : Nat) (v : Int) : Nat := (v % (2 ^ n : Nat)).toNat

/-! Clocks (11 R409, 01 R35) -/

def slotPs (level : Nat) : Nat := [2000, 2250, 2500, 3000, 3500, 4000, 5000, 6000].getD level 6000
def clockMhz (step : Nat) : Nat := [1800, 1600, 1400, 1200, 1000, 800, 600, 400].getD step 400

/-- The stream-unit clock: the lower of the thermal level's and the power lever's. -/
def Chip.streamClock (c : Chip) : Nat := min (clockMhz c.therm.level) (clockMhz (min 7 c.power.lever))

/-! Partition values -/

/-- The units of a partition as a mask. -/
def Part.mask (x : Part) (p : Nat) : Nat := (2 ^ x.units - 1) * 2 ^ p

def roleOf (x : Part) : Nat := (x.serving.map (fun v => bytesLe v.record 1 1)).getD 0xFF

/-- The epoch in a role, 0 where none is (10 R382). -/
def Part.epochIs (x : Part) (st : EpochState) : Nat := ((x.epochIn st).map Epoch.num).getD 0
def Part.epochBuild (x : Part) : Nat :=
  ((x.epochs.find? (fun e => decide (e.state = .building ∨ e.state = .ready))).map Epoch.num).getD 0

/-- WGT.STATUS.IMAGE_INVALID (10 R380, 16 R555). -/
def Part.imageBad (x : Part) : Bool := x.epochs.any (fun e => x.runLive e.num && (e.invalid || !e.verified))

/-- The banks of a partition's units. -/
def Chip.partBanks (c : Chip) (p : Nat) (x : Part) : List ((Nat × Nat) × Bank) :=
  c.banks.filter (fun b => decide (2048 * p ≤ b.1.1 ∧ b.1.1 < 2048 * (p + x.units)))

/-- SAFE.INT_COVER (12 R446, R452). -/
def Chip.cover (c : Chip) (p : Nat) : Word :=
  match c.part p with
  | none => 0x41
  | some x =>
    let bs := c.partBanks p x
    let held := bs.filter (fun b => x.bankInForce b.1.1 b.1.2)
    let suspended := held.any (fun b => b.2.csSuspended || (c.refreshRuns b.1.1).isSome || c.convFailed.contains (b.1.1, 520))
    let rows := c.engines.any (fun e => decide (firstEngine p ≤ e.1 ∧ e.1 < firstEngine p + 512 * x.units) && !e.2.failedRows.isEmpty)
    let low := flag (!x.tested || x.rounds == 0) + 2 * flag x.iftDue + 4 * flag x.recovery + 8 * flag x.stale +
      16 * flag suspended + 32 * flag (!x.parityNow)
    packWord [(low, 0, 6), (flag (low != 0), 6, 1), (flag (rows || bs.any (fun b => !b.2.noSpare.isEmpty)), 7, 1),
      (flag (bs.any (fun b => decide (100000 < b.2.rewrites))), 8, 1)]

/-- FIX.P_STAT (05 R191). -/
def Chip.pStat (c : Chip) (p : Nat) : Word :=
  match c.part p with
  | none => 0
  | some x => packWord [(flag x.degraded, 0, 1), (flag (x.degraded && decide (x.degradedAt ≤ x.roundLast)), 1, 1), (min 0xFFFF x.stable, 2, 16)]

/-- The oldest time of last Accord over a partition's engines (11 R417). -/
def Chip.oldestAccord (c : Chip) (p : Nat) : Nat :=
  match c.part p with
  | none => 0
  | some x =>
    let ts := (List.range (512 * x.units)).map (fun i => (c.engine (firstEngine p + i)).accordAt)
    ts.foldl min (ts.headD 0)

/-- WGT.WEAR of the bank that WGT.ARRAY_SEL names (10 R385). -/
def Chip.wear (c : Chip) (p : Nat) : Word :=
  let sel := c.reg (rg .wgtArraySel p)
  let array := 2048 * p + sel.field 15 0
  let bank := flag (sel.bit 16)
  let b := c.bank array bank
  let hold := match c.part p with
    | none => 0
    | some x =>
      match x.epochs.find? (fun e => e.live && e.tiles.any (fun t => t.array == array && t.bank == bank)) with
      | none => 0
      | some e => if e.state = .inForce then 1 else if e.state = .retiring then 2 else 3
  packWord [(min 0xFFFFF b.rewrites, 0, 20), (b.remap.length + b.remapPending.length, 25, 5), (hold, 30, 2)]

/-- WGT.BUILD_STAT (10 R383). -/
def Part.buildStat (x : Part) : Word :=
  match x.build with
  | some b => packWord [(2, 30, 2), (b.done, 0, 17)]
  | none =>
    packWord [((if (x.epochIn .building).isSome then 1 else if (x.epochIn .ready).isSome then 3 else 0), 30, 2)]

/-- SCR.STALL_STAT: the longest current stall (07 R274). -/
def Chip.stallStat (c : Chip) (p : Nat) : Word :=
  match c.running p with
  | none => 0
  | some (_, st) =>
    let us := st.stalls.map (fun e => (c.timeOn (queueDie p e.1) - e.2) / 1000)
    packWord [(min 0xFFFFF (us.foldl max 0), 0, 20), (flag (!st.stalls.isEmpty), 31, 1)]

/-! Core values -/

/-- The passes of the step that runs on a core. -/
def Chip.corePasses (c : Chip) (k : Nat) : List PassRec :=
  match (c.ownerOfUnit (k / 8)).bind c.running with
  | none => []
  | some (_, st) => st.passes.filter (fun r => r.core == k)

/-- A PASS waits at the admission stage of a core: its oldest issued pass is held back (02 R69, R76, R78). -/
def Chip.passWaits (c : Chip) (k : Nat) : Bool :=
  ((c.corePasses k).find? (fun r => r.phase == .issued)).any (·.overBudget (c.core k).balance)

/-- A bank is being programmed: it belongs to the running round of a build (10 R362). -/
def Part.programs (x : Part) (array bank : Nat) : Bool :=
  x.build.any (fun b => (x.epochNo b.epoch).any (fun e => !e.repair &&
    (b.todo.find? (fun t => t.array == array && t.bank == bank)).any (inRound (e.tiles.filter (fun t => t.run == e.num)) b.todo)))

/-- ENG.ARRAY_INFO and ENG.REMAP_INFO of the selected bank (02 R81, R82). SPARES_USED counts the entries of remaps that wait for a
boundary too, whose VALID reads 0 until then (DESIGN CHOICE, log entry 75). An entry whose spare was itself replaced by a later spare
keeps VALID and its column (DESIGN CHOICE, log entry 76). -/
def Chip.arrayInfo (c : Chip) (k : Nat) : Word :=
  let sel := c.reg (rg .engArraySel k)
  let array := 4 * (64 * k + sel.field 5 0) + sel.field 7 6
  let bank := flag (sel.bit 8)
  let b := c.bank array bank
  let x := (c.ownerOfUnit (k / 8)).bind c.part
  let prog := x.any (fun x => x.programs array bank)
  packWord [(flag (x.any (fun x => x.bankInForce array bank)), 0, 1), (flag prog, 1, 1), (b.floor, 2, 3),
    (b.remap.length + b.remapPending.length, 5, 5)]

def Chip.remapInfo (c : Chip) (k : Nat) : Word :=
  let sel := c.reg (rg .engArraySel k)
  let b := c.bank (4 * (64 * k + sel.field 5 0) + sel.field 7 6) (flag (sel.bit 8))
  match Tbl.find? (sel.field 12 9) b.remap with
  | some col => packWord [(col, 0, 10), (1, 10, 1)]
  | none => 0

/-- ACC.GROUP_INFO and ACC.GROUP_ROWS of the selected group (04 R144, R145). -/
def Chip.selGroup (c : Chip) (k : Nat) : Group :=
  let sel := c.reg (rg .accGroupSel k)
  c.group (64 * k + sel.field 5 0) (sel.field 8 6)

def Group.info (g : Group) : Word :=
  packWord [((match g.state with | .free => 0 | .opened => 1 | .closing => 2), 0, 2), (flag g.mode.isSome, 2, 1), (flag (g.mode == some true), 3, 1),
    (flag g.long, 4, 1), (min 255 g.passes, 8, 8)]

/-! Telemetry values (11 R401, R404, R418-R423) -/

/-- Both converters of a die are excluded: its telemetry is lost (11 R402). -/
def Chip.telemLost (c : Chip) (d : Nat) : Bool :=
  (Tbl.get ({} : Telem) (d, 0) c.telem).excluded && (Tbl.get ({} : Telem) (d, 1) c.telem).excluded

/-- A channel's value in 0.1 mV. -/
def Chip.chanOf (c : Chip) (vs : Tbl (Nat × Nat) Int) (d ch : Nat) : Nat := if c.telemLost d then 0xFFFF else twos 16 (Tbl.get 0 (d, ch) vs)
def Chip.chanValue (c : Chip) (d ch : Nat) : Nat := c.chanOf c.chans d ch

/-- A sense input's value, from readings of its channel (11 R404). -/
def Chip.senseOf (c : Chip) (vs : Tbl (Nat × Nat) Int) (i : Nat) : Nat :=
  match Tbl.find? i c.sense with
  | none => 0x8000
  | some (z, f, full) =>
    if c.telemLost 0 then 0x8000
    else twos 16 (clampInt (-32767) 32767 (rheInt ((Tbl.get 0 (0, 37 + i) vs - z) * full) (f - z).natAbs))

def Chip.senseValue (c : Chip) (i : Nat) : Nat := c.senseOf c.chans i

/-- What a sensor reports in 1/16 °C: a broken one 95 °C, and every one of a die without telemetry (11 R402, R407). -/
def Chip.sensorTemp (c : Chip) (d n : Nat) : Int :=
  let s : Sensor := Tbl.get {} (d, n) c.sensors
  if s.broken ∨ c.telemLost d then 1520 else s.temp

/-! Links and units (14 R517, R519, 15 R542) -/

def Chip.linkStatus (c : Chip) (q : Nat) : Word :=
  let x := c.port q
  let other := c.port (if q % 2 = 0 then q + 1 else q - 1)
  packWord [(flag x.up, 0, 1), (x.peerLink, 1, 3), (flag x.peerKnown, 4, 1), (flag (x.up && !other.up), 5, 1), (x.mode, 6, 2)]

def Chip.linksUp (c : Chip) : Word := packWord ((List.range 6).map (fun n => (flag ((c.port (2 * n)).up || (c.port (2 * n + 1)).up), n, 1)))

/-- The state of a unit and the lowest unit of its partition. -/
def Chip.unit (c : Chip) (u : Nat) : UnitState × Nat := Tbl.get (.free, 0) u c.units

def UnitState.code : UnitState → Nat
  | .free => 0 | .active => 1 | .scrubbing => 2 | .failed => 3

/-- Keys that a partition holds (14 R518). -/
def Chip.keyByte (c : Chip) (k : Nat) : Nat := (c.reg (rg .iltKeys 0 (k / 4))).toNat / 2 ^ (8 * (k % 4)) % 256

/-- The keys held by the partition of a lowest unit; the table lists only registers written since reset. -/
def Chip.keysOf (c : Chip) (p : Nat) : List Nat :=
  ((c.regs.filter (fun e => decide (e.1.name = .iltKeys))).flatMap (fun e => (List.range 4).map (fun i => 4 * e.1.idx + i))).filter
    (fun k => c.keyByte k == 128 + p)

def Chip.unitWord (c : Chip) (u : Nat) : Word :=
  let s := c.unit u
  let strict := s.1 == .active && (c.part s.2).any (fun x => x.strict)
  packWord [(s.2, 0, 4), ((if s.1 = .active then (c.keysOf s.2).length else 0), 4, 5), (flag strict, 9, 1), (s.1.code, 30, 2)]

/-! Interrupt controllers (15 R544); a block number is 8 × die + index -/

def Chip.vic (c : Chip) (n : Nat) : Vic := Tbl.get {} (n / 8, n % 8) c.vics
def Vic.active (v : Vic) : Word := packWord [(v.stack.length, 8, 3), (((v.stack.head?).map Prod.snd).getD 0, 0, 8)]

/-- A source is pending: its bit is set, or it is a level source whose line is high (15 R538). -/
def Chip.vicPending (c : Chip) (k n : Nat) : Bool :=
  (c.vic k).pending.contains n || ((c.reg (rg .vicSrcCfg k n)).bit 3 && (c.vic k).lines.contains n)
def Chip.vicPendingWord (c : Chip) (k w : Nat) : Word := packWord ((List.range 32).map (fun b => (flag (c.vicPending k (32 * w + b)), b, 1)))

def PowerState.code : PowerState → Nat
  | .live => 0 | .eve => 1 | .vigil => 2 | .solstice => 3

/-! Reading -/

/-- The value a read returns, for registers of the data path. -/
def Chip.readReg (c : Chip) (r : Reg) : Word :=
  let x := c.part r.blk
  let lo (n : Nat) : Word := BitVec.ofNat 32 n
  let hi (n : Nat) : Word := BitVec.ofNat 32 (n / 2 ^ 32)
  let k := r.blk
  let e := c.engine (64 * k + (c.reg (rg .calEngSel k)).field 5 0)
  match r.name with
  | .hostifFuncInfo =>
    packWord [(k, 0, 5), (flag (c.partOf k).isSome, 8, 1), (((c.partOf k).bind c.part).map (fun x => x.mask (k - 1)) |>.getD 0, 16, 16)]
  | .hostifStatus => c.reg r ||| packWord [(flag (c.power.ready && c.powered), 0, 1), (flag (c.func k).bme, 1, 1)]
  | .hostifDevtimeLo => lo c.now
  | .hostifDevtimeHi => hi c.now
  | .engPhasePeriod => packWord [(slotPs c.therm.level, 0, 16), (c.therm.level, 16, 3)]
  | .engBudgetStat => packWord [(twos 16 (c.core k).balance, 0, 16), (flag (c.passWaits k), 16, 1)]
  | .engArrayInfo => c.arrayInfo k
  | .engRemapInfo => c.remapInfo k
  | .accGroupInfo => (c.selGroup k).info
  | .accGroupRows => packWord [(min 0xFFFFFFFF (c.selGroup k).rows, 0, 32)]
  | .fixQueueStat => packWord [((c.core k).fixq.length, 0, 13), (flag ((c.corePasses k).any (fun p => !p.wait.isEmpty)), 16, 1)]
  | .fixPStat => c.pStat k
  | .attClock => packWord [(c.streamClock, 0, 12)]
  | .kvPageBytes => lo (c.kvCfg k).pageBytes
  | .kvFreePages => lo ((x.map (c.kvFreePages k)).getD 0)
  | .kvFreeSlots => lo ((x.map (c.kvFreeSlots k)).getD 0)
  | .kvStatus => c.reg r ||| packWord [(flag (x.any (c.kvLow k)), 0, 1)]
  | .almClassCount => packWord [((x.map (fun x => Tbl.get 0 (c.field (rg .almClassSel k) 4 0) x.almClasses)).getD 0, 0, 13)]
  | .scrStallStat => c.stallStat k
  | .scrWindowW5 => c.reg r ||| packWord [(flag (c.winClosing k r.idx), 3, 1)]
  | .seqStatus => c.reg r ||| packWord [(flag (x.any (fun x => x.run.isSome)), 0, 1)]
  | .seqStepsLo => lo ((x.map Part.commits).getD 0)
  | .seqStepsHi => hi ((x.map Part.commits).getD 0)
  | .wgtStatus => c.reg r ||| packWord [(flag (x.any Part.imageBad), 1, 1), (flag (x.any (fun x => !x.switch.isEmpty)), 5, 1)]
  | .wgtEpochForce => lo ((x.map (·.epochIs .inForce)).getD 0)
  | .wgtEpochRetiring => lo ((x.map (·.epochIs .retiring)).getD 0)
  | .wgtEpochBuild => lo ((x.map Part.epochBuild).getD 0)
  | .wgtBuildStat => (x.map Part.buildStat).getD 0
  | .wgtWear => c.wear k
  | .calStatus => c.reg r ||| packWord [(flag ((List.range 64).any (fun i => (c.engine (64 * k + i)).ready.isSome)), 1, 1)]
  | .calAccordCount => lo e.count
  | .calAccordTimeLo => lo e.accordAt
  | .calAccordTimeHi => hi e.accordAt
  | .calAccordTemp => lo (twos 16 ((e.inForce.map Accord.temp).getD 0))
  | .calPRounds => lo (min 0xFFFFFFFF ((x.map Part.rounds).getD 0))
  | .calPOldestLo => lo (c.oldestAccord k)
  | .calPOldestHi => hi (c.oldestAccord k)
  | .telemStatus =>
    let t (i : Nat) : Telem := Tbl.get {} (k, i) c.telem
    c.reg r ||| packWord [(flag (t 0).excluded, 1, 1), (flag (t 1).excluded, 2, 1),
      (flag (!(t 0).urgentWait.isEmpty || !(t 1).urgentWait.isEmpty), 3, 1)]
  | .telemChValue => lo (c.chanValue k (c.field (rg .telemChSel k) 5 0))
  | .telemSnsStat =>
    c.reg r ||| packWord (if k = 0 then (List.range 4).map (fun i => (flag (Tbl.find? i c.sense).isSome, i, 1)) ++ [(flag c.capture.isSome, 4, 1)] else [])
  | .telemSns => if k = 0 then lo (c.senseValue r.idx) else 0
  | .thermCfg => c.reg (rg .thermCfg)
  | .thermStatus =>
    c.reg r ||| packWord [(flag c.therm.slowdown, 0, 1), (flag (decide (c.therm.state = .enforcing)), 1, 1)]
  | .thermMax => packWord [(twos 16 c.therm.pkg, 0, 16), (c.therm.hotSensor, 16, 5), (c.therm.hotDie, 24, 3)]
  | .thermLevel => lo c.therm.level
  | .thermSensor =>
    let n := c.field (rg .thermSensorSel k) 4 0
    packWord [(twos 16 (c.sensorTemp k n), 0, 16), (flag (Tbl.get ({} : Sensor) (k, n) c.sensors).broken, 16, 1)]
  | .safeIntCover => c.cover k
  | .safeIftStat =>
    match x with
    | none => 0
    | some x => packWord [(min 0xFFFF x.iftSince, 0, 16), (x.iftDeferred, 16, 7), (flag x.iftDue, 24, 1), (flag x.iftRun, 25, 1)]
  | .linkStatus => c.linkStatus k
  | .iltStatus => c.linksUp
  | .partUnit => c.unitWord r.idx
  | .safeMbxStatus => lo (flag c.scrub.isSome)
  | .vicActive => (c.vic k).active
  | .vicPending => c.vicPendingWord k r.idx
  | .pwrState => packWord [(c.power.state.code, 0, 2), (c.power.last.code, 2, 2)]
  | .pwrPower => packWord [(c.power.watts, 0, 11)]
  | .pwrWake => lo c.power.wake
  | _ => c.reg r &&& ~~~(BitVec.ofNat 32 r.name.info.wo)

end Sys2Proof.Machine
end

