-- ==== Sys2Proof/Machine/Matrix.lean ====
section
/-! DEFINITION. Core ops and events: passes, the issue budget, the Fixative queue, arbitration, groups and closes (02, 04, 05,
12 R434-R436, 08 R289-R291). -/

namespace Sys2Proof.Machine

/-! PASS (02 R62-R63, 08 R289) -/

/-- The pass that a PASS op makes: its inputs as latched. -/
def passOf (c : Chip) (p : Nat) (x : Part) (st : StepCtx) (o : Op) : PassRec :=
  let k := firstCore p + o.unit
  let d := o.pass
  let n := arrSlices d.arrange
  let afmt := if st.act8On k o.layer && decide (d.afmt < 2) then 2 else d.afmt
  let engine := k * 64 + d.engine
  let banks := (x.passBanks st.epoch engine o.layer d).filterMap id
  let input (lo bytes : Nat) (i : Nat) : List Byte := c.read (refAt st.handles (o.get (lo + 4 * i) 4)) bytes
  { op := o.idx, core := k, engine := engine, layer := o.layer, arrange := d.arrange, array := d.array, range := d.range,
    optimistic := d.optimistic, quiet := d.quiet, afmt := afmt, wide := d.wide, group := d.group, half := d.half,
    mode := ((st.layerEntry k o.layer).map layerMode).getD 0, banks := banks,
    slices := (List.range n).map (input 12 (if afmt = 2 then 1024 else 512)),
    sides := (List.range n).map (input 28 64),
    outs := ((c.binding st k d.bind n).getD []).map (fun s => (s.chans, s.q, s.g)),
    rEff := banks.map (fun b => (b.1, if d.optimistic then d.range else max d.range (c.bank b.1 b.2).floor)) }

/-- A layer runs in the step (05 R172). -/
def StepCtx.ranLayer (st : StepCtx) (l : Nat) : StepCtx :=
  { st with layersRun := if st.layersRun.contains l then st.layersRun else st.layersRun ++ [l] }

def Chip.pass (c : Chip) (p core : Nat) : Chip :=
  c.issue p (coreQueue p core) 0x01 (fun c x st o =>
    let st' := ((st.issue o (coreQueue p core) (planOf c p x st o)).ranLayer o.layer)
    c.setStep p { st' with passes := st'.passes ++ [passOf c p x st o] })

def execPass (p core : Nat) (s : State) : Host.Outcome State Fault Refusal := s.onChip (·.pass p core)

/-! PASS_ADMIT (02 R51, R53, R54, R69, 12 R434) -/

def StepCtx.setPass (st : StepCtx) (r : PassRec) : StepCtx :=
  { st with passes := st.passes.map (fun e => if e.op = r.op then r else e) }

/-- The logical columns of a bank that are substituted in every pass: under refresh, waiting for a remap, without a spare
(10 R366, R367). -/
def Chip.substituted (c : Chip) (array bank : Nat) : List Nat :=
  let b := c.bank array bank
  ((c.refreshRuns array).filter (fun r => r.1 == bank)).toList.filterMap (fun r => b.logicalOf r.2) ++ b.remapPending.map Prod.snd ++
    b.noSpare ++ b.remapWait

/-- What a pass's checks found: output columns that clipped, columns substituted for another cause, and the arrays in
disagreement by the reference columns, by the checksum and by a guaranteed-mode clip. -/
structure Verdict where
  clips : List Nat := []
  clipCols : List Nat := []
  sub : List Nat := []
  refBad : List Nat := []
  csBad : List Nat := []
  gclip : List Nat := []
  csClips : Nat := 0
  deriving DecidableEq, Repr

/-- The checks of a pass. A clip counts in an effective logical column alone, and only where nothing else substitutes the column
(02 R58, R71, R78). -/
def PassRec.judge (r : PassRec) (c : Chip) (codes : Tbl Nat Int) (ls : List (Lane × List Conv)) : Verdict :=
  ls.foldl (fun v e =>
    let l := e.1
    let b := c.bank l.array l.bank
    let failed := (c.engine r.engine).failedRows.contains l.array
    let clipped := ((r.touched c codes l).filter (fun k => e.2.any (r.clipped codes l.pos k))).filterMap (fun k => (b.logicalOf k).map (k, ·))
    let counted := if failed then [] else clipped.filter (fun k => !(c.substituted l.array l.bank).contains k.2)
    { clips := v.clips ++ counted.map (l.array * 1044 + ·.1)
      clipCols := v.clipCols ++ counted.map (r.outCol l ·.2)
      sub := v.sub ++ (if failed then r.fedBy l else (c.substituted l.array l.bank ++ clipped.map Prod.snd).map (r.outCol l))
      refBad := if r.refDisagrees c codes l e.2 then v.refBad ++ [l.array] else v.refBad
      csBad := if [0, 1, 2, 3].any (r.csDisagrees c codes l e.2) then v.csBad ++ [l.array] else v.csBad
      gclip := if !r.optimistic && !counted.isEmpty then v.gclip ++ [l.array] else v.gclip
      csClips := v.csClips + ([0, 1, 2, 3].filter (r.csClips codes l e.2)).length }) {}

/-- Columns of a pass go to the Fixative queue, or wait until all of them fit behind earlier waiting passes (05 R149, R162). -/
def Chip.enqueue (c : Chip) (p : Nat) (st : StepCtx) (r : PassRec) (cols : List Nat) : Chip × PassRec :=
  let k := c.core r.core
  let waits := st.passes.any (fun e => e.core == r.core && e.op != r.op && !e.wait.isEmpty)
  if waits ∨ 4096 < k.fixq.length + cols.length then (c, { r with todo := cols, wait := cols })
  else (c.setCore r.core { k with fixq := k.fixq ++ cols.map (fun j => ⟨p, r.op, j⟩) }, { r with todo := cols, wait := [] })

/-- A pass under way in the analogue path: its conversions, values and verdict. -/
def PassRec.convert (r : PassRec) (c : Chip) (p : Nat) (st : StepCtx) (pl : PassPlan) (codes : Tbl Nat Int) : Chip × PassRec :=
  let ls := r.lanes.map (fun l => (l, r.convs pl l))
  let v := r.judge c codes ls
  let sub := r.ordered v.sub
  let suspect := (v.refBad ++ v.csBad ++ v.gclip).eraseDups
  let clipped := (r.ordered v.clipCols).length
  let raised := !r.optimistic && r.lanes.any (fun l => decide (r.range < r.reff l.array))
  let cols := r.ordered (ls.flatMap (fun e => (r.touched c codes e.1).filterMap (fun k =>
    ((c.bank e.1.array e.1.bank).logicalOf k).map (r.outCol e.1))))
  let k := r.core
  let c := (c.count (rg .engEvtSubphase k) pl.subs).count (rg .engEvtSkip k) pl.skipped
  let c := c.count (rg .engEvtCsclip k) v.csClips
  let c := if raised then (c.setBits (rg .engStatus k) 2).count (rg .engEvtRaised k) else c
  let c := if clipped = 0 then c
    else if r.optimistic then c.count (rg .engEvtOclip k) clipped
    else (c.setBits (rg .engStatus k) 1).count (rg .engEvtGclip k) clipped
  let c := if suspect.isEmpty then c else (c.setBits (rg .safeIntStatus p) 8).count (rg .safeEvtDisagree p) suspect.length
  let c := if r.mode = 2 then c.count (rg .fixEvtRefpass k) else c
  let c := c.setEngine r.engine { c.engine r.engine with refs := (c.engine r.engine).refs ++ r.refReadings c codes ls }
  let implicated := r.lanes.flatMap (fun l => if suspect.contains l.array then r.fedBy l else [])
  let r' := { r with
    phase := .admitted, av := (cols.map (fun j => (j, r.addend c codes ls j))).filter (fun e => e.2 != 0), clips := v.clips,
    sub := sub, refBad := v.refBad, csBad := v.csBad, suspect := suspect }
  c.enqueue p st r' (if r.mode = 2 then r.allCols else r.ordered (sub ++ implicated))

/-- The oldest pass of a core that is not admitted is admitted if the balance allows; a reference-mode pass without cost. -/
def Chip.passAdmit (c : Chip) (p core : Nat) (codes : List (Nat × Int)) : Chip :=
  match c.running p with
  | none => c
  | some (_, st) =>
    match st.passes.find? (fun r => r.core == core && r.phase == .issued) with
    | none => c
    | some r =>
      if r.mode = 1 then
        let e := (c.count (rg .fixEvtRefpass core)).enqueue p st { r with phase := .admitted } r.allCols
        e.1.setStep p (st.setPass e.2)
      else
        let pl := r.plan r.lanes
        let k := c.core core
        if r.overBudget k.balance then c
        else
          let c := c.setCore core { k with balance := k.balance - r.cost }
          let e := r.convert c p st pl codes
          e.1.setStep p (st.setPass e.2)

/-- The cores on which a pass waits at admission. -/
def Chip.waitingCores (c : Chip) : List Nat := (List.range 128).filter c.passWaits

/-- Core cycles of 0.625 ns that begin in the nanosecond up to a time (02 R65; log entry 2). -/
def coreCycles (t : Nat) : Nat := 8 * t / 5 - 8 * (t - 1) / 5

/-- The core cycles of the nanosecond that ends count where a pass waits (02 R78). -/
def Chip.budgetWaits (c : Chip) : Chip :=
  if c.powered then c.waitingCores.foldl (fun d k => d.count (rg .engEvtBudgetWait k) (coreCycles c.now)) c else c

def execPassAdmit (p core : Nat) (codes : List (Nat × Int)) (s : State) : Host.Outcome State Fault Refusal :=
  s.onChip (·.passAdmit p core codes)

/-! BUDGET_REFILL (02 R68) -/

/-- At each DEVTIME multiple of 1,000 ns on the core's die, once. -/
def Chip.budgetRefill (c : Chip) (core : Nat) : Chip :=
  let k := c.core core
  let t := c.timeOn (core / 16) / 1000
  if t ≤ k.refilled then c else c.setCore core { k with balance := 128 + min k.balance 0, refilled := t }

def execBudgetRefill (core : Nat) (s : State) : Host.Outcome State Fault Refusal := s.onChip (·.budgetRefill core)

/-! FIX_RECOMPUTE_DONE (05 R149, R160-R164, 12 R426) -/

/-- The image bytes of an output column on an array that feeds it: its codes and scales. -/
def PassRec.laneImage (r : PassRec) (c : Chip) (j : Nat) (l : Lane) : List (Nat × Nat) :=
  let b := c.bank l.array l.bank
  let n := j % r.cols
  let a := b.payload + n * wBytes b.wfmt
  let s := scaleAt b.payload b.wfmt n 0
  [(a / 8 * 8, a + wBytes b.wfmt), (s / 8 * 8, s + 4)]

/-- Those of every array that feeds it. -/
def PassRec.imageRanges (r : PassRec) (c : Chip) (j : Nat) : List (Nat × Nat) := (r.feeds r.lanes j).flatMap (r.laneImage c j)

/-- An array that feeds the column has an invalid image. -/
def PassRec.imageBad (r : PassRec) (c : Chip) (j : Nat) : Bool := (r.feeds r.lanes j).any (fun l => c.imageInvalid l.array l.bank)

/-- What a recomputation reads is checked as an op's reads are; each image with a poisoned word is marked invalid (12 R426, R428). -/
def PassRec.imageCheck (r : PassRec) (c : Chip) (p : Nat) (parity : Bool) (j : Nat) : Chip × Bool :=
  let m := c.readCheck p parity (r.imageRanges c j)
  ((r.feeds r.lanes j).foldl (fun d l =>
    if (wordsIn c.ue (r.laneImage c j l)).isEmpty then d else d.updPart p (fun x => x.invalidate (c.bank l.array l.bank).run)) m.1, m.2)

/-- Waiting passes of a core move into the queue in order while they fit. -/
def Chip.admitWaiting (c : Chip) (p core : Nat) (st : StepCtx) : Chip × StepCtx :=
  (st.passes.filter (fun r => r.core == core && !r.wait.isEmpty)).foldl (fun a r =>
    let e := a.1.enqueue p { a.2 with passes := a.2.passes.filter (fun q => decide (q.op < r.op)) } r r.wait
    (e.1, a.2.setPass { r with wait := e.2.wait })) (c, st)

/-- The entry at the head of a core's queue is computed. -/
def Chip.fixRecompute (c : Chip) (p core : Nat) : Chip :=
  match c.running p, (c.core core).fixq with
  | some (_, st), f :: rest =>
    if f.p ≠ p then c
    else
      match st.passes.find? (fun r => r.op == f.op) with
      | none => c.setCore core { c.core core with fixq := rest }
      | some r =>
        if r.imageBad c f.col then (c.setBits (rg .fixStatus core) 4).endStep p .integrityFail r.op
        else
        let m := r.imageCheck c p st.parity f.col
        if !m.2 then (if r.imageBad m.1 f.col then m.1.setBits (rg .fixStatus core) 4 else m.1).endStep p .integrityFail r.op
        else
          let c := m.1
          let c := if r.mode ≠ 1 && r.sub.contains f.col then c.count (rg .fixEvtRecomp core) else c
          let v := r.refValue c f.col
          let r := { r with todo := r.todo.filter (· != f.col), vals := Tbl.set f.col v r.vals }
          let c := c.setCore core { c.core core with fixq := rest }
          let a := c.admitWaiting p core (st.setPass r)
          a.1.setStep p a.2
  | _, _ => c

def execFixRecomputeDone (p core : Nat) (s : State) : Host.Outcome State Fault Refusal := s.onChip (·.fixRecompute p core)

/-! ARBITRATION_DONE (12 R434-R436, R448) -/

/-- The device's addend v of an output column (04 R118). -/
def PassRec.value (r : PassRec) (c : Chip) (j : Nat) : Word :=
  if r.mode = 1 ∨ j ∈ r.sub then Tbl.get 0 j r.vals else fadd (Tbl.get 0 j r.av) (r.os c j)

/-- The output columns that arbitration judges. -/
def PassRec.implicated (r : PassRec) : List Nat := r.ordered (r.lanes.flatMap (fun l => if r.suspect.contains l.array then r.fedBy l else []))

/-- A column agrees with its reference value within the bound of the pass. -/
def PassRec.agrees (r : PassRec) (c : Chip) (j : Nat) : Bool :=
  withinBound (r.value c j) (Tbl.get 0 j r.vals) (r.bound5 c j) (r.absSum c j)

/-- The bank that a pass drives on an array. -/
def PassRec.bankOf (r : PassRec) (array : Nat) : Nat := Tbl.get 0 array r.banks

/-- A wrong verdict of the checksum comparison: its column is refreshed; the fourth of an array within 1,000 commits suspends it until
the bank is next programmed. -/
def Chip.checksumWrong (c : Chip) (p array bank : Nat) : Chip :=
  let now := ((c.part p).map Part.commits).getD 0
  let b := c.bank array bank
  let recent (l : List Nat) : List Nat := l.filter (fun t => decide (now < t + 1000))
  let own := recent (b.csWrong ++ [now])
  let all := own ++ recent (c.bank array (1 - bank)).csWrong
  (c.setBank array bank { b with csWrong := own, csSuspended := b.csSuspended || decide (4 ≤ all.length) }).refresh array bank [1040]

/-- The reference columns are refreshed, and the next Accord re-measures the converter references. -/
def Chip.referenceWrong (c : Chip) (array bank : Nat) : Chip :=
  let c := c.refresh array bank [1041, 1042, 1043]
  c.setEngine (array / 4) { c.engine (array / 4) with remeasure := true }

/-- The physical columns of an output column on the suspect arrays that feed it. -/
def PassRec.physical (r : PassRec) (c : Chip) (j : Nat) : List (Nat × Nat × Nat) :=
  ((r.feeds r.lanes j).filter (fun l => r.suspect.contains l.array)).flatMap (fun l =>
    (r.logical j).map (fun n => (l.array, l.bank, (c.bank l.array l.bank).effective n)))

def Chip.arbitrate (c : Chip) (p : Nat) (st : StepCtx) (r : PassRec) : Chip :=
  let js := r.implicated
  let wrong := js.filter (fun j => !r.agrees c j)
  if wrong.isEmpty then
    let c := c.count (rg .safeEvtCheckerWrong p)
    let c := r.csBad.foldl (fun c a => c.checksumWrong p a (r.bankOf a)) c
    let c := r.refBad.foldl (fun c a => c.referenceWrong a (r.bankOf a)) c
    c.setStep p (st.setPass { r with arbitrated := true })
  else
    let c := (c.setBits (rg .safeIntStatus p) 16).count (rg .safeEvtCorrectedCol p) js.length
    let c := wrong.foldl (fun c j => (r.physical c j).foldl (fun c k => c.mendColumn p k.1 k.2.1 k.2.2) c) c
    let c := if r.csBad.isEmpty || r.refBad.isEmpty then c
      else r.refBad.foldl (fun c a => c.refresh a (r.bankOf a) [1041, 1042, 1043])
        (r.csBad.foldl (fun c a => c.refresh a (r.bankOf a) [1040]) c)
    (c.enterRecovery p).updStep p (fun st =>
      { st.setPass { r with arbitrated := true, sub := r.ordered (r.sub ++ js) } with corrected := true })

/-- The oldest suspect pass of a core whose reference values are ready is judged. -/
def Chip.arbitrationDone (c : Chip) (p core : Nat) : Chip :=
  match c.running p with
  | none => c
  | some (_, st) =>
    match st.passes.find? (fun r => r.core == core && r.phase == .admitted && r.isSuspect && !r.arbitrated) with
    | none => c
    | some r => if r.todo.isEmpty then c.arbitrate p st r else c

def execArbitrationDone (p core : Nat) (s : State) : Host.Outcome State Fault Refusal := s.onChip (·.arbitrationDone p core)

/-! PASS_PROMOTE (04 R118, R119, R123, 02 R52, 05 R166) -/

/-- A pass uses a group of its engine. -/
def PassRec.uses (r : PassRec) (engine g : Nat) : Bool :=
  r.engine == engine && decide (r.group ≤ g ∧ g < r.group + arrGroups r.arrange)

/-- Two passes share a group. -/
def PassRec.shares (r q : PassRec) : Bool := (List.range 8).any (fun g => r.uses r.engine g && q.uses r.engine g)

/-- A pass is ready: codes, substitutions and arbitration done, and no earlier unpromoted pass uses one of its groups. -/
def PassRec.ready (st : StepCtx) (r : PassRec) : Bool :=
  r.phase == .admitted && r.todo.isEmpty && (!r.isSuspect || r.arbitrated) &&
  !st.passes.any (fun q => decide (q.op < r.op) && q.phase != .promoted && q.shares r)

/-- Add the addends of a pass to lanes; an unlisted lane holds +0.0. -/
def addLanes (lanes : Tbl Nat Word) (vs : List (Nat × Word)) : Tbl Nat Word :=
  vs.foldl (fun t e => let w := fadd (Tbl.get 0 e.1 t) e.2; if w = 0 ∧ (Tbl.find? e.1 t).isNone then t else Tbl.set e.1 w t) lanes

/-- The lane of an output column (04 R122). -/
def PassRec.laneOf (r : PassRec) (j : Nat) : Nat := j % r.cols + (if r.half then 512 else 0)

/-- One group takes the addends of a pass. -/
def Chip.promoteGroup (c : Chip) (r : PassRec) (i : Nat) : Chip :=
  let g := c.group r.engine (r.group + i)
  let all := r.allCols.filter (fun j => j / r.cols == i)
  let js := if r.mode = 1 || r.outs.any (fun o => !o.1.isEmpty) then all
    else all.filter (fun j => r.sub.contains j || (Tbl.find? j r.av).isSome)
  let rows := min 0xFFFFFFFF (g.rows + arrRows r.arrange)
  let long := !g.long && decide (262144 < rows)
  let g := { g with
    lanes := addLanes g.lanes (js.map (fun j => (r.laneOf j, r.value c j))),
    shadow := if r.mode = 2 then addLanes g.shadow (all.map (fun j => (r.laneOf j, Tbl.get 0 j r.vals))) else g.shadow,
    rows := rows, passes := min 255 (g.passes + 1), mode := g.mode.or (some r.optimistic), long := g.long || long,
    members := g.members ++ [r.op] }
  let c := c.setGroup r.engine (r.group + i) g
  if long then (c.setBits (rg .accStatus r.core) 1).count (rg .accEvtLong r.core) else c

/-- A close of a layer is monitored on a core: NM_EN of its entry is 1. -/
def StepCtx.monitored (st : StepCtx) (core layer : Nat) : Bool := ((st.layerEntry core layer).map layerNm).getD false

/-- The layer that a close names. -/
def CloseRec.layer (k : CloseRec) : Nat := (⟨k.op, k.desc⟩ : Op).layer

/-- The first ready pass of a core promotes. Its reads stay held where a monitored close of one of its groups waits, or its own layer is
monitored and its close may yet come (12 R438; DEDUCED, log entry 86). -/
def Chip.passPromote (c : Chip) (p core : Nat) : Chip :=
  match c.running p with
  | none => c
  | some (_, st) =>
    match st.passes.find? (fun r => r.core == core && r.ready st) with
    | none => c
    | some r =>
      let c := (List.range (arrGroups r.arrange)).foldl (fun c i => c.promoteGroup r i) c
      let c := if r.mode = 1 then c else c.count (rg .accEvtSubst core) r.sub.length
      let reads := st.issued.filter (fun i => i.idx == r.op)
      let hold := st.monitored core r.layer || st.closes.any (fun k => !k.closed && r.uses k.engine k.group && st.monitored core k.layer)
      let st := st.setPass { r with phase := .promoted }
      c.setStep p { st with
        issued := st.issued.filter (fun i => i.idx != r.op)
        held := if hold then st.held ++ reads else st.held
        promoted := st.promoted ++ reads }

def execPassPromote (p core : Nat) (s : State) : Host.Outcome State Fault Refusal := s.onChip (·.passPromote p core)

/-! ACC_OPEN (04 R121) -/

def Chip.accOpen (c : Chip) (p core : Nat) : Chip :=
  c.issue p (coreQueue p core) 0x02 (fun c _ _ o =>
    let e := core * 64 + o.get 8 1
    (List.range 8).foldl (fun c g => if (o.get 9 1).testBit g then c.setGroup e g { state := .opened } else c) c)

def execAccOpen (p core : Nat) (s : State) : Host.Outcome State Fault Refusal := s.onChip (·.accOpen p core)

/-! ACC_CLOSE (04 R124) -/

def Chip.accClose (c : Chip) (p core : Nat) : Chip :=
  c.issue p (coreQueue p core) 0x03 (fun c x st o =>
    let e := core * 64 + o.get 8 1
    let g := o.get 9 1
    let st' := (st.issue o (coreQueue p core) (planOf c p x st o)).ranLayer o.layer
    let mine := (c.group e g).members
    let hold := if st.monitored core o.layer then
      st.promoted.filter (fun i => mine.contains i.idx && !st.held.any (fun h => h.idx == i.idx)) else []
    (c.setGroup e g { c.group e g with state := .closing }).setStep p
      { st' with closes := st'.closes ++ [{ op := o.idx, core := core, engine := e, group := g, desc := o.desc }], held := st'.held ++ hold })

def execAccClose (p core : Nat) (s : State) : Host.Outcome State Fault Refusal := s.onChip (·.accClose p core)

/-! GROUP_CLOSE (04 R124, R126, R128, R135, 05 R166, R169-R171, 12 R438) -/

/-- The outputs of a close before narrowing: bias, then the fused operation, lane by lane. -/
def Chip.closeOut (c : Chip) (st : StepCtx) (o : Op) (g : Group) : List Word :=
  let m := o.get 10 1
  let at_ (lo : Nat) : Nat := refAt st.handles (o.get lo 4)
  let fused := bitsOf m 1 0
  let bias := if m.testBit 3 then c.readVals (at_ 20) 1024 false else []
  let f := if fused = 1 ∨ fused = 2 then c.readVals (at_ 16) 1024 (m.testBit 2) else []
  (List.range 1024).map (fun i =>
    let y := Tbl.get 0 i g.lanes
    let y := if m.testBit 3 then fadd y (bias.getD i 0) else y
    if fused = 1 then fadd y (f.getD i 0) else if fused = 2 then fmul y (f.getD i 0) else y)

/-- The RMS of the first lanes (05 R169). -/
def rmsOf (ys : List Word) : Word :=
  fsqrt (fdiv (ys.foldl (fun s y => fadd s (fmul y y)) 0) (natF32 ys.length))

/-- The monitor's fields with their defaults (05 R151): upward and downward ratios, shift, warm-up, lanes. -/
def nmUp (e : List Byte) : Nat := let v := bytesLe e 4 1; if v = 0 then 16 else v
def nmDown (e : List Byte) : Nat := let v := bytesLe e 5 1; if v = 0 then 16 else v
def nmShift (e : List Byte) : Nat := let v := bytesLe e 6 1; if v = 0 then 4 else v
def nmWarm (e : List Byte) : Nat := let v := bytesLe e 7 1; if v = 0 then 16 else v
def nmLanes (e : List Byte) : Nat := let v := bytesLe e 8 2; if v = 0 then 1024 else v

/-- n / 4 as FP32, exactly. -/
def quarter (n : Nat) : Word := rnd32 (.fin false n 1 (-2))

/-- The verdict of the monitor on an RMS (05 R170). -/
def nmTrips (e : List Byte) (m : Monitor) (rms : Word) : Bool :=
  if !fFinite rms then true
  else if nmWarm e ≤ m.updates ∧ flt 0 m.mean = true then
    flt (fmul (quarter (nmUp e)) m.mean) rms || flt (fmul rms (quarter (nmDown e))) m.mean
  else false

/-- The monitor after a close (05 R170, R171). -/
def nmAfter (e : List Byte) (m : Monitor) (rms : Word) : Monitor :=
  if nmTrips e m rms then { m with lastRms := rms, trips := min 0xFFFFFFFF (m.trips + 1) }
  else { m with
    mean := if m.updates = 0 then rms else fadd m.mean (rnd32 (Val.mul (f32 (fsub rms m.mean)) (.fin false 1 1 (-(nmShift e : Int))))),
    updates := min 0xFFFF (m.updates + 1), lastRms := rms }

/-- The monitor state of a layer on a core: the step's own, or the entry's (05 R172). -/
def Chip.monitor (c : Chip) (st : StepCtx) (k l : Nat) : Monitor :=
  match Tbl.find? (k, l) st.monitors with
  | some m => m
  | none =>
    let a := c.layerAt k l
    ⟨c.word (a + 16), c.le (a + 20) 2, c.word (a + 24), c.le (a + 28) 4⟩

/-- The reduction record of a close (04 R135). -/
def Chip.closeRed (c : Chip) (st : StepCtx) (o : Op) (core : Nat) (out : List Word) : Chip :=
  let red := bitsOf (o.get 10 1) 5 4
  if red = 0 then c
  else
    let xs := (out.take (o.get 36 2)).zipIdx
    match rankFirst (red == 1) xs with
    | none => c
    | some w =>
      let c := c.write (refAt st.handles (o.get 32 4)) (redRecord w.1 (o.get 40 4 + w.2))
      if fIsNan w.1 then (c.setBits (rg .accStatus core) 4).count (rg .accEvtNanRed core) else c

/-- The compare record of a close (05 R166): n counts the layer's closes on the core in the step. A record that does not fit in the
core's scratch is not written (DESIGN CHOICE, log entry 53). -/
def Chip.compareRecord (c : Chip) (st : StepCtx) (core layer : Nat) (e : List Byte) (g : Group) : Chip :=
  if layerMode e = 2 then
    let n := Tbl.get 0 (core, layer) st.closeCount
    let off := bytesLe e 12 4 + 4096 * (n % max 1 (bytesLe e 10 2))
    if 0x800000 < off + 4096 then c else c.write (coreAt core off) ((List.range 1024).flatMap (fun i => leBytes 4 (Tbl.get 0 i g.shadow).toNat))
  else c

/-- A promoted pass is in another open group of its engine, or a close with it tripped: its reads stay held (12 R438). -/
def Chip.stillHeld (c : Chip) (st : StepCtx) (engine op : Nat) : Bool :=
  c.groups.any (fun g => g.1.1 == engine && g.2.members.contains op) ||
    st.closes.any (fun k => k.engine == engine && k.tripped && k.members.contains op)

/-- A close of a group: outputs, reduction, compare record, monitor; the group becomes FREE. -/
def Chip.closeGroup (c : Chip) (p : Nat) (st : StepCtx) (k : CloseRec) : Chip :=
  let o : Op := ⟨k.op, k.desc⟩
  let core := k.core
  let g := c.group k.engine k.group
  let layer := o.layer
  let e := (st.layerEntry core layer).getD []
  let out := c.closeOut st o g
  let fmt := closeFmt st core o
  let olist := if fmt < 3 ∧ o.get 14 2 ≠ 0xFFFF then (c.listOf st core (o.get 14 2)).getD [] else []
  let at_ (lo : Nat) : Nat := refAt st.handles (o.get lo 4)
  let c := c.compareRecord st core layer e g
  let c := c.closeRed st o core out
  let w := c.writeOut fmt out (at_ 24) (at_ 28) olist
  let c := w.1.accNarrow core w.2
  let m := c.monitor st core layer
  let rms := rmsOf (out.take (nmLanes e))
  let trips := layerNm e && nmTrips e m rms
  let c := if trips then (c.setBits (rg .fixStatus core) 1).count (rg .fixEvtTrip core) else c
  let c := c.setGroup k.engine k.group {}
  let judged (i : Issued) : Bool := g.members.contains i.idx && !c.stillHeld st k.engine i.idx
  let k' := { k with closed := true, tripped := trips, members := g.members, totals := g.lanes, long := g.long }
  c.setStep p { st with
    closes := st.closes.map (fun q => if q.op = k.op then k' else q),
    closeCount := Tbl.upd 0 (core, layer) (· + 1) st.closeCount,
    monitors := if layerNm e then Tbl.set (core, layer) (nmAfter e m rms) st.monitors else st.monitors,
    closedLayers := if layerNm e && !st.closedLayers.contains layer then st.closedLayers ++ [layer] else st.closedLayers,
    tripped := if trips && !st.tripped.contains layer then st.tripped ++ [layer] else st.tripped,
    issued := st.issued.filter (fun i => i.idx != k.op),
    held := if trips then st.held else st.held.filter (fun i => !judged i)
    promoted := st.promoted.filter (fun i => !judged i) }

/-- A closing group closes once every PASS issued before it that uses the group has promoted; closes of one layer on one core
in issue order. -/
def Chip.groupClose (c : Chip) (p core engine group : Nat) : Chip :=
  match c.running p with
  | none => c
  | some (_, st) =>
    let e := core * 64 + engine
    match st.closes.find? (fun k => k.engine == e && k.group == group && !k.closed) with
    | none => c
    | some k =>
      if st.passes.any (fun r => decide (r.op < k.op) && r.phase != .promoted && r.uses e group) ||
          st.closes.any (fun q => decide (q.op < k.op) && q.core == k.core && !q.closed && q.layer == k.layer) then c
      else c.closeGroup p st k

def execGroupClose (p core engine group : Nat) (s : State) : Host.Outcome State Fault Refusal :=
  s.onChip (·.groupClose p core engine group)

end Sys2Proof.Machine
end

