-- ==== Sys2Proof/Machine/Movers.lean ====
section
/-! DEFINITION. Mover ops: copies, gathers, scatters, collectives (08 R300-R302, 12 R429, 14 R500, R509-R513). -/

namespace Sys2Proof.Machine

def moverQueue (p mover : Nat) : Queue := .mover (mover - p)

/-! Transfers -/

/-- Move n bytes, all read before any is written; false where a block failed twice. -/
def Chip.moveBytes (c : Chip) (p : Nat) (on : Bool) (src dst n : Nat) : Chip × Bool :=
  let r := c.blockRead p on src n
  (r.1.write dst (c.read src r.2), r.2 == n)

/-! Uses of flows by a step -/

/-- An op of a running step that waits on the fabric is complete. -/
def Chip.remoteDone (c : Chip) (p op : Nat) : Chip :=
  c.updStep p (fun st => { st.finish op with remotes := st.remotes.filter (fun r => r.op != op) })

/-- What becomes of a step's use of a flow: a write is complete, or the step ends with the status; a use of a step that has ended
does nothing (14 R500, R515). -/
def Chip.stepUse (c : Chip) (e : UseEvent) : Chip :=
  let go (p no op : Nat) (done : Bool) : Chip :=
    match c.running p with
    | none => c
    | some (_, st) =>
      if st.no ≠ no ∨ !(st.remotes.any (fun r => r.op == op)) then c
      else
        match e.2 with
        | some s => c.endStep p s op
        | none => if done then c.remoteDone p op else c
  match e.1 with
  | .stepOp p no op => go p no op true
  | .collective p no op => go p no op false
  | _ => c

def Chip.stepUses (c : Chip) (es : List UseEvent) : Chip := es.foldl Chip.stepUse c

/-! COPY (08 R300) -/

def Chip.copy (c : Chip) (p mover : Nat) : Chip :=
  c.issue p (moverQueue p mover) 0x20 (fun c x st o =>
    let n := o.get 16 4
    if (o.get 20 1).testBit 0 then
      if (c.route (o.get 24 2)).isNone then c.endStep p .denied o.idx
      else
        let st' := st.issue o (moverQueue p mover) (planOf c p x st o)
        let c := c.setStep p { st' with remotes := st'.remotes ++ [⟨o.idx, o.desc, false, 0⟩] }
        let src := o.at st 8
        let r := c.sendMsg p mover
          { pkt := { typ := 3, key := o.get 26 2, dst := o.get 24 2, src := c.chipNumber,
                     arg := leBytes 1 (o.get 21 1) ++ leBytes 1 0 ++ beBytes 6 (o.get 28 6) }
            data := c.read src n, block := st.block, base := src, use := .stepOp p st.no o.idx, last := true }
        r.1.stepUses r.2
    else
      let r := c.moveBytes p st.block (o.at st 8) (o.at st 12) n
      if r.2 then r.1 else r.1.abandonOp p o (planOf c p x st o) .integrityFail)

def execCopy (p mover : Nat) (s : State) : Host.Outcome State Fault Refusal := s.onChip (·.copy p mover)

/-! GATHER and SCATTER (08 R301) -/

/-- Move rows one by one until a block fails twice. -/
def Chip.moveRows (c : Chip) (p : Nat) (o : Op) (pl : Plan) (rowBytes : Nat) (on : Bool) (rows : List (Nat × Nat)) : Chip :=
  let r := rows.foldl (fun r e => if r.2 then r.1.moveBytes p on e.1 e.2 rowBytes else r) (c, true)
  if r.2 then r.1 else r.1.abandonOp p o pl .integrityFail

def Chip.gather (c : Chip) (p mover : Nat) : Chip :=
  c.issue p (moverQueue p mover) 0x21 (fun c x st o =>
    let rb := o.get 24 4
    c.moveRows p o (planOf c p x st o) rb st.block ((List.range (o.get 20 4)).map (fun i =>
      (o.at st 8 + rb * c.le (o.at st 12 + 4 * i) 4, o.at st 16 + rb * i))))

def execGather (p mover : Nat) (s : State) : Host.Outcome State Fault Refusal := s.onChip (·.gather p mover)

def Chip.scatter (c : Chip) (p mover : Nat) : Chip :=
  c.issue p (moverQueue p mover) 0x22 (fun c x st o =>
    let rb := o.get 24 4
    c.moveRows p o (planOf c p x st o) rb st.block ((List.range (o.get 20 4)).filterMap (fun i =>
      let v := c.le (o.at st 12 + 4 * i) 4
      if v = 0xFFFFFFFF then none else some (o.at st 8 + rb * i, o.at st 16 + rb * v))))

def execScatter (p mover : Nat) (s : State) : Host.Outcome State Fault Refusal := s.onChip (·.scatter p mover)

/-! COLLECTIVE (14 R509-R513) -/

/-- The contribution of one member: its bytes for each other member. -/
def contribBytes (kind n m : Nat) : Nat := if kind = 4 then 0 else if kind = 2 ∨ kind = 3 then n / max m 1 else n

/-- The staging slot of a member for a tag, as an offset in the staging area. -/
def slotOff (stageBytes tag rank n : Nat) : Nat := tag % 2 * (stageBytes / 2) + rank * n

/-- Element-wise sums in ascending rank (14 R513): FP32, or BF16 converted once at the end. -/
def sumParts (bf : Bool) (n : Nat) (parts : List (List Byte)) : List Byte :=
  let w := elemBytes bf
  (List.range (n / w)).flatMap (fun i =>
    let at_ (b : List Byte) : Word := if bf then bfToF32 (bytesLe b (w * i) w) else BitVec.ofNat 32 (bytesLe b (w * i) w)
    let s := sumF (parts.map at_)
    if bf then leBytes 2 (f32ToBf s) else leBytes 4 s.toNat)

/-- The staged part of a member for a tag is whole. -/
def Part.partDone (x : Part) (group tag rank : Nat) : Bool :=
  x.staged.any (fun k => k.group == group && k.tag == tag && k.rank == rank && k.done)

/-- A collective whose parts have all arrived forms DST and completes (14 R511, R512). -/
def Chip.collTry (c : Chip) (p : Nat) (r : RemoteRec) : Chip :=
  match c.running p with
  | none => c
  | some (x, st) =>
    let o : Op := ⟨r.op, r.desc⟩
    let gi := o.get 22 2
    let tag := o.get 24 4
    let n := o.get 16 4
    let kind := o.get 20 1
    match c.collGroup p x st gi with
    | none => c
    | some g =>
      match c.collRank p g, x.range p g.stage g.stageBytes with
      | some own, some (stage, _) =>
        let m := g.members
        if !(List.range m).all (fun j => j == own || x.partDone gi tag j) then c
        else
          let len := contribBytes kind n m
          let parts := (List.range m).map (fun j =>
            if j = own then c.read (o.at st 8 + (if kind = 2 ∨ kind = 3 then own * len else 0)) len
            else c.read (stage + slotOff g.stageBytes tag j n) len)
          let out := if kind = 0 ∨ kind = 2 then sumParts (o.get 21 1 == 1) len parts else parts.flatten
          let c := if kind = 4 then c else c.write (o.at st 12) out
          (c.updPart p (fun x => { x with
            nextTags := Tbl.set gi (psnAdd tag 1) x.nextTags
            staged := x.staged.filter (fun k => !(k.group == gi && k.tag == tag)) })).remoteDone p o.idx
      | _, _ => c

/-- Staged parts of a collective that differ from the op in KIND, FMT or BYTES. -/
def Part.mismatched (x : Part) (o : Op) : List CollPart :=
  x.staged.filter (fun k => k.group == o.get 22 2 && k.tag == o.get 24 4 &&
    !(k.kind == o.get 20 1 && k.fmt == o.get 21 1 && k.size == o.get 16 4))

/-- Answer a packet of a receive flow with a NAK (14 R507). -/
def Chip.sendNak (c : Chip) (peer flow key ack code psn : Nat) : Chip :=
  (c.count (rg .iltEvtNak)).transmit
    { typ := 8, key := key, dst := peer, src := c.chipNumber, flow := flow, ack := ack,
      ext := leBytes 1 code ++ leBytes 3 0 ++ beBytes 4 psn }

/-- Refuse the staged packets of a flow with MALFORMED. -/
def Chip.nakPart (c : Chip) (k : CollPart) : Chip :=
  match c.flow k.flow with
  | none => c
  | some f => c.sendNak f.peer f.id f.key f.acked 6 k.psn

def Chip.collective (c : Chip) (p mover : Nat) : Chip :=
  c.issue p (moverQueue p mover) 0x28 (fun c x st o =>
    let n := o.get 16 4
    let kind := o.get 20 1
    match c.collGroup p x st (o.get 22 2) with
    | none => c
    | some g =>
      let own := (c.collRank p g).getD 0
      let others := g.chips.zipIdx.filter (fun e => e.2 != own)
      let bad := x.mismatched o
      let src := o.at st 8
      let r := if kind = 4 then (c, 0) else c.blockRead p st.block src n
      if !bad.isEmpty then (bad.foldl Chip.nakPart c).endStep p .malformed o.idx
      else if others.any (fun e => (c.route e.1.1).isNone) then c.endStep p .denied o.idx
      else if kind ≠ 4 ∧ r.2 ≠ n then r.1.abandonOp p o (planOf c p x st o) .integrityFail
      else
        let c := r.1
        let len := contribBytes kind n g.members
        let rec_ : RemoteRec := ⟨o.idx, o.desc, true, c.now + 1000000 * st.collCfg.field 23 8⟩
        let st' := st.issue o (moverQueue p mover) (planOf c p x st o)
        let c := c.setStep p { st' with remotes := st'.remotes ++ [rec_] }
        let r := others.foldl (fun (r : Chip × List UseEvent) e =>
          let at_ := src + (if kind = 2 ∨ kind = 3 then e.2 * len else 0)
          let s := r.1.sendMsg p 16
            { pkt := { typ := 6, key := e.1.2, dst := e.1.1, src := c.chipNumber,
                       arg := beBytes 4 g.id ++ beBytes 4 (o.get 24 4),
                       ext := leBytes 1 own ++ leBytes 1 (kind + 16 * o.get 21 1) ++ leBytes 2 0 ++ beBytes 4 n }
              data := c.read at_ len, block := st.block, base := at_, use := .collective p st.no o.idx, last := true }
          (s.1, r.2 ++ s.2)) (c, [])
        (r.1.stepUses r.2).collTry p rec_)

def execCollective (p mover : Nat) (s : State) : Host.Outcome State Fault Refusal := s.onChip (·.collective p mover)

/-- A collective has not completed within its limit (14 R511). -/
def Chip.collTimeout (c : Chip) (p op : Nat) : Chip :=
  match c.running p with
  | none => c
  | some (_, st) =>
    match st.remotes.find? (fun r => r.op == op && r.coll) with
    | none => c
    | some r => if c.now < r.due then c else c.endStep p .timeout op

def execCollTimeout (p op : Nat) (s : State) : Host.Outcome State Fault Refusal := s.onChip (·.collTimeout p op)

end Sys2Proof.Machine
end

