-- ==== Sys2Proof/Machine/Control.lean ====
section
/-! DEFINITION. COMMIT: checks, the trip check, publishing, layer state, fallback, DEGRADED, the cache, the completion and the
boundary (08 R306-R310, 04 R125, 05 R172-R180, 06 R225, 11 R396, 12 R439). -/

namespace Sys2Proof.Machine

/-! The checks of action 2 (04 R125, 06 R225) -/

/-- The cores of a partition that hold a group which is not FREE. -/
def Chip.openGroupCores (c : Chip) (p : Nat) (x : Part) : List Nat :=
  ((c.groups.filter (fun g => decide (g.2.state ≠ .free) && ownsCore x p (g.1.1 / 64))).map (fun g => g.1.1 / 64)).eraseDups

/-- A sequence was appended in some KV layers of the step, but not in all. -/
def Chip.appendShort (c : Chip) (p : Nat) (st : StepCtx) : Bool :=
  st.uses.any (fun u => decide (u.appended ≠ [] ∧ u.appended.length < (c.kvCfg p).layers))

/-! The trip check (12 R439) -/

/-- The output column of a pass that feeds a lane of one of its groups. -/
def PassRec.feedsLane (r : PassRec) (group lane : Nat) : Option Nat :=
  let off := if r.half then 512 else 0
  if off ≤ lane ∧ lane < off + r.cols ∧ r.group ≤ group ∧ group < r.group + arrGroups r.arrange then
    some ((group - r.group) * r.cols + (lane - off)) else none

/-- The passes promoted into a close's group, in promotion order. -/
def StepCtx.membersOf (st : StepCtx) (k : CloseRec) : List PassRec := k.members.filterMap (fun i => st.passes.find? (fun r => r.op == i))

/-- The lanes of a close that its trip check judges: none where it did not trip, for a long group or a layer in reference mode. -/
def StepCtx.tripLanes (st : StepCtx) (k : CloseRec) : List Nat :=
  let e := (st.layerEntry k.core (⟨k.op, k.desc⟩ : Op).layer).getD []
  if !k.tripped || k.long || layerMode e == 1 then [] else List.range (nmLanes e)

/-- The output columns of a pass that trip checks need and whose reference values no entry has computed (05 R168). -/
def StepCtx.replay (st : StepCtx) (r : PassRec) : List Nat :=
  (r.ordered ((st.closes.filter (fun k => k.members.contains r.op && k.engine == r.engine)).flatMap (fun k =>
    (st.tripLanes k).filterMap (r.feedsLane k.group)))).filter (fun j => (Tbl.find? j r.vals).isNone)

/-- The columns that the trip checks need go through the Fixative queues, pass by pass (05 R149, R168). -/
def Chip.requestReplay (c : Chip) (p : Nat) (st : StepCtx) : Chip :=
  let r := (st.passes.filter (fun r => r.todo.isEmpty && !(st.replay r).isEmpty)).foldl (fun a r =>
    let e := a.1.enqueue p a.2 r (st.replay r)
    (e.1, a.2.setPass e.2)) (c, st)
  r.1.setStep p r.2

/-- A lane of a tripped close is outside the bound of R130; F and U are taken over the passes whose value there is an analogue one. -/
def Chip.laneOut (c : Chip) (st : StepCtx) (k : CloseRec) (lane : Nat) : Bool :=
  let fed := (st.membersOf k).filterMap (fun r => (r.feedsLane k.group lane).map (fun j => (r, j)))
  let t := fed.foldl (fun t e => fadd t (Tbl.get 0 e.2 e.1.vals)) 0
  let zero : Val := .fin false 0 1 0
  let analogue := fed.filter (fun e => e.1.mode ≠ 1 && !e.1.sub.contains e.2)
  let f5 := analogue.foldl (fun f e => Val.add f (e.1.bound5 c e.2)) zero
  let u := analogue.foldl (fun u e => Val.add u (e.1.absSum c e.2)) zero
  !withinBound (Tbl.get 0 lane k.totals) t f5 u

/-- The lanes of a tripped close that make it a fault trip. -/
def Chip.faultLanes (c : Chip) (st : StepCtx) (k : CloseRec) : List Nat := (st.tripLanes k).filter (c.laneOut st k)

/-- A fault trip: the physical columns that fed its lanes are refreshed, the engines are tested at the next boundary. -/
def Chip.faultTrip (c : Chip) (p : Nat) (st : StepCtx) (k : CloseRec) (lanes : List Nat) : Chip :=
  let c := (c.setBits (rg .safeIntStatus p) 32).count (rg .safeEvtTripFault p)
  let c := (st.membersOf k).foldl (fun c r =>
    r.lanes.foldl (fun c l =>
      let cols := lanes.flatMap (fun lane => match r.feedsLane k.group lane with
        | some j => if arrGroupOf r.arrange l.pos = j / r.cols then (r.logical j).map (c.bank l.array l.bank).effective else []
        | none => [])
      if cols.isEmpty then c else c.refresh l.array l.bank cols) c) c
  (c.enterRecovery p).updPart p (fun x => { x with iftForced := true })

/-- The trip check of every tripped close; false where one was a fault trip. -/
def Chip.tripCheck (c : Chip) (p : Nat) (st : StepCtx) : Chip × Bool :=
  st.closes.foldl (fun r k =>
    let lanes := c.faultLanes st k
    if lanes.isEmpty then r else (r.1.faultTrip p st k lanes, false)) (c, true)

/-! Publishing (08 R306) -/

/-- The publish entries are read and checked, then written to host memory in order; false where a read failed. -/
def Chip.publish (c : Chip) (p : Nat) (st : StepCtx) (o : Op) : Chip × Bool :=
  let es := pubEntries st o
  let r := c.readCheck p st.parity (es.flatMap (fun e => e.1.range e.2.1))
  let r := es.foldl (fun r e =>
    if !r.2 then r else let b := r.1.blockRead p st.block e.1.at e.2.1; (b.1, b.2 == e.2.1)) r
  if !r.2 then r
  else (es.foldl (fun c e => c.hostWrite (p + 1) e.2.2 (c.read e.1.at e.2.1)) r.1, true)

/-! Layer state, fallback and DEGRADED (05 R172-R180) -/

/-- Write the monitor's fields that closes left. -/
def Chip.writeMonitors (c : Chip) (st : StepCtx) : Chip :=
  st.monitors.foldl (fun c e =>
    let a := c.layerAt e.1.1 e.1.2
    let m := e.2
    ((c.write (a + 16) (leBytes 4 m.mean.toNat)).write (a + 20) (leBytes 2 m.updates)).write (a + 24)
      (leBytes 4 m.lastRms.toNat ++ leBytes 4 m.trips)) c

/-- STABLE, TRIPPED and FALLBACK of a layer on one core. -/
def Chip.layerCommit (c : Chip) (st : StepCtx) (l k : Nat) : Chip :=
  match st.layerEntry k l with
  | none => c
  | some e =>
    let a := c.layerAt k l
    let old := c.le (a + 32) 1
    if st.tripped.contains l then
      let fb := if layerFallbackOk e || old.testBit 0 then 1 else 0
      (c.write (a + 22) (leBytes 2 0)).write (a + 32) (leBytes 1 (old / 4 * 4 + 2 + fb))
    else (c.write (a + 22) (leBytes 2 (min 0xFFFF (c.le (a + 22) 2 + 1)))).write (a + 32) (leBytes 1 (old / 4 * 4 + old % 2))

/-- FALLBACK of a layer clears where STABLE has reached the limit in every entry that has it set, and a round has completed
(05 R176). -/
def Chip.clearFallback (c : Chip) (p : Nat) (x : Part) (st : StepCtx) (l : Nat) : Chip :=
  let ats := (List.range x.coreCount).filterMap (fun i =>
    let k := firstCore p + i
    (st.layerEntry k l).map (fun _ => c.layerAt k l))
  let set := ats.filter (fun a => (c.le (a + 32) 1).testBit 0)
  let at_ := Tbl.get 0 l x.fallbackAt
  if set.isEmpty || set.any (fun a => decide (c.le (a + 22) 2 < c.field (rg .fixPCfg p) 23 8)) || decide (x.roundLast < at_) then c
  else
    let c := set.foldl (fun c a => c.write (a + 32) (leBytes 1 (c.le (a + 32) 1 - 1))) c
    c.updPart p (fun x => { x with fallbackAt := Tbl.del l x.fallbackAt })

/-- Entry to DEGRADED (05 R177, R180), or its count and exit (05 R179), at the commit numbered n. -/
def Part.degrade (x : Part) (st : StepCtx) (cfg : Word) (n : Nat) : Part × Bool :=
  let enter := decide (cfg.field 7 0 * st.closedLayers.length < st.tripped.length * 256) || x.force
  if !x.degraded && enter then ({ x with degraded := true, degradedAt := n, stable := 0, force := false }, true)
  else if !x.degraded then (x, false)
  else
    let x := { x with force := false }
    let seen := decide (x.degradedAt ≤ x.roundLast)
    let s := if !st.tripped.isEmpty then 0
      else if x.degradedAt ≤ st.afterRound then min 0xFFFF (x.stable + 1) else x.stable
    if seen && decide (cfg.field 23 8 ≤ s) then ({ x with degraded := false, stable := s }, false) else ({ x with stable := s }, false)

/-- The durable layer state of a commit, fallback and DEGRADED. -/
def Chip.commitLayers (c : Chip) (p : Nat) (st : StepCtx) : Chip :=
  match c.part p with
  | none => c
  | some x =>
    let n := x.commits
    let c := c.writeMonitors st
    let c := st.layersRun.foldl (fun c l => (List.range x.coreCount).foldl (fun c i => c.layerCommit st l (firstCore p + i)) c) c
    let c := c.updPart p (fun x => { x with fallbackAt := st.tripped.foldl (fun t l => Tbl.set l n t) x.fallbackAt })
    let c := (((c.part p).map (fun x => x.fallbackAt.map Prod.fst)).getD []).foldl (fun c l =>
      match c.part p with
      | some x => c.clearFallback p x st l
      | none => c) c
    match c.part p with
    | none => c
    | some x =>
      let d := x.degrade st (c.reg (rg .fixPCfg p)) n
      let c := c.setPart p d.1
      let c := if d.1.degraded = x.degraded then c else c.pageDue (p + 1)
      if d.2 then c.count (rg .fixPEvtEntry p) else c

/-! COMMIT (08 R307) -/

/-- The sequences of a step whose pending edits are applied (06 R225 action 5). -/
def Chip.commitCache (c : Chip) (p : Nat) (st : StepCtx) : Chip :=
  match c.part p with
  | none => c
  | some x =>
    let c := c.kvCommit p x st.uses
    st.uses.foldl (fun c u => c.applyPending p u.seq (fun c e s => c.editDone p e s)) c

/-- A round begins at a commit when none is open (11 R396); with no bank in force it is complete at once. -/
def Part.beginRound (x : Part) : Part :=
  if x.roundOpen then x
  else
    let es := x.enginesInForce
    if es.isEmpty then { x with roundAt := x.commits, roundLast := x.commits, rounds := x.rounds + 1 }
    else { x with roundOpen := true, round := es, roundAt := x.commits }

/-- Actions 4 to 7: publish, make durable, complete, close the boundary. -/
def Chip.commitStep (c : Chip) (p : Nat) (st : StepCtx) (o : Op) : Chip :=
  let pub := c.publish p st o
  if !pub.2 then pub.1.endStep p .integrityFail o.idx
  else
    let c := pub.1.updPart p (fun x => { x with commits := x.commits + 1, iftSince := x.iftSince + 1 })
    let c := (c.commitLayers p st).commitCache p st
    match c.part p with
    | none => c
    | some x =>
      let c := c.clearStep p x
      let status := c.statusFor (p + 1) (if st.corrected then .corrected else .ok)
      let c := c.setPart p { x with
        run := none
        trippedLast := !st.tripped.isEmpty
        fwResult := if st.serving then some (status, c.now - st.began) else x.fwResult }
      let c := if st.corrected then c.count (rg .seqEvtCorrected p) else c
      let c := match st.req.ticket with
        | some t => c.complete t status 0 false none (some st.tag)
        | none => c
      (c.boundary p).updPart p Part.beginRound

/-- A COMMIT that waits: once every earlier op is complete it ends the step, one way or the other. -/
def Chip.commitTry (c : Chip) (p : Nat) : Chip :=
  match c.running p with
  | none => c
  | some (x, st) =>
    match st.waiting 0x3F with
    | none => c
    | some r =>
      if st.deadline.any (fun d => decide (d ≤ c.now)) then c.stepDeadline p
      else if !st.allDone r.op.idx then c
      else
        let cores := c.openGroupCores p x
        if !cores.isEmpty then (cores.foldl (fun c k => c.setBits (rg .accStatus k) 2) c).endStep p .malformed r.op.idx
        else if c.appendShort p st then c.endStep p .malformed r.op.idx
        else
          if st.passes.any (fun r => !(st.replay r).isEmpty) then c.requestReplay p st else
          let t := c.tripCheck p st
          if t.2 && !(pubEntries st r.op).isEmpty && !c.busMaster (p + 1) then c
          else if !t.2 then t.1.endStep p .integrityFail r.op.idx else t.1.commitStep p st r.op

/-- COMMIT issues, if it has not, and then takes its actions if it can. -/
def Chip.commit (c : Chip) (p : Nat) : Chip :=
  let c := if (c.running p).any (fun r => (r.2.waiting 0x3F).isSome) then c
    else c.issue p .control 0x3F (fun c _ st o => c.controlWait p st o)
  c.commitTry p

def execCommit (p : Nat) (s : State) : Host.Outcome State Fault Refusal := s.onChip (·.commit p)

end Sys2Proof.Machine
end

