-- ==== Sys2Proof/Machine/Edits.lean ====
section
/-! DEFINITION. Cache edits: KV_EDIT, its application, and the swaps of requests (06 R219-R231, 09 R320, R333). -/

namespace Sys2Proof.Machine

/-- A sequence that serving firmware owns (09 R320). -/
def Part.ownsSeq (x : Part) (q : Nat) : Bool := (x.serving.map (fun v => decide (q < 2 * v.maxReq))).getD false

/-- Receive the oldest accepted KV_EDIT of a kind (06 R221, R223). -/
def Chip.kvEdit (c : Chip) (fn kind : Nat) : Chip :=
  c.start fn 0x02 (fun k => bytesLe k.args 4 1 == kind) (fun c p x t k =>
    let e : KvEdit := { seq := bytesLe k.args 0 4, kind := kind, args := k.args.take 32, ticket := none }
    c.editReceive p (x.ownsSeq e.seq) e t (fun c e st => c.editDone p e st))

def execKvEditOpen (fn : Nat) (s : State) : Host.Outcome State Fault Refusal := s.onChip (·.kvEdit fn 0)
def execKvEditRelist (fn : Nat) (s : State) : Host.Outcome State Fault Refusal := s.onChip (·.kvEdit fn 1)
def execKvEditTrim (fn : Nat) (s : State) : Host.Outcome State Fault Refusal := s.onChip (·.kvEdit fn 2)
def execKvEditFree (fn : Nat) (s : State) : Host.Outcome State Fault Refusal := s.onChip (·.kvEdit fn 3)

/-- A pending edit is applied once nothing pins its sequence (06 R221, R222). -/
def Chip.kvEditApply (c : Chip) (p seq : Nat) : Chip := c.applyPending p seq (fun c e st => c.editDone p e st)

def execKvEditApply (p seq : Nat) (s : State) : Host.Outcome State Fault Refusal := s.onChip (·.kvEditApply p seq)

/-! Serving commands in general (09 R330, R333, R334) -/

/-- Start a serving command: DENIED without a serving record; then MALFORMED by the handle and the command, DENIED, and STATE by the
handle. A rule of the command that concerns its request is judged where the handle names one. SWAP_OUT, SWAP_IN and KV_IMPORT initialise
the cache's tables first (06 R238). -/
def Chip.startReq (c : Chip) (fn opcode : Nat) (bad : Serving → Option Nat → Cmd → Bool) (denied : Chip → Nat → Serving → Cmd → Bool)
    (f : Chip → Nat → Serving → Nat → Ticket → Cmd → Chip) : Chip :=
  c.start fn opcode (fun _ => true) (fun c p x t k =>
    match x.serving with
    | none => c.complete t .denied
    | some v =>
      let c := if 0x25 ≤ opcode then c.kvEnsure p else c
      match v.entry (bytesLe k.args 0 4) with
      | .error .malformed => c.complete t .malformed
      | .error st => c.complete t (if bad v none k then .malformed else if denied c p v k then .denied else st)
      | .ok n =>
        if bad v (some n) k then c.complete t .malformed
        else if denied c p v k then c.complete t .denied
        else f c p v n t k)

/-- A command waits for the boundary of the step that holds its request: it completes PENDING (09 R333). -/
def Chip.waitReq (c : Chip) (p n opcode : Nat) (t : Ticket) (args : List Byte) : Chip :=
  (c.updReq p n (fun r => { r with waits := r.waits ++ [⟨opcode, { t with first := false }, args⟩] })).complete t .pending 0 true

/-! SWAP_OUT and SWAP_IN -/

/-- A swap of a request as an edit of its main sequence. -/
def swapEdit (n kind : Nat) : KvEdit := { seq := 2 * n, kind := kind, args := List.replicate 32 0, ticket := none, handle := some n }

/-- Swap out a request that is in PREFILL or DECODE and does not export; one that a step built but not begun holds waits for it. -/
def Chip.swapOutReq (c : Chip) (p : Nat) (v : Serving) (n : Nat) (t : Ticket) : Chip :=
  let r := v.req n
  if !(decide (r.state = .prefill ∨ r.state = .decode)) ∨ r.exporting.isSome then c.complete t .state
  else if c.reqHeld p n ∧ (c.running p).all (fun e => !e.2.uses.any (fun u => u.seq / 2 == n)) then
    (c.count (rg .kvEvtPending p)).waitReq p n 0x26 t []
  else c.editReceive p false (swapEdit n 4) t (fun c e st => c.editDone p e st)

def Chip.swapOutCmd (c : Chip) (fn : Nat) : Chip :=
  c.startReq fn 0x26 (fun _ _ _ => false) (fun _ _ _ _ => false) (fun c p v n t _ => c.swapOutReq p v n t)

def execSwapOut (fn : Nat) (s : State) : Host.Outcome State Fault Refusal := s.onChip (·.swapOutCmd fn)

/-- Readmit a PREEMPTED request: its slots come back, or, where it holds none, its sequences are opened again if the pages of its first
chunk are free. -/
def Chip.swapInCmd (c : Chip) (fn : Nat) : Chip :=
  c.startReq fn 0x27 (fun _ _ _ => false) (fun _ _ _ _ => false) (fun c p v n t _ =>
    let r := v.req n
    if r.state ≠ .preempted then c.complete t .state
    else if r.swapped then c.editReceive p false (swapEdit n 5) t (fun c e st => c.editDone p e st)
    else if (c.part p).any (fun x => decide (c.kvFreePages p x < v.firstPages n (c.kvCfg p).tokens)) then c.complete t .noResource
    else
      match c.openReq p n with
      | none => c.complete t .noResource
      | some c => (c.admitReq p n).complete t .ok)

def execSwapIn (fn : Nat) (s : State) : Host.Outcome State Fault Refusal := s.onChip (·.swapInCmd fn)

end Sys2Proof.Machine
end

