-- ==== Sys2Proof/Machine/Serving.lean ====
section
/-! DEFINITION. Serving commands and time limits: SERVE_CFG, requests, exports and imports (09 R320-R336, R344-R347). -/

namespace Sys2Proof.Machine

/-! SERVE_CFG (09 R321-R325) -/

/-- The plan's header (09 R323): vocabulary, logit format, draft, and the two templates as offset, count, repeat table, entries. -/
def planV (pl : List Byte) : Nat := bytesLe pl 4 4
def planBf (pl : List Byte) : Bool := bytesLe pl 8 1 == 1
def planDraft (pl : List Byte) : Bool := bytesLe pl 9 1 == 1
/-- A field of a template: 0 its descriptors' offset, 1 their count, 2 its repeat table's offset, 3 its entries. -/
def planTpl (pl : List Byte) (draft : Bool) (i : Nat) : Nat := bytesLe pl ((if draft then 28 else 12) + 4 * i) 4
/-- Bytes of a row of logits. -/
def planRow (pl : List Byte) : Nat := planV pl * elemBytes (planBf pl)

/-- The descriptors and the repeat entries of a template. -/
def tplOps (pl : List Byte) (draft : Bool) : List (List Byte) :=
  (List.range (planTpl pl draft 1)).map (fun i => (pl.drop (planTpl pl draft 0 + 64 * i)).take 64)
def tplReps (pl : List Byte) (draft : Bool) : List (List Byte) :=
  (List.range (planTpl pl draft 3)).map (fun i => (pl.drop (planTpl pl draft 2 + 32 * i)).take 32)

/-- A repeat entry is legal (09 R325). -/
def repOk (count : Nat) (e : List Byte) : Bool :=
  decide (bytesLe e 0 2 + bytesLe e 2 2 ≤ count) && decide (bytesLe e 4 1 < 2) && decide (bytesLe e 5 1 ≤ 4) && bytesZero e 6 7 &&
  (List.range (bytesLe e 5 1)).all (fun i => decide (bytesLe e (8 + 6 * i) 1 < bytesLe e 2 2) && decide (bytesLe e (9 + 6 * i) 1 ≤ 60) &&
    bytesLe e (10 + 6 * i) 4 % 8 == 0)

/-- Regions do not overlap. -/
def repsApart (es : List (List Byte)) : Bool :=
  es.zipIdx.all (fun a => es.zipIdx.all (fun b => a.2 == b.2 ||
    decide (bytesLe a.1 0 2 + bytesLe a.1 2 2 ≤ bytesLe b.1 0 2 ∨ bytesLe b.1 0 2 + bytesLe b.1 2 2 ≤ bytesLe a.1 0 2)))

/-- A template lies in the plan, follows R324 and has legal repeats. -/
def tplOk (pl : List Byte) (draft : Bool) : Bool :=
  let n := planTpl pl draft 1
  decide (planTpl pl draft 0 + 64 * n ≤ pl.length) && decide (planTpl pl draft 3 ≤ 64) &&
  decide (planTpl pl draft 2 + 32 * planTpl pl draft 3 ≤ pl.length) &&
  (tplOps pl draft).all (fun d => !([0x1D, 0x12, 0x3F].contains (bytesLe d 0 1))) &&
  (tplReps pl draft).all (repOk n) && repsApart (tplReps pl draft)

/-- The plan is legal (09 R323-R325). -/
def planOk (pl : List Byte) : Bool :=
  bytesLe pl 0 4 == 1 && decide (1 ≤ planV pl ∧ planV pl ≤ 262144) && decide (bytesLe pl 8 1 < 2) && decide (bytesLe pl 9 1 < 2) &&
  planV pl % (if planBf pl then 32 else 16) == 0 && bytesZero pl 10 11 && bytesZero pl 44 63 && decide (64 ≤ pl.length) &&
  tplOk pl false && (!planDraft pl || tplOk pl true)

/-- A sampling profile is legal (09 R321, 08 R298). -/
def profileOk (r : List Byte) (i : Nat) : Bool :=
  let a := 96 + 12 * i
  let k := bytesLe r (a + 2) 2
  decide (bytesLe r a 1 < 2) && bytesLe r (a + 1) 1 == 0 &&
  (bytesLe r a 1 == 0 || (decide (1 ≤ k ∧ k ≤ 256) && decide (0 < bytesLe r (a + 4) 4 ∧ bytesLe r (a + 4) 4 < 0x7F800000) &&
    decide (0 < bytesLe r (a + 8) 4 ∧ bytesLe r (a + 8) 4 ≤ 0x3F800000)))

/-- No sampling profile asks for more candidates than the vocabulary holds (08 R298). -/
def profilesFit (r pl : List Byte) : Bool :=
  (List.range (bytesLe r 6 1)).all (fun i => bytesLe r (96 + 12 * i) 1 == 0 || decide (bytesLe r (98 + 12 * i) 2 ≤ planV pl))

/-- The rules of the serving record (09 R321); tokens is the page size P. -/
def servingOk (r : List Byte) (tokens : Nat) : Bool :=
  let maxReq := bytesLe r 8 4
  bytesLe r 0 1 == 1 && decide (bytesLe r 1 1 < 3) && decide (bytesLe r 2 1 ≤ bytesLe r 3 1 ∧ bytesLe r 3 1 ≤ 16) &&
  decide (bytesLe r 2 1 ≤ bytesLe r 4 1 ∧ bytesLe r 4 1 ≤ bytesLe r 3 1) && decide (bytesLe r 5 1 < 2) &&
  decide (1 ≤ bytesLe r 6 1 ∧ bytesLe r 6 1 ≤ 8) && decide (bytesLe r 7 1 < 2) && decide (1 ≤ maxReq ∧ maxReq ≤ 4096) &&
  decide (1 ≤ bytesLe r 12 4 ∧ bytesLe r 12 4 ≤ maxReq) && decide (1 ≤ bytesLe r 16 4 ∧ bytesLe r 16 4 ≤ 65536) &&
  bytesLe r 20 4 % tokens == 0 && decide (tokens ≤ bytesLe r 20 4 ∧ bytesLe r 20 4 ≤ 9216) &&
  bytesLe r 48 8 % 64 == 0 && bytesLe r 56 8 % 4096 == 0 && decide (bytesLe r 68 1 ≤ 8) && bytesZero r 69 71 &&
  bytesLe r 72 4 % 4096 == 0 && bytesZero r 76 95 && (List.range (bytesLe r 6 1)).all (profileOk r)

/-- The blend ratio a role starts with (09 R340). -/
def firstBlend (r : List Byte) : Nat := if bytesLe r 1 1 = 0 then 16 else if bytesLe r 1 1 = 1 then 0 else bytesLe r 4 1

/-- A partition becomes a serving one, or changes its blend bounds. The rules of the record come first, then its reach, the requests and the
room; a plan that the host does not give ends the command last (09 R322, R334; log entry 22). -/
def Chip.serveCfg (c : Chip) (fn : Nat) : Chip :=
  c.start fn 0x20 (fun _ => true) (fun c p _ t k =>
    let c := c.kvEnsure p
    let r := k.record
    match c.part p with
    | none => c
    | some x =>
      if (bytesLe r 7 1).testBit 0 then
        if !decide (bytesLe r 2 1 ≤ bytesLe r 3 1 ∧ bytesLe r 3 1 ≤ 16) then c.complete t .malformed
        else if x.serving.isNone then c.complete t .state
        else (c.updSrv p (fun v => { v with next := some (bytesLe r 2 1, bytesLe r 3 1) })).complete t .ok
      else
        let plan := c.hostRead (bytesLe r 48 8) (bytesLe r 44 4)
        let planBad := match plan with
          | .ok pl => !planOk pl || !profilesFit r pl
          | .error _ => false
        let open_ := (x.serving.map (fun v => v.requests.any (fun e => decide (e.2.state ≠ .closed)))).getD false
        let place := x.range p (recPlan r) (bytesLe r 64 4)
        if !servingOk r (c.kvCfg p).tokens || place.any (fun a => a.2 != 2) || planBad then c.complete t .malformed
        else if place.isNone then c.complete t .denied
        else if open_ then c.complete t .state
        else if c.kvSeqs p < 2 * bytesLe r 8 4 ∨ recEnd r < recLists r then c.complete t .noResource
        else
          match plan with
          | .error e => c.complete t (hostErrStatus e)
          | .ok pl =>
            let v : Serving := { x.serving.getD {} with
              record := r, blend := firstBlend r, lo := bytesLe r 2 1, hi := bytesLe r 3 1, next := none, sinceBlend := 0, imports := [],
              work := [], cur := none, failedOnce := none, seen := x.commits }
            let c := (c.write (physOr x p (recPlan r)) pl).setPart p { x with serving := some v, fwResult := none }
            c.complete t .ok)

def execServeCfg (fn : Nat) (s : State) : Host.Outcome State Fault Refusal := s.onChip (·.serveCfg fn)

/-- The model plan, as the work area holds it. -/
def Chip.plan (c : Chip) (p : Nat) (x : Part) (v : Serving) : List Byte := c.read (physOr x p (recPlan v.record)) (v.get 44 4)

/-! REQ_OPEN (09 R328, R329, R334) -/

/-- The rules of a request record. -/
def requestOk (v : Serving) (pl r : List Byte) : Bool :=
  let fl := bytesLe r 55 1
  let n := bytesLe r 8 4
  let new := bytesLe r 12 4
  bytesLe r 0 8 % 4 == 0 && (decide (0 < n) || fl.testBit 0) && decide (1 ≤ new) && bytesLe r 16 8 % 64 == 0 &&
  decide (bytesLe r 52 1 < v.get 6 1) && decide (bytesLe r 53 1 < 8) && decide (bytesLe r 54 1 ≤ 8) &&
  (bytesLe r 54 1 == 0 || planDraft pl) && decide (fl < 4) && decide (n + new ≤ 1048576) && decide (new ≤ bytesLe r 24 4)

/-- Little-endian 32-bit words of a byte list. -/
def words32 (bs : List Byte) (n : Nat) : List Nat := (List.range n).map (fun i => bytesLe bs (4 * i) 4)

def Chip.reqOpen (c : Chip) (fn : Nat) : Chip :=
  c.start fn 0x21 (fun _ => true) (fun c p x t k =>
    match x.serving with
    | none => c.complete t .denied
    | some v =>
      let r := k.record
      let t := { t with tag := bytesLe r 56 8 }
      let await := (bytesLe r 55 1).testBit 0
      if !requestOk v (c.plan p x v) r then c.complete t .malformed
      else if (v.role = 0 ∧ await) ∨ (v.role = 1 ∧ !await) then c.complete t .denied
      else
        match (List.range v.maxReq).find? (fun n => decide ((v.req n).state = .closed)), c.hostRead (bytesLe r 0 8) (4 * bytesLe r 8 4) with
        | none, _ => c.complete t .noResource
        | _, .error e => c.complete t (hostErrStatus e)
        | some n, .ok bs =>
          let q : Request :=
            { state := .opened, gen := ((v.req n).gen + 1) % 65536, record := r, ticket := some { t with first := false },
              hist := words32 bs (bytesLe r 8 4), inputs := bytesLe r 8 4, limit := bytesLe r 12 4, order := v.order, since := c.now }
          let c := c.updSrv p (fun v => { v with requests := Tbl.set n q v.requests, order := v.order + 1 })
          c.complete t .ok (n + 65536 * q.gen) true)

def execReqOpen (fn : Nat) (s : State) : Host.Outcome State Fault Refusal := s.onChip (·.reqOpen fn)

/-! REQ_APPEND (09 R333) -/

/-- Tokens follow a request's input: the status, after the change. -/
def Chip.appendAct (c : Chip) (p n : Nat) (args : List Byte) : Chip × Status :=
  let cnt := bytesLe args 16 4
  match c.hostRead (bytesLe args 8 8) (4 * cnt) with
  | .error e => (c, hostErrStatus e)
  | .ok bs =>
    let c' := c.updReq p n (fun r => { r with
      hist := r.hist ++ words32 bs cnt, inputs := r.inputs + cnt, limit := r.limit + bytesLe args 20 4, recompute := false,
      state := if r.state = .decode then .prefill else r.state, decoding := false, drafts := [] })
    match c'.relistReq p n with
    | none => (c, .noResource)
    | some c' => (c', .ok)

/-- The limits of a request after an append. -/
def Request.appendOk (r : Request) (args : List Byte) : Bool :=
  decide (r.inputs + bytesLe args 16 4 + r.limit + bytesLe args 20 4 ≤ 1048576) &&
  decide (r.written + (r.limit + bytesLe args 20 4 - r.produced) ≤ r.get 24 4)

def Chip.reqAppend (c : Chip) (fn : Nat) : Chip :=
  c.startReq fn 0x22 (fun v n k => n.any (fun n => !(v.req n).appendOk k.args)) (fun _ _ v _ => v.role == 1) (fun c p v n t k =>
    let r := v.req n
    match r.state with
    | .decode =>
      if r.exporting.isSome then c.complete t .state
      else if c.reqHeld p n then c.waitReq p n 0x22 t k.args
      else let a := c.appendAct p n k.args; a.1.complete t a.2
    | .opened => let a := c.appendAct p n k.args; a.1.complete t a.2
    | .prefill => let a := c.appendAct p n k.args; a.1.complete t a.2
    | .preempted => let a := c.appendAct p n k.args; a.1.complete t a.2
    | _ => c.complete t .state)

def execReqAppend (fn : Nat) (s : State) : Host.Outcome State Fault Refusal := s.onChip (·.reqAppend fn)

/-! REQ_CANCEL (09 R333, R347) -/

/-- Cancel at once: the command ends OK when the request is CLOSED. -/
def Chip.cancelNow (c : Chip) (p n : Nat) (t : Ticket) : Chip :=
  (c.updReq p n (fun r => { r with waits := r.waits ++ [⟨0x23, t, []⟩] })).drainReq p n .cancelled

/-- A request that is being cancelled refuses a second REQ_CANCEL (13 R484). -/
def Chip.reqCancel (c : Chip) (fn : Nat) : Chip :=
  c.startReq fn 0x23 (fun _ _ _ => false) (fun _ _ _ _ => false) (fun c p v n t k =>
    let r := v.req n
    if r.cancelling then c.complete t .state else
    match r.state with
    | .opened =>
      let c := match v.importOf n with
        | some i => c.importEnd p i.1 .cancelled
        | none => c
      c.cancelNow p n t
    | .prefill => if c.reqHeld p n then c.waitReq p n 0x23 t k.args else c.cancelNow p n t
    | .decode => if c.reqHeld p n || r.exporting.isSome then c.waitReq p n 0x23 t k.args else c.cancelNow p n t
    | .preempted => c.cancelNow p n t
    | _ => c.complete t .state)

def execReqCancel (fn : Nat) (s : State) : Host.Outcome State Fault Refusal := s.onChip (·.reqCancel fn)

/-! KV_EXPORT (09 R345) -/

/-- The end of an export: OK, and the request drains; or a failure status, and it stays in DECODE. A waiting REQ_CANCEL then
acts (09 R347). -/
def Chip.exportEnd (c : Chip) (p n : Nat) (st : Status) : Chip :=
  match c.srv p with
  | none => c
  | some (x, v) =>
    match (v.req n).exporting with
    | none => c
    | some e =>
      let c := (c.unpin p x (2 * n)).updReq p n (fun r => { r with exporting := none, since := c.now })
      let c := c.complete e.ticket st
      if (v.req n).cancelling then c.drainReq p n .cancelled
      else if st = .ok then c.drainReq p n .ok else c

/-- What becomes of a use of a flow: exports here, the others as steps have them. -/
def Chip.flowUse (c : Chip) (e : UseEvent) : Chip :=
  match e.1 with
  | .exported p n => c.exportEnd p n (e.2.getD .ok)
  | _ => c.stepUse e

def Chip.flowUses (c : Chip) (es : List UseEvent) : Chip := es.foldl Chip.flowUse c

/-- The header of an export. -/
def Chip.exportHeader (c : Chip) (p : Nat) (x : Part) (r : Request) (n : Nat) (data : List Byte) (pages : Nat) : List Byte :=
  leBytes 4 1 ++ leBytes 4 (c.reg (rg .kvCfg p)).toNat ++ leBytes 4 (c.kvCfg p).pageBytes ++ leBytes 4 (c.seqLen p x (2 * n)) ++
  leBytes 4 pages ++ leBytes 4 (r.hist.getLast?.getD 0) ++ leBytes 4 r.produced ++ leBytes 4 (crc32c data) ++ List.replicate 32 0

/-- Firmware pins the main sequence and writes pages and header into the target's slot; the slot lies there as it would in this
partition's own work area (log entry 36). -/
def Chip.exportStart (c : Chip) (p n : Nat) (t : Ticket) (args : List Byte) : Chip :=
  match c.srv p with
  | none => c
  | some (x, v) =>
    let peer := bytesLe args 4 2
    let key := bytesLe args 6 2
    let slot := bytesLe args 8 1
    let r := v.req n
    let pages := c.resident p x (2 * n)
    let size := (c.kvCfg p).pageBytes
    let places := pages.map (fun i => c.pageAt p x (c.entry p x (2 * n) i))
    let data := places.map (fun a => c.read a size)
    let base := v.slotAt slot
    let msg (off arrive : Nat) (d : List Byte) (src : Nat) (last : Bool) : Msg :=
      { pkt := { typ := 3, key := key, dst := peer, src := c.chipNumber, arg := leBytes 1 arrive ++ leBytes 1 0 ++ beBytes 6 (base + off) }
        data := d, block := x.blockNow, base := src, use := .exported p n, last := last }
    let msgs := ((data.zip places).zipIdx.map (fun e => msg (4096 + e.2 * size) 0xFF e.1.1 e.1.2 false)) ++
      [msg 0 (8 + slot) (c.exportHeader p x r n data.flatten pages.length) 0 true]
    let c := (c.pin p x (2 * n)).updReq p n (fun r => { r with exporting := some ⟨t, peer, key, slot⟩, drafts := [] })
    let read := c.deviceRead p (places.map (fun a => (a, a + size)))
    if !read.2 then read.1.exportEnd p n .integrityFail
    else
      let s := msgs.foldl (fun (a : Chip × List UseEvent) m => let b := a.1.sendMsg p 17 m; (b.1, a.2 ++ b.2)) (read.1, [])
      s.1.flowUses s.2

def Chip.kvExport (c : Chip) (fn : Nat) : Chip :=
  c.startReq fn 0x24 (fun _ _ k => decide (8 ≤ bytesLe k.args 8 1)) (fun c _ _ k => (c.route (bytesLe k.args 4 2)).isNone) (fun c p v n t k =>
    let r := v.req n
    if r.state ≠ .decode ∨ r.exporting.isSome then c.complete t .state
    else if c.reqHeld p n then c.waitReq p n 0x24 t k.args
    else c.exportStart p n t k.args)

def execKvExport (fn : Nat) (s : State) : Host.Outcome State Fault Refusal := s.onChip (·.kvExport fn)

/-! KV_IMPORT (09 R344, R346) -/

/-- The key is one that the Warden has granted to the partition (14 R518). -/
def Chip.keyGranted (c : Chip) (p key : Nat) : Bool := c.keyOwner key == some p && key != 0

def Chip.kvImport (c : Chip) (fn : Nat) : Chip :=
  c.startReq fn 0x25 (fun _ _ _ => false) (fun c p v k => v.role == 0 || !c.keyGranted p (bytesLe k.args 6 2)) (fun c p v n t k =>
    let r := v.req n
    let chip := bytesLe k.args 4 2
    let key := bytesLe k.args 6 2
    if r.state ≠ .opened ∨ !(r.get 55 1).testBit 0 ∨ (v.importOf n).isSome then c.complete t .state
    else
      match (List.range (v.get 68 1)).find? (fun s => (Tbl.find? s v.imports).isNone) with
      | none => c.complete t .noResource
      | some s =>
        let base := v.slotAt s
        let due := if v.get 42 2 = 0 then none else some (c.now + 1000000 * v.get 42 2)
        let c := c.putWindow p (24 + s) [BitVec.ofNat 32 base, BitVec.ofNat 32 (base / 2 ^ 32), BitVec.ofNat 32 (v.get 72 4 / 64),
          BitVec.ofNat 32 (chip * 65536 + chip), BitVec.ofNat 32 key, 3]
        (c.updSrv p (fun v => { v with imports := Tbl.set s ⟨n, t, due⟩ v.imports })).complete t .pending s true)

def execKvImport (fn : Nat) (s : State) : Host.Outcome State Fault Refusal := s.onChip (·.kvImport fn)

/-- What is wrong with an import whose header has arrived (09 R346). -/
def Chip.importCheck (c : Chip) (p : Nat) (x : Part) (slot : Nat) (slotBytes : Nat) : Option Status :=
  let h := c.read slot 64
  let pages := bytesLe h 16 4
  let len := bytesLe h 12 4
  let size := (c.kvCfg p).pageBytes
  let toks := (c.kvCfg p).tokens
  if bytesLe h 0 4 ≠ 1 ∨ bytesLe h 4 4 ≠ (c.reg (rg .kvCfg p)).toNat ∨ bytesLe h 8 4 ≠ size ∨ pages = 0 ∨
      !decide ((pages - 1) * toks < len ∧ len ≤ pages * toks) ∨ slotBytes < 4096 + pages * size then some .malformed
  else if crc32c (c.read (slot + 4096) (pages * size)) ≠ bytesLe h 28 4 then some .integrityFail
  else if c.kvFreePages p x < pages then some .noResource
  else none

/-- Copy imported pages into the pool: page i of the slot becomes list entry i of the main sequence. False where a page could not be
moved (12 R426, R429). -/
def Chip.importPages (c : Chip) (p q slot pages : Nat) : Chip × Bool :=
  foldN pages (fun r i =>
    match r.1.part p with
    | none => r
    | some x =>
      match r.1.allocPage p x q false with
      | none => r
      | some (pg, c) =>
        let size := (c.kvCfg p).pageBytes
        let moved := c.dataMove p (slot + 4096 + i * size) (c.pageAt p x pg) size
        (moved.1.setEntry p x q i pg, r.2 && moved.2)) (c, true)

/-- The header of an import has arrived: it is checked, and the request enters DECODE or stays OPEN (09 R346). The tokens of positions that
this side has not seen are free values (log entry 80). -/
def Chip.importArrived (c : Chip) (p s : Nat) : Chip :=
  match c.srv p with
  | none => c
  | some (x, v) =>
    match Tbl.find? s v.imports with
    | none => c
    | some i =>
      let slot := physOr x p (v.slotAt s)
      match c.importCheck p x slot (v.get 72 4) with
      | some st => c.importEnd p s st
      | none =>
        let h := c.read slot 64
        let n := i.req
        let len := bytesLe h 12 4
        let old := (v.req n).hist
        let hist := (List.range len).map (fun j => old.getD j (Config.lostToken j % 2 ^ 32)) ++ [bytesLe h 20 4]
        let c' := c.updReq p n (fun r => { r with hist := hist, produced := bytesLe h 24 4 })
        match c'.openReq p n with
        | none => c.importEnd p s .noResource
        | some c =>
          let moved := c.importPages p (2 * n) slot (bytesLe h 16 4)
          if !moved.2 then ((moved.1.freeReq p n).updReq p n (fun r => { r with hist := old, produced := (v.req n).produced })).importEnd p s .integrityFail
          else
            let c := moved.1.setSeq p x (2 * n) 12 4 len
            let c := (c.admitReq p n).updReq p n (fun r => { r with state := .decode })
            let c := c.importEnd p s .ok
            if (v.req n).limit ≤ bytesLe h 24 4 then c.drainReq p n .ok else c

/-! Time limits (09 R332, R337, R346) -/

/-- A request that has been in a state for longer than a limit of the record, in ms, drains with a final status. -/
def Chip.reqLimit (c : Chip) (p n field : Nat) (when_ : Serving → Request → Bool) (st : Status) : Chip :=
  match c.srv p with
  | none => c
  | some (_, v) =>
    let r := v.req n
    if when_ v r && v.get field 2 != 0 && decide (r.since + 1000000 * v.get field 2 ≤ c.now) then
      let c := match v.importOf n with
        | some i => c.importEnd p i.1 st
        | none => c
      c.drainReq p n st
    else c

def execReqQueueTimeout (p handle : Nat) (s : State) : Host.Outcome State Fault Refusal :=
  s.onChip (·.reqLimit p (handle % 65536) 36 (fun _ r => decide (r.state = .opened)) .timeout)

def execReqPreemptTimeout (p handle : Nat) (s : State) : Host.Outcome State Fault Refusal :=
  s.onChip (·.reqLimit p (handle % 65536) 38 (fun _ r => decide (r.state = .preempted)) .preempted)

def execReqHoldTimeout (p handle : Nat) (s : State) : Host.Outcome State Fault Refusal :=
  s.onChip (·.reqLimit p (handle % 65536) 40 (fun v r => v.role == 0 && decide (r.state = .decode) && r.exporting.isNone) .timeout)

/-- IMPORT_MS has passed before the header of an import arrived. -/
def Chip.importTimeout (c : Chip) (p s : Nat) : Chip :=
  match (c.srv p).bind (fun e => Tbl.find? s e.2.imports) with
  | none => c
  | some i => if i.due.any (fun d => decide (d ≤ c.now)) then c.importEnd p s .timeout else c

def execImportTimeout (p slot : Nat) (s : State) : Host.Outcome State Fault Refusal := s.onChip (·.importTimeout p slot)

end Sys2Proof.Machine
end

