-- ==== Sys2Proof/Machine/Firmware.lean ====
section
/-! DEFINITION. The request processor's work at a step boundary: following up the last firmware step, pre-emption, admission and
building the next one (09 R324-R327, R336-R343). -/

namespace Sys2Proof.Machine

/-! Templates (09 R324-R327) -/

/-- A reference to a byte of a handle's buffer (07 R256). -/
def refOf (handle off : Nat) : Nat := handle * 2 ^ 24 + off / 8

/-- Replace n bytes of a record. -/
def putBytes (bs : List Byte) (lo n v : Nat) : List Byte := bs.take lo ++ leBytes n v ++ bs.drop (lo + n)

/-- The byte of an op's 32-bit ROWS or COUNT field (08 R293-R301). -/
def rowsField (opcode : Nat) : Option Nat :=
  if opcode = 0x18 then some 28 else if opcode = 0x1A then some 20 else if opcode = 0x1B then some 16
  else if opcode = 0x1C then some 32 else if opcode = 0x21 ∨ opcode = 0x22 then some 20 else none

/-- ROWS and COUNT with bit 31 set become multiples of the step's rows or sampled rows (09 R325). -/
def scaleRows (rows sampled : Nat) (d : List Byte) : List Byte :=
  match rowsField (bytesLe d 0 1) with
  | none => d
  | some f =>
    let v := bytesLe d f 4
    if v.testBit 31 then putBytes d f 4 (v % 2 ^ 24 * (if v.testBit 30 then sampled else rows)) else d

/-- An op of instance i of a region, with the patches that name it. -/
def patchOp (e : List Byte) (i place : Nat) (d : List Byte) : List Byte :=
  (List.range (bytesLe e 5 1)).foldl (fun d k =>
    let a := 8 + 6 * k
    if bytesLe e a 1 = place then
      let f := bytesLe e (a + 1) 1
      let r := bytesLe d f 4
      putBytes d f 4 (r / 2 ^ 24 * 2 ^ 24 + (r + i * bytesLe e (a + 2) 4 / 8) % 2 ^ 24)
    else d) d

/-- How often a region is emitted. -/
def repTimes (e : List Byte) (rows sampled : Nat) : Nat := if bytesLe e 4 1 = 0 then rows else sampled

/-- A template expanded for a step: each region in place, once per row or sampled row. -/
def expandTpl (ops reps : List (List Byte)) (rows sampled : Nat) : List (List Byte) :=
  (List.range ops.length).flatMap (fun i =>
    match reps.find? (fun e => decide (bytesLe e 0 2 ≤ i ∧ i < bytesLe e 0 2 + bytesLe e 2 2)) with
    | none => [scaleRows rows sampled (ops.getD i [])]
    | some e =>
      if i ≠ bytesLe e 0 2 then []
      else (List.range (repTimes e rows sampled)).flatMap (fun k =>
        (List.range (bytesLe e 2 2)).map (fun j => scaleRows rows sampled (patchOp e k j (ops.getD (i + j) [])))))

/-- The ops of an expanded template. -/
def tplSize (ops reps : List (List Byte)) (rows sampled : Nat) : Nat :=
  ops.length + (reps.map (fun e => bytesLe e 2 2 * repTimes e rows sampled)).sum - (reps.map (fun e => bytesLe e 2 2)).sum

/-! Entries and groups (09 R326, R327, R337) -/

def FwEntry.new (e : FwEntry) : Nat := e.toks.length

/-- Rows, sampled rows, and rows of the profile buffers of a list of entries. -/
def rowsOf (es : List FwEntry) : Nat := (es.map FwEntry.new).sum
def sampledOf (es : List FwEntry) : Nat := (es.map (fun e => e.sampled)).sum
def profRows (es : List FwEntry) : Nat := ((es.filter (fun e => e.sampled != 0)).map FwEntry.new).sum

/-- The groups of the tail, without their buffers: verify before plain, profiles ascending. -/
def groupsOf (v : Serving) (es : List FwEntry) : List FwGroup :=
  (List.range (v.get 6 1)).flatMap (fun p =>
    [true, false].filterMap (fun ver =>
      let m := (List.range es.length).filter (fun i => es[i]?.any (fun e =>
        e.sampled != 0 && (v.req e.req).get 52 1 == p && (e.verify == ver)))
      if m.isEmpty then none else some ⟨ver, p, m, 0, 0⟩))

/-- Ops of a step: template, tail and COMMIT. -/
def opsOf (pl : List Byte) (draft : Bool) (es : List FwEntry) (gs : List FwGroup) : Nat :=
  tplSize (tplOps pl draft) (tplReps pl draft) (rowsOf es) (sampledOf es) + (gs.map (fun g => if g.verify then 3 else 2)).sum + 1

/-- The caps of a step (09 R326, R337). -/
def fits (v : Serving) (pl : List Byte) (draft : Bool) (es : List FwEntry) : Bool :=
  decide (es.length ≤ 4096) && decide (rowsOf es ≤ v.get 16 4) && decide (opsOf pl draft es (groupsOf v es) ≤ 65535) &&
  decide (sampledOf es * planRow pl ≤ 2 ^ 27) && decide (profRows es * planRow pl ≤ 2 ^ 27)

/-- The first rows of an entry: its sample is that of its last row. -/
def FwEntry.cut (e : FwEntry) (m : Nat) : FwEntry := if m < e.new then { e with toks := e.toks.take m, sampled := 0 } else e

/-- Add an entry with as many of its first rows as the caps of R326 leave it. A step's first entry keeps one row whatever the caps: the
step then fails by its own checks, and its request with it (09 R339; log entry 81). -/
def addEntry (v : Serving) (pl : List Byte) (draft : Bool) (es : List FwEntry) (e : FwEntry) : List FwEntry :=
  if fits v pl draft (es ++ [e]) then es ++ [e]
  else
    match (List.range e.new).reverse.find? (fun m => decide (0 < m) && fits v pl draft (es ++ [e.cut m])) with
    | some m => es ++ [e.cut m]
    | none => if es.isEmpty then [e.cut 1] else es

/-- Add decode entries, which keep all their rows, up to the first that does not fit; a step's first entry is taken (09 R337). -/
def addDecodes (v : Serving) (pl : List Byte) : List FwEntry → List FwEntry → List FwEntry
  | es, [] => es
  | es, e :: rest => if es.isEmpty || fits v pl false (es ++ [e]) then addDecodes v pl (es ++ [e]) rest else es

/-! Choosing the entries (09 R337, R342) -/

def Request.remaining (r : Request) : Nat := r.limit - r.produced
/-- The draft size of a round. -/
def Request.kEff (r : Request) : Nat := min r.spec (r.remaining - 1)
/-- The epoch class of a request: pinned to an epoch that is no longer in force. -/
def Request.old (r : Request) (force : Option Nat) : Bool := r.epoch.isSome && decide (r.epoch ≠ force)

/-- The requests that a test picks, ascending. -/
def Serving.pick (v : Serving) (f : Request → Bool) : List Nat := (List.range v.maxReq).filter (fun n => f (v.req n))

def Request.decodes (r : Request) (role : Nat) : Bool := decide (r.state = .decode) && r.exporting.isNone && role != 0

/-- The draft entries of a step: requests whose round lacks drafts, or whose draft sequence lags. -/
def Chip.draftEntries (c : Chip) (p : Nat) (x : Part) (v : Serving) (ns : List Nat) (pl : List Byte) : List FwEntry :=
  (ns.filter (fun n => let r := v.req n; r.decodes v.role && 0 < r.kEff && decide (r.drafts.length < r.kEff))).foldl (fun es n =>
    let r := v.req n
    let ld := c.seqLen p x (2 * n + 1)
    let rest := (r.hist ++ r.drafts).drop ld
    let toks := rest.take (v.get 20 4)
    let final := decide (toks.length = rest.length)
    addEntry v pl true es { req := n, draft := true, start := ld, toks := toks,
                            sampled := if !final then 0 else if toks.length ≤ 2 then toks.length else 1, verify := false }) []

/-- The decode entry of a request: its last token, and the drafts that this step verifies. -/
def Chip.decodeEntry (c : Chip) (p : Nat) (x : Part) (r : Request) (n : Nat) : FwEntry :=
  let toks := r.hist.drop (c.seqLen p x (2 * n)) ++ r.drafts
  { req := n, draft := false, start := c.seqLen p x (2 * n), toks := toks, sampled := toks.length, verify := !r.drafts.isEmpty }

/-- The next chunk of a request in PREFILL. -/
def Chip.prefillEntry (c : Chip) (p : Nat) (x : Part) (v : Serving) (r : Request) (n budget : Nat) : FwEntry :=
  let l := c.seqLen p x (2 * n)
  let toks := ((r.hist.take r.target).drop l).take (min (v.get 20 4) budget)
  { req := n, draft := false, start := l, toks := toks, sampled := if l + toks.length = r.target then 1 else 0, verify := false, prefill := true }

/-- Sort by a key, stably. -/
def insertBy {α : Type} (le : α → α → Bool) (a : α) : List α → List α
  | [] => [a]
  | b :: bs => if le a b then a :: b :: bs else b :: insertBy le a bs
def sortBy {α : Type} (le : α → α → Bool) : List α → List α
  | [] => []
  | a :: as => insertBy le a (sortBy le as)

/-- The DECODE requests of a step, from the turn on. -/
def Serving.inTurn (v : Serving) (ns : List Nat) : List Nat :=
  let ds := ns.filter (fun n => (v.req n).decodes v.role)
  ds.filter (fun n => decide (v.turn ≤ n)) ++ ds.filter (fun n => decide (n < v.turn))

/-- The main entries of a step: DECODE requests from the turn on, then PREFILL requests in the order of their admission. -/
def Chip.mainEntries (c : Chip) (p : Nat) (x : Part) (v : Serving) (ns : List Nat) (pl : List Byte) : List FwEntry :=
  let es := addDecodes v pl [] ((v.inTurn ns).map (fun n => c.decodeEntry p x (v.req n) n))
  let ps := sortBy (fun a b => decide ((v.req a).admitted ≤ (v.req b).admitted)) (ns.filter (fun n => decide ((v.req n).state = .prefill)))
  ps.foldl (fun es n =>
    let e := c.prefillEntry p x v (v.req n) n (v.get 16 4 - rowsOf es)
    if e.toks.isEmpty then es else addEntry v pl false es e) es

/-- The turn after a step: the first DECODE request that it left out. -/
def nextTurn (v : Serving) (ns : List Nat) (es : List FwEntry) : Nat :=
  ((v.inTurn ns).drop (es.filter (fun e => !e.prefill)).length).head?.getD 0

/-- Pages that entries need beyond those their sequences hold. -/
def Chip.pagesNeeded (c : Chip) (p : Nat) (x : Part) (es : List FwEntry) : Nat :=
  (es.map (fun e => ((pagesOf (c.kvCfg p).tokens e.start (e.start + e.new)).filter (fun i => c.entry p x e.seq i == emptyEntry)).length)).sum

/-- The Almanac's order: descending class, then ascending request (06 R206, 09 R337). -/
def almOrder (es : List FwEntry) : List FwEntry :=
  sortBy (fun a b =>
    let ca := lengthClass (a.start + a.new)
    let cb := lengthClass (b.start + b.new)
    decide (cb < ca) || (ca == cb && decide (a.req ≤ b.req))) es

/-! The step's buffers: logits, profile buffers and a mebibyte of tables, and counts at the end of the lowest cluster's scratch
(log entry 37) -/

def offAlm : Nat := 0
def offTok : Nat := 0x21000
def offProfAlm : Nat := 0x61000
def offIdx : Nat := 0x82000
def offSeed : Nat := 0xC2400
def offDraft : Nat := 0xCA800
def up64 (n : Nat) : Nat := (n + 63) / 64 * 64

/-- The bytes of an Almanac of entries (06 R202, R203). -/
def Chip.almBytes (c : Chip) (p : Nat) (x : Part) (es : List FwEntry) : List Byte :=
  leBytes 4 es.length ++ leBytes 4 (rowsOf es) ++ leBytes 1 ((c.kvCfg p).tokens.log2) ++ List.replicate 55 0 ++
  (es.zipIdx.flatMap (fun e => leBytes 4 e.1.seq ++ leBytes 4 e.1.start ++ leBytes 4 (e.1.start + e.1.new) ++ leBytes 2 e.1.new ++
    leBytes 2 0 ++ leBytes 8 (c.seqList p x e.1.seq) ++ leBytes 4 (rowsOf (es.take e.2)) ++ leBytes 4 0))

/-- The rows of the step's logits that fill an entry's rows of its profile buffer (09 R327). -/
def rowMap (es : List FwEntry) (i : Nat) : List Nat :=
  let s := sampledOf (es.take i)
  match es[i]? with
  | none => []
  | some e => (List.range e.new).map (fun j => if e.sampled = e.new then s + j else s)

/-- A descriptor from its first eight bytes and 32-bit words at byte offsets. -/
def desc (opcode unit : Nat) (ws : List (Nat × Nat)) : List Byte :=
  ws.foldl (fun d w => putBytes d w.1 4 w.2) (leBytes 1 opcode ++ leBytes 1 1 ++ leBytes 2 unit ++ List.replicate 60 0)

/-- Where the buffers of the tail have got to: almanacs, indices, seeds, drafts, profile rows, counts. -/
structure TailAt where
  alm : Nat := offProfAlm
  idx : Nat := offIdx
  seed : Nat := offSeed
  draft : Nat := offDraft
  buf : Nat := 0
  cnt : Nat := 0
  deriving DecidableEq, Repr

/-- One group of the tail: its tables are written, its ops returned (09 R327). -/
def Chip.tailGroup (c : Chip) (p : Nat) (x : Part) (v : Serving) (pl : List Byte) (es : List FwEntry) (draft : Bool) (misc : Nat)
    (a : TailAt) (g : FwGroup) : Chip × TailAt × FwGroup × List (List Byte) :=
  let ms := g.members.filterMap (fun i => es[i]?)
  let rows := rowsOf ms
  let row := planRow pl
  let idx := g.members.flatMap (rowMap es)
  let prof (lo n : Nat) : Nat := v.get (96 + 12 * g.profile + lo) n
  let sample := !draft && prof 0 1 == 1
  let mode := if g.verify then (if sample then 3 else 2) else if sample then 1 else 0
  let c := c.write (misc + a.alm) (c.almBytes p x ms)
  let c := c.write (misc + a.idx) (idx.flatMap (leBytes 4))
  let c := c.write (misc + a.seed) (ms.flatMap (fun e => leBytes 8 ((v.req e.req).get 28 8)))
  let c := if g.verify then c.write (misc + a.draft) ((ms.flatMap (fun e => e.toks)).flatMap (leBytes 4)) else c
  let gather := desc 0x21 0 [(8, refOf 242 0), (12, refOf 244 a.idx), (16, refOf 243 a.buf), (20, rows), (24, row), (28, sampledOf es)]
  let samp := desc 0x1D 0 [(8, refOf 244 a.alm), (12, refOf 243 a.buf), (16, planV pl),
    (20, mode + 256 * bytesLe pl 8 1 + 65536 * (if sample then prof 2 2 else 0)), (24, if sample then prof 4 4 else 0),
    (28, if sample then prof 8 4 else 0), (32, if sample then refOf 244 a.seed else 0), (36, if g.verify then refOf 244 a.draft else 0),
    (40, refOf 244 a.idx), (44, refOf 245 a.cnt)]
  let roll := desc 0x12 0xFFFF [(8, refOf 244 a.alm), (16, refOf 245 a.cnt)]
  (c, { alm := up64 (a.alm + 64 + 32 * ms.length), idx := up64 (a.idx + 4 * rows), seed := up64 (a.seed + 8 * ms.length),
        draft := if g.verify then up64 (a.draft + 4 * rows) else a.draft, buf := a.buf + rows * row, cnt := up64 (a.cnt + 2 * ms.length) },
   { g with tok := a.idx, cnt := a.cnt }, [gather, samp] ++ (if g.verify then [roll] else []))

/-- The physical addresses of the step buffers and of the counts. -/
def miscAt (x : Part) (p : Nat) (v : Serving) : Nat := physOr x p (recStep v.record + 2 ^ 28)
def cntAt (p : Nat) : Nat := clusterScratch + (firstCluster p + 1) * 0x4000000 - 0x10000

/-- Firmware's handles: Almanac, input tokens, logits, profile buffers, tables and counts (09 R324). -/
def fwHandles (x : Part) (p : Nat) (v : Serving) : List (Nat × Handle) :=
  let at_ (off : Nat) : Nat := physOr x p (recStep v.record + off)
  let misc := miscAt x p v
  [(240, ⟨misc + offAlm, 0x21000, 2, true⟩), (241, ⟨misc + offTok, 0x40000, 2, true⟩), (242, ⟨at_ 0, 2 ^ 27, 2, true⟩),
   (243, ⟨at_ (2 ^ 27), 2 ^ 27, 2, true⟩), (244, ⟨misc, 2 ^ 20, 2, true⟩), (245, ⟨cntAt p, 0x10000, 1, true⟩)]

/-- Build a firmware step and queue it (09 R326). -/
def Chip.buildStep (c : Chip) (p : Nat) (draft : Bool) (selector : Nat) (es : List FwEntry) : Chip :=
  match c.srv p with
  | none => c
  | some (x, v) =>
    let pl := c.plan p x v
    let es := almOrder es
    let misc := miscAt x p v
    let c := c.write (misc + offAlm) (c.almBytes p x es)
    let c := c.write (misc + offTok) ((es.flatMap (fun e => e.toks)).flatMap (leBytes 4))
    let tail := (groupsOf v es).foldl (fun (a : Chip × TailAt × List FwGroup × List (List Byte)) g =>
      let t := a.1.tailGroup p x v pl es draft misc a.2.1 g
      (t.1, t.2.1, a.2.2.1 ++ [t.2.2.1], a.2.2.2 ++ t.2.2.2)) (c, {}, [], [])
    let ops := expandTpl (tplOps pl draft) (tplReps pl draft) (rowsOf es) (sampledOf es) ++ tail.2.2.2 ++ [desc 0x3F 0xFFFF []]
    let body := ops.flatten
    let prog := leBytes 2 1 ++ leBytes 2 0 ++ leBytes 4 ops.length ++ leBytes 4 (crc32c body) ++ leBytes 4 0 ++ leBytes 8 v.steps ++
      List.replicate 40 0 ++ body
    let step : FwStep := ⟨draft, selector, es, tail.2.2.1⟩
    let req : StepReq := { kind := 2, prog := prog, selector := selector }
    let hs := (fwHandles x p v).foldl (fun t e => Tbl.set e.1 e.2 t) x.handles
    let c := tail.1.updPart p (fun x => { x with handles := hs, queued := x.queued ++ [req], fwResult := none })
    c.updSrv p (fun v => { v with cur := some step, steps := v.steps + 1 })

/-! Delivery (09 R338, R342) -/

/-- The more telling of two statuses of steps that emitted tokens (05 R178). -/
def keepStatus (a b : Status) : Status :=
  if a = .corrected ∨ b = .corrected then .corrected else if a = .degraded ∨ b = .degraded then .degraded else a

/-- Deliver tokens to a request in order until one stops it. A request that the step held and that drains meanwhile still has them (09 R319,
R338), and one that is being cancelled ends CANCELLED (09 R347). -/
def Chip.deliver (c : Chip) (p n : Nat) (st : Status) : List Nat → Chip
  | [] => c
  | t :: ts =>
    match c.srv p with
    | none => c
    | some (_, v) =>
      let r := v.req n
      if r.state = .closed then c
      else
        let c := c.hostWrite (p + 1) (r.get 16 8 + 64 + 4 * r.written) (leBytes 4 t)
        let stop := [36, 40, 44, 48].any (fun o => r.get o 4 == t && r.get o 4 != 0xFFFFFFFF)
        let kept := keepStatus r.kept st
        let c := c.updReq p n (fun r => { r with
          hist := r.hist ++ [t], produced := r.produced + 1, written := r.written + 1, kept := kept,
          since := if r.state = .prefill then c.now else r.since, decoding := true,
          state := if r.state = .preempted ∨ r.state = .draining then r.state else .decode })
        if stop ∨ r.limit ≤ r.produced + 1 then c.updReq p n (·.drain (if r.cancelling then .cancelled else kept)) else c.deliver p n st ts

/-- The tokens that a main entry of a group gives its request, and its accepted drafts. -/
def Chip.sampledTokens (c : Chip) (misc cnts : Nat) (g : FwGroup) (e : FwEntry) (i row : Nat) : List Nat :=
  let at_ (j : Nat) : Nat := c.le (misc + g.tok + 4 * (row + j)) 4
  if g.verify then (List.range (c.le (cnts + g.cnt + 2 * i) 2)).map at_ else [at_ (e.new - 1)]

/-- Follow up one entry of a group. -/
def Chip.followEntry (c : Chip) (p : Nat) (st : Status) (e : FwEntry) (toks : List Nat) : Chip :=
  match c.srv p with
  | none => c
  | some (x, v) =>
    let r := v.req e.req
    if e.draft then
      (if r.state = .decode then c.updReq p e.req (fun r => { r with drafts := r.drafts ++ toks }) else c)
    else if e.start + e.new < r.target + r.drafts.length then c  -- an append came meanwhile: the sample is no longer its last (log entry 38)
    else if r.recompute then c.updReq p e.req (fun r => { r with
      recompute := false, decoding := true, since := c.now, state := if r.state = .prefill then .decode else r.state })
    else
      let q := 2 * e.req + 1
      let c := if e.verify ∧ toks.length < e.new ∧ c.seqValid p x q = true ∧ e.start + toks.length < c.seqLen p x q then
          (c.editApply p x (fwEdit q 2 0 0 (e.start + toks.length))).1 else c
      (c.updReq p e.req (fun r => { r with drafts := [] })).deliver p e.req st toks

/-- Follow up a committed step: tokens and drafts of every group, then the output headers. -/
def Chip.followStep (c : Chip) (p : Nat) (st : Status) (s : FwStep) : Chip :=
  match c.srv p with
  | none => c
  | some (x, v) =>
    let misc := miscAt x p v
    let c := s.groups.foldl (fun c g =>
      let ms := g.members.filterMap (fun i => s.entries[i]?)
      ms.zipIdx.foldl (fun c e => c.followEntry p st e.1 (c.sampledTokens misc (cntAt p) g e.1 e.2 (rowsOf (ms.take e.2)))) c) c
    if s.draft then c else ((s.entries.map (fun e => e.req)).eraseDups).foldl (fun c n => c.outHeader p n) c

/-- The blend ratio after a main step that held both kinds (09 R340). -/
def Serving.adjust (v : Serving) (dur backlog : Nat) : Serving :=
  let v := { v with sinceBlend := v.sinceBlend + 1 }
  if v.role ≠ 2 ∨ v.sinceBlend < 16 then v
  else if v.get 28 4 ≠ 0 ∧ 1000 * v.get 28 4 < dur then
    (if v.lo < v.blend then { v with blend := v.blend - 1, sinceBlend := 0 } else v)
  else if v.get 32 4 < backlog ∧ v.blend < v.hi then { v with blend := v.blend + 1, sinceBlend := 0 } else v

/-- Tokens waiting in OPEN and PREFILL. -/
def Chip.backlog (c : Chip) (p : Nat) (x : Part) (v : Serving) : Nat :=
  ((v.pick (fun r => decide (r.state = .opened ∨ r.state = .prefill))).map (fun n =>
    let r := v.req n
    r.target - (if r.state = .prefill then c.seqLen p x (2 * n) else 0))).sum

/-- A step held both prefill and decode entries. -/
def FwStep.both (s : FwStep) : Bool := !s.draft && s.entries.any (fun e => e.prefill) && s.entries.any (fun e => !e.prefill)

/-! Pre-emption (09 R341) -/

/-- The victim: lowest priority, then by POLICY; ties go to the latest admitted. -/
def Chip.victim (c : Chip) (p : Nat) (x : Part) (v : Serving) : Option Nat :=
  let pages (n : Nat) : Nat := c.seqHeldPages p x (2 * n) + c.seqHeldPages p x (2 * n + 1)
  let before (a b : Nat) : Bool :=
    let ra := v.req a
    let rb := v.req b
    decide (ra.get 53 1 < rb.get 53 1) || (ra.get 53 1 == rb.get 53 1 &&
      (if v.get 5 1 = 1 ∧ pages a ≠ pages b then decide (pages b < pages a) else decide (rb.admitted ≤ ra.admitted)))
  (sortBy before (v.pick (fun r => decide (r.state = .prefill ∨ r.state = .decode) && r.exporting.isNone))).head?

/-- Move one victim out: to slots, to be recomputed, or, without either, closed. -/
def Chip.preemptOne (c : Chip) (p : Nat) : Chip × Bool :=
  match c.srv p with
  | none => (c, false)
  | some (x, v) =>
    match c.victim p x v with
    | none => (c, false)
    | some n =>
      let sw := c.swapOut p x (c.editSeqs p x (swapEdit n 4))
      if sw.2 = .ok then ((sw.1.updReq p n (·.preempt true c.now)).outHeader p n, true)
      else if v.role = 1 then (c.drainReq p n .preempted, true)
      else (((c.freeReq p n).updReq p n (·.preempt false c.now)).outHeader p n, true)

/-- Pre-empt while a test holds, at most a number of times. -/
def Chip.preemptWhile (p : Nat) (test : Chip → Bool) : Nat → Chip → Chip
  | 0, c => c
  | k + 1, c => if test c then (let r := c.preemptOne p; if r.2 then Chip.preemptWhile p test k r.1 else r.1) else c

/-! Admission (09 R336) -/

/-- The head of the queue: highest priority, PREEMPTED before OPEN, then acceptance order. -/
def Serving.head (v : Serving) : Option Nat :=
  let before (a b : Nat) : Bool :=
    let ra := v.req a
    let rb := v.req b
    let pa := decide (ra.state = .preempted)
    let pb := decide (rb.state = .preempted)
    decide (rb.get 53 1 < ra.get 53 1) || (ra.get 53 1 == rb.get 53 1 && ((pa && !pb) || (pa == pb && decide (ra.order ≤ rb.order))))
  (sortBy before (v.pick (fun r => decide (r.state = .preempted) || (decide (r.state = .opened) && !(r.get 55 1).testBit 0)))).head?

/-- Admit the head: none where it must wait. -/
def Chip.admitOne (c : Chip) (p : Nat) : Option Chip :=
  match c.srv p with
  | none => none
  | some (x, v) =>
    match v.head with
    | none => none
    | some n =>
      let r := v.req n
      let k := c.kvCfg p
      let free := c.kvFreePages p x - v.get 24 4
      let need := if r.swapped then ([2 * n, 2 * n + 1].map (c.seqHeldSlots p x)).sum else v.firstPages n k.tokens
      if v.get 12 4 ≤ (v.pick (fun r => decide (r.state = .prefill ∨ r.state = .decode))).length ∨ free < need then none
      else if r.swapped ∧ !c.busMaster (p + 1) then none
      else if r.swapped then
        let s := c.swapIn p x (c.editSeqs p x (swapEdit n 5))
        match s.2 with
        | .ok => some (s.1.admitReq p n)
        | .noResource => none
        | st => some (s.1.drainReq p n st)
      else (c.openReq p n).map (·.admitReq p n)

/-- A request whose pages the pool, less RESERVE_PAGES, does not hold drains with NO_RESOURCE. -/
def Chip.drainLarge (c : Chip) (p n : Nat) : Chip :=
  match c.srv p with
  | none => c
  | some (_, v) =>
    let r := v.req n
    if r.state ≠ .closed ∧ r.exporting.isNone ∧
        c.kvPages p - v.get 24 4 < (if r.spec = 0 then 1 else 2) * r.cap (c.kvCfg p).tokens then c.drainReq p n .noResource else c

def Chip.admitAll (p : Nat) : Nat → Chip → Chip
  | 0, c => c
  | k + 1, c =>
    match c.admitOne p with
    | none => c
    | some c => Chip.admitAll p k c

/-! The boundary (row SERVE_BOUNDARY, 09 R332-R343) -/

/-- A command that waited for the boundary acts (09 R333, R347): once an export has started or the request drains, a REQ_CANCEL waits for
the end and the others complete STATE. -/
def Chip.waitAct (c : Chip) (p n : Nat) (w : ReqCmd) : Chip :=
  match c.srv p with
  | none => c
  | some (_, v) =>
    let r := v.req n
    let busy := r.exporting.isSome ∨ r.state = .draining
    if w.opcode = 0x23 then
      let c := c.updReq p n (fun r => { r with waits := r.waits ++ [w] })
      if busy then c else c.drainReq p n .cancelled
    else if busy ∨ r.state = .closed then c.complete w.ticket .state
    else if w.opcode = 0x22 then (let a := c.appendAct p n w.args; a.1.complete w.ticket a.2)
    else if w.opcode = 0x24 then (if r.state = .decode then c.exportStart p n w.ticket w.args else c.complete w.ticket .state)
    else c.swapOutReq p v n w.ticket

/-- The commands that waited for the boundary act, in the order in which they came. -/
def Chip.waitActs (c : Chip) (p n : Nat) : Chip :=
  match c.srv p with
  | none => c
  | some (_, v) =>
    let ws := (v.req n).waits
    if ws.isEmpty ∨ (v.req n).exporting.isSome then c
    else ws.foldl (fun c w => c.waitAct p n w) (c.updReq p n (fun r => { r with waits := [] }))

/-- The boundary of every request: what waited acts, and what drains and nothing holds closes. -/
def Chip.reqBoundary (c : Chip) (p maxReq : Nat) : Chip := foldN maxReq (fun c n => (c.waitActs p n).closeReq p n) c

/-- An entry of a failed step still stands: its request runs and its rows are those that the sequence calls for. -/
def Chip.stands (c : Chip) (p : Nat) (x : Part) (v : Serving) (e : FwEntry) : Bool :=
  let r := v.req e.req
  (if e.prefill then decide (r.state = .prefill) else r.decodes v.role) && c.seqLen p x e.seq == e.start &&
  ((r.hist ++ r.drafts).drop e.start).take e.new == e.toks

/-- A firmware step has ended without commit (09 R339). True: it is built again, from those of its entries that what waited for its boundary
leaves. -/
def Chip.followFail (c : Chip) (p : Nat) (st : Status) (s : FwStep) (failedOnce : Option Status) : Chip × Bool :=
  let c := c.updSrv p (fun v => { v with cur := none, failedOnce := none })
  if st = .noResource then ((c.preemptOne p).1, false)
  else if failedOnce = some st then (((s.entries.map (fun e => e.req)).eraseDups).foldl (fun c n => c.drainReq p n st) c, false)
  else
    let c := ((c.srv p).map (fun e => c.reqBoundary p e.2.maxReq)).getD c
    match c.srv p with
    | none => (c, false)
    | some (x, v) =>
      let es := s.entries.filter (c.stands p x v)
      if es.isEmpty then (c, false)
      else ((c.buildStep p s.draft s.epoch es).updSrv p (fun v => { v with failedOnce := some st }), true)

/-- Follow up the step built last, if it has ended. True: it is to run again. -/
def Chip.followUp (c : Chip) (p : Nat) : Chip × Bool :=
  match c.srv p with
  | none => (c, false)
  | some (x, v) =>
    match v.cur, x.fwResult with
    | some s, some (st, dur) =>
      if st = .ok ∨ st = .corrected ∨ st = .degraded then
        let both := s.both
        let c := (c.followStep p st s).updSrv p (fun v => { v with cur := none, failedOnce := none })
        (if both then c.updSrv p (fun v => v.adjust dur (c.backlog p x v)) else c, false)
      else c.followFail p st s v.failedOnce
    | _, _ => (c, false)

/-- Build the next step: draft steps before the main step of their round; old and current epochs take turns (09 R337, R342). -/
def Chip.nextStep (c : Chip) (p : Nat) : Chip :=
  match c.srv p with
  | none => c
  | some (x, v) =>
    let force := (x.epochIn .inForce).map Epoch.num
    let runs (n : Nat) : Bool := let r := v.req n; r.decodes v.role || decide (r.state = .prefill)
    let ns := (List.range v.maxReq).filter runs
    let olds := ns.filter (fun n => (v.req n).old force)
    let now := ns.filter (fun n => !(v.req n).old force)
    let useOld := !olds.isEmpty && (v.oldTurn || now.isEmpty)
    let epoch := if useOld then ((olds.head?.bind (fun n => (v.req n).epoch)).getD 0) else 0
    let ns := if useOld then olds.filter (fun n => decide ((v.req n).epoch = some epoch)) else now
    let pl := c.plan p x v
    let ds := c.draftEntries p x v ns pl
    if !ds.isEmpty then c.buildStep p true epoch ds
    else
      let short (c : Chip) : Bool :=
        match c.srv p with
        | none => false
        | some (x, v) => decide (c.kvFreePages p x < c.pagesNeeded p x ((c.mainEntries p x v ns pl).filter (fun e =>
            decide ((v.req e.req).state = .decode))))
      let c := Chip.preemptWhile p short v.maxReq c
      match c.srv p with
      | none => c
      | some (x, v) =>
        let es := c.mainEntries p x v (ns.filter (fun n => let r := v.req n; r.decodes v.role || decide (r.state = .prefill))) pl
        if es.isEmpty then c
        else (c.updSrv p (fun v => { v with oldTurn := !useOld, turn := nextTurn v ns es })).buildStep p false epoch es

/-- A change of bounds comes into force (09 R340). -/
def Serving.newBounds (v : Serving) : Serving :=
  match v.next with
  | none => v
  | some (lo, hi) => { v with lo := lo, hi := hi, next := none, blend := if v.role = 2 then max lo (min hi v.blend) else v.blend }

/-- The request processor's work at a boundary: nothing while a step runs, or while the step it built last has yet to run. It pre-empts after
a commit, its own or software's (06 R227, 09 R341). -/
def Chip.serveBoundary (c : Chip) (p : Nat) : Chip :=
  match c.srv p with
  | none => c
  | some (x, v) =>
    if x.run.isSome ∨ (v.cur.isSome ∧ x.fwResult.isNone) then c
    else
      let f := c.followUp p
      let c := f.1.updSrv p (fun v => { v.newBounds with seen := x.commits })
      if f.2 then c
      else
        let c := foldN v.maxReq (fun c n => c.drainLarge p n) (c.reqBoundary p v.maxReq)
        let low (c : Chip) : Bool := (c.part p).any (fun x => c.kvLow p x)
        let c := if v.seen < x.commits then Chip.preemptWhile p low v.maxReq c else c
        (Chip.admitAll p v.maxReq c).nextStep p

def execServeBoundary (p : Nat) (s : State) : Host.Outcome State Fault Refusal := s.onChip (·.serveBoundary p)

end Sys2Proof.Machine
end

