-- ==== Sys2Proof/Machine/Links.lean ====
section
/-! DEFINITION. Events at the link ports: keys, port state, frames received, acknowledgement timers (14 R490-R507, R511, R515). -/

namespace Sys2Proof.Machine

/-! MACsec keys (14 R492, R517) -/

/-- At most two keys of a direction: the oldest that is not in use for transmission goes. -/
def Port.trimSaks (x : Port) (tx : Bool) : Port :=
  let mine := x.saks.filter (fun e => e.1.1 == tx)
  if mine.length ≤ 2 then x
  else
    match List.find? (fun e : (Bool × Nat) × Sak => !(tx && x.txAn == some e.1.2)) mine with
    | some e => { x with saks := Tbl.del e.1 x.saks }
    | none => x

/-- A write of SAK_DATA7 installs the key staged for the direction and association number selected; the first transmit key is used
at once. -/
def Chip.sakInstall (c : Chip) (q : Nat) (value : Word) : Chip :=
  let sel := c.reg (rg .linkSakSel q)
  let tx := !sel.bit 2
  let an := sel.field 1 0
  let x := c.port q
  let key := (List.range 7).map (fun i => Tbl.get 0 i x.staging) ++ [value]
  let saks := Tbl.del (tx, an) x.saks ++ [((tx, an), ({ key := key, pn := 1, valid := true } : Sak))]
  c.setPort q (({ x with saks := saks, staging := [], txAn := if tx then x.txAn.or (some an) else x.txAn } : Port).trimSaks tx)

def execSakInstall (port : Nat) (value : Word) (s : State) : Host.Outcome State Fault Refusal := s.onChip (·.sakInstall port value)

/-- SWITCH_TX: transmission moves to the other transmit key. -/
def Chip.switchTx (c : Chip) (q : Nat) : Chip :=
  let x := c.port q
  match List.find? (fun e : (Bool × Nat) × Sak => e.1.1 && x.txAn != some e.1.2) x.saks with
  | some e => c.setPort q { x with txAn := some e.1.2 }
  | none => c

def execMacsecSwitchTx (port : Nat) (s : State) : Host.Outcome State Fault Refusal := s.onChip (·.switchTx port)

/-! Port state and HELLO (14 R489, R491, R502) -/

/-- Send a HELLO: link number in byte 16, MAC in bytes 23:18, IP in bytes 39:24, to all stations (log entry 39). -/
def Chip.sendHello (c : Chip) (q : Nat) : Chip :=
  let ip := ipBytes (c.portIp q) 16
  let k : Packet := { typ := 0, src := c.chipNumber, arg := leBytes 1 (q / 2) ++ leBytes 1 0 ++ macBytes (c.portMac q),
                      ack := beAt ip 0 4, crc := beAt ip 4 4, ext := ip.drop 8 }
  let ones : List Word := List.replicate 4 0xFFFFFFFF
  let c := c.setPort q { c.port q with lastHello := c.now }
  c.emit q (c.frameOf q (2 ^ 48 - 1) ones k)

/-- The highest mode that a cap and a partner allow: mode 0 is the highest, and bit m of the partner's set allows mode m (14 R489). -/
def trainedMode (cap partner : Nat) : Option Nat := (List.range 3).find? (fun m => decide (cap ≤ m) && partner.testBit m)

/-- A port trains with its partner; with no mode that both allow it stays down. -/
def Chip.portUp (c : Chip) (q partner : Nat) : Chip :=
  match trainedMode (c.field (rg .linkPortCtrl q) 2 1) partner with
  | none => c
  | some mode =>
    if 12 ≤ q ∨ !(c.reg (rg .linkPortCtrl q)).bit 0 ∨ (c.port q).up ∨ c.power.inReset ∨ c.power.state = .solstice then c
    else (c.setPort q { c.port q with up := true, mode := mode, peerKnown := false, backlog := 0 }).sendHello q

def execPortUp (port partner : Nat) (s : State) : Host.Outcome State Fault Refusal := s.onChip (·.portUp port partner)

/-- A port goes down; its neighbour is no longer known. -/
def Chip.portDown (c : Chip) (q : Nat) : Chip :=
  if (c.port q).up then (c.setPort q { c.port q with up := false, peerKnown := false, backlog := 0 }).count (rg .linkEvtDown q) else c

def execPortDown (port : Nat) (s : State) : Host.Outcome State Fault Refusal := s.onChip (·.portDown port)

def Chip.helloSend (c : Chip) (q : Nat) : Chip :=
  if (c.port q).up && decide ((c.port q).lastHello + 1000000 ≤ c.now) then c.sendHello q else c

def execHelloSend (port : Nat) (s : State) : Host.Outcome State Fault Refusal := s.onChip (·.helloSend port)

/-! Frames received (14 R492, R493, R495) -/

/-- A protected frame is checked against its key and replay window; transmission follows a new association number. -/
def Chip.macsecIn (c : Chip) (f : Frame) : Chip × Bool :=
  let q := f.port
  let x := c.port q
  let drop := (c.count (rg .linkEvtMacsecDrop q), false)
  if !f.secured || !f.icvOk then drop
  else
    match Tbl.find? (false, f.an) x.saks with
    | none => drop
    | some k =>
      if f.pn + 1024 < k.pn then drop
      else
        let saks := Tbl.set (false, f.an) { k with pn := max k.pn (f.pn + 1) } x.saks
        (c.setPort q { x with saks := saks, txAn := if (Tbl.find? (true, f.an) x.saks).isSome then some f.an else x.txAn }, true)

/-- A port takes a frame, or drops it. -/
def Chip.portRx (c : Chip) (f : Frame) : Chip × Bool :=
  let q := f.port
  if !(c.port q).up then (c, false)
  else if !f.fcsOk then (c.count (rg .linkEvtFcs q), false)
  else
    let r := if (c.reg (rg .linkMacsecCtrl q)).bit 0 then c.macsecIn f else (c, !f.secured)
    if r.2 && f.vlan != 0 && f.vlan != c.field (rg .linkPortCtrl q) 28 17 then (r.1, false) else r

/-- A frame that holds a packet of a type for this chip is dropped by its port or acted upon; any other leaves all as it is. A packet
other than HELLO and ACK wakes the package (16 R548). -/
def Chip.rxTyped (c : Chip) (f : Frame) (typ : Nat) (act : Chip → Packet → Chip) : Chip :=
  let r := c.portRx f
  if !r.2 then r.1
  else
    match parsePacket f.bytes with
    | none => c
    | some k =>
      if k.typ = typ ∧ (typ = 0 ∨ k.dst = c.chipNumber) then act (if typ = 0 ∨ typ = 7 then r.1 else r.1.wake 3) k else c

def Chip.iltHello (c : Chip) (f : Frame) : Chip :=
  c.rxTyped f 0 (fun c k =>
    let ip := beBytes 4 k.ack ++ beBytes 4 k.crc ++ k.ext
    c.setPort f.port { c.port f.port with
      peerKnown := true, peerLink := bytesLe k.arg 0 1, peerMac := bytesLe k.arg 2 6,
      peerIp := (List.range 4).map (fun i => BitVec.ofNat 32 (bytesLe ip (4 * i) 4)) })

def execIltHello (f : Frame) (s : State) : Host.Outcome State Fault Refusal := s.onChip (·.iltHello f)

/-- A frame with a packet of unknown VERSION or TYPE is dropped and counted (14 R495). -/
def Chip.badPacket (c : Chip) (f : Frame) : Chip :=
  let r := c.portRx f
  if !r.2 then r.1 else if (parsePacket f.bytes).isNone then r.1.count (rg .iltEvtBad) else c

def execIltBadPacket (f : Frame) (s : State) : Host.Outcome State Fault Refusal := s.onChip (·.badPacket f)

/-- Pause and priority flow control frames are discarded (14 R490). -/
def Chip.pauseFrame (c : Chip) (_port : Nat) : Chip := c

def execPauseFrame (port : Nat) (s : State) : Host.Outcome State Fault Refusal := s.onChip (·.pauseFrame port)

/-- A packet for another chip goes on by its route, unless that leads back or to a link that is down (14 R505). -/
def Chip.forward (c : Chip) (f : Frame) : Chip :=
  let r := c.portRx f
  if !r.2 then r.1
  else
    match parsePacket f.bytes with
    | none => c
    | some k =>
      if k.typ = 0 ∨ k.dst = c.chipNumber then c
      else
        match c.route k.dst with
        | none => r.1
        | some (link, hop) =>
          if link = f.port / 2 ∨ (c.portOf link).isNone then r.1
          else (r.1.count (rg .iltEvtTransit)).sendBy link hop k

def execIltForward (f : Frame) (s : State) : Host.Outcome State Fault Refusal := s.onChip (·.forward f)

/-! Flows at the receiver (14 R496-R498) -/

/-- The receive flow of a sender's flow number. -/
def Chip.rxFlow (c : Chip) (peer id : Nat) : Option Nat :=
  (List.find? (fun e : Nat × Flow => decide (4096 ≤ e.1 ∧ e.2.peer = peer ∧ e.2.id = id)) c.fab.flows).map Prod.fst

/-- The bytes of an accepted WRITE reach memory, at the place in the view that a window has admitted. -/
def Chip.landBytes (c : Chip) (k : Packet) : Chip :=
  match (c.keyOwner k.key).bind (fun p => (c.part p).bind (fun x => (x.phys p k.offset))) with
  | some a => c.write a k.data
  | none => c

/-- What a flow holds of an unfinished block, admitted and not yet landed, lands when no more of it can come (07 R268; log entry 82). -/
def Chip.landRest (c : Chip) (i : Nat) : Chip :=
  match c.flow i with
  | none => c
  | some x => (x.block.filter (fun k => k.typ == 3)).foldl Chip.landBytes (c.setFlow i { x with block := [], acked := x.expect })

def Chip.iltOpen (c : Chip) (f : Frame) : Chip :=
  c.rxTyped f 1 (fun c k =>
    let fresh : Flow := { peer := k.src, id := k.flow, opened := true, caps := beAt k.ext 0 4, used := c.now }
    match c.rxFlow k.src k.flow with
    | some i =>
      -- an OPEN sent again before any packet came is answered again; later it opens the flow anew (log entry 40)
      let c := if (c.flow i).any (fun x => decide (x.expect = 0)) then c else (c.landRest i).setFlow i fresh
      c.sendOpen 2 k.src k.flow
    | none =>
      if (c.reg (rg .iltChip)).bit 16 then c.sendNak k.src k.flow 0 0 7 k.psn
      else
        match c.freeFlow 4096 with
        | none => c.sendNak k.src k.flow 0 0 9 k.psn
        | some i => (c.setFlow i fresh).sendOpen 2 k.src k.flow)

def execIltOpen (f : Frame) (s : State) : Host.Outcome State Fault Refusal := s.onChip (·.iltOpen f)

/-- A send flow of this chip to a peer. -/
def Chip.ownFlow (c : Chip) (peer id : Nat) : Option Nat :=
  if id < 4096 && (c.flow id).any (fun x => x.peer == peer) then some id else none

def Chip.iltOpenAck (c : Chip) (f : Frame) : Chip :=
  c.rxTyped f 2 (fun c k =>
    match c.ownFlow k.src k.flow with
    | none => c
    | some i =>
      match c.flow i with
      | none => c
      | some x =>
        if x.opened then c
        else
          let r := (c.setFlow i { x with opened := true, busy := false, caps := beAt k.ext 0 4, used := c.now }).release i
          r.1.flowUses r.2)

def execIltOpenAck (f : Frame) (s : State) : Host.Outcome State Fault Refusal := s.onChip (·.iltOpenAck f)

def Chip.iltClose (c : Chip) (f : Frame) : Chip :=
  c.rxTyped f 9 (fun c k =>
    match c.rxFlow k.src k.flow with
    | some i => (c.landRest i).dropFlow i
    | none => c)

def execIltClose (f : Frame) (s : State) : Host.Outcome State Fault Refusal := s.onChip (·.iltClose f)

/-- The flow that an ACK or NAK is about: a send flow of this chip, or the answers on a receive flow (log entry 41). -/
def Chip.ackedFlow (c : Chip) (peer id : Nat) : Option Nat := (c.ownFlow peer id).or (c.rxFlow peer id)

def Chip.iltAck (c : Chip) (f : Frame) : Chip :=
  c.rxTyped f 7 (fun c k =>
    match c.ackedFlow k.src k.flow with
    | none => c
    | some i => let r := c.flowAck i k.ack (beAt k.ext 0 8); r.1.flowUses r.2)

def execIltAck (f : Frame) (s : State) : Host.Outcome State Fault Refusal := s.onChip (·.iltAck f)

def Chip.iltNak (c : Chip) (f : Frame) : Chip :=
  c.rxTyped f 8 (fun c k =>
    match c.ackedFlow k.src k.flow with
    | none => c
    | some i => let r := c.flowNak i (bytesLe k.ext 0 1) (beAt k.ext 4 4); r.1.flowUses r.2)

def execIltNak (f : Frame) (s : State) : Host.Outcome State Fault Refusal := s.onChip (·.iltNak f)

/-- Send the ACK of a flow: its ACK_PSN and the packets held beyond it. -/
def Chip.sendAck (c : Chip) (i : Nat) : Chip :=
  match c.flow i with
  | none => c
  | some x =>
    let map := x.held.foldl (fun m h => let d := psnSub h.2.psn (psnAdd x.acked 1); if d < 64 then m ||| 2 ^ d else m) 0
    (c.setFlow i { x with since := 0, ackDue := none }).transmit
      { typ := 7, key := x.key, dst := x.peer, src := c.chipNumber, flow := x.id, ack := x.acked, ext := beBytes 8 map }

/-- A packet of a flow calls for an ACK: at once for ACK_NOW, LAST or the eighth, else within 2 µs (14 R498). -/
def Chip.noteAck (c : Chip) (i : Nat) (k : Packet) : Chip :=
  match c.flow i with
  | none => c
  | some x =>
    let c := c.setFlow i { x with since := x.since + 1, ackDue := x.ackDue.or (some (c.now + 2000)), used := c.now }
    if k.isLast || k.ackNow || 8 ≤ x.since + 1 then c.sendAck i else c

def Chip.ackTimer (c : Chip) (i : Nat) : Chip :=
  if (c.flow i).any (fun x => x.ackDue.any (fun d => decide (d ≤ c.now))) then c.sendAck i else c

def execIltAckTimer (flow : Nat) (s : State) : Host.Outcome State Fault Refusal := s.onChip (·.ackTimer flow)

def Chip.rtoExpiry (c : Chip) (i psn : Nat) : Chip := let r := c.flowRto i psn; r.1.flowUses r.2

def execIltRtoExpiry (flow psn : Nat) (s : State) : Host.Outcome State Fault Refusal := s.onChip (·.rtoExpiry flow psn)

/-- A send flow that has been idle for 10 ms is closed (14 R496). -/
def Chip.idleClose (c : Chip) (i : Nat) : Chip :=
  match c.flow i with
  | none => c
  | some x =>
    if i < 4096 && x.opened && x.waiting.isEmpty && x.queued.isEmpty && x.sent.isEmpty && decide (x.used + 10000000 ≤ c.now) then
      (c.dropFlow i).transmit { typ := 9, key := x.key, dst := x.peer, src := c.chipNumber, flow := x.id }
    else c

def execFlowIdleClose (flow : Nat) (s : State) : Host.Outcome State Fault Refusal := s.onChip (·.idleClose flow)

/-! Receipt checks (14 R507) -/

def Packet.readLen (k : Packet) : Nat := beAt k.ext 0 4
def Packet.group (k : Packet) : Nat := beAt k.arg 0 4
def Packet.tag (k : Packet) : Nat := beAt k.arg 4 4
def Packet.rank (k : Packet) : Nat := bytesLe k.ext 0 1
def Packet.kind (k : Packet) : Nat := bytesLe k.ext 1 1 % 16
def Packet.fmt (k : Packet) : Nat := bytesLe k.ext 1 1 / 16
def Packet.bytesField (k : Packet) : Nat := beAt k.ext 4 4

/-- Check 1: LENGTH, alignment and the fields of the type (log entry 42). -/
def Chip.headerFits (c : Chip) (k : Packet) : Bool :=
  let n := k.data.length
  let arrive := (decide (k.arrive < 16) || k.arrive == 0xFF) && bytesLe k.arg 1 1 == 0 && k.offset % 64 == 0
  decide (k.flags < 16) && n % 64 == 0 && decide (n ≤ c.maxPayload) &&
  (if k.typ = 3 then decide (64 ≤ n) && arrive
   else if k.typ = 4 then n == 0 && arrive && k.readLen % 64 == 0 && decide (64 ≤ k.readLen) && decide (beAt k.ext 4 2 < 4096)
   else decide (k.kind < 5) && decide (k.fmt < 2) && k.bytesField % 64 == 0 && (n == 0) == (k.kind == 4))

/-- A window of a partition admits an access (07 R266). -/
def Part.admits (x : Part) (key src off n bit : Nat) : Bool :=
  x.windows.any (fun w => (w.2.getD 5 0).bit bit && winTakes w.2 key src off n)

/-- The group table of a partition as its running step reads it, or as its registers name it (14 R509, R520). -/
def Chip.groupCtx (c : Chip) (p : Nat) (x : Part) : StepCtx :=
  x.run.getD { collBase := c.pair (rg .iltPGroupBaseLo p) (rg .iltPGroupBaseHi p), collCfg := c.reg (rg .iltPCfg p) }

/-- The staging area of a group lies in the partition's HBM view. -/
def CollGroup.staged (g : CollGroup) (x : Part) (p : Nat) : Bool := (x.range p g.stage g.stageBytes).any (fun r => r.2 == 2)

/-- The table index and entry of a group by its identity; an entry whose staging area is out of reach is none. -/
def Chip.groupById (c : Chip) (p : Nat) (x : Part) (id : Nat) : Option (Nat × CollGroup) :=
  let st := c.groupCtx p x
  (List.range (st.collCfg.field 7 0)).findSome? (fun i => (c.collGroup p x st i).bind (fun g => if g.id = id ∧ g.staged x p = true then some (i, g) else none))

/-- The partition that a key selects (14 R507 check 3). -/
def Chip.keyPart (c : Chip) (key : Nat) : Option (Nat × Part) :=
  if key = 0 then none else (c.keyOwner key).bind (fun p => (c.part p).map (fun x => (p, x)))

/-- What a COLL packet that passes check 4 joins: the group, and whether its part still takes the bytes. -/
def Part.collFits (x : Part) (gi : Nat) (g : CollGroup) (k : Packet) : Bool :=
  let got := ((x.staged.find? (fun s => s.group == gi && s.tag == k.tag && s.rank == k.rank)).map (fun s => s.got)).getD 0
  let len := contribBytes k.kind k.bytesField g.members
  decide (2 * g.members * k.bytesField ≤ g.stageBytes) && decide (got + k.data.length ≤ len) &&
  (!k.isLast || got + k.data.length == len)

/-- A collective of the partition that runs with other parameters. -/
def Part.collOther (x : Part) (gi : Nat) (k : Packet) : Option RemoteRec :=
  (x.run.map (fun st => st.remotes.find? (fun r =>
    let o : Op := ⟨r.op, r.desc⟩
    r.coll && o.get 22 2 == gi && o.get 24 4 == k.tag &&
    !(k.kind == o.get 20 1 && k.fmt == o.get 21 1 && k.bytesField == o.get 16 4)))).getD none

/-- Checks 3 to 5, and a COLL packet that cannot be right: the NAK code. -/
def Chip.refusal (c : Chip) (k : Packet) : Option Nat :=
  match c.keyPart k.key with
  | none => some 1
  | some (p, x) =>
    if k.typ = 3 then (if x.admits k.key k.src k.offset k.data.length 1 then none else some 2)
    else if k.typ = 4 then (if x.admits k.key k.src k.offset k.readLen 2 then none else some 2)
    else
      match c.groupById p x k.group with
      | none => some 2
      | some (gi, g) =>
        let cur := Tbl.get 0 gi x.nextTags
        if g.chips[k.rank]? ≠ some (k.src, k.key) then some 2
        else if k.tag ≠ cur ∧ k.tag ≠ psnAdd cur 1 then some 5
        else if !x.collFits gi g k ∨ (x.collOther gi k).isSome then some 6 else none

/-- A refused packet: WIN_DENIED where a window refused it, the collective it contradicts ends, and the NAK is sent. -/
def Chip.refuse (c : Chip) (x : Flow) (k : Packet) (code : Nat) : Chip :=
  let c := match c.keyPart k.key with
    | some (p, y) =>
      if code = 2 ∧ k.typ ≠ 6 then (c.setBits (rg .scrStatus p) 8).count (rg .scrEvtWinDenied p)
      else if code = 6 ∧ k.typ = 6 then
        match (c.groupById p y k.group).bind (fun g => y.collOther g.1 k) with
        | some r => c.endStep p .malformed r.op
        | none => c
      else c
    | none => c
  c.sendNak x.peer x.id k.key x.acked code k.psn

/-! Accepted packets (14 R500, R511, 08 R304) -/

/-- An arrival counter of a partition counts, and firmware looks at the import whose header has come. -/
def Chip.arrived (c : Chip) (p n : Nat) : Chip :=
  let c := c.count (rg .seqArrive p n)
  if 8 ≤ n then c.importArrived p (n - 8) else c

/-- An accepted WRITE lands, and its arrival counts. -/
def Chip.landWrite (c : Chip) (k : Packet) : Chip :=
  match c.keyPart k.key with
  | none => c
  | some (p, _) =>
    let c := c.landBytes k
    if k.isLast ∧ k.arrive < 16 then c.arrived p k.arrive else c

/-- An accepted COLL packet is staged; a collective that was waiting for it may complete. -/
def Chip.landColl (c : Chip) (i : Nat) (k : Packet) : Chip :=
  match c.keyPart k.key with
  | none => c
  | some (p, x) =>
    match c.groupById p x k.group with
    | none => c
    | some (gi, g) =>
      let same (s : CollPart) : Bool := s.group == gi && s.tag == k.tag && s.rank == k.rank
      let s := (x.staged.find? same).getD ⟨gi, k.tag, k.rank, k.kind, k.fmt, k.bytesField, 0, false, i, k.psn⟩
      let c := c.write (physOr x p g.stage + slotOff g.stageBytes k.tag k.rank k.bytesField + s.got) k.data
      let s' := { s with got := s.got + k.data.length, done := k.isLast, flow := i, psn := k.psn }
      let c := c.setPart p { x with staged := x.staged.filter (fun s => !same s) ++ [s'] }
      match (x.run.map (fun st => st.remotes.find? (fun r => let o : Op := ⟨r.op, r.desc⟩; r.coll && o.get 22 2 == gi && o.get 24 4 == k.tag))).getD none with
      | some r => c.collTry p r
      | none => c

/-- A READ_REQ is answered in READ_RESP packets on the flow it names (log entry 41). -/
def Chip.answerRead (c : Chip) (i : Nat) (k : Packet) : Chip :=
  match c.keyPart k.key, c.flow i with
  | some (p, x), some y =>
    let m : Msg :=
      { pkt := { typ := 5, key := k.key, dst := k.src, src := c.chipNumber, flow := beAt k.ext 4 2 },
        data := c.read (physOr x p k.offset) k.readLen, block := false, base := 0, use := .reply, last := true }
    let payload := min c.maxPayload (2 ^ (bitsOf y.caps 7 4 + 6))
    let out := (cutMsg k.readLen payload 0 false (k.readLen / 64 + 2) 0 0).map m.packet
    (c.setFlow i { y with queued := y.queued ++ out }).pump i
  | _, _ => c

/-- Everything held of a block is let through. -/
def Chip.landBlock (c : Chip) (i : Nat) (ks : List Packet) : Chip :=
  ks.foldl (fun c k => if k.typ = 3 then c.landWrite k else if k.typ = 6 then c.landColl i k else c) c

/-- A packet in its turn: refused, or accepted. False: it stays the next one to come (a TAG not yet current, or a block that is to
be sent again). WRITE and COLL packets wait for the CRC that ends their block; without one they pass at the message's end or
once 4,096 bytes are held (log entry 43). -/
def Chip.takePacket (c : Chip) (i : Nat) (x : Flow) (k : Packet) : Chip × Bool :=
  let pass (c : Chip) (f : Flow → Flow) : Chip :=
    match c.flow i with
    | some y => c.setFlow i (f y)
    | none => c
  let next := psnAdd k.psn 1
  if k.typ = 5 then (pass c (fun y => { y with data := y.data ++ k.data, expect := next, acked := next }), true)
  else
    match c.refusal k with
    | some code =>
      let c := if code = 5 then c else c.landRest i
      let c := c.refuse ((c.flow i).getD x) k code
      if code = 5 then (c, false) else (pass c (fun y => { y with expect := next }), true)
    | none =>
      if k.typ = 4 then ((pass c (fun y => { y with expect := next, acked := next })).answerRead i k, true)
      else
        let held := x.block ++ [k]
        let data := held.flatMap (fun b => b.data)
        if k.hasCrc ∧ crc32c data ≠ k.crc then
          let first := (held.head?.map (fun b => b.psn)).getD k.psn
          ((pass c (fun y => { y with block := [], expect := first })).sendNak x.peer x.id k.key x.acked 3 k.psn, false)
        else if k.hasCrc || k.isLast || decide (4096 ≤ data.length) then
          ((pass c (fun y => { y with block := [], expect := next, acked := next })).landBlock i held, true)
        else (pass c (fun y => { y with block := held, expect := next }), true)

/-- Packets held ahead of a gap follow once their turn comes. -/
def Chip.drainHeld (i : Nat) : Nat → Chip → Chip
  | 0, c => c
  | n + 1, c =>
    match c.flow i with
    | none => c
    | some x =>
      match x.held.find? (fun h => h.2.psn == x.expect) with
      | none => c
      | some h =>
        let x := { x with held := x.held.filter (fun g => g.2.psn != h.2.psn) }
        let r := (c.setFlow i x).takePacket i x h.2
        if r.2 then Chip.drainHeld i n r.1 else r.1

/-- Bytes held in the reorder buffer of a hub. -/
def Chip.hubBytes (c : Chip) (hub : Nat) : Nat :=
  ((c.fab.flows.flatMap (fun f => f.2.held)).filter (fun h => h.1 == hub)).foldl (fun n h => n + h.2.data.length) 0

/-- A data packet of a flow, in PSN order (14 R497): one that came before is acknowledged again, one beyond a gap is held. -/
def Chip.inOrder (c : Chip) (hub i : Nat) (x : Flow) (k : Packet) : Chip :=
  let ahead := psnSub k.psn x.expect
  if 2 ^ 31 ≤ ahead then c.noteAck i k
  else if ahead = 0 then
    let r := c.takePacket i x k
    if r.2 then (Chip.drainHeld i (x.held.length + 1) r.1).noteAck i k else r.1
  else if 128 < psnSub k.psn x.acked ∨ 4 * 2 ^ 20 < c.hubBytes hub + k.data.length then c
  else if x.held.any (fun h => h.2.psn == k.psn) then c.noteAck i k
  else (c.setFlow i { x with held := x.held ++ [(hub, k)] }).noteAck i k

/-- A packet with an inconsistent header is refused, and in its turn the flow goes on behind it (14 R507 check 1). -/
def Chip.refuseHeader (c : Chip) (i : Nat) (x : Flow) (k : Packet) : Chip :=
  let c := c.sendNak x.peer x.id k.key x.acked 6 k.psn
  if k.psn ≠ x.expect then c
  else
    let c := c.landRest i
    match c.flow i with
    | none => c
    | some y => Chip.drainHeld i (y.held.length + 1) (c.setFlow i { y with expect := psnAdd k.psn 1 })

/-- A WRITE, READ_REQ or COLL packet: its header, its flow, its turn (14 R507). A chip that drains refuses packets of flows it does not
have with DRAINING, others with NO_FLOW. -/
def Chip.dataPacket (c : Chip) (f : Frame) (typ : Nat) : Chip :=
  c.rxTyped f typ (fun c k =>
    let nak (code : Nat) : Chip := c.sendNak k.src k.flow k.key 0 code k.psn
    match c.rxFlow k.src k.flow with
    | none => if !c.headerFits k then nak 6 else nak (if (c.reg (rg .iltChip)).bit 16 then 7 else 8)
    | some i =>
      match c.flow i with
      | none => c
      | some x =>
        if !c.headerFits k ∨ lengthField f.bytes ≠ k.data.length then c.refuseHeader i x k
        else c.inOrder (f.port / 2) i { x with key := k.key } k)

def execIltWrite (f : Frame) (s : State) : Host.Outcome State Fault Refusal := s.onChip (·.dataPacket f 3)
def execIltReadReq (f : Frame) (s : State) : Host.Outcome State Fault Refusal := s.onChip (·.dataPacket f 4)
def execIltColl (f : Frame) (s : State) : Host.Outcome State Fault Refusal := s.onChip (·.dataPacket f 6)

/-- A READ_RESP delivers its data on the flow that asked (14 R497). -/
def Chip.iltReadResp (c : Chip) (f : Frame) : Chip :=
  c.rxTyped f 5 (fun c k =>
    match c.ownFlow k.src k.flow with
    | none => c
    | some i =>
      match c.flow i with
      | none => c
      | some x => c.inOrder (f.port / 2) i x k)

def execIltReadResp (f : Frame) (s : State) : Host.Outcome State Fault Refusal := s.onChip (·.iltReadResp f)

end Sys2Proof.Machine
end

