-- ==== Sys2Proof/Machine/Host.lean ====
section
/-! DEFINITION. Rings, doorbells, completions, status pages and queries (13 R457-R487). -/

namespace Sys2Proof.Machine

/-! Rings (13 R463-R465) -/

def Chip.sqOn (c : Chip) (fn n : Nat) : Bool := (c.reg (rg .ringSqCfg fn n)).bit 31
def Chip.cqOn (c : Chip) (fn n : Nat) : Bool := (c.reg (rg .ringCqCfg fn n)).bit 31
def Chip.sqSize (c : Chip) (fn n : Nat) : Nat := 2 ^ c.field (rg .ringSqCfg fn n) 4 0
def Chip.cqSize (c : Chip) (fn n : Nat) : Nat := 2 ^ c.field (rg .ringCqCfg fn n) 4 0
def Chip.sqHead (c : Chip) (fn n : Nat) : Nat := c.field (rg .ringSqHead fn n) 15 0
def Chip.cqTail (c : Chip) (fn n : Nat) : Nat := c.field (rg .ringCqTail fn n) 15 0
/-- The completion ring that a submission ring is bound to. -/
def Chip.boundCq (c : Chip) (fn n : Nat) : Nat := c.field (rg .ringSqCfg fn n) 10 8

/-- Steps from one index of a ring to another. -/
def ringDist (size lo hi : Nat) : Nat := (hi + size - lo % size) % size

/-- Entries of a completion ring that are written or reserved and not consumed. -/
def Chip.cqUsed (c : Chip) (fn n : Nat) : Nat :=
  let f := c.func fn
  ringDist (c.cqSize fn n) (Tbl.get 0 n f.heads) (c.cqTail fn n) + Tbl.get 0 n f.reserved

/-- One more entry fits: the ring holds at most one less than its size (13 R467). -/
def Chip.cqRoom (c : Chip) (fn n : Nat) : Bool :=
  c.cqOn fn n && !(c.func fn).stopped.contains n && decide (c.cqUsed fn n + 1 < c.cqSize fn n)

/-- A submission ring stops: its SQ_ERR bit is set and its ENABLE clears. -/
def Chip.sqStop (c : Chip) (fn n : Nat) : Chip :=
  (c.setBits (rg .ringStatus fn) (2 ^ (8 + n))).clearBits (rg .ringSqCfg fn n) (2 ^ 31)

/-- A completion ring takes no more completions. -/
def Chip.cqStop (c : Chip) (fn n : Nat) : Chip :=
  (c.setBits (rg .ringStatus fn) (2 ^ (16 + n))).updFunc fn (fun f => { f with stopped := f.stopped ++ [n] })

/-! DOORBELL_POLL (13 R464, R465, R459) -/

/-- A tail word of an enabled submission ring. -/
def Chip.tailWord (c : Chip) (fn n v : Nat) : Chip :=
  if !c.sqOn fn n then c
  else if c.sqSize fn n ≤ v then c.sqStop fn n
  else c.updFunc fn (fun f => { f with tails := Tbl.set n v f.tails })

/-- A head word of an enabled completion ring. -/
def Chip.headWord (c : Chip) (fn n v : Nat) : Chip :=
  if !c.cqOn fn n ∨ (c.func fn).stopped.contains n then c
  else
    let size := c.cqSize fn n
    let old := Tbl.get 0 n (c.func fn).heads
    if size ≤ v ∨ ringDist size old (c.cqTail fn n) < ringDist size old v then c.cqStop fn n
    else c.updFunc fn (fun f => { f with heads := Tbl.set n v f.heads })

def Chip.doorbellPoll (c : Chip) (fn : Nat) : Chip :=
  if !(c.reg (rg .ringCtrl fn)).bit 0 ∨ !c.busMaster fn ∨ c.now < (c.func fn).pollAt then c
  else
    let c := c.updFunc fn (fun f => { f with pollAt := c.now + c.field (rg .ringPollNs fn) 19 0 })
    match c.hostRead (c.pair (rg .ringDbBaseLo fn) (rg .ringDbBaseHi fn)) 64 with
    | .error _ => c.setBits (rg .hostifStatus fn) 4
    | .ok bs =>
      let c := foldN 8 (fun c n => c.headWord fn n (bytesLe bs (32 + 4 * n) 2)) c
      foldN 8 (fun c n => c.tailWord fn n (bytesLe bs (4 * n) 2)) c

def execDoorbellPoll (fn : Nat) (s : State) : Host.Outcome State Fault Refusal := s.onChip (·.doorbellPoll fn)

/-! DESCRIPTOR_ACCEPT (13 R465-R471) -/

/-- A completion of a ring that holds no slot of it waits: the slot that comes free is for it (13 R467). -/
def Chip.cqWaits (c : Chip) (fn n : Nat) : Bool := (c.func fn).waiting.any (fun k => k.cq == n && !k.reserved)

/-- The ring has a descriptor to read, and a slot of its completion ring can be reserved. -/
def Chip.sqReady (c : Chip) (fn n : Nat) : Bool :=
  c.busMaster fn && c.sqOn fn n && Tbl.get 0 n (c.func fn).tails != c.sqHead fn n && c.cqRoom fn (c.boundCq fn n) && !c.cqWaits fn (c.boundCq fn n)

/-- Argument bytes, numbered from byte 16 of the descriptor, that a command lists (13 R470, 06 R219). -/
def argListed : Nat → Option (List (Nat × Nat))
  | 0x01 => some [(0, 9), (12, 16)]
  | 0x02 => some [(0, 5), (8, 24)]
  | 0x10 => some [(0, 8)] | 0x11 => some [(0, 8)] | 0x12 => some [(0, 8)] | 0x13 => some [(0, 8)] | 0x14 => some [(0, 8)]
  | 0x20 => some [(0, 8)] | 0x21 => some [(0, 8)]
  | 0x22 => some [(0, 4), (8, 24)]
  | 0x23 => some [(0, 4)] | 0x24 => some [(0, 9)] | 0x25 => some [(0, 8)] | 0x26 => some [(0, 4)] | 0x27 => some [(0, 4)]
  | 0x30 => some [] | 0x31 => some [(0, 8)] | 0x32 => some [(0, 8)]
  | _ => none

/-- The alignment that the address of a command must have; KV_EDIT and handles carry none here. -/
def argAlign (opcode : Nat) (args : List Byte) : Bool :=
  if opcode = 0x22 then bytesLe args 8 8 % 4 == 0
  else if opcode = 0x02 ∨ opcode = 0x23 ∨ (0x24 ≤ opcode ∧ opcode ≤ 0x30) then true
  else bytesLe args 0 8 % 64 == 0

/-- The size of the record at ARG_ADDR (09 R321, R328, 10 R354). -/
def recordBytes (opcode : Nat) : Nat :=
  if 0x10 ≤ opcode ∧ opcode ≤ 0x14 then 64 else if opcode = 0x20 then 192 else if opcode = 0x21 then 64 else 0

/-- The checks of R471 that come before a command's own; an ADDR_KIND or edit KIND without a meaning is malformed. -/
def acceptCheck (fn : Nat) (d : List Byte) : Option Status :=
  let op := bytesLe d 0 1
  let args := d.drop 16
  match argListed op with
  | none => some .malformed
  | some l =>
    let listed (i : Nat) : Bool := l.any (fun r => decide (r.1 ≤ i ∧ i < r.2))
    if !(bytesZero d 1 1 && bytesZero d 4 7 && (List.range 48).all (fun i => listed i || args.getD i 0 == 0)) ∨ !argAlign op args ∨
        (op = 0x01 ∧ 1 < bytesLe args 8 1) ∨ (op = 0x02 ∧ 3 < bytesLe args 4 1) then some .malformed
    else if (fn = 0 ∧ op < 0x30) ∨ (fn ≠ 0 ∧ op = 0x32) then some .denied
    else none

/-- A descriptor is accepted: a completion slot is reserved, its record is read, and it starts or ends at once. -/
def Chip.accept (c : Chip) (fn n : Nat) (d : List Byte) : Chip :=
  let cq := c.boundCq fn n
  let op := bytesLe d 0 1
  let rec_ : List Byte × Option HostErr :=
    if recordBytes op = 0 then ([], none)
    else match c.hostRead (bytesLe d 16 8) (recordBytes op) with
      | .ok bs => (bs, none)
      | .error e => ([], some e)
  let k : Cmd :=
    { sq := n, cq := cq, opcode := op, cmdId := bytesLe d 2 2, tag := bytesLe d 8 8, args := d.drop 16, record := rec_.1,
      recordErr := rec_.2, status := .ok, time := c.now }
  let c := (c.updFunc fn (fun f => { f with reserved := Tbl.upd 0 cq (· + 1) f.reserved })).wake 1
  match acceptCheck fn d with
  | some st => c.complete (k.ticket fn (c.func fn).era) st
  | none => c.updFunc fn (fun f => { f with accepted := f.accepted ++ [k] })

/-- A ring may be read: every ring that has gone in the present turn waits until each ready ring of every function has (13 R466). -/
def Chip.hasTurn (c : Chip) (fn n : Nat) : Bool :=
  !c.served.contains (fn, n) || (List.range 17).all (fun f => (List.range 8).all (fun m => !c.sqReady f m || c.served.contains (f, m)))

/-- The ring's next descriptor is read. -/
def Chip.descriptorAccept (c : Chip) (fn n : Nat) : Chip :=
  if 8 ≤ n ∨ !c.sqReady fn n ∨ !c.hasTurn fn n then c
  else
    let head := c.sqHead fn n
    match c.hostRead (c.pair (rg .ringSqBaseLo fn n) (rg .ringSqBaseHi fn n) + 64 * head) 64 with
    | .error _ => c.sqStop fn n
    | .ok d =>
      let c := { c with served := if c.served.contains (fn, n) then [(fn, n)] else c.served ++ [(fn, n)] }
      (c.setReg (rg .ringSqHead fn n) (BitVec.ofNat 32 ((head + 1) % c.sqSize fn n))).accept fn n d

def execDescriptorAccept (fn sq : Nat) (s : State) : Host.Outcome State Fault Refusal := s.onChip (·.descriptorAccept fn sq)

/-! COMPLETION_WRITE (13 R467, R472) -/

/-- Write a completion at the ring's tail. -/
def Chip.putCompletion (c : Chip) (fn n : Nat) (k : Completion) : Chip :=
  let tail := c.cqTail fn n
  let phase := c.field (rg .ringCqTail fn n) 16 16
  let next := (tail + 1) % c.cqSize fn n
  let c := c.hostWrite fn (c.pair (rg .ringCqBaseLo fn n) (rg .ringCqBaseHi fn n) + 32 * tail) (k.bytes phase)
  let c := c.setReg (rg .ringCqTail fn n) (BitVec.ofNat 32 (next + 65536 * (if next = 0 then 1 - phase else phase)))
  if k.reserved then c.updFunc fn (fun f => { f with reserved := Tbl.upd 0 n (· - 1) f.reserved }) else c

/-- The oldest completion that waits for a ring is written, where it has a slot or one is free. -/
def Chip.completionWrite (c : Chip) (fn n : Nat) : Chip :=
  match takeFirst (fun k : Completion => k.cq == n) (c.func fn).waiting with
  | none => c
  | some (k, rest) =>
    if !c.busMaster fn ∨ !c.cqOn fn n ∨ (c.func fn).stopped.contains n ∨ (!k.reserved && !c.cqRoom fn n) then c
    else (c.updFunc fn (fun f => { f with waiting := rest })).putCompletion fn n k

def execCompletionWrite (fn cq : Nat) (s : State) : Host.Outcome State Fault Refusal := s.onPort (·.completionWrite fn cq)

/-! The status page (13 R478-R482) -/

/-- The registers of COUNTERS. -/
def pageCounters : List RegName :=
  [.seqEvtAbort, .seqEvtCorrected, .seqEvtFenceTimeout, .scrEvtTimeout, .scrEvtWinDenied, .safeEvtDisagree, .safeEvtCheckerWrong,
   .safeEvtCorrectedCol, .safeEvtLate, .safeEvtUe, .safeEvtIftFail, .fixPEvtEntry, .kvEvtSwapOut, .kvEvtSwapIn, .wgtEvtRemap, .wgtEvtRefresh]

def ThermState.code : ThermState → Nat
  | .normal => 0 | .warned => 1 | .enforcing => 2

/-- The bits of FLAGS that every page carries. -/
def Chip.packageFlags (c : Chip) : List (Nat × Nat × Nat) :=
  [(flag c.therm.slowdown, 0, 1), (flag (c.power.lever != 0 || c.power.unmet), 1, 1), (flag (c.clocks.any Clock.unreliable), 2, 1),
   (c.field (rg .thermStatus) 3 3, 10, 1), (flag c.therm.tripping, 11, 1), (c.field (rg .safeWStatus) 0 0, 12, 1), (flag c.power.unmet, 13, 1)]

def Chip.partFlags (c : Chip) (p : Nat) (x : Part) : List (Nat × Nat × Nat) :=
  [(flag x.degraded, 3, 1), (flag ((c.reg (rg .safeIntStatus p)).bit 6), 4, 1), (flag ((c.cover p).bit 6), 5, 1),
   (flag x.serving.isSome, 6, 1), (flag (!x.switch.isEmpty), 7, 1), (flag x.imageBad, 8, 1), (flag (c.kvLow p x), 9, 1)]

/-- Requests of a partition in each of the six states. -/
def Part.reqCounts (x : Part) : List Nat :=
  match x.serving with
  | none => List.replicate 6 0
  | some v => (List.range 6).map (fun s => ((List.range v.maxReq).filter (fun n => (v.req n).state.code == s)).length)

/-- The 4 KiB page of a function. -/
def Chip.statusPage (c : Chip) (fn seq : Nat) : List Byte :=
  let p := fn - 1
  let x := (c.partOf fn).bind c.part
  let r (n : RegName) : Nat := match x with
    | some _ => (c.readReg (rg n p)).toNat
    | none => 0
  let w (n : RegName) : List Byte := leBytes 4 (r n)
  leBytes 8 seq ++ leBytes 8 c.now ++ leBytes 1 1 ++ leBytes 1 fn ++ leBytes 2 ((x.map (·.mask p)).getD 0) ++
  leBytes 4 (packWord (c.packageFlags ++ (x.map (c.partFlags p)).getD [])).toNat ++
  leBytes 1 c.therm.state.code ++ leBytes 1 c.therm.level ++ leBytes 2 (twos 16 c.therm.pkg) ++ leBytes 1 c.therm.hotDie ++
  leBytes 1 c.therm.hotSensor ++ leBytes 2 (if fn = 0 then c.power.watts else 0) ++ leBytes 2 (c.field (rg .pwrLimit) 10 0) ++
  leBytes 1 ((x.map roleOf).getD 0xFF) ++ leBytes 1 ((x.bind (fun x => x.serving.map Serving.blend)).getD 0xFF) ++ leBytes 4 0 ++
  w .seqStepsLo ++ w .seqStepsHi ++ w .safeLateStepLo ++ w .safeLateStepHi ++ w .calPOldestLo ++ w .calPOldestHi ++ w .calPRounds ++
  w .safeIntCover ++ w .fixPStat ++ w .wgtEpochForce ++ w .wgtEpochRetiring ++ w .wgtEpochBuild ++ w .kvFreePages ++ w .kvFreeSlots ++
  (((x.map Part.reqCounts).getD (List.replicate 6 0)).flatMap (leBytes 2)) ++ List.replicate 20 0 ++ pageCounters.flatMap w ++
  List.replicate 3896 0 ++ leBytes 8 seq

/-- Write a function's page; the counters of its partition are read as they stand. -/
def Chip.putPage (c : Chip) (fn : Nat) : Chip :=
  let seq := (c.pair (rg .statSeqLo fn) (rg .statSeqHi fn) + 1) % 2 ^ 64
  (c.hostWrite fn (c.pair (rg .statPageBaseLo fn) (rg .statPageBaseHi fn)) (c.statusPage fn seq)).setPair (rg .statSeqLo fn)
    (rg .statSeqHi fn) seq

def Chip.statOn (c : Chip) (fn : Nat) : Bool := (c.reg (rg .statCtrl fn)).bit 0

/-- A page is written when its period has passed, or an event has made one due. -/
def Chip.statusPageWrite (c : Chip) (fn : Nat) : Chip :=
  let f := c.func fn
  let periodic := decide (f.lastPage + 1000 * c.field (rg .statPeriodUs fn) 16 0 ≤ c.now)
  if !c.statOn fn ∨ !c.busMaster fn ∨ !(periodic || f.pageDue) then c
  else (c.putPage fn).updFunc fn (fun f => { f with pageDue := false, lastPage := if periodic then c.now else f.lastPage })

def execStatusPageWrite (fn : Nat) (s : State) : Host.Outcome State Fault Refusal := s.onPort (·.statusPageWrite fn)

/-- STAT.CTRL.WRITE_NOW makes a page due while pages are on. -/
def Chip.statWriteNow (c : Chip) (fn : Nat) : Chip := if c.statOn fn then c.pageDue fn else c

def execStatWriteNow (fn : Nat) (s : State) : Host.Outcome State Fault Refusal := s.onChip (·.statWriteNow fn)

/-! RING_CFG_WRITE (13 R460, R483, R486) -/

/-- The function is a VF that serves no partition. -/
def Chip.inert (c : Chip) (fn : Nat) : Bool := fn != 0 && (c.partOf fn).isNone

/-- A ring configuration write is refused: its size is out of range, changes size or binding of an enabled ring, enables a ring
before READY, a submission ring whose completion ring is off, or disables a completion ring in use. -/
def Chip.ringRefused (c : Chip) (fn : Nat) (cq : Bool) (n : Nat) (v : Word) : Bool :=
  let old := c.reg (rg (if cq then .ringCqCfg else .ringSqCfg) fn n)
  let size := v.field 4 0
  !decide (4 ≤ size ∧ size ≤ 16) ||
  (old.bit 31 && (size != old.field 4 0 || (!cq && v.field 10 8 != old.field 10 8))) ||
  (v.bit 31 && !old.bit 31 && (!c.power.ready || (!cq && !c.cqOn fn (v.field 10 8)))) ||
  (cq && old.bit 31 && !v.bit 31 && (List.range 8).any (fun m => c.sqOn fn m && c.boundCq fn m == n))

/-- What enabling a ring sets. -/
def Chip.ringEnabled (c : Chip) (fn : Nat) (cq : Bool) (n : Nat) : Chip :=
  if cq then
    (c.setReg (rg .ringCqTail fn n) (BitVec.ofNat 32 65536)).updFunc fn (fun f =>
      { f with heads := Tbl.set n 0 f.heads, stopped := f.stopped.filter (· != n) })
  else (c.setReg (rg .ringSqHead fn n) 0).updFunc fn (fun f => { f with tails := Tbl.set n 0 f.tails })

def Chip.ringCfgWrite (c : Chip) (fn : Nat) (cq : Bool) (n : Nat) (v : Word) : Chip :=
  let r := rg (if cq then .ringCqCfg else .ringSqCfg) fn n
  let was := (c.reg r).bit 31
  if !c.hasFunc fn then c
  else if c.inert fn && v.bit 31 then c.setBits (rg .ringStatus fn) 2
  else if c.ringRefused fn cq n v then c.setBits (rg .ringStatus fn) 1
  else
    let c := c.setReg r (v &&& BitVec.ofNat 32 r.name.info.rw)
    if v.bit 31 && !was then c.ringEnabled fn cq n else c

def execRingCfgWrite (fn : Nat) (cq : Bool) (n : Nat) (value : Word) (s : State) : Host.Outcome State Fault Refusal :=
  s.onChip (·.ringCfgWrite fn cq n value)

/-! BME_WRITE (13 R458, R484) -/

/-- Host writes that waited are made, oldest first. -/
def Chip.flushWrites (c : Chip) (fn : Nat) : Chip :=
  if !c.busMaster fn then c
  else
    let c' := c.updFunc fn (fun f => { f with writes := [] })
    (c.func fn).writes.foldl (fun c w => c.hostWrite fn w.1 w.2) c'

def Chip.bmeWrite (c : Chip) (fn : Nat) (on : Bool) : Chip := if !c.hasFunc fn then c else (c.updFunc fn (fun f => { f with bme := on })).flushWrites fn

def execBmeWrite (fn : Nat) (on : Bool) (s : State) : Host.Outcome State Fault Refusal := s.onPort (·.bmeWrite fn on)

/-! COMPLETION_TIMEOUT (13 R459) -/

/-- A host read under way got no completion in time. -/
def Chip.completionTimeout (c : Chip) (fn : Nat) (r : HostReader) : Chip :=
  if !c.busMaster fn then c
  else
    match r with
    | .doorbell => if (c.reg (rg .ringCtrl fn)).bit 0 then c.setBits (rg .hostifStatus fn) 4 else c
    | .descriptor n => if c.sqReady fn n then c.sqStop fn n else c
    | .command sq id =>
      match takeFirst (fun k : Cmd => k.sq == sq && k.cmdId == id) (c.func fn).accepted with
      | none => c
      | some (k, rest) =>
        (c.updFunc fn (fun f => { f with accepted := rest })).complete (k.ticket fn (c.func fn).era) .timeout
    | .step =>
      match (c.partOf fn).bind (fun p => (c.running p).map (fun e => (p, e.2))) with
      | none => c
      | some (p, st) => if st.req.kind = 0 then c.endStep p .timeout programLevel else c

def execCompletionTimeout (fn : Nat) (reader : HostReader) (s : State) : Host.Outcome State Fault Refusal :=
  s.onChip (·.completionTimeout fn reader)

/-! PART_QUERY (13 R476) -/

/-- The record of the partition whose lowest unit is p. -/
def Chip.partRecord (c : Chip) (p : Nat) : List Byte :=
  match c.part p with
  | none => List.replicate 64 0
  | some x =>
    leBytes 2 (x.mask p) ++ leBytes 1 (p + 1) ++ leBytes 1 (flag x.strict + 2 * flag x.serving.isSome + 4 * flag x.degraded) ++
    leBytes 1 (roleOf x) ++ leBytes 3 0 ++ leBytes 4 x.coreCount ++ leBytes 4 (512 * x.units) ++ leBytes 4 x.clusterCount ++
    leBytes 8 (x.units * hbmUnit) ++ leBytes 4 (x.epochIs .inForce) ++ List.replicate 32 0

/-- The oldest accepted command of an opcode starts; none where there is none. -/
def Chip.startAny (c : Chip) (fn opcode : Nat) (f : Chip → Ticket → Cmd → Chip) : Chip :=
  match takeFirst (fun k : Cmd => k.opcode == opcode) (c.func fn).accepted with
  | none => c
  | some (k, rest) => f (c.updFunc fn (fun f => { f with accepted := rest })) (k.ticket fn (c.func fn).era) k

def Chip.partQuery (c : Chip) (fn : Nat) : Chip :=
  c.startAny fn 0x31 (fun c t k =>
    let addr := bytesLe k.args 0 8
    if fn = 0 then (c.hostWrite 0 addr ((List.range 16).flatMap c.partRecord)).complete t .ok
    else
      match c.partOf fn with
      | none => c.complete t .denied
      | some p => (c.hostWrite fn addr (c.partRecord p)).complete t .ok)

def execPartQuery (fn : Nat) (s : State) : Host.Outcome State Fault Refusal := s.onChip (·.partQuery fn)

/-! TELEM_SNAPSHOT (13 R477) -/

/-- A temperature as the last whole scan of its converter found it. -/
def Chip.scanTemp (c : Chip) (d n : Nat) : Int := if c.telemLost d then 1520 else Tbl.get 0 (d, n) c.scanTemps

/-- The 4 KiB record: each converter's last whole scan. -/
def Chip.snapshot (c : Chip) : List Byte :=
  ((List.range 8).flatMap (fun d => (List.range 48).flatMap (fun ch => leBytes 2 (c.chanOf c.scanChans d ch)))) ++
  ((List.range 8).flatMap (fun d => (List.range 24).flatMap (fun n => leBytes 2 (twos 16 (c.scanTemp d n))))) ++
  ((List.range 4).flatMap (fun i => leBytes 2 (c.senseOf c.scanChans i))) ++ leBytes 8 c.now ++ List.replicate 2928 0

def Chip.telemSnapshot (c : Chip) (fn : Nat) : Chip :=
  c.startAny fn 0x32 (fun c t k => (c.hostWrite fn (bytesLe k.args 0 8) c.snapshot).complete t .ok)

def execTelemSnapshot (fn : Nat) (s : State) : Host.Outcome State Fault Refusal := s.onChip (·.telemSnapshot fn)

end Sys2Proof.Machine
end

