-- ==== Sys2Proof/Machine/Resets.lean ====
section
/-! DEFINITION. Ending a partition's work, function resets, the entry to Solstice and what a start keeps (13 R461, 15 R526, 16 R550-R556). -/

namespace Sys2Proof.Machine

/-! Ending work -/

/-- The running step ends without commit and the queued ones end unrun. -/
def Chip.endSteps (c : Chip) (p : Nat) (st : Status) : Chip :=
  let c := match c.running p with
    | none => c
    | some (_, r) => c.endStep p st r.lowestOpen
  match c.part p with
  | none => c
  | some x => x.queued.foldl (fun c q =>
      match q.ticket with
      | some t => c.complete t st 0 false (some programLevel) (some (c.headerTag p x q))
      | none => c) (c.setPart p { x with queued := [], fwResult := none })

/-- What an export has not sent is not sent. -/
def Chip.dropExport (c : Chip) (p n : Nat) : Chip :=
  let mine (u : FlowUse) : Bool := decide (u = .exported p n)
  { c with fab := { c.fab with flows := c.fab.flows.map (fun f => (f.1, { f.2 with
      waiting := f.2.waiting.filter (fun m => !mine m.use), queued := f.2.queued.filter (fun q => !mine q.2.1) })) } }

/-- A request goes to CLOSED with a final status, and what waits on it ends with the same status. -/
def Chip.endRequest (c : Chip) (p n : Nat) (st : Status) : Chip :=
  match c.srv p with
  | none => c
  | some (x, v) =>
    let r := v.req n
    if r.state = .closed then c
    else
      let c := r.waits.foldl (fun c w => c.complete w.ticket st) c
      let c := match r.exporting with
        | some e => ((c.unpin p x (2 * n)).complete e.ticket st).dropExport p n
        | none => c
      (c.updReq p n (fun r => { r with state := .draining, final := some st, waits := [], exporting := none })).closeReq p n

/-- Every request of the partition is closed, its imports and swaps end, and no firmware step is held. -/
def Chip.endRequests (c : Chip) (p : Nat) (st : Status) : Chip :=
  match c.srv p with
  | none => c
  | some (x, v) =>
    let c := (x.edits.filter (fun e => e.handle.isSome)).foldl (fun c e => e.ticket.elim c (fun t => c.complete t st)) c
    let c := c.updPart p (fun x => { x with edits := x.edits.filter (fun e => e.handle.isNone) })
    let c := c.updSrv p (fun v => { v with cur := none, failedOnce := none })
    let c := v.imports.foldl (fun c i => c.importEnd p i.1 st) c
    v.requests.foldl (fun c r => c.endRequest p r.1 st) c

/-- A build is abandoned: its command ends and the epoch it would have made is gone (10 R376, 16 R550, R554). -/
def Chip.endBuild (c : Chip) (p : Nat) (st : Status) : Chip :=
  match c.part p with
  | none => c
  | some x =>
    let c := c.setPart p { x with build := none, epochs := x.epochs.filter (fun e => decide (e.state ≠ .building)) }
    x.build.elim c (fun b => c.complete b.ticket st)

/-- An accepted command ends unstarted; a STEP_RUN carries its header's tag and no op (08 R280, R309, 13 R472). -/
def Chip.endCommand (c : Chip) (p : Nat) (x : Part) (t : Ticket) (k : Cmd) (st : Status) : Chip :=
  if k.opcode = 0x01 then c.complete t st 0 false (some programLevel) (some (c.headerTag p x (k.stepReq t))) else c.complete t st

/-- Every other accepted command of the partition's function ends. -/
def Chip.endCommands (c : Chip) (p : Nat) (st : Status) : Chip :=
  let fn := p + 1
  match c.part p with
  | none => c
  | some x =>
    let acc := (c.func fn).accepted
    let era := (c.func fn).era
    let c := c.updFunc fn (fun f => { f with accepted := [] })
    let c := c.setPart p { x with edits := [], switch := [] }
    let c := x.edits.foldl (fun c e => e.ticket.elim c (fun t => c.complete t st)) c
    let c := x.switch.foldl (fun c t => c.complete t.2 st) c
    let c := acc.foldl (fun c k => c.endCommand p x (k.ticket fn era) k st) c
    let mine := c.calWait.filter (fun w => w.1.fn == fn)
    mine.foldl (fun c w => c.complete w.1 st) { c with calWait := c.calWait.filter (fun w => w.1.fn != fn) }

/-- All of a partition's work ends: a switch that a boundary would make is called off first. -/
def Chip.endWork (c : Chip) (p : Nat) (st : Status) : Chip :=
  let ts := ((c.part p).map Part.switch).getD []
  let c := ts.foldl (fun c t => c.complete t.2 st) (c.updPart p (fun x => { x with switch := [] }))
  (((c.endSteps p st).endRequests p st).endCommands p st).endBuild p st

/-! Functions (13 R461, R484) -/

/-- A register of a function's RING or STAT block. -/
def ringOrStat (fn : Nat) (r : Reg) : Bool := r.blk == fn && decide (r.name.info.block = Block.ring ∨ r.name.info.block = Block.stat)

/-- The RING and STAT blocks of a function return to their reset values, staged halves with them, and nothing of its work is left. -/
def Chip.resetFunc (c : Chip) (fn : Nat) : Chip :=
  let c := { c with regs := c.regs.filter (fun e => !ringOrStat fn e.1), latch := c.latch.filter (fun e => !ringOrStat fn e.1) }
  c.setFunc fn { bme := (c.func fn).bme, era := (c.func fn).era + 1 }

/-- Completions without a slot are not dropped: they wait until software enables their ring again (13 R467; log entry 27). -/
def Chip.keepWaiting (c : Chip) (fn : Nat) (f : Chip → Chip) : Chip :=
  let kept := (c.func fn).waiting.map (fun k => { k with reserved := false })
  (f c).updFunc fn (fun g => { g with waiting := kept })

/-- The completions that can be written are written. -/
def Chip.flushCompletions (c : Chip) (fn : Nat) : Chip :=
  foldN 8 (fun c q => foldN (c.func fn).waiting.length (fun c _ => c.completionWrite fn q) c) c

/-- A function's rings and status page are disabled. -/
def Chip.disableFunc (c : Chip) (fn : Nat) : Chip :=
  let c := c.clearBits (rg .statCtrl fn) 1
  let c := foldN 8 (fun c n => (c.clearBits (rg .ringSqCfg fn n) (2 ^ 31)).clearBits (rg .ringCqCfg fn n) (2 ^ 31)) c
  c.setFunc fn { bme := (c.func fn).bme, era := (c.func fn).era + 1 }

/-- Every request is CLOSED with final CANCELLED and nothing is written for it; its sequences, pages and windows stay as they are, for
the next request of its entry to take over (13 R461). -/
def Chip.dropRequests (c : Chip) (p : Nat) : Chip :=
  match c.srv p with
  | none => c
  | some (x, v) =>
    let c := v.requests.foldl (fun c r => if r.2.exporting.isSome then (c.unpin p x (2 * r.1)).dropExport p r.1 else c) c
    let c := c.updPart p (fun x => { x with edits := x.edits.filter (fun e => e.handle.isNone) })
    c.updSrv p (fun v => { v with
      cur := none, failedOnce := none, imports := []
      requests := v.requests.map (fun r => if r.2.state = .closed then r else
        (r.1, { r.2 with state := .closed, final := some .cancelled, ticket := none, waits := [], exporting := none, epoch := none, drafts := [] })) })

/-- A Function Level Reset. While the work ends, nothing reaches the host for the function. -/
def Chip.flr (c : Chip) (fn : Nat) : Chip :=
  if !c.hasFunc fn then c else
  let f := c.func fn
  let c := (c.setFunc fn { bme := false, era := f.era + 1 })
  let c := match c.partOf fn with
    | none => c
    | some p => (c.endSteps p .cancelled).dropRequests p
  (c.updFunc fn (fun g => { g with bme := f.bme })).resetFunc fn

def execFunctionLevelReset (fn : Nat) (s : State) : Host.Outcome State Fault Refusal := s.onPort (·.flr fn)

/-! The entry to Solstice (16 R550) -/

/-- A function's last completions and page are written, and its rings and page are off. -/
def Chip.closeFunc (c : Chip) (fn : Nat) : Chip :=
  let c := c.flushCompletions fn
  (if c.statOn fn && c.busMaster fn then c.putPage fn else c).keepWaiting fn (·.resetFunc fn)

/-- The management function's accepted commands end. -/
def Chip.endPf (c : Chip) (st : Status) : Chip :=
  let acc := (c.func 0).accepted
  let era := (c.func 0).era
  let c := acc.foldl (fun c k => c.complete (k.ticket 0 era) st) (c.updFunc 0 (fun f => { f with accepted := [] }))
  let mine := c.calWait.filter (fun w => w.1.fn == 0)
  mine.foldl (fun c w => c.complete w.1 st) { c with calWait := c.calWait.filter (fun w => w.1.fn != 0) }

/-- Every partition's work ends with a status. -/
def Chip.endAll (c : Chip) (st : Status) : Chip := (c.parts.foldl (fun c e => c.endWork e.1 st) c).endPf st

/-- The five actions of R550 on the data path; nothing happens where the package is in Solstice or in reset. -/
def Chip.toSolstice (c : Chip) (st : Status) : Chip :=
  if c.power.inReset ∨ c.power.state = .solstice then c
  else
    let c := c.endAll st
    let c := foldN 17 Chip.closeFunc c
    let c := c.count (rg .pwrEvtSolstice)
    { c with
      fab := { c.fab with flows := [], ports := c.fab.ports.map (fun q => (q.1, ({ mode := q.2.mode } : Port))) }
      therm := { c.therm with state := .normal, level := 0, slowdown := false }
      capture := none
      power := { c.power with state := .solstice, ready := false, lever := 0, unmet := false,
                              away := 0, awayFrom := c.now } }

/-! Settings (16 R554, R568) -/

/-- A register that the settings restore. -/
def restoredReg (n : RegName) : Bool :=
  [RegName.iltChip, .iltTorus, .iltRoute, .iltNextHop, .iltKeys, .linkPortCtrl, .linkMacsecCtrl, .linkMacLo, .linkMacHi, .linkIp, .thermCfg,
   .telemCfg, .wgtImageBaseLo, .wgtImageBaseHi, .wgtImageSize, .pwrCfg, .pwrLimit].contains n

/-- The settings as the chip has them. -/
def Chip.settings (c : Chip) : Settings :=
  { units := c.units, parts := c.parts.map (fun e => (e.1, e.2.units, e.2.strictNext)), sense := c.sense,
    regs := c.regs.filter (fun e => restoredReg e.1.name) }

/-- The settings copy to load: of those whose version is not too high, the one with the highest SEQ (16 R569). -/
def loadCopy (copies : Tbl Nat SettingsCopy) (version : Nat) : Option (Nat × SettingsCopy) :=
  copies.foldl (fun m e =>
    if version < e.2.version then m
    else match m with
      | none => some e
      | some o => if o.2.seq < e.2.seq then some e else m) none

/-- The copy that the next settings write goes to: the one not in force. -/
def otherCopy (copies : Tbl Nat SettingsCopy) (version : Nat) : Nat :=
  match loadCopy copies version with
  | some e => 1 - e.1
  | none => 0

/-- The header of a settings copy in flash, over its body (16 R568). -/
def settingsBytes (seq version : Nat) (body : List Byte) : List Byte :=
  leBytes 4 seq ++ leBytes 2 version ++ leBytes 2 0 ++ leBytes 4 body.length ++ leBytes 4 (crc32c body) ++ body

/-- The Warden writes the settings to the other copy: the items beside the bytes that hold them. -/
def Firmware.saveSettings (w : Firmware) (s : Settings) (body : List Byte) : Firmware :=
  let k := otherCopy w.copies w.settingsVersion
  let seq := ((loadCopy w.copies w.settingsVersion).map (fun e => e.2.seq)).getD 0 + 1
  { w with
    copies := Tbl.set k ⟨seq, w.settingsVersion, s⟩ w.copies
    flash := w.flash.write (0x100000 * (k + 1)) (settingsBytes seq w.settingsVersion body) }

/-- Pending settings reach the flash before power is gated (16 R550). -/
def State.flushSettings (s : State) (body : List Byte) : State :=
  if s.chip.settingsDue then
    { s with chip := { s.chip with settingsDue := false }, sys := { s.sys with fw := s.sys.fw.saveSettings s.chip.settings body } }
  else s

/-- Debug locks: the unlock, halts, breakpoints and an open challenge are gone (16 R571). -/
def Debug.lock (d : Debug) : Debug := { d with unlocked := false, scope := 0, expiry := 0, halted := [], breaks := [] }

/-- The entry to Solstice of the whole part. -/
def State.toSolstice (s : State) (st : Status) : State :=
  if s.chip.power.inReset ∨ s.chip.power.state = .solstice then s
  else
    let s := ({ s with chip := s.chip.toSolstice st }).flushSettings []
    { s with sys := { s.sys with dbg := s.sys.dbg.lock } }

/-! What survives (10 R364, R376, R395, 16 R545, R554, R569) -/

/-- A bank after its periphery has lost power: its cells, remaps and wear stand, its trims do not. -/
def Bank.retained (b : Bank) : Bank :=
  { b with
    gt := [], ot := [], zeroTrims := [], measured := false, scrubbed := [], cleanAt := 0, foundWrong := []
    remap := b.allRemaps, remapPending := [] }

/-- A bank after an erasure, which counts as a rewrite. -/
def Bank.erased (b : Bank) : Bank :=
  { remap := b.allRemaps, rewrites := b.rewrites + 1 }

/-- The epochs that a start finds: those in force and retiring are unverified, and the numbers used stay used. -/
def Part.retainedEpochs (x : Part) : List Epoch :=
  (x.epochs.filter (fun e => decide (e.state ≠ .building ∧ e.state ≠ .ready))).map (fun e =>
    { e with verified := false, repair := false, committed := false, invalid := false, retireAt := none,
             retireAsked := false, lastCheck := 0, cleanAt := 0 })

/-- A partition as a start finds it in the settings, with its epoch table. -/
def Chip.retainedPart (c : Chip) (p units : Nat) (strict : Bool) : Part :=
  let old : Part := (c.part p).getD {}
  { units := units, strict := strict, strictNext := strict, epochs := old.retainedEpochs, lastEpoch := old.lastEpoch }

/-- What is left of the data path when its islands lose power; a cold start also loses the links and Bus Master Enable. -/
def Chip.retained (c : Chip) (cold : Bool) : Chip :=
  { host := c.host
    hostUp := c.hostUp
    numVfs := c.numVfs
    funcs := c.funcs.map (fun e => (e.1, ({ bme := e.2.bme && !cold, era := e.2.era + 1, waiting := if cold then [] else e.2.waiting } : Func)))
    parts := c.parts.map (fun e => (e.1, c.retainedPart e.1 e.2.units e.2.strictNext))
    units := c.units
    banks := c.banks.map (fun e => (e.1, e.2.retained))
    cores := (c.cores.filter (fun e => e.2.outOfService)).map (fun e => (e.1, ({ outOfService := true } : Core)))
    engines := (c.engines.filter (fun e => e.2.outOfService || !e.2.failedRows.isEmpty)).map (fun e =>
      (e.1, ({ outOfService := e.2.outOfService, failedRows := e.2.failedRows } : Engine)))
    convFailed := c.convFailed
    vbgh := c.vbgh
    dividers := c.dividers
    streamDown := c.streamDown
    fab := { tx := c.fab.tx }
    mbxWindow := if cold then [] else c.mbxWindow
    therm := { tripping := c.therm.tripping }
    free := c.free
    clocks := c.clocks
    power := c.power }

/-! A start (16 R553-R558, R569, 11 R397) -/

/-- The settings come into force: units, partitions, keys and STRICT, sense coefficients and registers. -/
def Chip.applySettings (c : Chip) (s : Settings) : Chip :=
  { c with
    units := s.units, sense := s.sense, regs := s.regs
    parts := s.parts.map (fun e => (e.1, c.retainedPart e.1 e.2.1 e.2.2)) }

/-- With no settings every unit is FREE and every bank that holds a live epoch is erased. -/
def Chip.noSettings (c : Chip) : Chip :=
  let held (k : Nat × Nat) : Bool := c.parts.any (fun e => e.2.bankHeld k.1 k.2)
  { c with units := [], parts := [], sense := [], regs := [], banks := c.banks.map (fun e => (e.1, if held e.1 then e.2.erased else e.2)) }

/-- Initial Accords: count 1, in force at once, on every engine; an engine not listed measures no offset, a nominal reference and no trim
(log entry 83). -/
def Chip.initialAccords (c : Chip) (l : List (Nat × List CalSlot)) : Chip :=
  let zero : Measured := ⟨[], [], [], [], []⟩
  let fresh (e : Nat) : Engine :=
    { c.engine e with inForce := some { m := zero, temp := c.coreTemp (e / 64), time := c.now, began := c.now }, count := 1, accordAt := c.now, readyAt := c.now }
  let c := { c with engines := (List.range 8192).map (fun e =>
    (e, if l.any (fun a => a.1 == e) then { c.engine e with readyAt := c.now } else fresh e)) }
  l.foldl (fun c a => (c.setEngine a.1 { c.engine a.1 with slots := a.2 }).newAccord a.1) c

/-- The read-back before READY: a row of a held bank that fails counts in its partition (16 R556). -/
def Chip.readBack (c : Chip) (rows : List (Nat × Nat × Nat)) : Chip :=
  rows.foldl (fun c r =>
    match c.ownerOfUnit (r.1 / 2048) with
    | none => c
    | some p => if (c.part p).any (fun x => x.bankHeld r.1 r.2.1) then c.count (rg .wgtEvtScrub p) else c) c

/-- First temperatures of the sensors. -/
def Chip.firstTemps (c : Chip) (l : List ((Nat × Nat) × Int)) : Chip :=
  { c with
    sensors := l.foldl (fun t e => Tbl.set e.1 ({ temp := e.2, valid := true } : Sensor) t) c.sensors
    scanTemps := l.foldl (fun t e => Tbl.set e.1 e.2 t) c.scanTemps }

/-- The part comes up in Live and READY: temperatures, read-back, Accords; the last trip is reported (16 R557, R558, 11 R410). -/
def Chip.comeUp (c : Chip) (b : Start) (last : PowerState) (wake : Nat) : Chip :=
  let trip := c.therm.tripping
  let c := { c with
    therm := {}
    clocks := c.clocks.map (fun _ => ({ now := c.now, lastPulse := c.now } : Clock))
    power := { state := .live, last := last, wake := wake, inReset := false, ready := true, idleSince := c.now, lastTick := c.now } }
  let c := if trip then foldN 8 (fun c d => c.setBits (rg .thermStatus d) 8) c else c
  ((c.firstTemps b.temps).readBack b.readback).initialAccords b.accords

end Sys2Proof.Machine
end

