-- ==== Sys2Proof/Machine/Telemetry.lean ====
section
/-! DEFINITION. Telemetry, sensors, temperature control, the critical trip and the sense inputs (11 R399-R412). -/

namespace Sys2Proof.Machine

/-- The outcome of a telemetry command: it runs on every die, in Solstice on die 0 only (16 R545). -/
def State.onDie (s : State) (d : Nat) (f : State → State) : Host.Outcome State Fault Refusal :=
  .next (if s.chip.power.inReset || s.chip.power.clockLost || (decide (s.chip.power.state = .solstice) && d != 0) then s else f s)

/-! The critical trip (11 R410) -/

/-- THERMTRIP_N goes low, steps end with INTERNAL and the package enters Solstice. -/
def State.criticalTrip (s : State) : State :=
  let s := { s with
    sys := { s.sys with pins := { s.sys.pins with thermtripN := false } }
    chip := { s.chip.allPagesDue with therm := { s.chip.therm with tripping := true } } }
  s.toSolstice .internal

/-! Temperature control (11 R408) -/

/-- ENFORCING begins at level 1. -/
def Chip.enforce (c : Chip) : Chip :=
  let c := { c with therm := { c.therm with state := .enforcing, level := 1, slowdown := true, lastTick := c.now } }
  (c.count (rg .thermEvtEnforce)).allPagesDue

/-- The control state follows a new package temperature, in 1/16 °C. -/
def Chip.control (c : Chip) : Chip :=
  let t := c.therm.pkg
  match c.therm.state with
  | .normal =>
    if 1520 ≤ t then c.enforce
    else if 1440 ≤ t then
      let c := { c with therm := { c.therm with
        state := .warned, slowdown := true, graceEnd := c.now + 1000000 * c.field (rg .thermCfg) 8 0 } }
      (c.count (rg .thermEvtWarn)).allPagesDue
    else c
  | .warned =>
    if 1520 ≤ t then c.enforce
    else if t < 1408 then ({ c with therm := { c.therm with state := .normal, slowdown := false } }).allPagesDue
    else c
  | .enforcing => c

/-- The package temperature: the highest of the 192 sensors, of equals the lowest die and then the lowest sensor. -/
def Chip.hottest (c : Chip) : Int × Nat × Nat :=
  ((List.range 192).map (fun i => (c.sensorTemp (i / 24) (i % 24), i / 24, i % 24))).foldl
    (fun m e => if m.1 < e.1 then e else m) (c.sensorTemp 0 0, 0, 0)

/-- THERM.MAX and the control state after a reading. -/
def Chip.newTemps (c : Chip) : Chip :=
  let h := c.hottest
  ({ c with therm := { c.therm with pkg := h.1, hotDie := h.2.1, hotSensor := h.2.2 } }).control

def Chip.graceExpiry (c : Chip) : Chip := if c.therm.state = .warned ∧ c.therm.graceEnd ≤ c.now then c.enforce else c

def execGraceExpiry (s : State) : Host.Outcome State Fault Refusal := s.onChip (·.graceExpiry)

/-- The tick of ENFORCING, 1 ms after the last. -/
def Chip.levelTick (c : Chip) : Chip :=
  if c.therm.state ≠ .enforcing ∨ c.now < c.therm.lastTick + 1000000 then c
  else
    let t := c.therm.pkg
    let l := c.therm.level
    let l' := if 1520 < t then min 7 (l + 1) else if t < 1408 then l - 1 else l
    let c := { c with therm := { c.therm with level := l', lastTick := c.therm.lastTick + 1000000 } }
    if l' = l then c
    else if l' = 0 then ({ c with therm := { c.therm with state := .normal, slowdown := false } }).allPagesDue
    else c.allPagesDue

/-- The Warden's pair in control is halted by debug (16 R571). -/
def State.wardenHalted (s : State) : Bool := s.sys.dbg.halted.any (fun a => a.num == 2 && a.die == (if (s.chip.reg (rg .safeWStatus)).bit 0 then 7 else 0))

/-- A halted Warden holds the level. -/
def execThermLevelTick (s : State) : Host.Outcome State Fault Refusal := s.onChip (fun c => if s.wardenHalted then c else c.levelTick)

/-! Readings (11 R399-R403) -/

/-- The channel that a converter converts after one: TA 0 to 25, TB 0, 25 and 26 to 47, a lone survivor all 48. -/
def nextChan (conv : Nat) (alone : Bool) (ch : Nat) : Nat :=
  if alone then (if ch = 47 then 0 else ch + 1)
  else if conv = 0 then (if 25 ≤ ch then 0 else ch + 1)
  else if ch = 0 then 25 else if ch = 47 then 0 else ch + 1

/-- A converter scans a channel. -/
def scans (conv : Nat) (alone : Bool) (ch : Nat) : Bool :=
  decide (ch < 48) && (alone || (if conv = 0 then decide (ch ≤ 25) else ch == 0 || decide (25 ≤ ch)))

/-- The divider of a channel: as measured at test, else as listed. -/
def Chip.divider (c : Chip) (d ch : Nat) : Nat × Nat :=
  let nominal : Nat × Nat := if ch = 35 then (1, 4) else if ch = 36 ∨ (41 ≤ ch ∧ ch ≤ 45) then (1, 2) else (1, 1)
  (Tbl.find? (d, ch) c.dividers).getD nominal

/-- A quotient rounded half to even; by zero it is open. -/
def quotient (num den : Int) : Int :=
  if den = 0 then Config.divByZero num else if 0 < den then rheInt num den.toNat else rheInt (-num) den.natAbs

/-- The voltage of a code, in 0.1 mV. -/
def Chip.volts (c : Chip) (d ch : Nat) (t : Telem) (code : Int) : Int :=
  let r := c.divider d ch
  quotient (Tbl.get 60000 d c.vbgh * (64 * code - t.ng) * r.2) (10 * (t.nb - t.ng) * r.1)

/-- The temperature of a sensor's code, in 1/16 °C (11 R406). -/
def Chip.tempOf (c : Chip) (d : Nat) (t : Telem) (code : Int) : Int :=
  quotient (8 * Tbl.get 60000 d c.vbgh * (64 * code - t.ng) - 437040 * (t.nb - t.ng)) (100 * (t.nb - t.ng))

def Chip.telemOf (c : Chip) (d k : Nat) : Telem := Tbl.get {} (d, k) c.telem
def Chip.setTelem (c : Chip) (d k : Nat) (t : Telem) : Chip := { c with telem := Tbl.set (d, k) t c.telem }

/-- A telemetry fault of a die (11 R402, 01 R24). -/
def Chip.telemFault (c : Chip) (d : Nat) : Chip := (c.setBits (rg .telemStatus d) 1).count (rg .telemEvtFault d)

/-- Urgent requests of a converter join another's, up to four. -/
def Telem.takeUrgent (t : Telem) (l : List Nat) : Telem := { t with urgentWait := (t.urgentWait ++ l).take 4 }

/-- A converter is excluded, and the other takes the urgent requests it holds; once both are, every sensor of the die reads 95.0 °C. -/
def Chip.exclude (c : Chip) (d k : Nat) : Chip :=
  let t := c.telemOf d k
  let o := c.telemOf d (1 - k)
  let c := ((c.setTelem d (1 - k) (if o.excluded then o else o.takeUrgent t.urgentWait)).setTelem d k
    { t with excluded := true, urgentWait := [] }).telemFault d
  if c.telemLost d then
    { c with sensors := (List.range 24).foldl (fun t n =>
        Tbl.set (d, n) { (Tbl.get ({} : Sensor) (d, n) t) with temp := 1520 } t) c.sensors }
  else c

/-- The last n of a list. -/
def lastOf (n : Nat) (l : List Int) : List Int := l.drop (l.length - n)

/-- How far a code lies from the mean of the 64 channel-0 codes accepted before it, over their number (2,048 before any). -/
def farFrom (before : List Int) (code : Int) : Nat × Nat :=
  let l := lastOf 64 before
  if l.isEmpty then ((code - 2048).natAbs, 1) else ((code * l.length - l.sum).natAbs, l.length)

/-- A channel-0 code is accepted: it counts for the averages and is the one of the present scan. -/
def Telem.accept (t : Telem) (code : Int) : Telem := { t with full := lastOf 65 (t.full ++ [code]), this0 := some code }

/-- A channel-0 code is checked alone, and against the other converter's of its present scan. Of two that disagree equally far from
their means, TB is out (DEDUCED, log entry 29). -/
def Chip.crossCheck (c : Chip) (d k : Nat) (code : Int) : Chip :=
  let t := c.telemOf d k
  let o := c.telemOf d (1 - k)
  let ok := c.setTelem d k (t.accept code)
  if code < 1984 ∨ 2112 < code then c.exclude d k
  else
    match o.this0 with
    | none => ok
    | some other =>
      if o.excluded || decide ((code - other).natAbs ≤ c.field (rg .telemCfg d) 7 0) then ok
      else
        let a := farFrom t.full code
        let b := farFrom o.full.dropLast other
        if b.1 * a.2 < a.1 * b.2 ∨ (b.1 * a.2 = a.1 * b.2 ∧ k = 1) then c.exclude d k
        else ok.exclude d (1 - k)

/-! Sensors (11 R405-R407) -/

/-- The neighbours of a sensor on its die. -/
def neighbours (n : Nat) : List Nat :=
  if n < 16 then (if n % 4 = 0 then [] else [n - 1]) ++ (if n % 4 = 3 then [] else [n + 1]) ++ [16 + n / 4]
  else if n < 20 then
    let c := n - 16
    (List.range 4).map (4 * c + ·) ++ (if c = 0 then [] else [n - 1]) ++ (if c = 3 then [23] else [n + 1]) ++
      (if c = 0 then [] else [19 + c]) ++ (if c = 3 then [] else [20 + c])
  else if n < 23 then
    let s := n - 20
    [16 + s, 17 + s] ++ (if s = 0 then [] else [n - 1]) ++ (if s = 2 then [23] else [n + 1])
  else [19, 22]

def Chip.sensor (c : Chip) (d n : Nat) : Sensor := Tbl.get {} (d, n) c.sensors

def insertAsc (v : Int) : List Int → List Int
  | [] => [v]
  | w :: ws => if v ≤ w then v :: w :: ws else w :: insertAsc v ws

/-- Twice the median of a list: of an even number the mean of the middle two. -/
def median2 (l : List Int) : Int :=
  let s := l.foldr insertAsc []
  s.getD ((s.length - 1) / 2) 0 + s.getD (s.length / 2) 0

/-- The sensor lies more than 20 °C from the median of its neighbours that are not broken, of which there are two or more. -/
def Chip.disagrees (c : Chip) (d n : Nat) (temp : Int) : Bool :=
  let ts := ((neighbours n).filter (fun m => (c.sensor d m).valid && !(c.sensor d m).broken)).map (fun m => (c.sensor d m).temp)
  decide (2 ≤ ts.length) && decide (640 < (2 * temp - median2 ts).natAbs)

/-- A reading widens what its neighbours have seen since their codes stood still. -/
def Chip.seenBy (c : Chip) (d n : Nat) (temp : Int) : Chip :=
  (neighbours n).foldl (fun c m =>
    let s := c.sensor d m
    let r := Tbl.get (temp, temp) n s.span
    { c with sensors := Tbl.set (d, m) { s with span := Tbl.set n (min r.1 temp, max r.2 temp) s.span } c.sensors }) c

/-- A sensor's reading: the chip after it, and whether it makes a critical trip. -/
def Chip.sensorReading (c : Chip) (d n : Nat) (code temp : Int) : Chip × Bool :=
  let s := c.sensor d n
  if s.broken then (c, false)
  else
    let c := c.seenBy d n temp
    let same := if s.valid ∧ s.code = code then s.same + 1 else 1
    let span := if same = 1 then ((neighbours n).filter (fun m => (c.sensor d m).valid)).map (fun m => (m, (c.sensor d m).temp, (c.sensor d m).temp))
      else s.span
    let apart := if c.disagrees d n temp then s.apart + 1 else 0
    let far (t : Int) : Bool := decide (t < -640 ∨ 2400 < t)
    let breaks := (s.valid && far s.temp && far temp) || (decide (38400 ≤ same) && span.any (fun e => decide (32 < e.2.2 - e.2.1))) ||
      decide (16 ≤ apart)
    let s' : Sensor := { temp := if breaks then 1520 else temp, valid := true, code := code, same := same, span := span, apart := apart, broken := breaks }
    let c := { c with sensors := Tbl.set (d, n) s' c.sensors }
    let c := if breaks then (c.setBits (rg .thermStatus d) 4).count (rg .thermEvtBroken d) else c
    (c, (breaks && (neighbours n).any (fun m => (c.sensor d m).broken)) || (!breaks && s.valid && decide (1680 ≤ s.temp ∧ 1680 ≤ temp)))

/-! TELEM_CONVERSION -/

/-- Averages waiting come into force at the scan gap; 64 readings of channel 25 form new ones. -/
def Telem.advance (t : Telem) (next : Nat) : Telem :=
  let t := if 64 ≤ t.scans then { t with readyGap := some (t.zero.sum * 64 / t.zero.length, (lastOf 64 t.full).sum * 64 / (lastOf 64 t.full).length), scans := 0 } else t
  let t := { t with chan := next }
  if next ≠ 0 then t
  else
    match t.readyGap with
    | none => { t with this0 := none }
    | some g => { t with ng := g.1, nb := g.2, readyGap := none, this0 := none }

/-- A conversion of a channel ends: its value, its sensor or its cross-check. -/
def Chip.reading (c : Chip) (d k ch : Nat) (code : Int) : Chip × Bool :=
  let t := c.telemOf d k
  let v := c.volts d ch t code
  let t := { t with scan := Tbl.set ch v t.scan }
  let c := { c.setTelem d k t with chans := Tbl.set (d, ch) v c.chans }
  if ch = 0 then (c.crossCheck d k code, false)
  else if ch = 25 then
    (c.setTelem d k { t with zero := (t.zero ++ [code]).drop (t.zero.length + 1 - 64), scans := t.scans + 1 }, false)
  else if ch ≤ 24 then c.sensorReading d (ch - 1) code (c.tempOf d t code)
  else (c, false)

/-- A converter's scan ends: what it found is kept whole for a snapshot; of the two channels that both converters scan, TA's reading
is kept (13 R477; log entry 88). -/
def Chip.endScan (c : Chip) (d k : Nat) (alone : Bool) : Chip :=
  let mine := (c.telemOf d k).scan.filter (fun e => alone || k == 0 || (e.1 != 0 && e.1 != 25))
  { c.setTelem d k { c.telemOf d k with scan := [] } with
    scanChans := mine.foldl (fun t e => Tbl.set (d, e.1) e.2 t) c.scanChans
    scanTemps := if alone || k == 0 then foldN 24 (fun t n => Tbl.set (d, n) (c.sensorTemp d n) t) c.scanTemps else c.scanTemps }

/-- A conversion ends: an urgent request that waits is served first, and its result goes to the Warden alone; else the scan goes on with
the channel whose conversion an urgent request aborted, if one did. -/
def State.telemConversion (s : State) (d k : Nat) (code : Int) : State :=
  let t := s.chip.telemOf d k
  if t.excluded then s
  else
    match t.urgentWait with
    | ch :: rest => { s with chip := s.chip.setTelem d k { t with urgentWait := rest, urgent := some (ch, s.chip.volts d ch t code) } }
    | [] =>
    let r := s.chip.reading d k t.chan code
    let c := r.1
    let alone := (c.telemOf d (1 - k)).excluded
    let next := nextChan k alone t.chan
    let c := c.setTelem d k ((c.telemOf d k).advance next)
    let c := (if next = 0 then c.endScan d k alone else c).newTemps
    if r.2 then ({ s with chip := c }).criticalTrip else { s with chip := c }

def execTelemConversion (die conv : Nat) (code : Int) (s : State) : Host.Outcome State Fault Refusal :=
  s.onDie die (·.telemConversion die conv code)

/-- The Warden's urgent request joins those of the converter that scans its channel; a fifth is refused and does not count, and other
agents make none (DEDUCED, log entry 87). -/
def Chip.telemUrgent (c : Chip) (d k ch : Nat) (who : Agent) : Chip :=
  let t := c.telemOf d k
  if who ≠ c.warden ∨ t.excluded ∨ 4 ≤ t.urgentWait.length ∨ !scans k (c.telemOf d (1 - k)).excluded ch then c
  else (c.setTelem d k { t with urgentWait := t.urgentWait ++ [ch] }).count (rg .telemEvtUrgent d)

def execTelemUrgent (die conv chan : Nat) (who : Agent) (s : State) : Host.Outcome State Fault Refusal :=
  s.onDie die (fun s => { s with chip := s.chip.telemUrgent die conv chan who })

/-! Sense inputs (11 R404) -/

/-- A capture begins, in place of one that runs. -/
def Chip.snsZero (c : Chip) (sel : Nat) : Chip :=
  { c.setField (rg .telemSnsCtrl) 17 16 sel with capture := some { sel := sel, full := none } }

def Chip.snsRefuse (c : Chip) : Chip := c.setBits (rg .telemSnsStat) 32

def Chip.snsFull (c : Chip) (sel full : Nat) : Chip :=
  let c := (c.setField (rg .telemSnsCtrl) 17 16 sel).setField (rg .telemSnsCtrl) 15 0 full
  if (Tbl.find? sel c.senseZero).isNone then c.snsRefuse else { c with capture := some { sel := sel, full := some full } }

def Chip.snsClear (c : Chip) (sel : Nat) : Chip :=
  { c.setField (rg .telemSnsCtrl) 17 16 sel with
    sense := Tbl.del sel c.sense, senseZero := Tbl.del sel c.senseZero, settingsDue := true }

/-- The average of a capture's readings, in 0.1 mV. -/
def Chip.snsDone (c : Chip) (readings : List Int) : Chip :=
  match c.capture with
  | none => c
  | some k =>
    let avg := quotient readings.sum readings.length
    let c := { c with capture := none }
    match k.full with
    | none => { c with senseZero := Tbl.set k.sel avg c.senseZero }
    | some full =>
      let z := Tbl.get 0 k.sel c.senseZero
      if avg - z < 1000 then c.snsRefuse else { c with sense := Tbl.set k.sel (z, avg, full) c.sense, settingsDue := true }

def execSnsCaptureZero (sel : Nat) (s : State) : Host.Outcome State Fault Refusal := s.onPort (·.snsZero sel)
def execSnsCaptureFull (sel full : Nat) (s : State) : Host.Outcome State Fault Refusal := s.onPort (·.snsFull sel full)
def execSnsClear (sel : Nat) (s : State) : Host.Outcome State Fault Refusal := s.onPort (·.snsClear sel)
def execSnsCaptureDone (readings : List Int) (s : State) : Host.Outcome State Fault Refusal := s.onPort (·.snsDone readings)

end Sys2Proof.Machine
end

