-- ==== Sys2Proof/Machine/Vic.lean ====
section
/-! DEFINITION. The vectored interrupt controllers (15 R537-R540). -/

namespace Sys2Proof.Machine

/-- The block number of a processor's controller. -/
def vicOf (who : Agent) : Nat := 8 * who.die + who.num

def Chip.updVic (c : Chip) (k : Nat) (f : Vic → Vic) : Chip := { c with vics := Tbl.upd {} (k / 8, k % 8) f c.vics }

/-- A group has hardware sources on a die: groups 4 to 7 on die 6 only, group 31 nowhere. -/
def vicWired (die n : Nat) : Bool := decide (n < 248) && (decide (n < 32 ∨ 64 ≤ n) || die == 6)

/-- Bits of a word of source bits. -/
def sourceBits (w : Nat) (v : Word) : List Nat := ((List.range 32).filter (fun b => v.bit b)).map (32 * w + ·)

/-- A source's line changes: a rising edge sets the bit of an edge source. A DEVTIME compare timer of die control 0, which works the
compute islands, wakes the package (16 R548). -/
def Chip.vicEdge (c : Chip) (who : Agent) (n : Nat) (on : Bool) : Chip :=
  let k := vicOf who
  if !vicWired who.die n then c
  else
    let rise := on && !(c.vic k).lines.contains n
    let c := if rise && decide (n < 8) && who.num == 0 then c.wake 4 else c
    let edge := rise && !(c.reg (rg .vicSrcCfg k n)).bit 3
    c.updVic k (fun v => { v with
      lines := if on then (if v.lines.contains n then v.lines else v.lines ++ [n]) else v.lines.filter (· != n)
      pending := if edge && !v.pending.contains n then v.pending ++ [n] else v.pending })

def execVicSourceEdge (who : Agent) (source : Nat) (asserted : Bool) (s : State) : Host.Outcome State Fault Refusal :=
  s.onPort (·.vicEdge who source asserted)

/-- A PEND_SET write sets bits, whether or not the sources are enabled. -/
def Chip.vicPendSet (c : Chip) (k w : Nat) (v : Word) : Chip :=
  c.updVic k (fun x => { x with pending := x.pending ++ (sourceBits w v).filter (fun n => !x.pending.contains n) })

def execVicPendSet (who : Agent) (word : Nat) (value : Word) (s : State) : Host.Outcome State Fault Refusal :=
  s.onPort (·.vicPendSet (vicOf who) word value)

/-- A source's priority. -/
def Chip.vicPrio (c : Chip) (k n : Nat) : Nat := c.field (rg .vicSrcCfg k n) 2 1

/-- A source is eligible; mie is the processor's machine interrupt enable. -/
def Chip.vicEligible (c : Chip) (k : Nat) (mie : Bool) (n : Nat) : Bool :=
  let v := c.vic k
  let now := c.timeOn (k / 8)
  mie && (c.reg (rg .vicSrcCfg k n)).bit 0 && c.vicPending k n && !((Tbl.find? (n / 8) v.holdoff).any (fun t => decide (now < t))) &&
  decide (c.field (rg .vicCtrl k) 1 0 ≤ c.vicPrio k n) && v.stack.head?.all (fun t => decide (t.1 < c.vicPrio k n))

/-- The eligible source that wins: the highest priority, then the lowest number. -/
def Chip.vicWinner (c : Chip) (k : Nat) (mie : Bool) : Option Nat :=
  ((List.range 256).filter (c.vicEligible k mie)).foldl (fun m n =>
    match m with
    | none => some n
    | some o => if c.vicPrio k o < c.vicPrio k n then some n else m) none

/-- The winner is delivered: its vector is supplied, its bit clears, it goes on the stack and its group's hold-off starts. -/
def Chip.vicDeliver (c : Chip) (who : Agent) (mie : Bool) : Chip :=
  let k := vicOf who
  match c.vicWinner k mie with
  | none => c
  | some n =>
    let h := c.field (rg .vicHoldoff k (n / 8)) 15 0
    c.updVic k (fun v => { v with
      vector := some (c.pair (rg .vicVbaseLo k) (rg .vicVbaseHi k) + 16 * n)
      pending := v.pending.filter (· != n)
      stack := (c.vicPrio k n, n) :: v.stack
      holdoff := if h = 0 then v.holdoff else Tbl.set (n / 8) (c.timeOn who.die + 64 * h) v.holdoff })

def execVicDeliver (who : Agent) (mie : Bool) (s : State) : Host.Outcome State Fault Refusal := s.onPort (·.vicDeliver who mie)

/-- An EOI write pops the stack. -/
def Chip.vicPop (c : Chip) (k : Nat) : Chip := c.updVic k (fun v => { v with stack := v.stack.drop 1 })

def execVicEoi (who : Agent) (s : State) : Host.Outcome State Fault Refusal := s.onPort (·.vicPop (vicOf who))

/-- A group's hold-off has ended. -/
def Chip.vicHoldoffEnd (c : Chip) (who : Agent) (g : Nat) : Chip :=
  c.updVic (vicOf who) (fun v =>
    if (Tbl.find? g v.holdoff).any (fun t => decide (t ≤ c.timeOn who.die)) then { v with holdoff := Tbl.del g v.holdoff } else v)

def execVicHoldoffExpiry (who : Agent) (group : Nat) (s : State) : Host.Outcome State Fault Refusal :=
  s.onPort (·.vicHoldoffEnd who group)

end Sys2Proof.Machine
end

