-- ==== Sys2Proof/Machine/Registers.lean ====
section
/-! DEFINITION. Register writes and latching reads: where an access lands, who may write, and what each register's write does
(00 R8-R12, 01 R26-R29, 05 R182, 13 R462, 15 R533, and each chapter's register section). -/

namespace Sys2Proof.Machine

/-! Where an access lands -/

/-- What lies at an address: a register, the mailbox window, memory, nothing, or an offset outside the map. -/
inductive Spot where
  | reg (r : Reg)
  | mailbox (off : Nat)
  | memory (addr : Nat)
  | empty
  | unmapped
  deriving DecidableEq, Repr

def spotOf (b : Block) (blk off : Nat) : Spot := ((regAt b blk off).map Spot.reg).getD .empty

/-- A page of BAR0 (13 R460, R462, 16 R551): partition pages are those of the governing blocks. -/
def Chip.bar0 (c : Chip) (fn off : Nat) : Spot :=
  let pg := off / 0x1000
  let o := off % 0x1000
  let sleep := decide (c.power.state = .solstice)
  if !c.hasFunc fn then .empty
  else if pg = 0 then spotOf .hostif fn o
  else if sleep && fn != 0 then .empty
  else if pg = 1 then (if c.inert fn then .empty else spotOf .stat fn o)
  else if pg = 2 then spotOf .ring fn o
  else if fn = 0 then
    if 0x400 ≤ pg ∧ pg < 0x408 then spotOf .therm (pg - 0x400) o
    else if 0x408 ≤ pg ∧ pg < 0x410 then spotOf .telem (pg - 0x408) o
    else if 0x500 ≤ pg ∧ pg < 0x50F then .mailbox (off - 0x500000)
    else if pg = 0x50F then spotOf .mbx 0 (off - 0x500000)
    else .empty
  else
    match (c.partOf fn).bind (fun p => (c.part p).map (fun x => (p, x))) with
    | none => .empty
    | some (p, x) =>
      let core (base : Nat) (b : Block) : Spot := if pg - base < x.coreCount then spotOf b (firstCore p + (pg - base)) o else .empty
      if pg = 0x10 then spotOf .fixP p o
      else if pg = 0x11 then spotOf .kv p o
      else if pg = 0x12 then spotOf .seq p o
      else if pg = 0x13 then spotOf .wgt p o
      else if pg = 0x14 then spotOf .calP p o
      else if pg = 0x15 then spotOf .integ p o
      else if 0x18 ≤ pg ∧ pg < 0x1C then spotOf .scr p (off - 0x18000)
      else if 0x100 ≤ pg ∧ pg < 0x180 then core 0x100 .eng
      else if 0x180 ≤ pg ∧ pg < 0x200 then core 0x180 .acc
      else if 0x200 ≤ pg ∧ pg < 0x280 then core 0x200 .fix
      else if 0x280 ≤ pg ∧ pg < 0x300 then core 0x280 .cal
      else if 0x300 ≤ pg ∧ pg < 0x320 then (if pg - 0x300 < x.clusterCount then spotOf .att (firstCluster p + (pg - 0x300)) o else .empty)
      else .empty

/-- The registers of a die (02 R73, 04 R139, 05 R182, 06 R233, R238, 07 R270, 08 R312, 10 R378, 11 R413, R418, R422, 12 R448, 14 R516, 15 R544). -/
def dieSpot (d o : Nat) : Spot :=
  let hi := o / 0x1000000
  let lo := o % 0x1000000
  let core (b : Block) : Spot := spotOf b (16 * d + lo / 0x100000) (lo % 0x100000)
  let half (b : Block) (size : Nat) : Spot := if lo / size < 2 then spotOf b (2 * d + lo / size) (lo % size) else .empty
  if hi = 4 then core .eng else if hi = 5 then core .acc else if hi = 6 then core .fix else if hi = 0xD then core .cal
  else if hi = 7 then half .fixP 0x1000 else if hi = 9 then half .kv 0x1000 else if hi = 0xA then half .scr 0x10000
  else if hi = 0xB then half .seq 0x1000 else if hi = 0xC then half .wgt 0x1000 else if hi = 0xF then half .calP 0x1000
  else if hi = 0x10 then half .integ 0x1000
  else if hi = 8 then (if lo / 0x100000 < 4 then spotOf .att (4 * d + lo / 0x100000) (lo % 0x100000) else .empty)
  else if hi = 0xE then (if lo < 0x1000 then spotOf .telem d lo else if lo / 0x1000 = 0x10 then spotOf .therm d (lo % 0x1000) else .empty)
  else if hi = 0x11 then (if d < 6 ∧ lo < 0x200 then spotOf .link (2 * d + lo / 0x100) (lo % 0x100) else .empty)
  else if hi = 0x12 then
    let i := lo / 0x1000
    if i < 2 ∨ (i = 2 ∧ (d = 0 ∨ d = 7)) ∨ (i < 5 ∧ d = 0) then spotOf .vic (8 * d + i) (lo % 0x1000) else .empty
  else .empty

/-- A physical offset (01 R26). HOSTIF.CHIP_ID, which the Warden returns over MCTP (00 R2), stands at the first package-level
offset (DESIGN CHOICE, log entry 65). An offset of a register window that holds no register is empty: it reads 0 and discards
writes (DESIGN CHOICE, log entry 70). -/
def physSpot (a : Nat) : Spot :=
  if !mapped a then .unmapped
  else if 0x3F000000000 ≤ a then
    let o := a - 0x3F000000000
    let b := o / 0x10000
    if b = 1 then spotOf .part 0 (o % 0x10000) else if b = 2 then spotOf .safeW 0 (o % 0x10000) else if b = 3 then spotOf .pwr 0 (o % 0x10000)
    else if b = 4 then spotOf .fwu 0 (o % 0x10000) else if b = 5 then spotOf .dbg 0 (o % 0x10000) else .empty
  else if 0x30100000000 ≤ a then
    (if 0x30101000000 ≤ a then spotOf .ilt 0 (a - 0x30101000000)
    else if a = 0x30100000000 then .reg (rg .hostifChipId) else .empty)
  else if 0x30000000000 ≤ a then dieSpot ((a - 0x30000000000) / 0x20000000) (a % 0x20000000)
  else .memory a

def Chip.spot (c : Chip) : Target → Spot
  | .bar0 fn off => c.bar0 fn off
  | .phys _ a => physSpot a

/-- The block is one of a partition unit, which the block of the partition's lowest unit governs (05 R182). -/
def governedBlock : Block → Bool
  | .fixP => true | .kv => true | .scr => true | .seq => true | .wgt => true | .calP => true | .integ => true | _ => false

/-- The register that a read of one returns. -/
def Chip.governs (c : Chip) (r : Reg) : Reg := if governedBlock r.name.info.block then { r with blk := c.governing r.blk } else r

/-! Who may write (11 R418, R422, 15 R533, R544) -/

/-- Registers that only the Warden may write, or, a VIC's, its own processor too. -/
def protectedReg (r : Reg) : Bool :=
  [Block.link, .ilt, .part, .safeW, .pwr, .fwu, .dbg, .vic].contains r.name.info.block || r.name == .thermCfg || r.name == .telemCfg ||
  r.name == .telemSnsCtrl

/-- The agent of an access; the host's is the PCI Express controller of die 6. -/
def agentOf : Target → Agent
  | .bar0 _ _ => ⟨6, 0x30⟩
  | .phys who _ => who

def Chip.mayWrite (c : Chip) (who : Agent) (r : Reg) : Bool :=
  !protectedReg r || decide (who = c.warden) || (r.name.info.block == .vic && vicOf who == r.blk && decide (who.num < 5))

/-- The physical offset of a die's THERM or TELEM register, as a denied write through the PF records it. -/
def pfOffset (off : Nat) : Nat :=
  let pg := off / 0x1000
  let d := pg % 8
  0x30000000000 + d * 0x20000000 + (if pg < 0x408 then 0xE010000 else 0xE000000) + off % 0x1000

def offsetOf : Target → Nat
  | .bar0 _ off => pfOffset off
  | .phys _ a => a

/-- A denied write is counted and recorded (15 R533, R543). -/
def Chip.protWrite (c : Chip) (who : Agent) (a : Nat) : Chip :=
  ((c.count (rg .safeEvtProtWrite)).setPair (rg .safeProtLastLo) (rg .safeProtLastHi) a).setReg (rg .safeProtAgent)
    (packWord [(who.num, 0, 8), (who.die, 8, 3)])

/-! Reads (00 R11) -/

/-- The high half of a pair, by its low half. -/
def pairHigh : RegName → Option RegName
  | .hostifDevtimeLo => some .hostifDevtimeHi | .statPageBaseLo => some .statPageBaseHi | .statSeqLo => some .statSeqHi
  | .ringDbBaseLo => some .ringDbBaseHi | .ringSqBaseLo => some .ringSqBaseHi | .ringCqBaseLo => some .ringCqBaseHi
  | .kvPoolBaseLo => some .kvPoolBaseHi | .kvMetaBaseLo => some .kvMetaBaseHi | .kvSwapBaseLo => some .kvSwapBaseHi
  | .iltPGroupBaseLo => some .iltPGroupBaseHi | .seqTagLo => some .seqTagHi | .seqStepsLo => some .seqStepsHi
  | .wgtImageBaseLo => some .wgtImageBaseHi | .wgtDigestTimeLo => some .wgtDigestTimeHi | .calAccordTimeLo => some .calAccordTimeHi
  | .calPOldestLo => some .calPOldestHi | .safeLateStepLo => some .safeLateStepHi | .safeProtLastLo => some .safeProtLastHi
  | .vicVbaseLo => some .vicVbaseHi | .dbgExpiryLo => some .dbgExpiryHi | _ => none

/-- The low half of a pair, by its high half. -/
def pairLow : RegName → Option RegName
  | .hostifDevtimeHi => some .hostifDevtimeLo | .statPageBaseHi => some .statPageBaseLo | .statSeqHi => some .statSeqLo
  | .ringDbBaseHi => some .ringDbBaseLo | .ringSqBaseHi => some .ringSqBaseLo | .ringCqBaseHi => some .ringCqBaseLo
  | .kvPoolBaseHi => some .kvPoolBaseLo | .kvMetaBaseHi => some .kvMetaBaseLo | .kvSwapBaseHi => some .kvSwapBaseLo
  | .iltPGroupBaseHi => some .iltPGroupBaseLo | .seqTagHi => some .seqTagLo | .seqStepsHi => some .seqStepsLo
  | .wgtImageBaseHi => some .wgtImageBaseLo | .wgtDigestTimeHi => some .wgtDigestTimeLo | .calAccordTimeHi => some .calAccordTimeLo
  | .calPOldestHi => some .calPOldestLo | .safeLateStepHi => some .safeLateStepLo | .safeProtLastHi => some .safeProtLastLo
  | .vicVbaseHi => some .vicVbaseLo | .dbgExpiryHi => some .dbgExpiryLo | _ => none

/-- IDCODE (16 R570): SI_MAJOR of HOSTIF.CHIP_ID, the part, the manufacturer, and 1. -/
def idcode : Nat := (rg .hostifChipId).reset.field 23 20 * 2 ^ 28 + 0x0C86 * 2 ^ 12 + 2 * Config.jedec.toNat + 1

/-! The directory (16 R560) -/

/-- A copy of the directory, as SEQ, ACTIVE, PENDING and TRIES, if its CRC is right. -/
def dirCopy (flash : Memory) (i : Nat) : Option (Nat × Nat × Nat × Nat) :=
  let bs := flash.read (0x1000 * i) 12
  if bytesLe bs 8 4 = crc32c (bs.take 8) then some (bytesLe bs 0 4, bytesLe bs 4 1, bytesLe bs 5 1, bytesLe bs 6 1) else none

/-- The copy in force and its fields: of the valid ones the higher SEQ; with none, slot A and nothing pending. -/
def directory (flash : Memory) : Nat × Nat × Nat × Nat × Nat :=
  match dirCopy flash 0, dirCopy flash 1 with
  | some a, some b => if a.1 < b.1 then (1, b) else (0, a)
  | some a, none => (0, a)
  | none, some b => (1, b)
  | none, none => (1, 0, 0, 0xFF, 0)

/-- PENDING of the directory in force: the slot to try at the next reset. -/
def pendingSlot (flash : Memory) : Option Nat :=
  let d := directory flash
  if d.2.2.2.1 < 2 then some d.2.2.2.1 else none

/-- FWU and DBG registers, which the firmware store and debug hold (16 R573). -/
def State.sysReg (s : State) (r : Reg) : Word :=
  let w := s.sys.fw
  let d := s.sys.dbg
  let kind := s.chip.field (rg .fwuRollbackSel) 2 0
  let img := Tbl.get (0, 0) kind w.images
  match r.name with
  | .fwuStatus =>
    s.chip.reg r ||| packWord [(w.slot, 0, 1), (flag w.trial, 1, 1), (flag (pendingSlot w.flash).isSome, 2, 1), (flag w.update.isSome, 3, 1),
      (flag (w.update.any Update.verified), 4, 1), (flag s.chip.power.recovery, 6, 1)]
  | .fwuRelease => BitVec.ofNat 32 w.release
  | .fwuRollback => packWord [(img.2, 0, 7), (Tbl.get 0 kind w.fuses.rollback, 16, 7)]
  | .fwuSettings => packWord [(w.settingsVersion, 0, 16)]
  | .fwuVersion => BitVec.ofNat 32 img.1
  | .dbgStatus =>
    packWord [(flag d.unlocked, 0, 1), (d.scope, 1, 3), (flag (!d.halted.isEmpty), 4, 1), (flag w.fuses.prod, 5, 1),
      (flag d.challenge.isSome, 6, 1), (flag (decide (8 ≤ d.attempts)), 7, 1)]
  | .dbgIdcode => BitVec.ofNat 32 (idcode)
  | .dbgExpiryLo => BitVec.ofNat 32 d.expiry
  | .dbgExpiryHi => BitVec.ofNat 32 (d.expiry / 2 ^ 32)
  | _ => s.chip.readReg r

/-- A 32-bit read of a register: a low half latches its high half, which the next read of that half returns. -/
def State.regRead (s : State) (r : Reg) : State × Word :=
  let r := s.chip.governs r
  let v := s.sysReg r
  match pairHigh r.name with
  | some h =>
    let hr := { r with name := h }
    ({ s with chip := { s.chip with latch := Tbl.set hr (s.sysReg hr) s.chip.latch } }, v)
  | none => (s, if (pairLow r.name).isSome then (Tbl.find? r s.chip.latch).getD v else v)

/-- A 32-bit read over BAR0 or the internal bus. -/
def State.busRead (s : State) (t : Target) : State × Word :=
  match s.chip.spot t with
  | .reg r => s.regRead r
  | .mailbox off => (s, BitVec.ofNat 32 (s.chip.mbxWindow.le off 4))
  | .memory a => (s, s.chip.word a)
  | _ => (s, 0)

/-- The offset of a target in its map. -/
def offOf : Target → Nat
  | .bar0 _ off => off
  | .phys _ a => a

/-- The target at another offset of its map. -/
def atOff (t : Target) (off : Nat) : Target :=
  match t with
  | .bar0 fn _ => .bar0 fn off
  | .phys who _ => .phys who off

/-- The register that holds a target's byte starts here. -/
def wordOf (t : Target) : Target := atOff t (offOf t / 4 * 4)

/-- The target that lies some bytes further. -/
def plusOf (t : Target) (n : Nat) : Target := atOff t (offOf t + n)

/-- What a target reads at this instant, with no latch taken or given. -/
def State.nowRead (s : State) (t : Target) : Nat :=
  match s.chip.spot t with
  | .reg r => (s.sysReg (s.chip.governs r)).toNat
  | _ => (s.busRead t).2.toNat

/-- A read of 1, 2, 4 or 8 bytes (00 R7, R10-R12): memory and the mailbox window give the bytes from the offset on. A narrow read of a
register gives the addressed bytes and latches nothing; an aligned 64-bit read gives both registers from one instant. A 64-bit read that
is not aligned is two 32-bit reads, the lower first (DESIGN CHOICE, log entry 70). -/
def State.registerRead (s : State) (t : Target) (n : Nat) : State × Nat :=
  match s.chip.spot t with
  | .memory a => (s, s.chip.le a n)
  | .mailbox off => (s, s.chip.mbxWindow.le off n)
  | _ =>
    if n < 4 then (s, (s.busRead (wordOf t)).2.toNat / 2 ^ (8 * (offOf t % 4)) % 2 ^ (8 * n))
    else if n = 8 ∧ offOf t % 8 = 0 then (s, s.nowRead t + 2 ^ 32 * s.nowRead (plusOf t 4))
    else
      let r := s.busRead t
      if n = 8 then
        let h := r.1.busRead (plusOf t 4)
        (h.1, r.2.toNat + 2 ^ 32 * h.2.toNat)
      else (r.1, r.2.toNat)

/-! Writes of single registers -/

/-- A plain write: RW fields take the value, RW1C bits written as 1 clear. -/
def Chip.plainWrite (c : Chip) (r : Reg) (v : Word) : Chip :=
  let i := r.name.info
  let old := c.reg r
  c.setReg r (((old &&& ~~~(BitVec.ofNat 32 i.rw)) ||| (v &&& BitVec.ofNat 32 i.rw)) &&& ~~~(v &&& BitVec.ofNat 32 i.w1c))

/-- A plain write that is discarded unless a rule holds. -/
def Chip.writeIf (c : Chip) (ok : Bool) (r : Reg) (v : Word) : Chip := if ok then c.plainWrite r v else c

/-- A write in which one field keeps its value. -/
def Chip.writeKeep (c : Chip) (keep : Bool) (hi lo : Nat) (r : Reg) (v : Word) : Chip :=
  c.plainWrite r (if keep then putField v hi lo (c.field r hi lo) else v)

/-- The offset of the first counter that an EVT_CLEAR register clears. -/
def evtBase : RegName → Option Nat
  | .engEvtClear => some 0x20 | .accEvtClear => some 0x20 | .fixEvtClear => some 0x20 | .attEvtClear => some 0x20 | .kvEvtClear => some 0x50
  | .almEvtClear => some 0x90 | .scrEvtClear => some 0x20 | .seqEvtClear => some 0x20 | .wgtEvtClear => some 0x40 | .calEvtClear => some 0x20
  | .telemEvtClear => some 0x30 | .thermEvtClear => some 0x20 | .safeEvtClear => some 0x20 | .linkEvtClear => some 0x20
  | .iltEvtClear => some 0x20 | .safeEvtWClear => some 0x20 | .pwrEvtClear => some 0x20 | .fwuEvtClear => some 0x20 | .dbgEvtClear => some 0x20
  | _ => none

/-- Clear the counters that bits of an EVT_CLEAR write select. -/
def Chip.clearCounters (c : Chip) (r : Reg) (v : Word) : Chip :=
  match evtBase r.name with
  | none => c
  | some base =>
    let i := r.name.info
    ((List.range 32).filter (fun b => i.wo.testBit b && v.bit b)).foldl (fun c b =>
      match regAt i.block r.blk (base + 4 * b) with
      | some k => if k.name == r.name then c else c.setReg k 0
      | none => c) c

/-- A region of the partition's view as a handle or window names it: its physical base, if it lies wholly in one region, and scratch
in one core or one cluster (07 R258, R265). -/
def Part.buffer (x : Part) (p base bytes : Nat) : Option (Nat × Nat) :=
  match x.range p base bytes with
  | some (a, 0) => if base % 0x800000 + bytes ≤ 0x800000 then some (a, 0) else none
  | some (a, 1) => if base % 0x4000000 + bytes ≤ 0x4000000 then some (a, 1) else none
  | r => r

/-- Firmware owns the handle, or the window, while the partition serves (09 R320). -/
def Part.ownsHandle (x : Part) (n : Nat) : Bool := x.serving.isSome && decide (240 ≤ n)
def Part.ownsWindow (x : Part) (n : Nat) : Bool := x.serving.isSome && decide (24 ≤ n)

/-- Commit a handle entry whose four words are written (07 R258, R277). -/
def Chip.commitHandle (c : Chip) (p n : Nat) : Chip :=
  match c.part p with
  | none => c
  | some x =>
    let w (k : RegName) : Word := c.reg (rg k p n)
    let base := (w .scrHandleW0).toNat + 2 ^ 32 * (w .scrHandleW1).toNat
    let units := (w .scrHandleW2).field 21 0
    let w3 := w .scrHandleW3
    let region := w3.field 2 1
    let refuse := c.setBits (rg .scrStatus p) 2
    if region = 3 then refuse
    else if !w3.bit 0 then c.setPart p { x with handles := Tbl.del n x.handles }
    else
      match x.buffer p base (64 * units) with
      | some (a, k) =>
        if k ≠ region ∨ units = 0 ∨ 2097152 < units then refuse
        else c.setPart p { x with handles := Tbl.set n { base := a, bytes := 64 * units, region := region, writable := w3.bit 3 } x.handles }
      | none => refuse

def Chip.handleCommit (c : Chip) (p n : Nat) (v : Word) : Chip :=
  if (c.part p).any (fun x => x.ownsHandle n) then c.setBits (rg .scrStatus p) 2
  else (c.plainWrite (rg .scrHandleW3 p n) v).commitHandle p n

def execHandleCommit (p n : Nat) (value : Word) (s : State) : Host.Outcome State Fault Refusal := s.onChip (·.handleCommit p n value)

/-- Commit a window entry whose words are written (07 R265, R268, R278). -/
def Chip.commitWindow (c : Chip) (p n : Nat) : Chip :=
  match c.part p with
  | none => c
  | some x =>
    let ws := windowRegs.map (fun k => c.reg (rg k p n))
    let w (i : Nat) : Word := ws.getD i 0
    let base := (w 0).toNat + 2 ^ 32 * (w 1).toNat
    let units := (w 2).field 25 0
    let key := (w 4).field 15 0
    if !(w 5).bit 0 then c.setWindow p n ws
    else if units = 0 ∨ (x.buffer p base (64 * units)).isNone ∨ !c.keyGranted p key ∨ (w 3).field 31 16 < (w 3).field 15 0 then
      c.setBits (rg .scrStatus p) 4
    else c.setWindow p n ws

def Chip.windowCommit (c : Chip) (p n : Nat) (v : Word) : Chip :=
  if (c.part p).any (fun x => x.ownsWindow n) then c.setBits (rg .scrStatus p) 4
  else (c.plainWrite (rg .scrWindowW5 p n) v).commitWindow p n

def execWindowCommit (p n : Nat) (value : Word) (s : State) : Host.Outcome State Fault Refusal := s.onChip (·.windowCommit p n value)

/-- The KV configuration as the registers stand keeps R194 and R197, and counts no more than 65,536 sequences. -/
def Chip.kvConfigOk (c : Chip) (p : Nat) (x : Part) : Bool :=
  let w := c.reg (rg .kvCfg p)
  let pool := c.pair (rg .kvPoolBaseLo p) (rg .kvPoolBaseHi p)
  let table := c.pair (rg .kvMetaBaseLo p) (rg .kvMetaBaseHi p)
  let poolEnd := pool + c.kvPages p * (c.kvCfg p).pageBytes
  let tableEnd := table + up4k (64 * c.kvSeqs p) + up4k (4 * c.kvPages p) + 4 * c.kvSlots p
  w.field 7 6 != 3 && w.field 5 4 != 3 && w.field 3 2 != 3 && w.field 1 0 != 3 && decide ((c.kvCfg p).pageBytes ≤ 1048576) &&
  decide (poolEnd ≤ x.units * hbmUnit ∧ tableEnd ≤ x.units * hbmUnit) && decide (poolEnd ≤ table ∨ tableEnd ≤ pool ∨ poolEnd = pool ∨ tableEnd = table) &&
  decide (c.kvSeqs p ≤ 65536)

/-- Some sequence of the partition is VALID. -/
def Chip.anyValid (c : Chip) (p : Nat) (x : Part) : Bool := !x.kvInit && (List.range (c.kvSeqs p)).any (c.seqValid p x)

def kvFamily (n : RegName) : Bool :=
  [RegName.kvCfg, .kvPoolBaseLo, .kvPoolBaseHi, .kvPoolPages, .kvMetaBaseLo, .kvMetaBaseHi, .kvSeqCount, .kvSwapBaseLo, .kvSwapBaseHi,
   .kvSwapSlots].contains n

/-- Bring a KV configuration register, or a pair with its staged low half, to a value, or refuse it (06 R238). -/
def Chip.kvWrite (c : Chip) (r : Reg) (v : Word) : Chip :=
  let p := r.blk
  match c.part p with
  | none => c.plainWrite r v
  | some x =>
    let refuse := c.setBits (rg .kvStatus p) 2
    if c.anyValid p x then refuse
    else if (pairHigh r.name).isSome then { c with latch := Tbl.set r v c.latch }
    else
      let c' := match pairLow r.name with
        | some l =>
          let lr := { r with name := l }
          { (c.plainWrite lr ((Tbl.find? lr c.latch).getD (c.reg lr))) with latch := Tbl.del lr c.latch }
        | none => c
      let c' := c'.plainWrite r v
      if c'.kvConfigOk p x then c'.setPart p { x with kvInit := true } else refuse

def execKvCfgWrite (p off : Nat) (value : Word) (s : State) : Host.Outcome State Fault Refusal :=
  s.onChip (fun c =>
    match regAt .kv p off with
    | some r => if kvFamily r.name then c.kvWrite r value else c
    | none => c)

/-- The image region as the registers stand lies in the view, and the package's regions together stay within 40,960 MiB (10 R381). -/
def Chip.imageRegionOk (c : Chip) (p : Nat) (x : Part) : Bool :=
  decide (c.pair (rg .wgtImageBaseLo p) (rg .wgtImageBaseHi p) + c.field (rg .wgtImageSize p) 15 0 * 2 ^ 20 ≤ x.units * hbmUnit) &&
  decide ((c.parts.map (fun e => c.field (rg .wgtImageSize e.1) 15 0)).sum ≤ 40960)

def Chip.imageWrite (c : Chip) (r : Reg) (v : Word) : Chip :=
  let p := r.blk
  match c.part p with
  | none => c.plainWrite r v
  | some x =>
    let refuse := c.setBits (rg .wgtStatus p) 16
    if x.epochs.any Epoch.live then refuse
    else if (pairHigh r.name).isSome then { c with latch := Tbl.set r v c.latch }
    else
      let c' := match pairLow r.name with
        | some l =>
          let lr := { r with name := l }
          { (c.plainWrite lr ((Tbl.find? lr c.latch).getD (c.reg lr))) with latch := Tbl.del lr c.latch }
        | none => c
      let c' := c'.plainWrite r v
      if c'.imageRegionOk p x then { c' with settingsDue := true } else refuse

def execImageRegionWrite (p off : Nat) (value : Word) (s : State) : Host.Outcome State Fault Refusal :=
  s.onChip (fun c =>
    match regAt .wgt p off with
    | some r => if [RegName.wgtImageBaseLo, .wgtImageBaseHi, .wgtImageSize].contains r.name then c.imageWrite r value else c
    | none => c)

/-- FIX.P_CFG.FORCE: DEGRADED at the next commit (05 R180). -/
def Chip.force (c : Chip) (p : Nat) : Chip := c.updPart p (fun x => { x with force := true })

def execDegradedForce (p : Nat) (s : State) : Host.Outcome State Fault Refusal := s.onChip (·.force p)

/-- ILT.P_CTRL.RESET_TAGS: every next tag becomes 0, while a step runs at its boundary (14 R511, R520). -/
def Chip.resetTags (c : Chip) (p : Nat) : Chip :=
  c.updPart p (fun x => if x.run.isSome then { x with resetTags := true } else { x with nextTags := [] })

def execResetTags (p : Nat) (s : State) : Host.Outcome State Fault Refusal := s.onChip (·.resetTags p)

/-- TELEM.SNS_CTRL of die 0: a write may start a capture (11 R404, R420). -/
def Chip.snsCtrl (c : Chip) (v : Word) : Chip :=
  let sel := v.field 17 16
  let full := v.field 15 0
  let cap := v.field 19 18
  let c := c.plainWrite (rg .telemSnsCtrl) v
  if cap = 1 then c.snsZero sel else if cap = 2 then c.snsFull sel full else if cap = 3 then c.snsClear sel else c

/-- The base pair of a ring, or of the status page, may be written while it is off; else the write is refused (13 R483). -/
def Chip.baseLocked (c : Chip) (r : Reg) : Option Chip :=
  match r.name with
  | .statPageBaseLo => if c.statOn r.blk then some (c.setBits (rg .statStatus r.blk) 1) else none
  | .statPageBaseHi => if c.statOn r.blk then some (c.setBits (rg .statStatus r.blk) 1) else none
  | .ringSqBaseLo => if c.sqOn r.blk r.idx then some (c.setBits (rg .ringStatus r.blk) 1) else none
  | .ringSqBaseHi => if c.sqOn r.blk r.idx then some (c.setBits (rg .ringStatus r.blk) 1) else none
  | .ringCqBaseLo => if c.cqOn r.blk r.idx then some (c.setBits (rg .ringStatus r.blk) 1) else none
  | .ringCqBaseHi => if c.cqOn r.blk r.idx then some (c.setBits (rg .ringStatus r.blk) 1) else none
  | _ => none

/-- A half of any other pair: the low half waits, and the value takes effect with the high half (00 R11). -/
def Chip.pairWrite (c : Chip) (r : Reg) (v : Word) : Chip :=
  match c.baseLocked r with
  | some c => c
  | none =>
    match pairLow r.name with
    | some l =>
      let lr := { r with name := l }
      ({ (c.plainWrite lr ((Tbl.find? lr c.latch).getD (c.reg lr))) with latch := Tbl.del lr c.latch }).plainWrite r v
    | none => { c with latch := Tbl.set r v c.latch }

/-- What a 32-bit write of a register does. -/
def Chip.writeReg (c : Chip) (r : Reg) (v : Word) : Chip :=
  let k := r.blk
  if kvFamily r.name then c.kvWrite r v
  else if (evtBase r.name).isSome then c.clearCounters r v
  else
    match r.name with
    | .statCtrl => let c := c.plainWrite r v; if v.bit 1 then c.statWriteNow k else c
    | .statPeriodUs => c.writeIf (decide (100 ≤ v.field 16 0 ∧ v.field 16 0 ≤ 100000)) r v
    | .ringPollNs => c.writeIf (decide (250 ≤ v.field 19 0 ∧ v.field 19 0 ≤ 1000000)) r v
    | .ringSqCfg => c.ringCfgWrite k false r.idx v
    | .ringCqCfg => c.ringCfgWrite k true r.idx v
    | .fixPCfg => let c := c.writeKeep (v.field 23 8 == 0) 23 8 r v; if v.bit 24 then c.force k else c
    | .scrWatchdog => c.writeIf (decide (1 ≤ v.field 19 0 ∧ v.field 19 0 ≤ 1000000)) r v
    | .scrHandleW0 => if (c.part k).any (fun x => x.ownsHandle r.idx) then c.setBits (rg .scrStatus k) 2 else c.plainWrite r v
    | .scrHandleW1 => if (c.part k).any (fun x => x.ownsHandle r.idx) then c.setBits (rg .scrStatus k) 2 else c.plainWrite r v
    | .scrHandleW2 => if (c.part k).any (fun x => x.ownsHandle r.idx) then c.setBits (rg .scrStatus k) 2 else c.plainWrite r v
    | .scrHandleW3 => c.handleCommit k r.idx v
    | .scrWindowW0 => if (c.part k).any (fun x => x.ownsWindow r.idx) then c.setBits (rg .scrStatus k) 4 else c.plainWrite r v
    | .scrWindowW1 => if (c.part k).any (fun x => x.ownsWindow r.idx) then c.setBits (rg .scrStatus k) 4 else c.plainWrite r v
    | .scrWindowW2 => if (c.part k).any (fun x => x.ownsWindow r.idx) then c.setBits (rg .scrStatus k) 4 else c.plainWrite r v
    | .scrWindowW3 => if (c.part k).any (fun x => x.ownsWindow r.idx) then c.setBits (rg .scrStatus k) 4 else c.plainWrite r v
    | .scrWindowW4 => if (c.part k).any (fun x => x.ownsWindow r.idx) then c.setBits (rg .scrStatus k) 4 else c.plainWrite r v
    | .scrWindowW5 => c.windowCommit k r.idx v
    | .safeIntStatus =>
      let c' := c.plainWrite r v
      if (c.reg r).bit 6 && v.bit 6 then c'.pageDue (k + 1) else c'
    | .iltPCtrl => if v.bit 0 then c.resetTags k else c
    | .wgtImageBaseLo => c.imageWrite r v
    | .wgtImageBaseHi => c.imageWrite r v
    | .wgtImageSize => c.imageWrite r v
    | .wgtDigestCfg => c.writeIf (decide (1 ≤ v.field 7 0 ∧ v.field 7 0 ≤ 168)) r v
    | .calCfg =>
      c.writeIf (decide (1 ≤ v.field 8 0 ∧ v.field 8 0 ≤ 500 ∧ 2 ≤ v.field 25 16 ∧ v.field 25 16 ≤ 1000 ∧ 2 * v.field 8 0 ≤ v.field 25 16)) r v
    | .telemCfg => { c.plainWrite r v with settingsDue := true }
    | .telemSnsCtrl => if k = 0 then c.snsCtrl v else c
    | .thermCfg => if k = 0 ∧ 1 ≤ v.field 8 0 ∧ v.field 8 0 ≤ 500 then { c.plainWrite r v with settingsDue := true } else c
    | .safeIntCfg => (c.writeIf (decide (256 ≤ v.field 31 16 ∧ v.field 15 8 ≤ 64)) r v).safeCfgIdle k
    | .linkPortCtrl =>
      let c := c.writeKeep (v.field 4 3 == 3) 4 3 r (if v.field 2 1 = 3 then putField v 2 1 (c.field r 2 1) else v)
      let c := { c with settingsDue := true }
      if v.bit 0 then c else c.portDown k
    | .linkMacsecCtrl => let c := { c.plainWrite r v with settingsDue := true }; if v.bit 3 then c.switchTx k else c
    | .linkMacLo => { c.plainWrite r v with settingsDue := true }
    | .linkMacHi => { c.plainWrite r v with settingsDue := true }
    | .linkIp => { c.plainWrite r v with settingsDue := true }
    | .linkSakData =>
      if r.idx = 7 then c.sakInstall k v
      else let x := c.port k; c.setPort k { x with staging := Tbl.set r.idx v x.staging }
    | .iltEncap => c.writeKeep (v.field 15 14 == 3) 15 14 r v
    | .iltChip => { c.plainWrite r v with settingsDue := true }
    | .iltTorus => { c.plainWrite r v with settingsDue := true }
    | .iltRoute => { c.plainWrite r v with settingsDue := true }
    | .iltNextHop => { c.plainWrite r v with settingsDue := true }
    | .vicEoi => if v.bit 0 then c.vicPop k else c
    | .vicPending => c.updVic k (fun x => { x with pending := x.pending.filter (fun n => !(sourceBits r.idx v).contains n) })
    | .vicPendSet => c.vicPendSet k r.idx v
    | n => if (pairHigh n).isSome ∨ (pairLow n).isSome then c.pairWrite r v else c.plainWrite r v

/-! Writes over the bus -/

/-- A write of a register by an agent: a protected one is denied, one of a block that does not govern is discarded. -/
def Chip.agentWrite (c : Chip) (t : Target) (r : Reg) (v : Word) : Chip :=
  if !c.mayWrite (agentOf t) r then c.protWrite (agentOf t) (offsetOf t)
  else if (governedBlock r.name.info.block && c.governing r.blk != r.blk) then c
  else
    match t with
    | .bar0 0 _ => if r.name.info.block == .therm || r.name.info.block == .telem then c else c.writeReg r v
    | _ => c.writeReg r v

/-- A 32-bit write to wherever a target lies. -/
def Chip.busWrite (c : Chip) (t : Target) (v : Word) : Chip :=
  match c.spot t with
  | .reg r => c.agentWrite t r v
  | .mailbox off => { c with mbxWindow := c.mbxWindow.write off (leBytes 4 v.toNat) }
  | .memory a => c.write a (leBytes 4 v.toNat)
  | _ => c

/-- Only the Warden may write here: a register it protects, or any offset of the Warden range (01 R29, 15 R533). -/
def Chip.denies (c : Chip) (t : Target) : Bool :=
  match c.spot (wordOf t) with
  | .reg r => !c.mayWrite (agentOf t) r
  | .empty =>
    match t with
    | .bar0 _ _ => false
    | .phys who a => decide (0x3F000000000 ≤ a) && decide (who ≠ c.warden)
  | _ => false

/-- A write of 1, 2, 4 or 8 bytes (00 R10, R11, 01 R29). Registers take no narrow write; 8 bytes write the two registers from the offset
on, aligned or not (DESIGN CHOICE, log entry 70). A write of which any register is denied is discarded whole and counted once. The mailbox
window holds bytes and takes narrow writes (DESIGN CHOICE, log entry 70). -/
def Chip.registerWrite (c : Chip) (t : Target) (n : Nat) (v : DWord) : Chip :=
  match c.spot t with
  | .memory a => c.write a (leBytes n v.toNat)
  | .mailbox off => { c with mbxWindow := c.mbxWindow.write off (leBytes n v.toNat) }
  | _ =>
    if c.denies t || (n == 8 && c.denies (plusOf t 4)) then c.protWrite (agentOf t) (offsetOf t)
    else if n < 4 then c
    else
      let c := c.busWrite t (BitVec.ofNat 32 v.toNat)
      if n = 8 then c.busWrite (plusOf t 4) (BitVec.ofNat 32 (v.toNat / 2 ^ 32)) else c

/-- An access to an unmapped offset by a control processor (01 R28); any other agent's reads 0 and discards the write (DESIGN CHOICE,
log entry 71). -/
def busErrorAt : Target → Option Nat
  | .phys who a => if !mapped a && decide (who.num < 5) then some a else none
  | .bar0 _ _ => none

/-- The outcome of an access: none in reset, and a bus error of a control processor at an unmapped offset. -/
def State.onAccess (s : State) (t : Target) (f : State → State) : Host.Outcome State Fault Refusal :=
  if s.chip.power.inReset then .next s
  else
    match busErrorAt t with
    | some a => .fault (.busError a)
    | none => .next (f s)

def execRegisterWrite (t : Target) (bytes : Nat) (value : DWord) (s : State) : Host.Outcome State Fault Refusal :=
  s.onAccess t (fun s => { s with chip := s.chip.registerWrite t bytes value })

/-- A 32-bit write of a register of a kind. -/
def Chip.writeKind (c : Chip) (t : Target) (kind : RegName → Bool) (v : Word) : Chip :=
  match c.spot t with
  | .reg r => if kind r.name then c.agentWrite t r v else c
  | _ => c

def execStatusBitClear (t : Target) (value : Word) (s : State) : Host.Outcome State Fault Refusal :=
  s.onAccess t (fun s => { s with chip := s.chip.writeKind t (fun n => n.info.w1c != 0) value })

def execCounterClear (t : Target) (value : Word) (s : State) : Host.Outcome State Fault Refusal :=
  s.onAccess t (fun s => { s with chip := s.chip.writeKind t (fun n => (evtBase n).isSome) value })

def execPairHighWrite (t : Target) (value : Word) (s : State) : Host.Outcome State Fault Refusal :=
  s.onAccess t (fun s => { s with chip := s.chip.writeKind t (fun n => (pairLow n).isSome) value })

/-- The low half of a pair is read. -/
def State.pairLowRead (s : State) (t : Target) : State :=
  match s.chip.spot t with
  | .reg r =>
    if (pairHigh r.name).isNone then s
    else
      let a := s.busRead t
      { a.1 with chip := { a.1.chip with readData := a.2 } }
  | _ => s

def execPairLowRead (t : Target) (s : State) : Host.Outcome State Fault Refusal := s.onAccess t (·.pairLowRead t)

end Sys2Proof.Machine
end

