-- ==== Sys2Proof/Machine/Warden.lean ====
section
/-! DEFINITION. The Warden's mailbox, partitions and keys, scrubbing, MCTP, takeover and restarts (15 R521-R536). -/

namespace Sys2Proof.Machine

/-! The mailbox (15 R523, R524) -/

/-- A response: SEQ, STATUS, RESULT, and what a command adds, to the window, over SMBus or to the asking processor. -/
def State.answer (s : State) (req : MbxReq) (st : Status) (result : Nat := 0) (more : List Byte := []) : State :=
  let bs := leBytes 4 req.seq.toNat ++ leBytes 1 st.code ++ leBytes 3 0 ++ leBytes 4 result ++ more
  match req.src with
  | .pf => { s with chip := { s.chip with mbxWindow := s.chip.mbxWindow.write 0x1000 bs } }
  | .mctp =>
    let m := leBytes 1 0x7E ++ beBytes 2 Config.vendorId.toNat ++ bs
    { s with sys := { s.sys with warden := { s.sys.warden with mctp := s.sys.warden.mctp ++ [m] } } }
  | .proc who => { s with sys := { s.sys with warden := { s.sys.warden with internal := s.sys.warden.internal ++ [(who, bs)] } } }

/-- The Warden serves one request at a time, and none while it is in reset, halted or without a healthy pair or a clock. -/
def State.wardenServes (s : State) : Bool :=
  !s.chip.power.inReset && s.chip.scrub.isNone && !s.chip.power.noWarden && !s.chip.power.clockLost && !s.wardenHalted

/-- A request of another control processor. -/
def fromProcessor (req : MbxReq) : Bool :=
  match req.src with
  | .proc _ => true
  | _ => false

/-- A command is logged for the standby pair. -/
def State.logCommand (s : State) (code : Nat) (req : MbxReq) : State :=
  { s with sys := { s.sys with warden := { s.sys.warden with log := s.sys.warden.log ++ [(code, req.seq.toNat)] } } }

/-- A command other than REG_READ: it wakes the package; other processors may not give it, nor, except some, may anyone in recovery
(15 R524, 16 R548, R563). -/
def State.mailbox (s : State) (req : MbxReq) (code : Nat) (inRecovery : Bool) (f : State → State) : Host.Outcome State Fault Refusal :=
  .next (
    if !s.wardenServes then s
    else
      let s := s.logCommand code req
      let s := { s with chip := s.chip.wake 2 }
      if fromProcessor req || (s.chip.power.recovery && !inRecovery) then s.answer req .denied else f s)

/-! Partitions (15 R521, R522, R524) -/

/-- The lowest unit of a mask and how many it holds, if they are consecutive. -/
def maskUnits (m : Nat) : Option (Nat × Nat) :=
  let us := (List.range 16).filter (fun u => m.testBit u)
  match us with
  | [] => none
  | u :: _ => if m = (2 ^ us.length - 1) * 2 ^ u then some (u, us.length) else none

def Chip.setUnits (c : Chip) (us : List Nat) (st : UnitState) (lowest : Nat) : Chip :=
  { c with units := us.foldl (fun t u => Tbl.set u (st, lowest) t) c.units, settingsDue := true }

/-- PART_CREATE: what it answers, and the chip after it. -/
def Chip.partCreate (c : Chip) (unlocked : Bool) (mask : Nat) (strict : Bool) : Chip × Status × Nat :=
  match maskUnits mask with
  | none => (c, .malformed, 0)
  | some (u, n) =>
    let us := (List.range n).map (u + ·)
    if unlocked || !us.all (fun v => (c.unit v).1 == .free) then (c, .state, 0)
    else (((c.setUnits us .active u).setPart u { units := n, strict := strict, strictNext := strict }).takeSafeCfg u, .ok, u)

def execPartCreate (req : MbxReq) (units : Nat) (strict : Bool) (s : State) : Host.Outcome State Fault Refusal :=
  s.mailbox req 0x0001 false (fun s =>
    let r := s.chip.partCreate s.sys.dbg.unlocked units strict
    ({ s with chip := r.1 }).answer req r.2.1 r.2.2)

/-! Keys (14 R518, 15 R524) -/

def Chip.setKeyByte (c : Chip) (k v : Nat) : Chip :=
  let r := rg .iltKeys 0 (k / 4)
  { c.setField r (8 * (k % 4) + 7) (8 * (k % 4)) v with settingsDue := true }

def Chip.keyValid (c : Chip) (k : Nat) : Bool := (c.keyByte k).testBit 7

/-- Every window that carries the key closes: its words keep what they hold, but VALID (07 R268). -/
def Chip.closeKeyWindows (c : Chip) (key : Nat) : Chip :=
  c.parts.foldl (fun c e =>
    (e.2.windows.filter (fun w => (w.2.getD 4 0).field 15 0 == key)).foldl (fun c w =>
      c.putWindow e.1 w.1 (w.2.set 5 (w.2.getD 5 0 &&& ~~~(1 : Word)))) c) c

def Chip.revokeKey (c : Chip) (key : Nat) : Chip := (c.setKeyByte key 0).closeKeyWindows key

def Chip.keyGrant (c : Chip) (key lowest : Nat) : Chip × Status :=
  if key = 0 then (c, .malformed)
  else if c.keyValid key ∨ (c.part lowest).isNone then (c, .state)
  else if 16 ≤ (c.keysOf lowest).length then (c, .noResource)
  else (c.setKeyByte key (128 + lowest), .ok)

def execKeyGrant (req : MbxReq) (key lowest : Nat) (s : State) : Host.Outcome State Fault Refusal :=
  s.mailbox req 0x0010 false (fun s =>
    let r := s.chip.keyGrant key lowest
    ({ s with chip := r.1 }).answer req r.2)

def Chip.keyRevoke (c : Chip) (key : Nat) : Chip × Status := if c.keyValid key then (c.revokeKey key, .ok) else (c, .state)

def execKeyRevoke (req : MbxReq) (key : Nat) (s : State) : Host.Outcome State Fault Refusal :=
  s.mailbox req 0x0011 false (fun s =>
    let r := s.chip.keyRevoke key
    ({ s with chip := r.1 }).answer req r.2)

/-- PART_STRICT takes effect at the next boundary. -/
def Chip.partStrict (c : Chip) (p : Nat) (strict : Bool) : Chip × Status :=
  match c.part p with
  | none => (c, .state)
  | some x => ({ c.setPart p { x with strictNext := strict } with settingsDue := true }, .ok)

def execPartStrict (req : MbxReq) (lowest : Nat) (strict : Bool) (s : State) : Host.Outcome State Fault Refusal :=
  s.mailbox req 0x0003 false (fun s =>
    let r := s.chip.partStrict lowest strict
    ({ s with chip := r.1 }).answer req r.2)

/-! Release and scrubbing (15 R526-R528) -/

/-- Actions 1 and 2 of a release; the units are SCRUBBING until PART_SCRUB_DONE. -/
def Chip.beginRelease (c : Chip) (req : MbxReq) (p : Nat) (x : Part) : Chip :=
  let c := ((c.endWork p .cancelled).flushCompletions (p + 1)).keepWaiting (p + 1) (·.disableFunc (p + 1))
  let keys := c.keysOf p
  let c := keys.foldl Chip.revokeKey c
  let mine (f : Nat × Flow) : Bool := if f.1 < 4096 then f.2.owner == p else keys.contains f.2.key
  let c := { c with fab := { c.fab with flows := c.fab.flows.filter (fun f => !mine f) } }
  let c := c.setUnits ((List.range x.units).map (p + ·)) .scrubbing p
  { c with parts := Tbl.del p c.parts, scrub := some (req, p, false) }

def execPartRelease (req : MbxReq) (lowest : Nat) (s : State) : Host.Outcome State Fault Refusal :=
  s.mailbox req 0x0002 false (fun s =>
    match s.chip.part lowest with
    | none => s.answer req .state
    | some x => { s with chip := s.chip.beginRelease req lowest x })

def execUnitScrub (req : MbxReq) (unit : Nat) (s : State) : Host.Outcome State Fault Refusal :=
  s.mailbox req 0x0004 false (fun s =>
    if (s.chip.unit unit).1 = .failed then { s with chip := { s.chip with scrub := some (req, unit, true) } } else s.answer req .state)

/-- A register lies in a block that a unit governs, or in a block of one of its cores or clusters. -/
def inUnit (u : Nat) (r : Reg) : Bool :=
  let b := r.name.info.block
  (governedBlock b && r.blk == u) || ([Block.eng, .acc, .fix, .cal].contains b && r.blk / 8 == u) || (b == .att && r.blk / 2 == u)

/-- Zero a range, and the errors marked in it. -/
def Chip.scrubRange (c : Chip) (a n : Nat) : Chip :=
  let out (w : Nat) : Bool := !decide (a ≤ w ∧ w < a + n)
  { c.zero a n with
    ce := c.ce.filter out, ue := c.ue.filter out, damaged := c.damaged.filter out
    blockBad := c.blockBad.filter (fun e => out (4096 * e.1)) }

/-- Actions 3 and 4 on a unit: banks erased, memory zeroed, tables cleared, register blocks at their reset values. -/
def Chip.scrubUnit (c : Chip) (u : Nat) : Chip :=
  let c := { c with
    banks := c.banks.map (fun b : (Nat × Nat) × Bank =>
      (b.1, if b.1.1 / 2048 = u ∧ (!b.2.cells.isEmpty ∨ b.2.layer.isSome) then b.2.erased else b.2))
    cores := c.cores.map (fun e : Nat × Core => (e.1, if e.1 / 8 = u then { e.2 with balance := 128, fixq := [] } else e.2))
    groups := c.groups.filter (fun e => e.1.1 / 512 != u)
    regs := c.regs.filter (fun e => !inUnit u e.1)
    latch := c.latch.filter (fun e => !inUnit u e.1) }
  ((c.scrubRange (u * hbmUnit) hbmUnit).scrubRange (coreScratch + 8 * u * 0x800000) (8 * 0x800000)).scrubRange
    (clusterScratch + 2 * u * 0x4000000) (2 * 0x4000000)

/-- The units that a scrub named by a lowest unit works on. -/
def Chip.scrubUnits (c : Chip) (p : Nat) : List Nat :=
  match c.scrub with
  | some (_, u, true) => if u = p then [p] else []
  | _ => (List.range 16).filter (fun u => decide (c.unit u = (.scrubbing, p)))

/-- A scrub ends: its units are FREE, or FAILED where erasure or zeroing failed. -/
def Chip.scrubDone (c : Chip) (us failed : List Nat) : Chip :=
  let c := us.foldl Chip.scrubUnit c
  let bad := us.filter failed.contains
  let c := (c.setUnits (us.filter (fun u => !failed.contains u)) .free 0).setUnits bad .failed 0
  if bad.isEmpty then c else c.count (rg .partEvtScrubFail)

def execPartScrubDone (p : Nat) (failed : List Nat) (s : State) : Host.Outcome State Fault Refusal :=
  .next (
    let us := s.chip.scrubUnits p
    if !s.chip.powered || us.isEmpty then s
    else
      let st : Status := if (us.filter failed.contains).isEmpty then .ok else .integrityFail
      let s' := { s with chip := s.chip.scrubDone us failed }
      match s.chip.scrub with
      | some (req, u, _) => if u = p then ({ s' with chip := { s'.chip with scrub := none } }).answer req st else s'
      | none => s')

/-! REG_READ and REG_WRITE (15 R524) -/

/-- The offset lies in the die registers, the package-level blocks or the Warden range. -/
def registerRange (a : Nat) : Bool :=
  decide (0x30000000000 ≤ a ∧ a < 0x30110000000) || decide (0x3F000000000 ≤ a ∧ a < 0x3F001000000)

/-- REG_READ, which every sender may give and which wakes nothing. -/
def execRegRead (req : MbxReq) (addr : Nat) (s : State) : Host.Outcome State Fault Refusal :=
  .next (
    if !s.wardenServes then s
    else
      let s := s.logCommand 0x0020 req
      if !registerRange addr then s.answer req .denied
      else
        let r := s.busRead (.phys s.chip.warden addr)
        r.1.answer req .ok r.2.toNat)

/-- The registers that REG_WRITE may write; the key table is KEY_GRANT's. -/
def mayRegWrite (r : Reg) : Bool :=
  r.name.info.block == .link || (r.name.info.block == .ilt && r.name != .iltKeys) || r.name == .thermCfg || r.name == .telemCfg ||
  r == rg .telemSnsCtrl

def execRegWrite (req : MbxReq) (addr : Nat) (value : Word) (s : State) : Host.Outcome State Fault Refusal :=
  s.mailbox req 0x0021 false (fun s =>
    match physSpot addr with
    | .reg r =>
      if mayRegWrite r then ({ s with chip := s.chip.agentWrite (.phys s.chip.warden addr) r value }).answer req .ok
      else s.answer req .denied
    | _ => s.answer req .denied)

/-! MCTP control messages (15 R525; their bodies: log entry 47) -/

/-- A control response: the command, its completion code and its data. -/
def State.control (s : State) (cmd : Nat) (data : List Nat) : State :=
  { s with sys := { s.sys with warden := { s.sys.warden with mctp := s.sys.warden.mctp ++ [(0 :: cmd :: data).flatMap (leBytes 1)] } } }

/-- The outcome of a control message: none while the Warden does not run. -/
def State.onBus (s : State) (f : State → State) : Host.Outcome State Fault Refusal :=
  .next (if s.chip.power.inReset || s.chip.power.noWarden || s.chip.power.clockLost || s.wardenHalted then s else f s)

/-- Set Endpoint ID: operations 0 and 1 assign one of 8 to 254; 2 and 3 are refused, since no static identity is held. -/
def execMctpSetEndpointId (op eid : Nat) (s : State) : Host.Outcome State Fault Refusal :=
  s.onBus (fun s =>
    if 1 < op ∨ eid < 8 ∨ 255 ≤ eid then s.control 1 [2]
    else ({ s with sys := { s.sys with warden := { s.sys.warden with eid := eid } } }).control 1 [0, 0, eid, 0])

def execMctpGetEndpointId (s : State) : Host.Outcome State Fault Refusal := s.onBus (fun s => s.control 2 [0, s.sys.warden.eid, 0, 0])

/-- Version 1.3 for the base specification, control messages and the vendor type; any other type is unsupported. -/
def execMctpGetVersionSupport (msgType : Nat) (s : State) : Host.Outcome State Fault Refusal :=
  s.onBus (fun s => if msgType = 0xFF ∨ msgType = 0 ∨ msgType = 0x7E then s.control 4 [0, 1, 0xF1, 0xF3, 0xFF, 0] else s.control 4 [0x80])

def execMctpGetMessageType (s : State) : Host.Outcome State Fault Refusal := s.onBus (fun s => s.control 5 [0, 1, 0x7E])

/-! Settings, checkpoints, takeover (15 R534, 16 R568) -/

/-- The Warden writes changed settings, in bytes whose layout is its own. -/
def execSettingsWrite (bytes : List Byte) (s : State) : Host.Outcome State Fault Refusal :=
  .next (if s.chip.power.inReset || s.chip.power.recovery || s.chip.power.noWarden || s.chip.power.clockLost || s.wardenHalted then s
    else s.flushSettings bytes)

/-- The standby pair runs beside the one in control: outside Solstice, while it is healthy and has not taken over. -/
def Chip.standby (c : Chip) : Bool :=
  !c.power.inReset && decide (c.power.state ≠ .solstice) && !c.power.noWarden && !c.power.clockLost && !c.power.recovery &&
  (c.reg (rg .safeWStatus)).bit 1 && !(c.reg (rg .safeWStatus)).bit 0

/-- A checkpoint, 1 ms after the last: what was logged since is in it. -/
def execWardenCheckpoint (s : State) : Host.Outcome State Fault Refusal :=
  .next (if s.chip.standby && !s.wardenHalted && decide (s.sys.warden.lastCheckpoint + 1000000 ≤ s.chip.now) then
      { s with sys := { s.sys with warden := { s.sys.warden with log := [], lastCheckpoint := s.chip.now } } }
    else s)

/-- The standby pair takes over. -/
def Chip.takeover (c : Chip) : Chip := (c.setBits (rg .safeWStatus) 1).count (rg .safeEvtTakeover)

/-- No pair is healthy: every step ends with INTERNAL, and the compute islands stay in reset. -/
def Chip.noPair (c : Chip) : Chip :=
  let c := c.parts.foldl (fun c e => c.endSteps e.1 .internal) c
  let c := if (c.reg (rg .safeWStatus)).bit 0 then c.clearBits (rg .safeWStatus) 2 else c
  { c with power := { c.power with noWarden := true, ready := false } }

/-- The pair in control fails: the standby pair takes over, if it is healthy. In Solstice none does; nor does one for a halted Warden. -/
def execWardenTakeover (_cause : Nat) (s : State) : Host.Outcome State Fault Refusal :=
  .next (
    if !s.chip.powered || s.wardenHalted then s
    else if s.chip.standby then { s with chip := s.chip.takeover, sys := { s.sys with warden := { s.sys.warden with log := [] } } }
    else { s with chip := s.chip.noPair })

/-! Restarts of the other processors (09 R319, 15 R536) -/

/-- A SHARD_COMMIT that programs or verifies a bank of a die fails. -/
def Chip.failBuild (c : Chip) (p die : Nat) : Chip :=
  match c.part p with
  | none => c
  | some x =>
    match x.build with
    | none => c
    | some b =>
      match x.epochNo b.epoch with
      | none => c
      | some e =>
        match b.todo.find? (fun t => t.array / 4096 == die) with
        | none => c
        | some t =>
          let n := tileWord ((e.tiles.filter (fun u => u.run == e.num)).takeWhile (· != t)).length
          if e.repair then
            (c.setPart p { x.setEpoch { e with repair := false, committed := false, invalid := true } with build := none }).complete b.ticket .internal n
          else (c.discardEpoch p e.num).complete b.ticket .internal n

/-- Die control 0 restarts: READY Accords of the die are discarded. -/
def Chip.restartControl (c : Chip) (die : Nat) : Chip :=
  let c := c.parts.foldl (fun c e => c.failBuild e.1 die) c
  { c with engines := c.engines.map (fun e => (e.1, if e.1 / 1024 = die then { e.2 with ready := none } else e.2)) }

/-- A request processor restarts: its step in flight ends without commit, and one that has not begun is taken back; firmware builds them
anew. One that has committed is followed up as ever (09 R319). -/
def Chip.restartServing (c : Chip) (p : Nat) : Chip :=
  match c.srv p with
  | none => c
  | some (x, _) =>
    match x.run.filter StepCtx.serving with
    | some st =>
      ((c.endStep p .internal st.lowestOpen).updPart p (fun x => { x with fwResult := none })).updSrv p (fun v =>
        { v with cur := none, failedOnce := none })
    | none => c.updPart p Part.unbuild

def Chip.restart (c : Chip) (who : Agent) : Chip :=
  let c := c.count (rg .safeEvtCpRestart)
  if who.num = 0 then c.restartControl who.die
  else if who.num = 3 then (c.parts.filter (fun e => decide (e.1 < 8))).foldl (fun c e => c.restartServing e.1) c
  else if who.num = 4 then (c.parts.filter (fun e => decide (8 ≤ e.1))).foldl (fun c e => c.restartServing e.1) c
  else c

/-- The Warden restarts a processor whose watchdog stalls; a halted one is exempt, and the Warden's own pairs are not restarted. -/
def execCpWatchdogRestart (who : Agent) (s : State) : Host.Outcome State Fault Refusal :=
  .next (if !s.chip.powered || who.num == 2 || s.sys.dbg.halted.contains who || s.wardenHalted then s
    else { s with chip := s.chip.restart who })

end Sys2Proof.Machine
end

