-- ==== Sys2Proof/Machine/Update.lean ====
section
/-! DEFINITION. Flash, the manifest, firmware update, the boot and the settings that it loads (16 R553-R569). -/

namespace Sys2Proof.Machine

/-! The directory (16 R560) -/

/-- The Warden writes the copy that is not in force, with SEQ + 1. -/
def putDirectory (flash : Memory) (active pending tries : Nat) : Memory :=
  let d := directory flash
  let bs := leBytes 4 (d.2.1 + 1) ++ leBytes 1 active ++ leBytes 1 pending ++ leBytes 1 tries ++ leBytes 1 0
  flash.write (0x1000 * (1 - d.1)) (bs ++ leBytes 4 (crc32c bs))

def activeSlot (flash : Memory) : Nat := (directory flash).2.2.1
def bootTries (flash : Memory) : Nat := (directory flash).2.2.2.2

/-! The manifest (16 R561, R562) -/

def slotBase (slot : Nat) : Nat := if slot = 0 then 0x1000000 else 0x2000000
def slotSize : Nat := 0x1000000

def manifest (flash : Memory) (slot : Nat) : List Byte := flash.read (slotBase slot) 992

/-- Entry i of a manifest. -/
def entryOf (m : List Byte) (i : Nat) : List Byte := (m.drop (512 + 64 * i)).take 64

def entryKind (e : List Byte) : Nat := bytesLe e 0 1
def entryRollback (e : List Byte) : Nat := bytesLe e 1 1
def entryVersion (e : List Byte) : Nat := bytesLe e 4 4
def entryOffset (e : List Byte) : Nat := bytesLe e 8 4
def entryBytes (e : List Byte) : Nat := bytesLe e 12 4

def entries (m : List Byte) : List (List Byte) := (List.range 6).map (entryOf m)

def entryOk (e : List Byte) : Bool :=
  decide (entryRollback e ≤ 64) && bytesZero e 2 3 && decide (entryOffset e % 0x1000 = 0) && decide (0x1000 ≤ entryOffset e) &&
  decide (1 ≤ entryBytes e ∧ entryBytes e ≤ 458752) && decide (entryOffset e + entryBytes e ≤ slotSize)

def layoutOk (m : List Byte) : Bool :=
  decide (bytesLe m 0 4 = 0x4E414D5A) && decide (bytesLe m 4 2 = 1) && decide (bytesLe m 6 2 = 6) && decide (bytesLe m 12 1 ≤ 2) &&
  bytesZero m 13 15 && bytesZero m 18 255 && bytesZero m 352 511 && (entries m).all entryOk &&
  (List.range 6).all (fun k => (entries m).any (fun e => entryKind e == k + 1))

/-! The checks of a slot (16 R563) -/

/-- The key slot holds the digest of a public key and is not revoked. -/
def keyOk (keys : Tbl Nat (List Byte)) (revoked : List Nat) (slot : Nat) (pub : List Byte) : Bool :=
  (Tbl.find? slot keys).any (fun k => k == sha384Of pub) && !revoked.contains slot

/-- An ECDSA P-384 signature r then s by a key x then y over the SHA-384 of a message; each number little-endian (00 R7). -/
def signed (pub sig msg : List Byte) : Bool :=
  ecdsaVerify (bytesLe pub 0 48) (bytesLe pub 48 48) (bytesLe sig 0 48) (bytesLe sig 48 48) (sha384Of msg)

/-- The first check that a slot fails: MALFORMED for its layout, DENIED for its key or a ROLLBACK, INTEGRITY_FAIL for its signature or a
digest (16 R563, R565). -/
def slotFault (flash : Memory) (fuses : Fuses) (slot : Nat) : Option Status :=
  let m := manifest flash slot
  let pub := (m.drop 256).take 96
  if !layoutOk m then some .malformed
  else if !keyOk fuses.fwKeys fuses.fwRevoked (bytesLe m 12 1) pub then some .denied
  else if !signed pub ((m.drop 896).take 96) (m.take 896) then some .integrityFail
  else if !(entries m).all (fun e => sha384Of (flash.read (slotBase slot + entryOffset e) (entryBytes e)) == e.drop 16) then some .integrityFail
  else if !(entries m).all (fun e => decide (Tbl.get 0 (entryKind e) fuses.rollback ≤ entryRollback e)) then some .denied
  else none

/-- VERSION and ROLLBACK of a slot's images by kind. -/
def slotImages (flash : Memory) (slot : Nat) : Tbl Nat (Nat × Nat) :=
  (entries (manifest flash slot)).map (fun e => (entryKind e, entryVersion e, entryRollback e))

/-! Update commands (16 R564, R565) -/

def State.updFw (s : State) (f : Firmware → Firmware) : State := { s with sys := { s.sys with fw := f s.sys.fw } }

/-- FWU_BEGIN opens an update of the slot that is not ACTIVE and erases its manifest. -/
def execFwuBegin (req : MbxReq) (s : State) : Host.Outcome State Fault Refusal :=
  s.mailbox req 0x0030 true (fun s =>
    let w := s.sys.fw
    if w.update.isSome ∨ (pendingSlot w.flash).isSome then s.answer req .state
    else
      let slot := 1 - activeSlot w.flash
      (s.updFw (fun w => { w with
        update := some { slot := slot }, flash := w.flash.zero (slotBase slot) (slotBase slot + 0x1000) })).answer req .ok)

/-- The range of an FWU_WRITE keeps the rules of its arguments and stays in the slot. -/
def fwuRangeOk (off bytes host : Nat) : Bool :=
  decide (host % 0x1000 = 0 ∧ off % 0x1000 = 0 ∧ bytes % 0x1000 = 0 ∧ bytes ≤ 0x100000 ∧ off + bytes ≤ slotSize)

/-- FWU_WRITE programs a range of the slot from host memory, read by the PF. -/
def execFwuWrite (req : MbxReq) (off bytes host : Nat) (s : State) : Host.Outcome State Fault Refusal :=
  s.mailbox req 0x0031 true (fun s =>
    if !fwuRangeOk off bytes host then s.answer req .malformed
    else
      match s.sys.fw.update with
      | none => s.answer req .state
      | some u =>
        let s := s.updFw (fun w => { w with update := some { u with verified := false } })
        if !s.chip.busMaster 0 then s.answer req .denied
        else
          match s.chip.hostRead host bytes with
          | .error _ => s.answer req .denied
          | .ok bs => (s.updFw (fun w => { w with flash := w.flash.write (slotBase u.slot + off) bs })).answer req .ok)

/-- Some image of the slot is older than the running image of its kind. -/
def olderImage (w : Firmware) (slot : Nat) : Bool :=
  (slotImages w.flash slot).any (fun e => decide (e.2.1 < (Tbl.get (0, 0) e.1 w.images).1))

def execFwuVerify (req : MbxReq) (s : State) : Host.Outcome State Fault Refusal :=
  s.mailbox req 0x0032 true (fun s =>
    match s.sys.fw.update with
    | none => s.answer req .state
    | some u =>
      match slotFault s.sys.fw.flash s.sys.fw.fuses u.slot with
      | some st => s.answer req st
      | none =>
        if olderImage s.sys.fw u.slot then s.answer req .denied
        else (s.updFw (fun w => { w with update := some { u with verified := true } })).answer req .ok)

def execFwuActivate (req : MbxReq) (s : State) : Host.Outcome State Fault Refusal :=
  s.mailbox req 0x0033 true (fun s =>
    match s.sys.fw.update with
    | none => s.answer req .state
    | some u =>
      if u.verified then (s.updFw (fun w => { w with flash := putDirectory w.flash (activeSlot w.flash) u.slot 0 })).answer req .ok
      else s.answer req .state)

/-- The directory with nothing pending. -/
def clearPending (flash : Memory) : Memory :=
  if (pendingSlot flash).isSome then putDirectory flash (activeSlot flash) 0xFF (bootTries flash) else flash

def execFwuAbort (req : MbxReq) (s : State) : Host.Outcome State Fault Refusal :=
  s.mailbox req 0x0034 true (fun s =>
    if s.sys.fw.trial then s.answer req .state
    else (s.updFw (fun w => { w with update := none, flash := clearPending w.flash })).answer req .ok)

/-! Settings at a start (16 R554, R569) -/

/-- The copy in force for firmware of a version, written anew at that version if it is older; none where none qualifies. -/
def Firmware.loadSettings (w : Firmware) : Firmware × Option Settings :=
  match loadCopy w.copies w.settingsVersion with
  | none => (w, none)
  | some (k, t) =>
    if t.version < w.settingsVersion then
      let at_ := 0x100000 * (k + 1)
      (w.saveSettings t.body (w.flash.read (at_ + 16) (w.flash.le (at_ + 8) 4)), some t.body)
    else (w, some t.body)

/-- The settings, or their defaults, come into force on the data path. -/
def Chip.settle (c : Chip) (o : Option Settings) : Chip :=
  match o with
  | some t => c.applySettings t
  | none => c.noSettings.setBits (rg .fwuStatus) 0x80

/-! The boot (16 R553, R557, R563, R566, R567) -/

/-- A slot's images run: its release, its images and its settings version. -/
def Firmware.run (w : Firmware) (slot : Nat) (trial : Bool) : Firmware :=
  let m := manifest w.flash slot
  { w with slot := slot, trial := trial, update := none, release := bytesLe m 8 4, images := slotImages w.flash slot,
           settingsVersion := bytesLe m 16 2 }

/-- Each kind's fuses are blown up to the ROLLBACK of the running image, if it is of the ACTIVE slot. -/
def Firmware.blow (w : Firmware) : Firmware :=
  if w.slot ≠ activeSlot w.flash then w
  else { w with fuses := { w.fuses with rollback := w.images.foldl (fun t e => Tbl.set e.1 (max (Tbl.get 0 e.1 t) e.2.2) t) w.fuses.rollback } }

/-- A trial of the pending slot: TRIES counts it first. The firmware after it, and whether it succeeds; settings that a failed trial
had migrated stay written (16 R569). -/
def Firmware.tryBoot (w : Firmware) (b : Start) (slot : Nat) : Firmware × Bool :=
  let tries := bootTries w.flash + 1
  let w := { w with flash := putDirectory w.flash (activeSlot w.flash) slot tries }
  let starts := decide (tries ≤ 2 ∧ (slotFault w.flash w.fuses slot).isNone) && b.activeOk && b.standbyOk
  if starts && b.trialOk then (({ w with flash := putDirectory w.flash slot 0xFF tries }).run slot true, true)
  else
    let m := if starts && b.trialMigrated then (w.run slot true).loadSettings.1 else w
    ({ w with copies := m.copies, flash := clearPending m.flash }, false)

/-- The boot of the ACTIVE slot, else of the other; none is recovery. -/
def Firmware.plainBoot (w : Firmware) : Option Firmware :=
  let a := activeSlot w.flash
  if (slotFault w.flash w.fuses a).isNone then some (w.run a false)
  else if (slotFault w.flash w.fuses (1 - a)).isNone then some (w.run (1 - a) false)
  else none

/-- The firmware after a boot's choice of a slot, if one boots, and whether a trial failed. -/
def Firmware.boot (w : Firmware) (b : Start) : Firmware × Bool × Bool :=
  match pendingSlot w.flash with
  | some slot =>
    let r := w.tryBoot b slot
    if r.2 then (r.1, true, false)
    else match r.1.plainBoot with
      | some w => (w, true, true)
      | none => ({ r.1 with update := none, images := [], release := 0, trial := false }, false, true)
  | none =>
    match w.plainBoot with
    | some w => (w, true, false)
    | none => ({ w with update := none, images := [], release := 0, trial := false }, false, false)

/-- SAFE.W_STATUS after the self-tests: the pair of die 7 is in control where that of die 0 failed. -/
def Chip.pairs (c : Chip) (b : Start) : Chip :=
  let c := if b.standbyOk then c else c.clearBits (rg .safeWStatus) 2
  if b.activeOk then c
  else if b.standbyOk then c.setBits (rg .safeWStatus) 1
  else { c with power := { c.power with noWarden := true, ready := false } }

/-- A trial failed. -/
def Chip.reverted (c : Chip) (yes : Bool) : Chip := if yes then (c.setBits (rg .fwuStatus) 0x20).count (rg .fwuEvtRevert) else c

/-- The Warden and debug begin anew. -/
def State.freshSystem (s : State) : State :=
  { s with sys := { s.sys with
      warden := { lastCheckpoint := s.chip.now }
      dbg := { s.sys.dbg.lock with challenge := none, attempts := 0, steps := [] } } }

/-- READY: from now on the test port drives no pin. -/
def State.readyNow (s : State) : State :=
  if s.chip.power.ready then
    { s with sys := { s.sys with dbg := { s.sys.dbg with readySeen := true }, pins := { s.sys.pins with drive := 0 } } }
  else s

/-- The boot sequence over what the islands kept. -/
def State.boot (s : State) (b : Start) (cold : Bool) : State :=
  let s := s.freshSystem
  let r := s.sys.fw.boot b
  if !r.2.1 then
    let c := (s.chip.retained cold).reverted r.2.2
    { s with
      chip := { c with power := { inReset := false, recovery := true, idleSince := c.now } }
      sys := { s.sys with fw := r.1 } }
  else
    let ws := r.1.blow.loadSettings
    let c := (s.chip.retained cold).settle ws.2
    let c := (((c.comeUp b .live 0).reverted r.2.2).pairs b)
    ({ s with chip := c, sys := { s.sys with fw := ws.1 } }).readyNow

/-- The exit from Solstice: what settings were pending are written, and those in force are restored (16 R552, R554, R558). -/
def State.exitSolstice (s : State) (b : Start) : State :=
  let s := s.flushSettings []
  let ws := ({ s.sys.fw with update := none, trial := false }).loadSettings
  let c := ((s.chip.retained false).settle ws.2).comeUp b .solstice 2
  let c := if b.standbyOk then c else c.clearBits (rg .safeWStatus) 2
  ({ s with chip := c, sys := { s.sys with fw := ws.1 } }).readyNow

end Sys2Proof.Machine
end

