-- ==== Sys2Proof/Machine/Power.lean ====
section
/-! DEFINITION. The power ladder, the power limit and the package reset (01 R35, 16 R545-R553, R564). -/

namespace Sys2Proof.Machine

/-! Entering Eve and Vigil (16 R545-R549) -/

def Chip.enterEve (c : Chip) : Chip :=
  ({ c with power := { c.power with state := .eve, awayFrom := c.now } }).count (rg .pwrEvtEve)

/-- Vigil, from Live or from Eve, which already counts as time outside Live. -/
def Chip.enterVigil (c : Chip) : Chip :=
  ({ c with power := { c.power with state := .vigil, awayFrom := if c.power.state = PowerState.eve then c.power.awayFrom else c.now } }).count (rg .pwrEvtVigil)

/-- PWR_SET with a target below Live: it enters where the package, which the command has woken, is Live and idle. -/
def State.pwrSet (s : State) (req : MbxReq) (f : Chip → Chip) : State :=
  if s.chip.power.state = .live ∧ s.chip.idle then ({ s with chip := f s.chip }).answer req .ok else s.answer req .state

def execPwrSetEve (req : MbxReq) (s : State) : Host.Outcome State Fault Refusal :=
  s.mailbox req 0x0040 false (fun s => s.pwrSet req Chip.enterEve)

def execPwrSetVigil (req : MbxReq) (s : State) : Host.Outcome State Fault Refusal :=
  s.mailbox req 0x0040 false (fun s => s.pwrSet req Chip.enterVigil)

/-- PWR_SET to Live: the command has woken the package from Eve or Vigil; from Solstice it comes up, unless THERMTRIP_N is low. -/
def execPwrSetLive (req : MbxReq) (b : Start) (s : State) : Host.Outcome State Fault Refusal :=
  s.mailbox req 0x0040 false (fun s =>
    if s.chip.power.state ≠ .solstice then s.answer req .ok
    else if !s.sys.pins.thermtripN then s.answer req .state
    else (s.exitSolstice b).answer req .ok)

def execPwrSetSolstice (req : MbxReq) (s : State) : Host.Outcome State Fault Refusal :=
  s.mailbox req 0x0040 false (fun s => (s.toSolstice .cancelled).answer req .ok)

/-- PKG_RESET: answered, then the entry to Solstice, then the boot. -/
def execPkgReset (req : MbxReq) (b : Start) (s : State) : Host.Outcome State Fault Refusal :=
  s.mailbox req 0x0043 true (fun s => ((s.answer req .ok).toSolstice .cancelled).boot b false)

/-! PWR_CFG and PWR_LIMIT -/

def Chip.pwrCfg (c : Chip) (v : Word) : Chip × Status :=
  if v.field 27 16 = 0 ∨ v.field 15 0 = 0 then (c, .malformed)
  else ({ c.plainWrite (rg .pwrCfg) v with settingsDue := true }, .ok)

def execPwrCfg (req : MbxReq) (value : Word) (s : State) : Host.Outcome State Fault Refusal :=
  s.mailbox req 0x0041 false (fun s =>
    let r := s.chip.pwrCfg value
    ({ s with chip := r.1 }).answer req r.2)

def Chip.pwrLimit (c : Chip) (w : Nat) : Chip × Status :=
  if 300 ≤ w ∧ w ≤ 1500 then ({ c.setReg (rg .pwrLimit) (BitVec.ofNat 32 w) with settingsDue := true }, .ok) else (c, .malformed)

def execPwrLimit (req : MbxReq) (watts : Nat) (s : State) : Host.Outcome State Fault Refusal :=
  s.mailbox req 0x0042 false (fun s =>
    let r := s.chip.pwrLimit watts
    ({ s with chip := r.1 }).answer req r.2)

/-! The power limit (01 R35) -/

/-- Steps of both levers: seven of the stream-unit clock, then six of the HBM rate. -/
def leverFloor : Nat := 13

/-- One millisecond's average: above the limit one step more, at least 5 % below it for 1 ms one step less. -/
def Power.limit (p : Power) (now limit watts : Nat) : Power :=
  let p := { p with watts := watts, lastTick := now }
  if limit < watts then
    { p with lever := min leverFloor (p.lever + 1), unmet := decide (p.lever = leverFloor), belowSince := none }
  else if 100 * watts ≤ 95 * limit then
    match p.belowSince with
    | none => { p with unmet := false, belowSince := some now }
    | some t => if t + 1000000 ≤ now then { p with unmet := false, lever := p.lever - 1, belowSince := some now } else { p with unmet := false }
  else { p with unmet := false, belowSince := none }

def Chip.powerTick (c : Chip) (watts : Nat) : Chip :=
  if c.now < c.power.lastTick + 1000000 then c
  else { c with power := c.power.limit c.now (c.field (rg .pwrLimit) 10 0) (min watts 2047) }

def execPowerLimitTick (watts : Nat) (s : State) : Host.Outcome State Fault Refusal := s.onChip (·.powerTick watts)

/-! Automatic entry (16 R547) -/

def Chip.auto (c : Chip) : Bool := (c.reg (rg .pwrCfg)).bit 31

def Chip.eveIdle (c : Chip) : Chip :=
  if c.auto && decide (c.power.state = .live) && c.idle && decide (c.power.idleSince + 1000 * c.field (rg .pwrCfg) 15 0 ≤ c.now) then c.enterEve
  else c

def execEveIdleExpiry (s : State) : Host.Outcome State Fault Refusal := s.onChip (·.eveIdle)

def Chip.vigilIdle (c : Chip) : Chip :=
  if c.auto && decide (c.power.state = .eve) && decide (c.power.awayFrom + 1000000 * c.field (rg .pwrCfg) 27 16 ≤ c.now) then c.enterVigil else c

def execVigilIdleExpiry (s : State) : Host.Outcome State Fault Refusal := s.onChip (·.vigilIdle)

end Sys2Proof.Machine
end

