-- ==== Sys2Proof/Machine/Debug.lean ====
section
/-! DEFINITION. Debug: the challenge and the unlock, the test port and the debug instructions (16 R570, R571, 01 R28). -/

namespace Sys2Proof.Machine

def State.updDbg (s : State) (f : Debug → Debug) : State := { s with sys := { s.sys with dbg := f s.sys.dbg } }

/-- Debug locks; a pin that the test port drives only while unlocked returns to its own function. -/
def State.lockDebug (s : State) : State :=
  let s := s.updDbg Debug.lock
  if s.sys.dbg.readySeen then { s with sys := { s.sys with pins := { s.sys.pins with drive := 0 } } } else s

/-! The unlock -/

/-- A fresh nonce: 32 bytes that nothing constrains. -/
def nonce (n : Nat) : List Byte := (List.range 32).map (Config.nonceByte n)

def execDbgChallenge (req : MbxReq) (s : State) : Host.Outcome State Fault Refusal :=
  s.mailbox req 0x0050 false (fun s =>
    if 8 ≤ s.sys.dbg.attempts then s.answer req .denied
    else
      let n := nonce s.chip.free
      let s := { s with chip := { s.chip with free := s.chip.free + 1 } }
      (s.updDbg (fun d => { d with challenge := some (n, s.chip.now) })).answer req .ok 0 (s.sys.fw.fuses.uid ++ n))

/-- The token of an unlock is right: its key, its signature over UID and bytes 8 to 55, its NONCE, and its EXPIRY lies ahead. -/
def tokenOk (f : Fuses) (n token : List Byte) (now : Nat) : Bool :=
  let pub := (token.drop 144).take 96
  keyOk f.dbgKeys f.dbgRevoked (bytesLe token 1 1) pub && decide (bytesLe token 1 1 < 2) &&
  signed pub ((token.drop 48).take 96) (f.uid ++ token.take 48) && (token.drop 16).take 32 == n && decide (now < bytesLe token 8 8)

/-- DBG_UNLOCK: the token is the request's bytes from 8. A challenge allows one attempt. -/
def execDbgUnlock (req : MbxReq) (token : List Byte) (s : State) : Host.Outcome State Fault Refusal :=
  s.mailbox req 0x0051 false (fun s =>
    let refuse (s : State) (st : Status) : State := ({ s with chip := s.chip.count (rg .dbgEvtFail) }).answer req st
    match s.sys.dbg.challenge with
    | none => refuse s .state
    | some (n, _) =>
      let s := s.updDbg (fun d => { d with challenge := none })
      if s.chip.units.any (fun u => u.2.1 == .active) then refuse s .state
      else if tokenOk s.sys.fw.fuses n token s.chip.now then
        let s := s.updDbg (fun d => { d with unlocked := true, scope := bytesLe token 0 1 % 8, expiry := bytesLe token 8 8 })
        ({ s with chip := s.chip.count (rg .dbgEvtUnlock) }).answer req .ok
      else refuse (s.updDbg (fun d => { d with attempts := d.attempts + 1 })) .denied)

def execDbgLock (req : MbxReq) (s : State) : Host.Outcome State Fault Refusal :=
  s.mailbox req 0x0052 false (fun s => s.lockDebug.answer req .ok)

/-- An open challenge lapses after 60 s. -/
def execDbgChallengeLapse (s : State) : Host.Outcome State Fault Refusal :=
  .next (if s.sys.dbg.challenge.any (fun e => decide (e.2 + 60000000000 ≤ s.chip.now)) then
      s.updDbg (fun d => { d with challenge := none })
    else s)

/-- DEVTIME reaches EXPIRY. -/
def execDbgExpiry (s : State) : Host.Outcome State Fault Refusal :=
  .next (if s.sys.dbg.unlocked && decide (s.sys.dbg.expiry ≤ s.chip.now) then s.lockDebug else s)

/-! The test port: while PORST_N is low TDO is high impedance (17 R576) -/

/-- An instruction is taken: what it shifts out, what drives the pins, and the boundary cells. -/
def State.tap (s : State) (instr : Nat) (out : List Bool) (drive : Nat) : State :=
  let s := s.updDbg (fun d => { d with instr := instr, tdo := if s.sys.pins.porstN then out else [] })
  { s with sys := { s.sys with pins := { s.sys.pins with drive := drive } } }

/-- BYPASS: one cell, which starts at 0, between TDI and TDO. -/
def State.bypass (s : State) (tdi : List Bool) : State := s.tap 0 (((false :: tdi).take tdi.length)) 0

def execJtagBypass (tdi : List Bool) (s : State) : Host.Outcome State Fault Refusal := .next (s.bypass tdi)

def execJtagIdcode (s : State) : Host.Outcome State Fault Refusal :=
  .next (s.tap 1 ((List.range 32).map (fun b => idcode.testBit b)) 0)

/-- The pins as SAMPLE takes them: PORST_N, PWRGD, PERST_N, THERMTRIP_N (log entry 48). -/
def Pins.sample (p : Pins) : List Bool := [p.porstN, p.pwrgd, p.perstN, p.thermtripN]

def execJtagSamplePreload (bits : List Bool) (s : State) : Host.Outcome State Fault Refusal :=
  .next ((s.tap 2 s.sys.pins.sample 0).updDbg (fun d => { d with boundary := bits }))

/-- The pin-driving instructions act before READY has been 1, or while debug is unlocked; else they act as BYPASS. -/
def State.pinDriving (s : State) (instr : Nat) (out : List Bool) : State :=
  if !s.sys.dbg.readySeen ∨ s.sys.dbg.unlocked then s.tap instr out instr else s.bypass []

def execJtagExtest (s : State) : Host.Outcome State Fault Refusal := .next (s.pinDriving 3 s.sys.pins.sample)
def execJtagClamp (s : State) : Host.Outcome State Fault Refusal := .next (s.pinDriving 4 [])
def execJtagHighz (s : State) : Host.Outcome State Fault Refusal := .next (s.pinDriving 5 [])

/-! Debug instructions -/

/-- The bit of SCOPE that covers a processor. -/
def scopeBit (who : Agent) : Nat := if who.num = 2 then 2 else if who.num < 5 then 0 else 1

/-- A debug instruction reaches a processor; else it acts as BYPASS. -/
def State.reaches (s : State) (who : Agent) : Bool := s.sys.dbg.unlocked && s.sys.dbg.scope.testBit (scopeBit who)

def State.debugging (s : State) (who : Agent) (f : Debug → Debug) : State := if s.reaches who then s.updDbg f else s.bypass []

def execDbgHalt (who : Agent) (s : State) : Host.Outcome State Fault Refusal :=
  .next (s.debugging who (fun d => { d with halted := if d.halted.contains who then d.halted else d.halted ++ [who] }))

/-- A halted processor executes one instruction of its own (log entry 49). -/
def execDbgSingleStep (who : Agent) (s : State) : Host.Outcome State Fault Refusal :=
  .next (s.debugging who (fun d => if d.halted.contains who then { d with steps := Tbl.upd 0 (who.die, who.num) (· + 1) d.steps } else d))

/-- Breakpoint 0 to 3 or watchpoint 0 or 1 of a processor. -/
def execDbgBreakpoint (who : Agent) (n : Nat) (watch : Bool) (addr : Nat) (s : State) : Host.Outcome State Fault Refusal :=
  .next (s.debugging who (fun d =>
    if n < (if watch then 2 else 4) then
      { d with breaks := d.breaks.filter (fun b => !(b.1 == who && b.2.1 == n && b.2.2.1 == watch)) ++ [(who, n, watch, addr)] }
    else d))

/-- The unit whose memory a physical offset lies in (01 R17, R26). -/
def unitAt (a : Nat) : Nat :=
  if a < coreScratch then a / hbmUnit else if a < clusterScratch then (a - coreScratch) / 0x4000000 else (a - clusterScratch) / 0x8000000

/-- Memory that a processor reads is checked as an op's is: a poisoned word, or a parity mismatch, is a bus error of that
processor, counts in the partition of the unit, and delivers nothing (12 R425, R426, R428; log entry 66). -/
def Chip.processorRead (c : Chip) (a n : Nat) : Chip × Bool :=
  let p := c.governing (unitAt a)
  c.readCheck p (((c.part p).map (fun x => x.parityNow)).getD true) [(a / 8 * 8, a + n)]

/-- A control processor takes a bus error (12 R426, R428). -/
def State.busFault (s : State) (who : Agent) (a : Nat) : State :=
  if who.num < 5 then { s with sys := { s.sys with busErrors := s.sys.busErrors ++ [(who, a)] } } else s

/-- A read of memory or registers through a processor's map. -/
def State.debugRead (s : State) (who : Agent) (addr n : Nat) : State :=
  match physSpot addr with
  | .memory a =>
    let r := s.chip.processorRead a n
    let s := { s with chip := r.1 }
    if r.2 then s.updDbg (fun d => { d with lastRead := s.chip.le a n }) else s.busFault who a
  | _ =>
    let r := s.registerRead (.phys who addr) n
    r.1.updDbg (fun d => { d with lastRead := r.2 })

/-- A memory access through a processor's map. -/
def execDbgMemoryAccess (who : Agent) (write : Bool) (addr bytes : Nat) (value : DWord) (s : State) : Host.Outcome State Fault Refusal :=
  if s.chip.power.inReset || !s.reaches who then .next (s.bypass [])
  else
    match busErrorAt (.phys who addr) with
    | some a => .fault (.busError a)
    | none => .next (if write then { s with chip := s.chip.registerWrite (.phys who addr) bytes value } else s.debugRead who addr bytes)

end Sys2Proof.Machine
end

