-- ==== Sys2Proof/Machine/Pins.lean ====
section
/-! DEFINITION. DEVTIME alignment, resets by pins, supplies and reference clocks (01 R22-R25, 16 R553, 17 R576-R584). -/

namespace Sys2Proof.Machine

/-! DEVTIME (01 R23, R24) -/

def Chip.setClock (c : Chip) (d : Nat) (k : Clock) : Chip := { c with clocks := c.clocks.set d k }

/-- A die is found out of alignment. -/
def Chip.clockFault (c : Chip) (d : Nat) : Chip := c.count (rg .telemEvtFault d)

/-- A pulse of die 0 finds a die's copy: more than 4 ns out is a fault; any difference is slewed away. -/
def Chip.pulse (c : Chip) (d : Nat) : Chip :=
  let k := c.clock d
  let ref := c.now
  let far := decide (ref + 4 < k.now ∨ k.now + 4 < ref)
  let slew := if k.now < ref then 1 else if ref < k.now then 2 else 0
  let c := c.setClock d { k with lastPulse := k.now, missed := false, unreliable := far, slew := slew, phase := if slew = k.slew then k.phase else 0 }
  if far then c.clockFault d else c

/-- Only die 0 counts in Solstice, and it receives no pulse. -/
def State.onSlave (s : State) (d : Nat) (f : Chip → Chip) : Host.Outcome State Fault Refusal := s.onChip (fun c => if d = 0 then c else f c)

def execDevtimeAlignPulse (die : Nat) (s : State) : Host.Outcome State Fault Refusal := s.onSlave die (·.pulse die)

/-- More than 10 µs have passed without a pulse. -/
def Chip.pulseMiss (c : Chip) (d : Nat) : Chip :=
  let k := c.clock d
  if k.missed ∨ k.now ≤ k.lastPulse + 10000 then c
  else (c.setClock d { k with missed := true, unreliable := true }).clockFault d

def execDevtimePulseMiss (die : Nat) (s : State) : Host.Outcome State Fault Refusal := s.onSlave die (·.pulseMiss die)

/-! PORST_N and PWRGD (16 R553, R557, 17 R576, R579, R580) -/

def State.updPins (s : State) (f : Pins → Pins) : State := { s with sys := { s.sys with pins := f s.sys.pins } }

/-- The part is held in reset: what survives is in its non-volatile cells, fuses and flash. -/
def State.enterReset (s : State) : State :=
  if s.chip.power.inReset then s
  else
    let c := s.chip.retained true
    let s := s.freshSystem
    { s with
      chip := { c with power := {}, hostUp := false }
      sys := { s.sys with
        warden := {}, dbg := { s.sys.dbg with readySeen := false, tdo := [] }, pins := { s.sys.pins with drive := 0 }
        fw := { s.sys.fw with update := none, trial := false } } }

def execPorstNAssert (s : State) : Host.Outcome State Fault Refusal := .next ((s.updPins (fun p => { p with porstN := false })).enterReset)

def execPwrgdFall (s : State) : Host.Outcome State Fault Refusal := .next ((s.updPins (fun p => { p with pwrgd := false })).enterReset)

/-- What the board and the fuses hold when the part is first powered. -/
def State.made (s : State) (b : Board) : State :=
  if s.sys.fw.made then s
  else
    let fuses : Fuses :=
      { uid := b.uid, prod := b.prod, fwKeys := b.fwKeys, fwRevoked := b.fwRevoked, dbgKeys := b.dbgKeys, dbgRevoked := b.dbgRevoked,
        rollback := b.rollback }
    { s with
      chip := { s.chip with vbgh := b.vbgh, dividers := b.dividers }
      sys := { s.sys with pins := { s.sys.pins with smbAddr := b.smbAddr }, fw := { s.sys.fw with made := true, fuses := fuses, flash := b.flash.foldl (fun m e => m.write e.1 e.2) [] } } }

/-- PWRGD rises: every rail is in range and both references run. -/
def execPwrgdRise (board : Board) (s : State) : Host.Outcome State Fault Refusal :=
  .next ((s.updPins (fun p => { p with pwrgd := true, refclkSd := true, refclkPcie := true })).made board)

/-- The PCI Express link is up where PORST_N, PWRGD and PERST_N are high and its reference runs; what waited for it is written. -/
def State.trainHost (s : State) : State :=
  let p := s.sys.pins
  if p.porstN && p.pwrgd && p.perstN && p.refclkPcie && !s.chip.power.inReset then
    { s with chip := foldN 17 Chip.flushWrites { s.chip with hostUp := true } }
  else s

/-- PORST_N is released: the SMB_ADDR straps are sampled; with PWRGD high the cold boot runs, with DEVTIME at 0 and THERMTRIP_N released. -/
def execPorstNRelease (b : Start) (s : State) : Host.Outcome State Fault Refusal :=
  .next (
    if s.sys.pins.porstN then s
    else
      let s := s.updPins (fun p => { p with porstN := true, smbus := some (0x60 + p.smbAddr) })
      if !s.sys.pins.pwrgd then s
      else
        let s := s.updPins (fun p => { p with thermtripN := true, refclkSd := true })
        let c := { s.chip with clocks := List.replicate 8 {}, power := { s.chip.power with inReset := false } }
        (({ s with chip := c }).boot b true).trainHost)

/-! PERST_N (16 R551, R553, 17 R584) -/

/-- PERST_N falls: every function is reset and the link is down until it retrains. While PORST_N is low nothing follows. -/
def execPerstNAssert (s : State) : Host.Outcome State Fault Refusal :=
  .next (
    let s := s.updPins (fun p => { p with perstN := false })
    if s.chip.power.inReset then s else { s with chip := foldN 17 Chip.flr { s.chip with hostUp := false } })

def execPerstNRelease (s : State) : Host.Outcome State Fault Refusal := .next ((s.updPins (fun p => { p with perstN := true })).trainHost)

/-! Reference clocks (17 R577, R584) -/

/-- Every loop but the PCI Express port's stops: running steps end, and the device waits for PORST_N. -/
def Chip.sdLoss (c : Chip) : Chip :=
  let c := c.parts.foldl (fun c e => match c.running e.1 with
    | some (_, st) => c.endStep e.1 .internal st.lowestOpen
    | none => c) c
  { c with power := { c.power with clockLost := true, ready := false } }

def execRefclkSdLoss (s : State) : Host.Outcome State Fault Refusal :=
  .next (
    let s := s.updPins (fun p => { p with refclkSd := false })
    if s.chip.power.inReset || s.chip.power.clockLost then s else { s with chip := s.chip.sdLoss })

def execRefclkPcieLoss (s : State) : Host.Outcome State Fault Refusal :=
  .next (
    let s := s.updPins (fun p => { p with refclkPcie := false })
    { s with chip := { s.chip with hostUp := false } })

def execRefclkPcieReturn (s : State) : Host.Outcome State Fault Refusal := .next ((s.updPins (fun p => { p with refclkPcie := true })).trainHost)

end Sys2Proof.Machine
end

