-- ==== Sys2Proof/Machine/Stream.lean ====
section
/-! DEFINITION. Stream-unit ops: NORM, ROTATE, ELEM, REDUCE, ROUTE, SAMPLE (08 R293-R299, 04 R134-R137). -/

namespace Sys2Proof.Machine

/-- A stream op issues and does its work. -/
def Chip.streamOp (c : Chip) (p su opcode : Nat) (run : Chip → StepCtx → Op → Chip) : Chip :=
  c.issue p (streamQueue p su) opcode (fun c _ st o => run c st o)

/-- Write the output of a stream op; its narrowings count on its unit. -/
def Chip.streamOut (c : Chip) (st : StepCtx) (su fmt : Nat) (out : List Word) (dst side olist : Nat) : Chip :=
  let w := c.writeOut fmt out dst side ((streamList c st su olist).getD [])
  w.1.attNarrow su w.2

/-! NORM (08 R293) -/


def normRow (layer : Bool) (eps : Word) (gamma beta xs : List Word) : List Word :=
  let n := natF32 xs.length
  let d := if layer then (let mu := fdiv (sumF xs) n; xs.map (fun x => fsub x mu)) else xs
  let q := d.foldl (fun s v => fadd s (fmul v v)) 0
  let r := fsqrt (fadd (fdiv q n) eps)
  d.zipIdx.map (fun e =>
    let y := fmul (fdiv e.1 r) (gamma.getD e.2 0)
    if layer then fadd y (beta.getD e.2 0) else y)

def Chip.norm (c : Chip) (p su : Nat) : Chip :=
  c.streamOp p su 0x18 (fun c st o =>
    let n := o.get 32 2
    let bf := o.get 35 1 == 1
    let layer := o.get 34 1 == 1
    let gamma := c.readVals (o.at st 16) n false
    let beta := if layer then c.readVals (o.at st 20) n false else []
    let out := (List.range (o.get 28 4)).flatMap (fun r =>
      normRow layer (BitVec.ofNat 32 (o.get 24 4)) gamma beta (c.readVals (o.at st 8 + r * n * elemBytes bf) n bf))
    c.streamOut st su (o.get 36 1) out (o.at st 12) (o.at st 44) (o.get 40 2))

def execNorm (p su : Nat) (s : State) : Host.Outcome State Fault Refusal := s.onChip (·.norm p su)

/-! ROTATE (08 R294) -/

/-- A head of a row, rotated: half tells the pairing (i, i + D / 2). -/
def rotateHead (half : Bool) (rot : Nat) (freq : List Word) (pos : Nat) (v : List Word) : List Word :=
  let dim := v.length
  let pair (i : Nat) : Nat × Nat := if half then (i, i + dim / 2) else (2 * i, 2 * i + 1)
  (List.range (rot / 2)).foldl (fun out i =>
    let ang := fmul (natF32 pos) (freq.getD i 0)
    let cs := fcos ang
    let sn := fsin ang
    let u := v.getD (pair i).1 0
    let w := v.getD (pair i).2 0
    (out.set (pair i).1 (fsub (fmul u cs) (fmul w sn))).set (pair i).2 (fadd (fmul u sn) (fmul w cs))) v

def Chip.rotate (c : Chip) (p su : Nat) : Chip :=
  c.streamOp p su 0x19 (fun c st o =>
    let es := c.almEntries (o.at st 8)
    let heads := o.get 24 1
    let dim := 64 * 2 ^ (o.get 25 1)
    let rot := o.get 26 2
    let fl := o.get 28 1
    let bf := fl.testBit 1
    let freq := c.readVals (o.at st 20) (rot / 2) false
    let out := es.flatMap (fun e => (List.range e.new).flatMap (fun j => (List.range heads).flatMap (fun h =>
      rotateHead (fl.testBit 0) rot freq (e.start + j)
        (c.readVals (o.at st 12 + ((e.qoff + j) * heads + h) * dim * elemBytes bf) dim bf))))
    (c.writeOut (if fl.testBit 2 then 3 else 4) out (o.at st 16) 0 []).1)

def execRotate (p su : Nat) (s : State) : Host.Outcome State Fault Refusal := s.onChip (·.rotate p su)

/-! ELEM (08 R295) -/

def elemFn (fn : Nat) (k a b : Word) : Word :=
  if fn = 0 then fadd a b
  else if fn = 1 then fmul a b
  else if fn = 2 then fmul a k
  else if fn = 3 then fmul a (fsigmoid a)
  else if fn = 4 then fmul (fmul a (fsigmoid a)) b
  else canon a

def Chip.elem (c : Chip) (p su : Nat) : Chip :=
  c.streamOp p su 0x1A (fun c st o =>
    let n := o.get 20 4
    let fn := o.get 24 1
    let fm := o.get 25 1
    let two := fn == 0 || fn == 1 || fn == 4
    let a := c.readVals (o.at st 8) n (fm.testBit 0)
    let b := if two then c.readVals (o.at st 12) n (fm.testBit 1) else List.replicate n 0
    let out := (a.zip b).map (fun e => elemFn fn (BitVec.ofNat 32 (o.get 28 4)) e.1 e.2)
    c.streamOut st su (o.get 26 1) out (o.at st 16) (o.at st 36) (o.get 32 2))

def execElem (p su : Nat) (s : State) : Host.Outcome State Fault Refusal := s.onChip (·.elem p su)

/-! REDUCE (08 R296, 04 R134-R137) -/

/-- The record of a row for the ranked kinds, and whether the row held only NaNs (KIND 1 and 2). -/
def Chip.reduceRow (c : Chip) (o : Op) (a n : Nat) : List Byte × Bool :=
  let kind := o.get 24 1
  if kind = 0 then (leBytes 4 (sumF (c.readVals a n (o.get 25 1 == 1))).toNat, false)
  else
    let xs := if 3 ≤ kind then (List.range n).map (fun i => (c.word (a + 8 * i), c.le (a + 8 * i + 4) 4))
      else (c.readVals a n (o.get 25 1 == 1)).zipIdx
    match rankFirst (kind % 2 == 1) xs with
    | none => ([], false)
    | some w =>
      if 3 ≤ kind then (redRecord w.1 w.2, false)
      else (redRecord w.1 (o.get 28 4 + w.2), fIsNan w.1)

def Chip.reduce (c : Chip) (p su : Nat) : Chip :=
  c.streamOp p su 0x1B (fun c st o =>
    let n := o.get 20 4
    let rs := (List.range (o.get 16 4)).map (fun r => c.reduceRow o (o.at st 8 + r * n * reduceIn o) n)
    let nan := (rs.filter Prod.snd).length
    let c := c.write (o.at st 12) (rs.flatMap Prod.fst)
    if nan = 0 then c else (c.setBits (rg .attStatus su) 4).count (rg .attEvtNanRed su) nan)

def execReduce (p su : Nat) (s : State) : Host.Outcome State Fault Refusal := s.onChip (·.reduce p su)

/-! ROUTE (08 R297) -/

/-- exp of a difference; with a NaN difference the arithmetic of R212 and R87 applies. -/
def expDiff (a m : Word) : Word := fexp (fsub a m)

/-- The chosen experts of a row in rank order, with their weights. -/
def routeRow (k wmode : Nat) (xs : List Word) : List (Word × Nat) :=
  let top := (rankSort xs.zipIdx).take k
  let m := (top.head?.map Prod.fst).getD 0
  let sum := if wmode = 1 then sumF (top.map (fun e => expDiff e.1 m)) else sumF (xs.map (fun v => expDiff v m))
  top.map (fun e => (if wmode = 0 then canon e.1 else fdiv (expDiff e.1 m) sum, e.2))

def Chip.routeOp (c : Chip) (p su : Nat) : Chip :=
  c.streamOp p su 0x1C (fun c st o =>
    let e := o.get 24 2
    let picks := (List.range (o.get 32 4)).flatMap (fun r =>
      routeRow (o.get 26 1) (o.get 27 1) (c.readVals (o.at st 8 + 4 * e * r) e false))
    let slots := picks.zipIdx.map (fun y => ((picks.take y.2).filter (fun q => q.2 == y.1.2)).length)
    let c := c.write (o.at st 12) (picks.flatMap (fun y => leBytes 4 y.1.toNat ++ leBytes 4 y.2))
    let c := c.write (o.at st 16) (slots.flatMap (leBytes 4))
    if (o.get 28 1).testBit 0 then
      c.write (o.at st 20) ((List.range e).flatMap (fun i => leBytes 4 (picks.filter (fun q => q.2 == i)).length))
    else c)

def execRoute (p su : Nat) (s : State) : Host.Outcome State Fault Refusal := s.onChip (·.routeOp p su)

/-! SAMPLE (08 R298, R299) -/

def mix64 (v : Nat) : Nat :=
  let v := (v ^^^ (v >>> 30)) * 0xBF58476D1CE4E5B9 % 2 ^ 64
  let v := (v ^^^ (v >>> 27)) * 0x94D049BB133111EB % 2 ^ 64
  v ^^^ (v >>> 31)

/-- The running sums of exp over the candidates; a NaN difference adds +0.0. -/
def cumExp (z0 : Word) : List Word → Word → List Word
  | [], _ => []
  | z :: zs, s =>
    let d := fsub z z0
    let t := fadd s (if fIsNan d then 0 else fexp d)
    t :: cumExp z0 zs t

/-- The least index whose element passes a test, else a given one. -/
def leastIdx (f : Word → Bool) (d : Nat) (xs : List Word) : Nat := ((xs.zipIdx.find? (fun e => f e.1)).map Prod.snd).getD d

/-- sample_row. -/
def sampleRow (greedy : Bool) (topK : Nat) (temp topP : Word) (xs : List Word) (pos seed : Nat) : Nat :=
  if greedy then ((rankFirst true xs.zipIdx).map Prod.snd).getD 0
  else
    let cand := (rankSort ((xs.map (fun x => fdiv x temp)).zipIdx)).take topK
    let pick (i : Nat) : Nat := ((cand[i]?).map Prod.snd).getD 0
    let ps := cumExp ((cand.head?.map Prod.fst).getD 0) (cand.map Prod.fst) 0
    let total := ps.getD (topK - 1) 0
    if fKey total = 0 ∧ fIsNan total = false then pick 0
    else
      let lim := fmul topP total
      let n := leastIdx (fun v => !flt v lim && !fIsNan v && !fIsNan lim) (topK - 1) ps
      let u := mix64 ((seed + (pos + 1) * 0x9E3779B97F4A7C15) % 2 ^ 64)
      let thr := rnd32 (Val.mul (.fin false (u >>> 40) 1 (-24)) (f32 (ps.getD n 0)))
      pick (leastIdx (fun v => flt thr v) n (ps.take (n + 1)))

/-- The tokens of an entry's rows. -/
def Chip.sampleEntry (c : Chip) (o : Op) (st : StepCtx) (e : AlmEntry) (i : Nat) : List Nat :=
  let v := o.get 16 4
  let bf := o.get 21 1 == 1
  let mode := o.get 20 1
  let greedy := mode == 0 || mode == 2
  let seed := if greedy then 0 else c.le (o.at st 32 + 8 * i) 8
  (List.range e.new).map (fun j =>
    sampleRow greedy (o.get 22 2) (BitVec.ofNat 32 (o.get 24 4)) (BitVec.ofNat 32 (o.get 28 4))
      (c.readVals (o.at st 12 + (e.qoff + j) * v * elemBytes bf) v bf) (e.start + j) seed)

/-- The largest a below n for which every draft before it was right. -/
def acceptedDrafts : List Nat → List Nat → Nat
  | t :: ts, d :: ds => if t = d then acceptedDrafts ts ds + 1 else 0
  | _, _ => 0

def Chip.sample (c : Chip) (p su : Nat) : Chip :=
  c.streamOp p su 0x1D (fun c st o =>
    let es := c.almEntries (o.at st 8)
    let toks := es.zipIdx.map (fun e => c.sampleEntry o st e.1 e.2)
    let cnts := (es.zip toks).map (fun e =>
      if o.get 20 1 < 2 then e.1.new
      else 1 + acceptedDrafts e.2 ((List.range (e.1.new - 1)).map (fun j => c.le (o.at st 36 + 4 * (e.1.qoff + j + 1)) 4)))
    let c := c.write (o.at st 40) (toks.flatMap (fun l => l.flatMap (leBytes 4)))
    c.write (o.at st 44) (cnts.flatMap (leBytes 2)))

def execSample (p su : Nat) (s : State) : Host.Outcome State Fault Refusal := s.onChip (·.sample p su)

end Sys2Proof.Machine
end

