-- ==== Sys2Proof/Machine/Dispatch.lean ====
section
/-! DEFINITION. The meaning of each command: one arm per row of the table. -/

namespace Sys2Proof.Machine

/-- What a command does to everything but the queue. -/
def exec (i : Instr) (s : State) : Host.Outcome State Fault Refusal :=
  match i with
  | .stepRun fn => Sys2Proof.Machine.execStepRun fn s
  | .stepBegin p => Sys2Proof.Machine.execStepBegin p s
  | .opDispatch p => Sys2Proof.Machine.execOpDispatch p s
  | .stepDeadlineExpiry p => Sys2Proof.Machine.execStepDeadlineExpiry p s
  | .scoreboardTimeout p queue => Sys2Proof.Machine.execScoreboardTimeout p queue s
  | .pass p core => Sys2Proof.Machine.execPass p core s
  | .passAdmit p core codes => Sys2Proof.Machine.execPassAdmit p core codes s
  | .budgetRefill core => Sys2Proof.Machine.execBudgetRefill core s
  | .passPromote p core => Sys2Proof.Machine.execPassPromote p core s
  | .fixRecomputeDone p core => Sys2Proof.Machine.execFixRecomputeDone p core s
  | .arbitrationDone p core => Sys2Proof.Machine.execArbitrationDone p core s
  | .accOpen p core => Sys2Proof.Machine.execAccOpen p core s
  | .accClose p core => Sys2Proof.Machine.execAccClose p core s
  | .groupClose p core engine group => Sys2Proof.Machine.execGroupClose p core engine group s
  | .kvAppend p units => Sys2Proof.Machine.execKvAppend p units s
  | .attend p units => Sys2Proof.Machine.execAttend p units s
  | .attendFold p op entry => Sys2Proof.Machine.execAttendFold p op entry s
  | .kvRollback p => Sys2Proof.Machine.execKvRollback p s
  | .norm p su => Sys2Proof.Machine.execNorm p su s
  | .rotate p su => Sys2Proof.Machine.execRotate p su s
  | .elem p su => Sys2Proof.Machine.execElem p su s
  | .reduce p su => Sys2Proof.Machine.execReduce p su s
  | .route p su => Sys2Proof.Machine.execRoute p su s
  | .sample p su => Sys2Proof.Machine.execSample p su s
  | .copy p mover => Sys2Proof.Machine.execCopy p mover s
  | .gather p mover => Sys2Proof.Machine.execGather p mover s
  | .scatter p mover => Sys2Proof.Machine.execScatter p mover s
  | .collective p mover => Sys2Proof.Machine.execCollective p mover s
  | .collTimeout p op => Sys2Proof.Machine.execCollTimeout p op s
  | .fence p => Sys2Proof.Machine.execFence p s
  | .fenceSatisfied p => Sys2Proof.Machine.execFenceSatisfied p s
  | .fenceTimeout p => Sys2Proof.Machine.execFenceTimeout p s
  | .check p => Sys2Proof.Machine.execCheck p s
  | .checkSatisfied p => Sys2Proof.Machine.execCheckSatisfied p s
  | .commit p => Sys2Proof.Machine.execCommit p s
  | .kvEditOpen fn => Sys2Proof.Machine.execKvEditOpen fn s
  | .kvEditRelist fn => Sys2Proof.Machine.execKvEditRelist fn s
  | .kvEditTrim fn => Sys2Proof.Machine.execKvEditTrim fn s
  | .kvEditFree fn => Sys2Proof.Machine.execKvEditFree fn s
  | .kvEditApply p seq => Sys2Proof.Machine.execKvEditApply p seq s
  | .swapOut fn => Sys2Proof.Machine.execSwapOut fn s
  | .swapIn fn => Sys2Proof.Machine.execSwapIn fn s
  | .shardBegin fn => Sys2Proof.Machine.execShardBegin fn s
  | .shardRepair fn => Sys2Proof.Machine.execShardRepair fn s
  | .shardData fn => Sys2Proof.Machine.execShardData fn s
  | .shardCommit fn => Sys2Proof.Machine.execShardCommit fn s
  | .bankProgramDone p array bank badCols => Sys2Proof.Machine.execBankProgramDone p array bank badCols s
  | .epochSwitch fn => Sys2Proof.Machine.execEpochSwitch fn s
  | .epochRetire fn => Sys2Proof.Machine.execEpochRetire fn s
  | .epochRetireDeadline p => Sys2Proof.Machine.execEpochRetireDeadline p s
  | .serveCfg fn => Sys2Proof.Machine.execServeCfg fn s
  | .reqOpen fn => Sys2Proof.Machine.execReqOpen fn s
  | .reqAppend fn => Sys2Proof.Machine.execReqAppend fn s
  | .reqCancel fn => Sys2Proof.Machine.execReqCancel fn s
  | .kvExport fn => Sys2Proof.Machine.execKvExport fn s
  | .kvImport fn => Sys2Proof.Machine.execKvImport fn s
  | .serveBoundary p => Sys2Proof.Machine.execServeBoundary p s
  | .reqQueueTimeout p handle => Sys2Proof.Machine.execReqQueueTimeout p handle s
  | .reqPreemptTimeout p handle => Sys2Proof.Machine.execReqPreemptTimeout p handle s
  | .reqHoldTimeout p handle => Sys2Proof.Machine.execReqHoldTimeout p handle s
  | .importTimeout p slot => Sys2Proof.Machine.execImportTimeout p slot s
  | .calRequest fn => Sys2Proof.Machine.execCalRequest fn s
  | .partQuery fn => Sys2Proof.Machine.execPartQuery fn s
  | .telemSnapshot fn => Sys2Proof.Machine.execTelemSnapshot fn s
  | .doorbellPoll fn => Sys2Proof.Machine.execDoorbellPoll fn s
  | .descriptorAccept fn sq => Sys2Proof.Machine.execDescriptorAccept fn sq s
  | .completionWrite fn cq => Sys2Proof.Machine.execCompletionWrite fn cq s
  | .statusPageWrite fn => Sys2Proof.Machine.execStatusPageWrite fn s
  | .statWriteNow fn => Sys2Proof.Machine.execStatWriteNow fn s
  | .ringCfgWrite fn cq n value => Sys2Proof.Machine.execRingCfgWrite fn cq n value s
  | .functionLevelReset fn => Sys2Proof.Machine.execFunctionLevelReset fn s
  | .bmeWrite fn on => Sys2Proof.Machine.execBmeWrite fn on s
  | .registerWrite target bytes value => Sys2Proof.Machine.execRegisterWrite target bytes value s
  | .statusBitClear target value => Sys2Proof.Machine.execStatusBitClear target value s
  | .counterClear target value => Sys2Proof.Machine.execCounterClear target value s
  | .pairLowRead target => Sys2Proof.Machine.execPairLowRead target s
  | .pairHighWrite target value => Sys2Proof.Machine.execPairHighWrite target value s
  | .handleCommit p n value => Sys2Proof.Machine.execHandleCommit p n value s
  | .windowCommit p n value => Sys2Proof.Machine.execWindowCommit p n value s
  | .kvCfgWrite p off value => Sys2Proof.Machine.execKvCfgWrite p off value s
  | .imageRegionWrite p off value => Sys2Proof.Machine.execImageRegionWrite p off value s
  | .degradedForce p => Sys2Proof.Machine.execDegradedForce p s
  | .resetTags p => Sys2Proof.Machine.execResetTags p s
  | .partCreate req units strict => Sys2Proof.Machine.execPartCreate req units strict s
  | .partRelease req lowest => Sys2Proof.Machine.execPartRelease req lowest s
  | .partScrubDone p failed => Sys2Proof.Machine.execPartScrubDone p failed s
  | .partStrict req lowest strict => Sys2Proof.Machine.execPartStrict req lowest strict s
  | .unitScrub req unit => Sys2Proof.Machine.execUnitScrub req unit s
  | .keyGrant req key lowest => Sys2Proof.Machine.execKeyGrant req key lowest s
  | .keyRevoke req key => Sys2Proof.Machine.execKeyRevoke req key s
  | .regRead req addr => Sys2Proof.Machine.execRegRead req addr s
  | .regWrite req addr value => Sys2Proof.Machine.execRegWrite req addr value s
  | .snsCaptureZero sel => Sys2Proof.Machine.execSnsCaptureZero sel s
  | .snsCaptureFull sel full => Sys2Proof.Machine.execSnsCaptureFull sel full s
  | .snsClear sel => Sys2Proof.Machine.execSnsClear sel s
  | .snsCaptureDone readings => Sys2Proof.Machine.execSnsCaptureDone readings s
  | .fwuBegin req => Sys2Proof.Machine.execFwuBegin req s
  | .fwuWrite req off bytes host => Sys2Proof.Machine.execFwuWrite req off bytes host s
  | .fwuVerify req => Sys2Proof.Machine.execFwuVerify req s
  | .fwuActivate req => Sys2Proof.Machine.execFwuActivate req s
  | .fwuAbort req => Sys2Proof.Machine.execFwuAbort req s
  | .pwrSetLive req start => Sys2Proof.Machine.execPwrSetLive req start s
  | .pwrSetEve req => Sys2Proof.Machine.execPwrSetEve req s
  | .pwrSetVigil req => Sys2Proof.Machine.execPwrSetVigil req s
  | .pwrSetSolstice req => Sys2Proof.Machine.execPwrSetSolstice req s
  | .pwrCfg req value => Sys2Proof.Machine.execPwrCfg req value s
  | .pwrLimit req watts => Sys2Proof.Machine.execPwrLimit req watts s
  | .pkgReset req start => Sys2Proof.Machine.execPkgReset req start s
  | .dbgChallenge req => Sys2Proof.Machine.execDbgChallenge req s
  | .dbgUnlock req token => Sys2Proof.Machine.execDbgUnlock req token s
  | .dbgLock req => Sys2Proof.Machine.execDbgLock req s
  | .dbgChallengeLapse => Sys2Proof.Machine.execDbgChallengeLapse s
  | .dbgExpiry => Sys2Proof.Machine.execDbgExpiry s
  | .mctpSetEndpointId op eid => Sys2Proof.Machine.execMctpSetEndpointId op eid s
  | .mctpGetEndpointId => Sys2Proof.Machine.execMctpGetEndpointId s
  | .mctpGetVersionSupport msgType => Sys2Proof.Machine.execMctpGetVersionSupport msgType s
  | .mctpGetMessageType => Sys2Proof.Machine.execMctpGetMessageType s
  | .jtagBypass tdi => Sys2Proof.Machine.execJtagBypass tdi s
  | .jtagIdcode => Sys2Proof.Machine.execJtagIdcode s
  | .jtagSamplePreload bits => Sys2Proof.Machine.execJtagSamplePreload bits s
  | .jtagExtest => Sys2Proof.Machine.execJtagExtest s
  | .jtagClamp => Sys2Proof.Machine.execJtagClamp s
  | .jtagHighz => Sys2Proof.Machine.execJtagHighz s
  | .dbgHalt who => Sys2Proof.Machine.execDbgHalt who s
  | .dbgSingleStep who => Sys2Proof.Machine.execDbgSingleStep who s
  | .dbgBreakpoint who n watch addr => Sys2Proof.Machine.execDbgBreakpoint who n watch addr s
  | .dbgMemoryAccess who write addr bytes value => Sys2Proof.Machine.execDbgMemoryAccess who write addr bytes value s
  | .accordReady engine slots => Sys2Proof.Machine.execAccordReady engine slots s
  | .calibrationSlot engine slot => Sys2Proof.Machine.execCalibrationSlot engine slot s
  | .scrubRead p array bank row bad => Sys2Proof.Machine.execScrubRead p array bank row bad s
  | .refreshDone p array bank col stuck => Sys2Proof.Machine.execRefreshDone p array bank col stuck s
  | .digestCheck p epoch => Sys2Proof.Machine.execDigestCheck p epoch s
  | .iftRun p faults => Sys2Proof.Machine.execIftRun p faults s
  | .iftUnowned faults => Sys2Proof.Machine.execIftUnowned faults s
  | .telemConversion die conv code => Sys2Proof.Machine.execTelemConversion die conv code s
  | .telemUrgent die conv chan who => Sys2Proof.Machine.execTelemUrgent die conv chan who s
  | .graceExpiry => Sys2Proof.Machine.execGraceExpiry s
  | .thermLevelTick => Sys2Proof.Machine.execThermLevelTick s
  | .powerLimitTick watts => Sys2Proof.Machine.execPowerLimitTick watts s
  | .eveIdleExpiry => Sys2Proof.Machine.execEveIdleExpiry s
  | .vigilIdleExpiry => Sys2Proof.Machine.execVigilIdleExpiry s
  | .devtimeAlignPulse die => Sys2Proof.Machine.execDevtimeAlignPulse die s
  | .devtimePulseMiss die => Sys2Proof.Machine.execDevtimePulseMiss die s
  | .porstNRelease start => Sys2Proof.Machine.execPorstNRelease start s
  | .porstNAssert => Sys2Proof.Machine.execPorstNAssert s
  | .pwrgdFall => Sys2Proof.Machine.execPwrgdFall s
  | .perstNAssert => Sys2Proof.Machine.execPerstNAssert s
  | .refclkSdLoss => Sys2Proof.Machine.execRefclkSdLoss s
  | .refclkPcieLoss => Sys2Proof.Machine.execRefclkPcieLoss s
  | .settingsWrite bytes => Sys2Proof.Machine.execSettingsWrite bytes s
  | .wardenTakeover cause => Sys2Proof.Machine.execWardenTakeover cause s
  | .wardenCheckpoint => Sys2Proof.Machine.execWardenCheckpoint s
  | .cpWatchdogRestart who => Sys2Proof.Machine.execCpWatchdogRestart who s
  | .vicSourceEdge who source asserted => Sys2Proof.Machine.execVicSourceEdge who source asserted s
  | .vicPendSet who word value => Sys2Proof.Machine.execVicPendSet who word value s
  | .vicDeliver who mie => Sys2Proof.Machine.execVicDeliver who mie s
  | .vicEoi who => Sys2Proof.Machine.execVicEoi who s
  | .vicHoldoffExpiry who group => Sys2Proof.Machine.execVicHoldoffExpiry who group s
  | .macsecSwitchTx port => Sys2Proof.Machine.execMacsecSwitchTx port s
  | .sakInstall port value => Sys2Proof.Machine.execSakInstall port value s
  | .portUp port partner => Sys2Proof.Machine.execPortUp port partner s
  | .portDown port => Sys2Proof.Machine.execPortDown port s
  | .helloSend port => Sys2Proof.Machine.execHelloSend port s
  | .iltHello f => Sys2Proof.Machine.execIltHello f s
  | .iltOpen f => Sys2Proof.Machine.execIltOpen f s
  | .iltOpenAck f => Sys2Proof.Machine.execIltOpenAck f s
  | .iltWrite f => Sys2Proof.Machine.execIltWrite f s
  | .iltReadReq f => Sys2Proof.Machine.execIltReadReq f s
  | .iltReadResp f => Sys2Proof.Machine.execIltReadResp f s
  | .iltColl f => Sys2Proof.Machine.execIltColl f s
  | .iltAck f => Sys2Proof.Machine.execIltAck f s
  | .iltNak f => Sys2Proof.Machine.execIltNak f s
  | .iltClose f => Sys2Proof.Machine.execIltClose f s
  | .iltBadPacket f => Sys2Proof.Machine.execIltBadPacket f s
  | .pauseFrame port => Sys2Proof.Machine.execPauseFrame port s
  | .iltForward f => Sys2Proof.Machine.execIltForward f s
  | .iltAckTimer flow => Sys2Proof.Machine.execIltAckTimer flow s
  | .iltRtoExpiry flow psn => Sys2Proof.Machine.execIltRtoExpiry flow psn s
  | .flowIdleClose flow => Sys2Proof.Machine.execFlowIdleClose flow s
  | .perstNRelease => Sys2Proof.Machine.execPerstNRelease s
  | .pwrgdRise board => Sys2Proof.Machine.execPwrgdRise board s
  | .refclkPcieReturn => Sys2Proof.Machine.execRefclkPcieReturn s
  | .completionTimeout fn reader => Sys2Proof.Machine.execCompletionTimeout fn reader s

end Sys2Proof.Machine
end

