-- ==== Sys2Proof/Safety.lean ====
section
/-! DEFINITION. The terms that claims use: what it is for a command to complete, when an op issues, what a safe run keeps. -/

namespace Sys2Proof.Machine

/-- A command completes: it answers a next state, of which P holds. -/
def Completes (i : Instr) (s : State) (P : State → Prop) : Prop := ∃ t, exec i s = .next t ∧ P t

/-- The state with another data path and nothing else changed. -/
def State.withChip (s : State) (c : Chip) : State := { s with chip := c }

/-- The state with another system side and nothing else changed. -/
def State.withSys (s : State) (y : Sys) : State := { s with sys := y }

/-- The state a served mailbox command works on: it is logged and the package is awake (15 R534, 16 R548). -/
def State.taken (s : State) (code : Nat) (req : MbxReq) : State :=
  { s.logCommand code req with chip := s.chip.wake 2 }

/-- The Warden serves a request now: it is free and running, the request is not a processor's, and firmware is not in recovery
(15 R523, R524, 16 R563). -/
structure State.Serves (s : State) (req : MbxReq) : Prop where
  free : s.wardenServes = true
  source : fromProcessor req = false
  firmware : s.chip.power.recovery = false

/-- The answer to a request, with its SEQ, a status, a result and what a command adds: where each channel takes it (15 R523-R525). -/
def State.Answered (s t : State) (req : MbxReq) (st : Status) (result : Nat := 0) (more : List Byte := []) : Prop :=
  let bs := leBytes 4 req.seq.toNat ++ leBytes 1 st.code ++ [0, 0, 0] ++ leBytes 4 result ++ more
  match req.src with
  | .pf => t.chip.mbxWindow = s.chip.mbxWindow.write 0x1000 bs
  | .mctp => t.sys.warden.mctp = s.sys.warden.mctp ++ [(0x7E : Byte) :: beBytes 2 Config.vendorId.toNat ++ bs]
  | .proc who => t.sys.warden.internal = s.sys.warden.internal ++ [(who, bs)]

/-- A port takes a frame, and the packet in it is for this chip (14 R492-R495). -/
structure Chip.Gets (c : Chip) (f : Frame) (k : Packet) : Prop where
  taken : (c.portRx f).2 = true
  packet : parsePacket f.bytes = some k
  here : k.dst = c.chipNumber

/-- The next packet of a receive flow with nothing held ahead of it or of its block, whose header is consistent (14 R497, R507). -/
structure Chip.InTurn (c : Chip) (f : Frame) (k : Packet) (i : Nat) (x : Flow) : Prop where
  gets : c.Gets f k
  known : c.rxFlow k.src k.flow = some i
  flow : c.flow i = some x
  turn : k.psn = x.expect
  small : k.psn < 2 ^ 32
  clear : x.held = [] ∧ x.block = []
  header : c.headerFits k = true ∧ lengthField f.bytes = k.data.length

/-- Every byte memory of the part and of the host is in its canonical form. -/
def State.memoriesOk (s : State) : Bool :=
  s.chip.mem.wf && s.chip.host.mem.wf && s.chip.mbxWindow.wf && s.sys.fw.flash.wf

/-- What an op reads at issue: its Almanac, if it names one, and its read ranges (07 R259). -/
def Chip.opReads (c : Chip) (p : Nat) (x : Part) (st : StepCtx) (o : Op) : List (Nat × Nat) :=
  (planOf c p x st o).almReads ++ (planOf c p x st o).reads

/-- The bytes that an op consumes, which are checked as it reads them (12 R425, R426, R428). -/
def Chip.opUses (c : Chip) (p : Nat) (x : Part) (st : StepCtx) (o : Op) : List (Nat × Nat) :=
  Machine.almBytes c (planOf c p x st o).alm ++ (planOf c p x st o).uses

/-- The op at the head of a queue of the running step issues (07 R260, R261, 08 R285, 06 R221, R238, 12 R426, R428): it breaks no
rule, meets no range of an earlier op, waits for no cache edit, and reads no word that fails. -/
structure Chip.Issues (c : Chip) (p : Nat) (q : Queue) (opcode : Nat) (x : Part) (st : StepCtx) (o : Op) (rest : List Op) : Prop where
  running : c.running p = some (x, st)
  head : Tbl.get [] q st.queues = o :: rest
  names : o.opcode = opcode
  initialised : q = .attention → x.kvInit = false
  rules : (planOf c p x st o).errs = []
  almanacFree : (planOf c p x st o).alm.isSome → blocked c p x st o.idx (planOf c p x st o).almReads [] = false
  contents : (planOf c p x st o).almLate ++ appendRule st o (planOf c p x st o).alm ++ (planOf c p x st o).late = []
  free : blocked c p x st o.idx (c.opReads p x st o) (planOf c p x st o).writes = false
  edits : waitsEdit c p x st o (almSeqs c p x (planOf c p x st o).alm) = false
  healthy : (c.readCheck p st.parity (c.opUses p x st o)).2 = true

/-- A step once an op has left its queue. -/
def StepCtx.left (st : StepCtx) (q : Queue) (rest : List Op) : StepCtx :=
  { st with queues := Tbl.set q rest st.queues, stalls := Tbl.del q st.stalls }

/-- The part once an issued op has left its queue, before its effect: corrected words are counted and an Almanac is recorded. -/
def Chip.afterIssue (c : Chip) (p : Nat) (q : Queue) (x : Part) (st : StepCtx) (o : Op) (rest : List Op) : Chip :=
  let c' := (c.readCheck p st.parity (c.opUses p x st o)).1.setStep p (st.left q rest)
  match (planOf c p x st o).alm with
  | some a => c'.almAccepted p a.1
  | none => c'

/-- The oldest accepted command of a function with an opcode, on a live partition, ready to start (13 R470, R471); a REQ_OPEN needs a serving
record (09 R334). -/
structure Chip.Starts (c : Chip) (fn opcode : Nat) (pick : Cmd → Bool) (p : Nat) (x : Part) (k : Cmd) (rest : List Cmd) : Prop where
  oldest : takeFirst (fun k => decide (k.opcode = opcode) && pick k) (c.func fn).accepted = some (k, rest)
  reads : k.readsHost = true → c.busMaster fn = true
  served : k.opcode = 0x21 → x.serving.isSome = true
  record : k.recordErr = none
  owner : c.partOf fn = some p
  part : c.part p = some x

/-- The part once a command has left the list of accepted ones. -/
def Chip.afterStart (c : Chip) (fn : Nat) (rest : List Cmd) : Chip := c.updFunc fn (fun f => { f with accepted := rest })

/-- The completion a ticket gets now (13 R472). -/
def Chip.entryFor (c : Chip) (t : Ticket) (st : Status) (result : Nat := 0) (more : Bool := false) : Completion :=
  { cq := t.cq, tag := t.tag, result := result, cmdId := t.cmdId, sqHead := c.field (rg .ringSqHead t.fn t.sq) 15 0,
    status := c.statusFor t.fn st, sq := t.sq, more := more, opIndex := none, time := c.now, reserved := t.first }

/-- A completion with a status and flags is the newest that waits for a function. -/
def Chip.lastWaiting (c : Chip) (fn : Nat) : Option Completion := (c.func fn).waiting.getLast?

/-- What the end of a step without commit leaves (08 R309, R314, R315, 04 R120): nothing runs, LAST_FAIL and STATUS.ABORTED tell why
and where, every group of the partition is FREE and empty, and the command's completion carries the status and the op's index. -/
structure Chip.Failed (c d : Chip) (p : Nat) (x : Part) (st : StepCtx) (status : Status) (idx : Nat) : Prop where
  ended : d.running p = none
  lastFail : d.reg (rg .seqLastFail p) = BitVec.ofNat 32 (status.code * 65536 + idx % 65536)
  aborted : (d.reg (rg .seqStatus p)).bit 1 = true
  groups : ∀ e g, firstEngine p ≤ e → e < firstEngine p + 512 * x.units → d.group e g = {}
  completion : ∀ t, st.req.ticket = some t → (c.func t.fn).era = t.era → ∃ k ∈ (d.func t.fn).waiting,
    k.cmdId = t.cmdId ∧ k.opIndex = some idx ∧ k.tag = st.tag ∧ k.status = status

end Sys2Proof.Machine
end

