-- ==== Sys2Proof/Certificates/Slice0/Obligations.lean ====
section
/-! DEFINITION. The statements for the provers, from the numbered rules of the spec. Each command of the table completes in one of them. -/

open Sys2Proof Sys2Proof.Machine

/-- 08 R300, R301, 07 R259, 12 R429: a local COPY, a GATHER and a SCATTER that issue move their bytes at once: each row is read and written where the op's
references and its index say, no other byte of memory and nothing else of the part changes, and the op leaves its queue. Rows of a SCATTER with index
0xFFFF_FFFF are not moved. Under BLOCK this is so where no block has a bad CRC. -/
def Obligations.MoverOpsMoveTheirBytes : Prop :=
  (∀ (s : State) (p m : Nat) (x : Part) (st : StepCtx) (o : Op) (rest : List Op), s.chip.powered = true →
    s.chip.Issues p (moverQueue p m) 0x20 x st o rest → (o.get 20 1).testBit 0 = false → (st.block = false ∨ s.chip.blockBad = []) →
    exec (.copy p m) s = .next (s.withChip
      ((s.chip.afterIssue p (moverQueue p m) x st o rest).write (o.at st 12) (s.chip.read (o.at st 8) (o.get 16 4))))) ∧
  (∀ (s : State) (p m : Nat) (x : Part) (st : StepCtx) (o : Op) (rest : List Op), s.chip.powered = true →
    s.chip.Issues p (moverQueue p m) 0x21 x st o rest → (st.block = false ∨ s.chip.blockBad = []) →
    exec (.gather p m) s = .next (s.withChip
      ((List.range (o.get 20 4)).foldl (fun c i =>
        c.write (o.at st 16 + o.get 24 4 * i) (c.read (o.at st 8 + o.get 24 4 * s.chip.le (o.at st 12 + 4 * i) 4) (o.get 24 4)))
        (s.chip.afterIssue p (moverQueue p m) x st o rest)))) ∧
  (∀ (s : State) (p m : Nat) (x : Part) (st : StepCtx) (o : Op) (rest : List Op), s.chip.powered = true →
    s.chip.Issues p (moverQueue p m) 0x22 x st o rest → (st.block = false ∨ s.chip.blockBad = []) →
    exec (.scatter p m) s = .next (s.withChip
      (((List.range (o.get 20 4)).filter (fun i => s.chip.le (o.at st 12 + 4 * i) 4 != 0xFFFFFFFF)).foldl (fun c i =>
        c.write (o.at st 16 + o.get 24 4 * s.chip.le (o.at st 12 + 4 * i) 4) (c.read (o.at st 8 + o.get 24 4 * i) (o.get 24 4)))
        (s.chip.afterIssue p (moverQueue p m) x st o rest))))

/-- 08 R293, R294, R295: NORM, ROTATE and ELEM that issue write, in their output format, the rows that their rules define over what they read; the op
leaves its queue, its narrowings count on its stream unit, and nothing else changes. -/
def Obligations.StreamVectorOpsWriteTheirRows : Prop :=
  (∀ (s : State) (p su : Nat) (x : Part) (st : StepCtx) (o : Op) (rest : List Op), s.chip.powered = true →
    s.chip.Issues p (streamQueue p su) 0x18 x st o rest →
    let d := s.chip.afterIssue p (streamQueue p su) x st o rest
    let layer := o.get 34 1 == 1
    let beta := if layer then d.readVals (o.at st 20) (o.get 32 2) false else []
    exec (.norm p su) s = .next (s.withChip (d.streamOut st su (o.get 36 1)
      ((List.range (o.get 28 4)).flatMap (fun r => normRow layer (BitVec.ofNat 32 (o.get 24 4))
        (d.readVals (o.at st 16) (o.get 32 2) false) beta
        (d.readVals (o.at st 8 + r * o.get 32 2 * elemBytes (o.get 35 1 == 1)) (o.get 32 2) (o.get 35 1 == 1))))
      (o.at st 12) (o.at st 44) (o.get 40 2)))) ∧
  (∀ (s : State) (p su : Nat) (x : Part) (st : StepCtx) (o : Op) (rest : List Op), s.chip.powered = true →
    s.chip.Issues p (streamQueue p su) 0x19 x st o rest →
    let d := s.chip.afterIssue p (streamQueue p su) x st o rest
    let dim := 64 * 2 ^ o.get 25 1
    let bf := (o.get 28 1).testBit 1
    let half := (o.get 28 1).testBit 0
    exec (.rotate p su) s = .next (s.withChip (d.writeOut (if (o.get 28 1).testBit 2 then 3 else 4)
      ((d.almEntries (o.at st 8)).flatMap (fun e => (List.range e.new).flatMap (fun j => (List.range (o.get 24 1)).flatMap (fun h =>
        rotateHead half (o.get 26 2) (d.readVals (o.at st 20) (o.get 26 2 / 2) false) (e.start + j)
          (d.readVals (o.at st 12 + ((e.qoff + j) * o.get 24 1 + h) * dim * elemBytes bf) dim bf)))))
      (o.at st 16) 0 []).1)) ∧
  (∀ (s : State) (p su : Nat) (x : Part) (st : StepCtx) (o : Op) (rest : List Op), s.chip.powered = true →
    s.chip.Issues p (streamQueue p su) 0x1A x st o rest →
    let d := s.chip.afterIssue p (streamQueue p su) x st o rest
    let fn := o.get 24 1
    let a := d.readVals (o.at st 8) (o.get 20 4) ((o.get 25 1).testBit 0)
    let b := if fn == 0 || fn == 1 || fn == 4 then d.readVals (o.at st 12) (o.get 20 4) ((o.get 25 1).testBit 1)
      else List.replicate (o.get 20 4) 0
    exec (.elem p su) s = .next (s.withChip (d.streamOut st su (o.get 26 1)
      ((a.zip b).map (fun e => elemFn fn (BitVec.ofNat 32 (o.get 28 4)) e.1 e.2)) (o.at st 16) (o.at st 36) (o.get 32 2))))

/-- 08 R296, R297, R299, 04 R134-R137: REDUCE writes one record a row, ROUTE the chosen experts with their weights, each one's slot and, asked for, the
histogram, SAMPLE a token for each new position and a count for each entry; the op leaves its queue. -/
def Obligations.StreamSelectionOpsWriteTheirRecords : Prop :=
  (∀ (s : State) (p su : Nat) (x : Part) (st : StepCtx) (o : Op) (rest : List Op), s.chip.powered = true →
    s.chip.Issues p (streamQueue p su) 0x1B x st o rest →
    let d := s.chip.afterIssue p (streamQueue p su) x st o rest
    let rs := (List.range (o.get 16 4)).map (fun r => d.reduceRow o (o.at st 8 + r * o.get 20 4 * reduceIn o) (o.get 20 4))
    Completes (.reduce p su) s (fun t => t.chip.mem = s.chip.mem.write (o.at st 12) (rs.flatMap Prod.fst) ∧
      t.chip.parts = d.parts ∧ ((rs.filter Prod.snd).length ≠ 0 → t.chip.reg (rg .attStatus su) = d.reg (rg .attStatus su) ||| 4))) ∧
  (∀ (s : State) (p su : Nat) (x : Part) (st : StepCtx) (o : Op) (rest : List Op), s.chip.powered = true →
    s.chip.Issues p (streamQueue p su) 0x1C x st o rest →
    let d := s.chip.afterIssue p (streamQueue p su) x st o rest
    let picks := (List.range (o.get 32 4)).flatMap (fun r =>
      routeRow (o.get 26 1) (o.get 27 1) (d.readVals (o.at st 8 + 4 * o.get 24 2 * r) (o.get 24 2) false))
    let slots := picks.zipIdx.map (fun y => ((picks.take y.2).filter (fun q => q.2 == y.1.2)).length)
    let c1 := (d.write (o.at st 12) (picks.flatMap (fun y => leBytes 4 y.1.toNat ++ leBytes 4 y.2))).write (o.at st 16)
      (slots.flatMap (leBytes 4))
    let c2 := if (o.get 28 1).testBit 0 then
      c1.write (o.at st 20) ((List.range (o.get 24 2)).flatMap (fun i => leBytes 4 (picks.filter (fun q => q.2 == i)).length)) else c1
    exec (.route p su) s = .next (s.withChip c2)) ∧
  (∀ (s : State) (p su : Nat) (x : Part) (st : StepCtx) (o : Op) (rest : List Op), s.chip.powered = true →
    s.chip.Issues p (streamQueue p su) 0x1D x st o rest →
    let d := s.chip.afterIssue p (streamQueue p su) x st o rest
    let es := d.almEntries (o.at st 8)
    let toks := es.zipIdx.map (fun e => d.sampleEntry o st e.1 e.2)
    let cnts := (es.zip toks).map (fun e =>
      if o.get 20 1 < 2 then e.1.new
      else 1 + acceptedDrafts e.2 ((List.range (e.1.new - 1)).map (fun j => d.le (o.at st 36 + 4 * (e.1.qoff + j + 1)) 4)))
    exec (.sample p su) s = .next (s.withChip
      ((d.write (o.at st 40) (toks.flatMap (fun l => l.flatMap (leBytes 4)))).write (o.at st 44) (cnts.flatMap (leBytes 2)))))

/-- 08 R289, 02 R62, 04 R121, R124: a PASS that issues latches its slices and side records and joins the step's passes, neither admitted nor promoted; an
ACC_OPEN makes the groups of its mask OPEN and empty, and no other; an ACC_CLOSE makes its group CLOSING. None of them changes a byte of memory. -/
def Obligations.CoreOpsIssue : Prop :=
  (∀ (s : State) (p k : Nat) (x : Part) (st : StepCtx) (o : Op) (rest : List Op), s.chip.powered = true →
    s.chip.Issues p (coreQueue p k) 0x01 x st o rest →
    Completes (.pass p k) s (fun t => t.chip.mem = s.chip.mem ∧ t.chip.groups = s.chip.groups ∧ t.chip.banks = s.chip.banks ∧
      ∃ y w r, t.chip.running p = some (y, w) ∧ w.passes = st.passes ++ [r] ∧ w.queues = Tbl.set (coreQueue p k) rest st.queues ∧
        r.op = o.idx ∧ r.core = firstCore p + o.unit ∧ r.layer = o.layer ∧ r.engine = r.core * 64 + o.pass.engine ∧
        r.arrange = o.pass.arrange ∧ r.group = o.pass.group ∧ r.optimistic = o.pass.optimistic ∧ r.quiet = o.pass.quiet ∧
        r.phase = .issued ∧ r.sides = (List.range (arrSlices o.pass.arrange)).map (fun i => s.chip.read (o.at st (28 + 4 * i)) 64) ∧
        r.slices = (List.range (arrSlices o.pass.arrange)).map (fun i => s.chip.read (o.at st (12 + 4 * i)) (if r.afmt = 2 then 1024 else 512)))) ∧
  (∀ (s : State) (p k : Nat) (x : Part) (st : StepCtx) (o : Op) (rest : List Op), s.chip.powered = true →
    s.chip.Issues p (coreQueue p k) 0x02 x st o rest →
    Completes (.accOpen p k) s (fun t => t.chip.mem = s.chip.mem ∧ t.chip.parts = (s.chip.afterIssue p (coreQueue p k) x st o rest).parts ∧
      (∀ e g, t.chip.group e g = if e = k * 64 + o.get 8 1 ∧ g < 8 ∧ (o.get 9 1).testBit g then { state := .opened } else s.chip.group e g))) ∧
  (∀ (s : State) (p k : Nat) (x : Part) (st : StepCtx) (o : Op) (rest : List Op), s.chip.powered = true →
    s.chip.Issues p (coreQueue p k) 0x03 x st o rest →
    Completes (.accClose p k) s (fun t => t.chip.mem = s.chip.mem ∧
      (∀ e g, t.chip.group e g = if e = k * 64 + o.get 8 1 ∧ g = o.get 9 1 then { s.chip.group e g with state := .closing } else s.chip.group e g) ∧
      ∃ y w, t.chip.running p = some (y, w) ∧ w.passes = st.passes ∧ w.queues = Tbl.set (coreQueue p k) rest st.queues ∧
        w.closes = st.closes ++ [{ op := o.idx, core := k, engine := k * 64 + o.get 8 1, group := o.get 9 1, desc := o.desc }]))

/-- 02 R68, R69, 05 R160: the oldest pass of a core that is not admitted starts at no cost in reference mode; otherwise it starts when its cost does not
exceed the balance or the balance is full, and takes its cost from the balance; else it waits and nothing changes. At a DEVTIME multiple of 1,000 ns
the balance becomes 128, less what it stood below 0. -/
def Obligations.IssueBudgetAdmitsPasses : Prop :=
  (∀ (s : State) (p k : Nat) (codes : List (Nat × Int)) (x : Part) (st : StepCtx) (r : PassRec), s.chip.powered = true →
    s.chip.running p = some (x, st) → st.passes.find? (fun r => r.core == k && r.phase == .issued) = some r →
    let cost := (if r.arrange = 0 then 1 else 4) * (r.plan r.lanes).cost
    (r.mode = 1 → Completes (.passAdmit p k codes) s (fun t => (t.chip.core k).balance = (s.chip.core k).balance ∧ t.chip.mem = s.chip.mem ∧
      t.chip.reg (rg .fixEvtRefpass k) = (s.chip.count (rg .fixEvtRefpass k)).reg (rg .fixEvtRefpass k) ∧
      ∃ y w, t.chip.running p = some (y, w) ∧ ∃ q ∈ w.passes, q.op = r.op ∧ q.phase = .admitted ∧ q.todo = r.allCols)) ∧
    (r.mode ≠ 1 → (cost ≤ (s.chip.core k).balance ∨ (s.chip.core k).balance = 128) →
      Completes (.passAdmit p k codes) s (fun t => (t.chip.core k).balance = (s.chip.core k).balance - cost ∧ t.chip.mem = s.chip.mem ∧
        ∃ y w, t.chip.running p = some (y, w) ∧ ∃ q ∈ w.passes, q.op = r.op ∧ q.phase = .admitted)) ∧
    (r.mode ≠ 1 → (s.chip.core k).balance < cost → (s.chip.core k).balance ≠ 128 → exec (.passAdmit p k codes) s = .next s)) ∧
  (∀ (s : State) (k : Nat), s.chip.powered = true → (s.chip.core k).refilled < s.chip.timeOn (k / 16) / 1000 →
    exec (.budgetRefill k) s = .next (s.withChip (s.chip.setCore k { s.chip.core k with
      balance := 128 + min (s.chip.core k).balance 0, refilled := s.chip.timeOn (k / 16) / 1000 })))

/-- 04 R118, R119, R122, R123: a pass promotes when its codes, substitutions and arbitration are done and no earlier pass that shares a group is
unpromoted: the command answers a next state in which each of the pass's groups has taken its addends into its lanes (a lane with an addend of +0.0
that it has not held is passed over), counts its rows, and lists it as a member; memory and the groups of other engines stay. Where no pass of the
core is ready nothing changes. -/
def Obligations.PassPromoteAddsItsColumns : Prop :=
  (∀ (s : State) (p k : Nat) (x : Part) (st : StepCtx) (r : PassRec), s.chip.powered = true →
    s.chip.running p = some (x, st) → st.passes.find? (fun r => r.core == k && r.ready st) = some r →
    ∃ t, exec (.passPromote p k) s = .next t ∧ t.pending = s.pending ∧ t.sys = s.sys ∧ t.chip.mem = s.chip.mem ∧
      t.chip.cores = s.chip.cores ∧ t.chip.banks = s.chip.banks ∧
      (∀ i, i < arrGroups r.arrange →
        let all := r.allCols.filter (fun j => j / r.cols == i)
        let js := if r.mode = 1 || r.outs.any (fun o => !o.1.isEmpty) then all
          else all.filter (fun j => r.sub.contains j || (Tbl.find? j r.av).isSome)
        (t.chip.group r.engine (r.group + i)).lanes =
          addLanes (s.chip.group r.engine (r.group + i)).lanes (js.map (fun j => (r.laneOf j, r.value s.chip j))) ∧
        (t.chip.group r.engine (r.group + i)).rows = min 0xFFFFFFFF ((s.chip.group r.engine (r.group + i)).rows + arrRows r.arrange) ∧
        (t.chip.group r.engine (r.group + i)).members = (s.chip.group r.engine (r.group + i)).members ++ [r.op] ∧
        (t.chip.group r.engine (r.group + i)).state = (s.chip.group r.engine (r.group + i)).state) ∧
      (∀ e g, (e ≠ r.engine ∨ g < r.group ∨ r.group + arrGroups r.arrange ≤ g) → t.chip.group e g = s.chip.group e g) ∧
      ∃ y w, t.chip.running p = some (y, w) ∧ w.issued = st.issued.filter (fun i => i.idx != r.op) ∧
        (∃ q ∈ w.passes, q.op = r.op ∧ q.phase = .promoted)) ∧
  (∀ (s : State) (p k : Nat) (x : Part) (st : StepCtx), s.chip.powered = true → s.chip.running p = some (x, st) →
    st.passes.find? (fun r => r.core == k && r.ready st) = none → exec (.passPromote p k) s = .next s)

/-- 05 R160-R164: the head entry of a core's Fixative queue is computed where no word of its image is poisoned and its images are valid: the column's
reference value is recorded with its pass, and the column is no longer to be computed. 12 R435, R436: arbitration of a suspect pass whose reference
values are ready: where every implicated column agrees within its bound, EVT_CHECKER_WRONG counts and the pass goes on as it is; where one does not,
all implicated columns are substituted, the step will carry CORRECTED, INT_STATUS.CORRECTED is set and the partition enters recovery. -/
def Obligations.SuspectPassesAreRecomputedAndJudged : Prop :=
  (∀ (s : State) (p k : Nat) (x : Part) (st : StepCtx) (f : FixEntry) (rest : List FixEntry) (r : PassRec), s.chip.powered = true →
    s.chip.running p = some (x, st) → (s.chip.core k).fixq = f :: rest → f.p = p → st.passes.find? (fun r => r.op == f.op) = some r →
    wordsIn s.chip.ue (r.imageRanges s.chip f.col) = [] →
    (st.parity = false ∨ wordsIn s.chip.damaged (r.imageRanges s.chip f.col) = []) → r.imageBad s.chip f.col = false →
    Completes (.fixRecomputeDone p k) s (fun t => t.chip.mem = s.chip.mem ∧ t.chip.groups = s.chip.groups ∧
      ∃ y w, t.chip.running p = some (y, w) ∧ ∃ q ∈ w.passes, q.op = f.op ∧
        Tbl.find? f.col q.vals = some (r.refValue s.chip f.col) ∧ f.col ∉ q.todo)) ∧
  (∀ (s : State) (p k : Nat) (x : Part) (st : StepCtx) (r : PassRec), s.chip.powered = true → s.chip.running p = some (x, st) →
    st.passes.find? (fun r => r.core == k && r.phase == .admitted && r.isSuspect && !r.arbitrated) = some r → r.todo = [] →
    ((∀ j ∈ r.implicated, r.agrees s.chip j = true) →
      Completes (.arbitrationDone p k) s (fun t => t.chip.mem = s.chip.mem ∧
        t.chip.reg (rg .safeEvtCheckerWrong p) = (s.chip.count (rg .safeEvtCheckerWrong p)).reg (rg .safeEvtCheckerWrong p) ∧
        ∃ y w, t.chip.running p = some (y, w) ∧ w.corrected = st.corrected ∧ ∃ q ∈ w.passes, q.op = r.op ∧ q.arbitrated = true ∧ q.sub = r.sub)) ∧
    ((∃ j ∈ r.implicated, r.agrees s.chip j = false) →
      Completes (.arbitrationDone p k) s (fun t => t.chip.mem = s.chip.mem ∧ (t.chip.reg (rg .safeIntStatus p)).bit 4 = true ∧
        ∃ y w, t.chip.running p = some (y, w) ∧ y.recovery = true ∧ w.corrected = true ∧
          ∃ q ∈ w.passes, q.op = r.op ∧ q.arbitrated = true ∧ ∀ j ∈ r.implicated, j ∈ q.sub)))

/-- 04 R124, R126, R128: a CLOSING group closes once every earlier PASS that uses it has promoted and no earlier close of the layer on the core is open:
the group becomes FREE and empty, and its close is done; without compare mode and reduction the only bytes written are its outputs in its format. -/
def Obligations.GroupCloseWritesAndFrees : Prop :=
  ∀ (s : State) (p core engine group : Nat) (x : Part) (st : StepCtx) (k : CloseRec), s.chip.powered = true →
    s.chip.running p = some (x, st) →
    st.closes.find? (fun k => k.engine == core * 64 + engine && k.group == group && !k.closed) = some k →
    st.passes.any (fun r => decide (r.op < k.op) && r.phase != .promoted && r.uses (core * 64 + engine) group) = false →
    st.closes.any (fun q => decide (q.op < k.op) && q.core == k.core && !q.closed &&
      (⟨q.op, q.desc⟩ : Op).layer == (⟨k.op, k.desc⟩ : Op).layer) = false →
    Completes (.groupClose p core engine group) s (fun t => t.chip.group (core * 64 + engine) group = {} ∧
      (∃ y w, t.chip.running p = some (y, w) ∧ (∃ q ∈ w.closes, q.op = k.op ∧ q.closed = true ∧
        q.totals = (s.chip.group (core * 64 + engine) group).lanes) ∧ w.issued = st.issued.filter (fun i => i.idx != k.op)) ∧
      (layerMode ((st.layerEntry k.core (⟨k.op, k.desc⟩ : Op).layer).getD []) ≠ 2 → bitsOf ((⟨k.op, k.desc⟩ : Op).get 10 1) 5 4 = 0 →
        let o : Op := ⟨k.op, k.desc⟩
        let fmt := closeFmt st k.core o
        t.chip.mem = (s.chip.writeOut fmt (s.chip.closeOut st o (s.chip.group (core * 64 + engine) group)) (o.at st 24) (o.at st 28)
          (if fmt < 3 ∧ o.get 14 2 ≠ 0xFFFF then (s.chip.listOf st k.core (o.get 14 2)).getD [] else [])).1.mem))

/-- 08 R279-R284: STEP_RUN queues the program that its arguments name; the oldest queued program that passes its checks begins, with its header's fields,
on an idle calibrated partition in Live; OP_DISPATCH appends the next descriptor that passes its checks to its queue and counts it in SEQ.DISPATCH. A
program that lies in device memory is read without a bad word (12 R426, R428). -/
def Obligations.StepsAreQueuedBegunAndDispatched : Prop :=
  (∀ (s : State) (fn p : Nat) (x : Part) (k : Cmd) (rest : List Cmd), s.chip.powered = true →
    s.chip.Starts fn 0x01 (fun _ => true) p x k rest →
    exec (.stepRun fn) s = .next (s.withChip ((s.chip.afterStart fn rest).setPart p { x with queued := x.queued ++
      [{ addr := bytesLe k.args 0 8, kind := bytesLe k.args 8 1, selector := bytesLe k.args 12 4,
         ticket := some (k.ticket fn (s.chip.func fn).era) }] }))) ∧
  (∀ (s : State) (p : Nat) (x : Part) (q : StepReq) (rest : List StepReq) (h : List Byte) (ep : Nat), s.chip.powered = true →
    s.chip.part p = some x → x.run = none → x.queued = q :: rest → s.chip.power.state = .live → x.calibrated s.chip = true →
    x.iftRun = false → (q.kind = 0 → s.chip.busMaster (p + 1) = true) →
    (s.chip.progWords p x q ((0, 64) :: (List.range (s.chip.progOps p x q)).map (fun i => (64 + 64 * i, 1)))).2 = true →
    s.chip.progCheck p x q = .ok (h, ep) →
    Completes (.stepBegin p) s (fun t => t.chip.mem = s.chip.mem ∧ t.chip.funcs = s.chip.funcs ∧ t.chip.groups = s.chip.groups ∧
      t.chip.reg (rg .seqDispatch p) = 0 ∧ t.chip.reg (rg .seqTagLo p) = BitVec.ofNat 32 (bytesLe h 16 8) ∧
      t.chip.reg (rg .seqTagHi p) = BitVec.ofNat 32 (bytesLe h 16 8 / 2 ^ 32) ∧
      ∃ y st, t.chip.running p = some (y, st) ∧ y.queued = rest ∧ st.req = q ∧ st.opCount = bytesLe h 4 4 ∧ st.opsCrc = bytesLe h 8 4 ∧
        st.deadline = (if bytesLe h 12 4 = 0 then none else some (s.chip.now + 1000 * bytesLe h 12 4)) ∧ st.tag = bytesLe h 16 8 ∧
        st.epoch = ep ∧ st.began = s.chip.now ∧ st.next = 0 ∧ st.queues = [] ∧ st.issued = [] ∧ st.handles = x.handles)) ∧
  (∀ (s : State) (p : Nat) (x : Part) (st : StepCtx) (d : List Byte) (q : Queue), s.chip.powered = true →
    s.chip.running p = some (x, st) → st.next < st.opCount → st.control = none → Tbl.get [] .control st.queues = [] →
    (st.req.kind = 0 → s.chip.busMaster (p + 1) = true) → s.chip.progRead p x st.req (64 + 64 * st.next) 64 = .ok d →
    (st.next + 1 = st.opCount → (crcFeed st.crc d ^^^ 0xFFFFFFFF) = st.opsCrc) → (⟨st.next, d⟩ : Op).dispatchOk x = true →
    (⟨st.next, d⟩ : Op).queue = some q → (Tbl.get [] q st.queues).length < 64 →
    (s.chip.progWords p x st.req [(64 + 64 * st.next, 64)]).2 = true →
    exec (.opDispatch p) s = .next (s.withChip (((s.chip.progWords p x st.req [(64 + 64 * st.next, 64)]).1.setReg (rg .seqDispatch p) (BitVec.ofNat 32 (st.next + 1))).setStep p
      { st with next := st.next + 1, crc := crcFeed st.crc d, queues := Tbl.set q (Tbl.get [] q st.queues ++ [⟨st.next, d⟩]) st.queues })))

/-- 08 R303, R305, R309, 07 R262, 14 R511: at its deadline a step ends with TIMEOUT at its lowest open op; a stall at issue that has lasted the watchdog's
limit ends it with SCOREBOARD_TIMEOUT, a FENCE that has waited its limit and a collective past its own with TIMEOUT, each at its op. Before that time
none of the four events changes anything. -/
def Obligations.StepsEndAtTheirLimits : Prop :=
  (∀ (s : State) (p : Nat) (x : Part) (st : StepCtx) (d : Nat), s.chip.powered = true → s.chip.running p = some (x, st) →
    st.deadline = some d →
    (d ≤ s.chip.now → Completes (.stepDeadlineExpiry p) s (fun t => s.chip.Failed t.chip p x st .timeout st.lowestOpen ∧
      (t.chip.reg (rg .seqStatus p)).bit 3 = true)) ∧
    (s.chip.now < d → exec (.stepDeadlineExpiry p) s = .next s)) ∧
  (∀ (s : State) (p : Nat) (q : Queue) (x : Part) (st : StepCtx) (t0 : Nat) (o : Op) (rest : List Op), s.chip.powered = true →
    s.chip.running p = some (x, st) → Tbl.find? q st.stalls = some t0 → Tbl.get [] q st.queues = o :: rest →
    (t0 + 1000 * st.watchdog ≤ s.chip.timeOn (queueDie p q) → Completes (.scoreboardTimeout p q) s (fun t =>
      s.chip.Failed t.chip p x st .scoreboardTimeout o.idx ∧ (t.chip.reg (rg .scrStatus p)).bit 0 = true)) ∧
    (s.chip.timeOn (queueDie p q) < t0 + 1000 * st.watchdog → exec (.scoreboardTimeout p q) s = .next s)) ∧
  (∀ (s : State) (p : Nat) (x : Part) (st : StepCtx) (r : ControlRec), s.chip.powered = true → s.chip.running p = some (x, st) →
    st.waiting 0x30 = some r →
    let due := r.since + 1000 * (if r.op.get 16 4 = 0 then st.watchdog else r.op.get 16 4)
    (due ≤ s.chip.now → Completes (.fenceTimeout p) s (fun t => s.chip.Failed t.chip p x st .timeout r.op.idx ∧
      (t.chip.reg (rg .seqStatus p)).bit 4 = true)) ∧
    (s.chip.now < due → exec (.fenceTimeout p) s = .next s)) ∧
  (∀ (s : State) (p op : Nat) (x : Part) (st : StepCtx) (r : RemoteRec), s.chip.powered = true → s.chip.running p = some (x, st) →
    st.remotes.find? (fun r => r.op == op && r.coll) = some r →
    (r.due ≤ s.chip.now → Completes (.collTimeout p op) s (fun t => s.chip.Failed t.chip p x st .timeout op)) ∧
    (s.chip.now < r.due → exec (.collTimeout p op) s = .next s))

/-- 08 R303, R305: a FENCE and a CHECK that issue wait; a waiting FENCE whose classes are complete and whose arrival counter has reached its value
completes and, with CONSUME, takes the value from the counter; a waiting CHECK completes once the verdicts of all earlier passes are final and earlier
closes are closed. Nothing else changes. -/
def Obligations.ControlOpsWaitForTheirConditions : Prop :=
  (∀ (s : State) (p : Nat) (x : Part) (st : StepCtx) (o : Op) (rest : List Op), s.chip.powered = true →
    s.chip.Issues p .control 0x30 x st o rest → fenceOk o = true →
    exec (.fence p) s = .next (s.withChip ((s.chip.afterIssue p .control x st o rest).setStep p
      { st.left .control rest with control := some ⟨o, s.chip.now⟩ }))) ∧
  (∀ (s : State) (p : Nat) (x : Part) (st : StepCtx) (o : Op) (rest : List Op), s.chip.powered = true →
    s.chip.Issues p .control 0x31 x st o rest →
    exec (.check p) s = .next (s.withChip ((s.chip.afterIssue p .control x st o rest).setStep p
      { st.left .control rest with control := some ⟨o, s.chip.now⟩ }))) ∧
  (∀ (s : State) (p : Nat) (x : Part) (st : StepCtx) (r : ControlRec), s.chip.powered = true → s.chip.running p = some (x, st) →
    st.waiting 0x30 = some r → (∀ k, k < 4 → (r.op.get 8 1).testBit k = true → st.classDone k r.op.idx = true) →
    (r.op.get 9 1 = 0xFF ∨ r.op.get 12 4 ≤ (s.chip.reg (rg .seqArrive p (r.op.get 9 1))).toNat) →
    let a := rg .seqArrive p (r.op.get 9 1)
    let d := if (r.op.get 10 1).testBit 0 ∧ r.op.get 9 1 ≠ 0xFF then s.chip.setReg a (s.chip.reg a - BitVec.ofNat 32 (r.op.get 12 4)) else s.chip
    exec (.fenceSatisfied p) s = .next (s.withChip (d.setStep p { st with control := none }))) ∧
  (∀ (s : State) (p : Nat) (x : Part) (st : StepCtx) (r : ControlRec), s.chip.powered = true → s.chip.running p = some (x, st) →
    st.waiting 0x31 = some r →
    ((r.op.get 8 1).testBit 0 = false ∨ ((∀ e ∈ st.passes, e.op < r.op.idx → e.suspect = []) ∧
      ∀ k ∈ st.closes, k.op < r.op.idx → k.tripped = false)) →
    (∀ q ∈ st.queues, queueClass q.1 = 0 → ∀ o ∈ q.2, r.op.idx ≤ o.idx) →
    (∀ e ∈ st.passes, e.op < r.op.idx → e.phase ≠ .issued ∧ (e.suspect = [] ∨ e.arbitrated = true)) →
    (∀ k ∈ st.closes, k.op < r.op.idx → k.closed = true) →
    exec (.checkSatisfied p) s = .next (s.withChip (s.chip.setStep p { st with control := none })))

/-- 08 R306, R307, 04 R120: a waiting COMMIT, before its deadline, with every earlier op complete, no open group, no sequence appended in some layers
only, no tripped close and publish entries that read well commits: the step ends, the partition's commits count, its groups are FREE, the published
bytes are in host memory, and its completion carries OK, CORRECTED after a correction, or DEGRADED. -/
def Obligations.CommitEndsTheStep : Prop :=
  ∀ (s : State) (p : Nat) (x : Part) (st : StepCtx) (r : ControlRec), s.chip.powered = true → s.chip.running p = some (x, st) →
    st.waiting 0x3F = some r → (∀ d, st.deadline = some d → s.chip.now < d) → st.allDone r.op.idx = true →
    s.chip.openGroupCores p x = [] → s.chip.appendShort p st = false → (∀ k ∈ st.closes, k.tripped = false) →
    (pubEntries st r.op ≠ [] → s.chip.busMaster (p + 1) = true) → (s.chip.publish p st r.op).2 = true →
    Completes (.commit p) s (fun t => t.chip.running p = none ∧
      (t.chip.part p).map Part.commits = some (x.commits + 1) ∧
      (∀ e g, firstEngine p ≤ e → e < firstEngine p + 512 * x.units → t.chip.group e g = {}) ∧
      (x.edits = [] → t.chip.host.mem =
        (pubEntries st r.op).foldl (fun m e => m.write e.2.2 (s.chip.read e.1.at e.2.1)) s.chip.host.mem) ∧
      (∀ k, st.req.ticket = some k → (s.chip.func k.fn).era = k.era → ∃ y ∈ (t.chip.func k.fn).waiting,
        y.cmdId = k.cmdId ∧ y.opIndex = none ∧ y.tag = st.tag ∧
        (st.corrected = true → y.status = .corrected) ∧ (st.corrected = false → y.status = .ok ∨ y.status = .degraded)))

/-- 06 R207-R209: a KV_APPEND that issues with pages enough pins each sequence it names, allocates the pages of the new positions, writes every entry's
keys and values from its rows, and lists its layer and Almanac with the step. Where the pool has no page left the step ends with NO_RESOURCE, and
KV.STATUS tells so. -/
def Obligations.KvAppendWritesTheCache : Prop :=
  ∀ (s : State) (p : Nat) (units : List Nat) (x : Part) (st : StepCtx) (o : Op) (rest : List Op), s.chip.powered = true →
    s.chip.Issues p .attention 0x11 x st o rest →
    let d := s.chip.afterIssue p .attention x st o rest
    let y := { x with run := some (st.left .attention rest), almClasses := ((d.part p).map Part.almClasses).getD [] }
    let a := (almRef st o inAttention).at
    let es := d.almEntries a
    let pinned := es.foldl (fun c e => match c.part p with | some x => c.usePin p x e | none => c) d
    let r := es.foldl (fun r e => if r.2 then r.1.appendPages p y e else r) (pinned, true)
    (r.2 = true → exec (.kvAppend p units) s = .next (s.withChip
      ((es.zipIdx.foldl (fun c e => c.appendEntry p y (c.attUnit y p units e.1.seq e.2) (o.get 12 2) (o.at st 16) (o.at st 20)
        (bitsOf (o.get 14 1) 1 0 == 0) e.1) r.1).updStep p (fun st => { st with appends := st.appends ++ [(o.get 12 2, a)] })))) ∧
    (r.2 = false → Completes (.kvAppend p units) s (fun t => t.chip.running p = none ∧
      (t.chip.reg (rg .kvStatus p)).bit 2 = true ∧ (t.chip.reg (rg .seqLastFail p)).toNat = 7 * 65536 + o.idx % 65536))

/-- 06 R205, R210, R220, 09 R340: an ATTEND that issues stays in progress with one outstanding fold for each entry of its Almanac and a stream unit for
each span, as commanded where that unit may take it; a KV_ROLLBACK gives the step the length that each of its sequences publishes. Both leave the
queue; a KV_ROLLBACK changes no byte of memory. -/
def Obligations.AttentionOpsIssue : Prop :=
  (∀ (s : State) (p : Nat) (units : List Nat) (x : Part) (st : StepCtx) (o : Op) (rest : List Op), s.chip.powered = true →
    s.chip.Issues p .attention 0x10 x st o rest →
    let d := s.chip.afterIssue p .attention x st o rest
    let es := d.almEntries (almRef st o inAttention).at
    Completes (.attend p units) s (fun t => ∃ y w r, t.chip.running p = some (y, w) ∧ w.attends = st.attends ++ [r] ∧ r.op = o.idx ∧
      r.desc = o.desc ∧ r.entries = List.range es.length ∧
      r.units = (es.flatMap (fun e => List.replicate (spanCount (d.kvCfg p).tokens e.len) e.seq)).zipIdx.map
        (fun e => d.attUnit x p units e.1 e.2) ∧
      w.queues = Tbl.set .attention rest st.queues ∧ (∃ i ∈ w.issued, i.idx = o.idx ∧ i.queue = .attention) ∧
      (∀ e ∈ es, ∃ u ∈ w.uses, u.seq = e.seq))) ∧
  (∀ (s : State) (p : Nat) (x : Part) (st : StepCtx) (o : Op) (rest : List Op), s.chip.powered = true →
    s.chip.Issues p .attention 0x12 x st o rest →
    let d := s.chip.afterIssue p .attention x st o rest
    exec (.kvRollback p) s = .next (s.withChip
      ((d.almEntries (almRef st o inAttention).at).zipIdx.foldl (fun c e => c.updStep p (·.updUse e.1.seq
        (fun u => { u with newLen := some (e.1.start + s.chip.le (o.at st 16 + 2 * e.2) 2) }))) d)))

/-- 06 R211-R216: the fold of an entry of an ATTEND in progress, where no word it reads is poisoned, writes the output rows of the entry's new positions,
each the normalised fold of its partials in ascending span order; the entry is no longer outstanding, and the op is complete with its last one. -/
def Obligations.AttendFoldWritesTheOutput : Prop :=
  ∀ (s : State) (p op entry : Nat) (x : Part) (st : StepCtx) (r : AttendRec), s.chip.powered = true →
    s.chip.running p = some (x, st) → st.attends.find? (fun r => r.op == op) = some r → entry ∈ r.entries →
    let o : Op := ⟨r.op, r.desc⟩
    let a := o.attnArgs st
    let e := (s.chip.almEntries (almRef st o inAttention).at).getD entry ⟨0, 0, 0, 0, 0, 0⟩
    let k := s.chip.kvCfg p
    let d := s.chip.correct p (s.chip.attnReads p x a e)
    wordsIn s.chip.ue (s.chip.attnReads p x a e) = [] →
    (st.parity = false ∨ wordsIn s.chip.damaged (s.chip.attnReads p x a e) = []) →
    Completes (.attendFold p op entry) s (fun t =>
      t.chip.mem = ((List.range e.new).flatMap (fun n => (List.range (k.heads * a.g)).map (fun h => (n, h)))).foldl (fun m w =>
        (({ d with mem := m } : Chip).writeOut (if a.bf then 3 else 4) (d.attnRow p x a e w.1 w.2)
          (a.out + ((e.qoff + w.1) * (k.heads * a.g) + w.2) * k.dim * elemBytes a.bf) 0 []).1.mem) s.chip.mem ∧
      ∃ y w, t.chip.running p = some (y, w) ∧
        (r.entries.filter (· != entry) = [] → w.attends = st.attends.filter (fun q => q.op != op) ∧ w.issued = st.issued.filter (fun i => i.idx != op)) ∧
        (r.entries.filter (· != entry) ≠ [] → w.issued = st.issued ∧
          w.attends = st.attends.map (fun q => if q.op = op then { q with entries := r.entries.filter (· != entry) } else q)))

/-- 08 R300, 14 R500, R509-R513: a COLLECTIVE that issues with its group's rank, routes to every other member and no mismatched part takes its place among
the step's remote ops, with its limit, sends its bytes to each other member, and forms DST at once where every part is there. -/
def Obligations.CollectiveSendsItsParts : Prop :=
  ∀ (s : State) (p m : Nat) (x : Part) (st : StepCtx) (o : Op) (rest : List Op) (g : CollGroup) (own : Nat), s.chip.powered = true →
    s.chip.Issues p (moverQueue p m) 0x28 x st o rest → (st.block = false ∨ s.chip.blockBad = []) →
    let d := s.chip.afterIssue p (moverQueue p m) x st o rest
    let y := { x with run := some (st.left (moverQueue p m) rest) }
    let st' := st.left (moverQueue p m) rest
    d.collGroup p y st' (o.get 22 2) = some g → d.collRank p g = some own →
    (∀ e ∈ g.chips.zipIdx, e.2 ≠ own → (d.route e.1.1).isSome = true) → x.mismatched o = [] →
    let kind := o.get 20 1
    let len := contribBytes kind (o.get 16 4) g.members
    let rec_ : RemoteRec := ⟨o.idx, o.desc, true, s.chip.now + 1000000 * st.collCfg.field 23 8⟩
    let w := st'.issue o (moverQueue p m) (planOf d p y st' o)
    let sent := (g.chips.zipIdx.filter (fun e => e.2 != own)).foldl (fun (r : Chip × List UseEvent) e =>
      let at_ := o.at st 8 + (if kind = 2 ∨ kind = 3 then e.2 * len else 0)
      let q := r.1.sendMsg p 16
        { pkt := { typ := 6, key := e.1.2, dst := e.1.1, src := d.chipNumber,
                   arg := beBytes 4 g.id ++ beBytes 4 (o.get 24 4),
                   ext := leBytes 1 own ++ leBytes 1 (kind + 16 * o.get 21 1) ++ leBytes 2 0 ++ beBytes 4 (o.get 16 4) }
          data := s.chip.read at_ len, block := st.block, base := at_, use := .collective p st.no o.idx, last := true }
      (q.1, r.2 ++ q.2)) (d.setStep p { w with remotes := w.remotes ++ [rec_] }, [])
    exec (.collective p m) s = .next (s.withChip ((sent.1.stepUses sent.2).collTry p rec_))

/-- 06 R199, R219-R223: a KV_EDIT that starts, passes the checks of receipt and names a sequence that nothing pins is applied at once: OPEN makes the
sequence VALID and empty with the given list, all of it empty; RELIST moves the kept entries to the new list; TRIM frees what lies past the length it
sets; FREE frees everything and ends VALID. Its one completion carries OK. A sequence that is pinned, or to which an edit is being applied, becomes
PENDING instead: the edit waits with EDIT set, and its first completion is PENDING with MORE. -/
def Obligations.KvEditsAreAppliedOrPend : Prop :=
  (∀ (s : State) (fn kind p : Nat) (x : Part) (k : Cmd) (rest : List Cmd), s.chip.powered = true → kind < 4 →
    s.chip.Starts fn 0x02 (fun k => bytesLe k.args 4 1 == kind) p x k rest → x.kvInit = false →
    let q := bytesLe k.args 0 4
    let e : KvEdit := { seq := q, kind := kind, args := k.args.take 32, ticket := none }
    let ptr := bytesLe e.args 8 8
    let cap := bytesLe e.args 16 4
    let arg := bytesLe e.args 20 4
    let t := k.ticket fn (s.chip.func fn).era
    let i := [Instr.kvEditOpen fn, Instr.kvEditRelist fn, Instr.kvEditTrim fn, Instr.kvEditFree fn].getD kind (.kvEditOpen fn)
    let c := s.chip
    c.editCheck p x (x.ownsSeq q) e = .ok →
    (c.seqPin p x q = 0 → c.seqApplying p x q = false →
      (kind = 1 → ceilDiv (c.seqLen p x q) (c.kvCfg p).tokens ≤ cap) → (kind = 2 → arg ≤ c.seqLen p x q) →
      Completes i s (fun u => (u.chip.func fn).waiting = (c.func fn).waiting ++ [c.entryFor t .ok] ∧ u.chip.parts = c.parts ∧
        (kind = 0 → u.chip.mem = ((((c.mem.zero (c.seqAt p x q) (c.seqAt p x q + 64)).write (c.seqAt p x q) (leBytes 8 ptr)).write
          (c.seqAt p x q + 8) (leBytes 4 cap)).write (c.seqAt p x q + 20) (leBytes 1 1)).write (physOr x p ptr) (List.replicate (4 * cap) 0xFF)) ∧
        (kind = 1 → u.chip.mem = ((((c.dropFrom p x q cap).mem.write (physOr x p ptr) (((List.range cap).map (fun i =>
          if i < c.seqCap p x q then c.entry p x q i else emptyEntry)).flatMap (leBytes 4))).write (c.seqAt p x q) (leBytes 8 ptr)).write
          (c.seqAt p x q + 8) (leBytes 4 cap))) ∧
        (kind = 2 → u.chip.mem = (((c.dropFrom p x q (ceilDiv arg (c.kvCfg p).tokens)).setSeq p x q 12 4 arg).fixSwapped p x q).mem) ∧
        (kind = 3 → u.chip.mem = (c.dropFrom p x q 0).mem.write (c.seqAt p x q + 20) (leBytes 1 0)))) ∧
    ((c.seqPin p x q ≠ 0 ∨ c.seqApplying p x q = true) → Completes i s (fun u =>
      (u.chip.func fn).waiting = (c.func fn).waiting ++ [c.entryFor t .pending 0 true] ∧
      u.chip.part p = some { x with edits := x.edits ++ [{ e with ticket := some { t with first := false } }] } ∧
      u.chip.mem = (c.seqFlag p x q 1 true).mem)))

/-- 06 R221, R222: the pending edit of a sequence whose sequences all have PIN 0 is applied: EDIT clears, the edit leaves the list, and its second
completion carries its status. While a sequence is pinned nothing changes. -/
def Obligations.PendingEditsApplyWhenUnpinned : Prop :=
  (∀ (s : State) (p q : Nat) (x : Part) (e : KvEdit) (rest : List KvEdit) (t : Ticket), s.chip.powered = true → s.chip.part p = some x →
    takeFirst (fun e => (s.chip.editSeqs p x e).contains q) x.edits = some (e, rest) → e.kind < 4 → e.handle = none → e.ticket = some t →
    (s.chip.func t.fn).era = t.era → s.chip.seqPin p x e.seq = 0 →
    let d := s.chip.seqFlag p x e.seq 1 false
    let r := (d.setPart p { x with edits := rest }).editApply p x e
    Completes (.kvEditApply p q) s (fun u => u.chip.part p = some { x with edits := rest } ∧ u.chip.mem = r.1.mem ∧
      (u.chip.func t.fn).waiting = (s.chip.func t.fn).waiting ++ [s.chip.entryFor { t with first := false } r.2])) ∧
  (∀ (s : State) (p q : Nat) (x : Part) (e : KvEdit) (rest : List KvEdit), s.chip.powered = true → s.chip.part p = some x →
    takeFirst (fun e => (s.chip.editSeqs p x e).contains q) x.edits = some (e, rest) → e.kind < 4 → s.chip.seqPin p x e.seq ≠ 0 →
    exec (.kvEditApply p q) s = .next s)

/-- 06 R229, R230, 09 R330, R333, R341: SWAP_OUT of a request that decodes or prefills, that no step holds and whose sequences nothing pins, moves its
resident pages to slots and makes it PREEMPTED, where the slots suffice; SWAP_IN of a pre-empted request that holds slots brings its pages back, where
the free pages suffice and every slot reads well with its CRC. Each completes OK; where they do not suffice it completes NO_RESOURCE. -/
def Obligations.SwapsMoveRequests : Prop :=
  ∀ (s : State) (fn p n : Nat) (x : Part) (v : Serving) (k : Cmd) (rest : List Cmd), s.chip.powered = true → x.kvInit = false →
    x.serving = some v → v.entry (bytesLe k.args 0 4) = .ok n →
    let t := k.ticket fn (s.chip.func fn).era
    let c := s.chip
    (s.chip.Starts fn 0x26 (fun _ => true) p x k rest → ((v.req n).state = .prefill ∨ (v.req n).state = .decode) →
      (v.req n).exporting = none → c.reqHeld p n = false → c.editCheck p x false (swapEdit n 4) = .ok →
      (∀ q ∈ c.editSeqs p x (swapEdit n 4), c.seqPin p x q = 0 ∧ c.seqApplying p x q = false) →
      let r := (c.afterStart fn rest).swapOut p x (c.editSeqs p x (swapEdit n 4))
      Completes (.swapOut fn) s (fun u => u.chip.mem = r.1.mem ∧ c.entryFor t r.2 ∈ (u.chip.func fn).waiting ∧
        (r.2 = .ok → ∃ y w, u.chip.part p = some y ∧ y.serving = some w ∧ (w.req n).state = .preempted ∧ (w.req n).swapped = true ∧
          (w.req n).decoding = decide ((v.req n).state = .decode)) ∧ (r.2 ≠ .ok → u.chip.parts = c.parts))) ∧
    (s.chip.Starts fn 0x27 (fun _ => true) p x k rest → (v.req n).state = .preempted → (v.req n).swapped = true →
      c.editCheck p x false (swapEdit n 5) = .ok → 
      (∀ q ∈ c.editSeqs p x (swapEdit n 5), c.seqPin p x q = 0 ∧ c.seqApplying p x q = false) →
      let r := (c.afterStart fn rest).swapIn p x (c.editSeqs p x (swapEdit n 5))
      Completes (.swapIn fn) s (fun u => u.chip.mem = r.1.mem ∧ c.entryFor t r.2 ∈ (u.chip.func fn).waiting ∧
        (r.2 = .ok → ∃ y w, u.chip.part p = some y ∧ y.serving = some w ∧ (w.req n).swapped = false ∧
          ((w.req n).state = .prefill ∨ (w.req n).state = .decode)) ∧ (r.2 ≠ .ok → u.chip.parts = c.parts))) ∧
    (s.chip.Starts fn 0x27 (fun _ => true) p x k rest → (v.req n).state = .preempted → (v.req n).swapped = false →
      exec (.swapIn fn) s = .next (s.withChip
        (if (c.afterStart fn rest).kvFreePages p x < v.firstPages n ((c.afterStart fn rest).kvCfg p).tokens then
          (c.afterStart fn rest).complete t .noResource
        else match (c.afterStart fn rest).openReq p n with
          | none => (c.afterStart fn rest).complete t .noResource
          | some d => (d.admitReq p n).complete t .ok)))

/-- 10 R354-R356, R359: SHARD_BEGIN opens a new epoch on the lowest free run, zeroed; SHARD_BEGIN with REPAIR opens the image of a live epoch again;
SHARD_DATA copies its bytes to the image from host memory, or from the partition's HBM, where a bad word or block ends it with INTEGRITY_FAIL (12
R426, R429). Each otherwise completes OK and changes nothing else. -/
def Obligations.ShardCommandsFillAnImage : Prop :=
  (∀ (s : State) (fn p lo : Nat) (x : Part) (k : Cmd) (rest : List Cmd), s.chip.powered = true →
    s.chip.Starts fn 0x10 (fun k => !(bytesLe k.record 4 1).testBit 0) p x k rest → beginOk k.record = true →
    (∀ e ∈ x.epochs, e.state ≠ .building ∧ e.state ≠ .ready) → x.lastEpoch < bytesLe k.record 0 4 →
    (s.chip.afterStart fn rest).freeRun p x (bytesLe k.record 8 8) = some lo →
    exec (.shardBegin fn) s = .next (s.withChip ((((s.chip.afterStart fn rest).zero (physOr x p lo) (bytesLe k.record 8 8)).setPart p
      { x with epochs := x.epochs ++ [{ num := bytesLe k.record 0 4, state := .building, lo := lo, size := bytesLe k.record 8 8,
                                        digest := (k.record.drop 32).take 32 }],
               lastEpoch := bytesLe k.record 0 4 }).complete (k.ticket fn (s.chip.func fn).era) .ok))) ∧
  (∀ (s : State) (fn p : Nat) (x : Part) (k : Cmd) (rest : List Cmd) (e : Epoch), s.chip.powered = true →
    s.chip.Starts fn 0x10 (fun k => (bytesLe k.record 4 1).testBit 0) p x k rest → beginOk k.record = true →
    x.epochNo (bytesLe k.record 0 4) = some e → e.state ≠ .retired → e.state ≠ .building → e.size = bytesLe k.record 8 8 →
    e.digest = (k.record.drop 32).take 32 → (∀ b, x.build = some b → b.epoch ≠ e.num) →
    exec (.shardRepair fn) s = .next (s.withChip (((s.chip.afterStart fn rest).setPart p
      (x.setEpoch { e with repair := true, committed := false })).complete (k.ticket fn (s.chip.func fn).era) .ok))) ∧
  (∀ (s : State) (fn p : Nat) (x : Part) (k : Cmd) (rest : List Cmd) (e : Epoch), s.chip.powered = true →
    s.chip.Starts fn 0x11 (fun _ => true) p x k rest → s.chip.epochCmdAhead fn 0x11 0x12 = false →
    let n := bytesLe k.record 16 4
    let src := bytesLe k.record 24 8
    let dst := physOr x p e.lo + bytesLe k.record 8 8
    let d := s.chip.afterStart fn rest
    let t := k.ticket fn (s.chip.func fn).era
    n % 64 = 0 → 64 ≤ n → n ≤ 2 ^ 30 → (bytesZero k.record 5 7 && bytesZero k.record 20 23 && bytesZero k.record 32 63) = true →
    x.epochNo (bytesLe k.record 0 4) = some e → e.committed = false → (e.state = .building ∨ e.repair = true) →
    bytesLe k.record 8 8 + n ≤ e.size →
    (∀ bs, bytesLe k.record 4 1 = 0 → s.chip.hostRead src n = .ok bs →
      exec (.shardData fn) s = .next (s.withChip ((d.write dst bs).complete t .ok))) ∧
    (∀ a, bytesLe k.record 4 1 = 1 → x.range p src n = some (a, 2) →
      let m := d.dataMove p a dst n
      exec (.shardData fn) s = .next (s.withChip (m.1.complete t (if m.2 then .ok else .integrityFail))) ∧
      (m.2 = true → m.1.mem = s.chip.mem.write dst (s.chip.read a n))))

/-- 10 R357, R359, R361-R366, 12 R426: a SHARD_COMMIT whose image reads well, matches its digest and passes its checks takes the image's tiles and layers
and programs its own tiles one by one, ending READY with OK where it has none; an image that does not match, or holds a poisoned word, ends it with
INTEGRITY_FAIL: a new image is discarded. A repair verifies every bank of the epoch. BANK_PROGRAM_DONE programs the bank of the next tile that is due:
its cells, checksum, floor and record come from the tile, its trims become 0, its failed columns are remapped, on past spares that fail, and its wear
counts; where a spare is missing the epoch is discarded with NO_RESOURCE. In a repair it has the columns that differ refreshed. -/
def Obligations.CommitsProgramTheirBanks : Prop :=
  (∀ (s : State) (fn p : Nat) (x : Part) (k : Cmd) (rest : List Cmd) (e : Epoch), s.chip.powered = true →
    s.chip.epochCmdAhead fn 0x12 0x11 = false → x.build = none → s.chip.Starts fn 0x12 (fun _ => true) p x k rest →
    bytesZero k.record 4 63 = true → x.epochNo (bytesLe k.record 0 4) = some e → e.committed = false →
    let img := physOr x p e.lo
    let d := s.chip.afterStart fn rest
    let r := d.deviceRead p [(img, img + e.size)]
    let t := k.ticket fn (s.chip.func fn).era
    (e.state = .building → e.repair = false →
      (r.2 = true → sha256Of (s.chip.read img e.size) = e.digest → r.1.commitFault p x e = none →
        exec (.shardCommit fn) s = .next (s.withChip ((r.1.setPart p { x.setEpoch (r.1.committed p x e) with
          build := some { epoch := e.num, ticket := t, todo := (r.1.committed p x e).tiles.filter (fun y => y.run == e.num) } }).buildDone p))) ∧
      (r.2 = true → sha256Of (s.chip.read img e.size) ≠ e.digest →
        exec (.shardCommit fn) s = .next (s.withChip ((r.1.setPart p { x with epochs := x.epochs.filter (fun f => f.num != e.num) }).complete
          t .integrityFail))) ∧
      (r.2 = false → exec (.shardCommit fn) s = .next (s.withChip ((r.1.discardEpoch p e.num).complete t .integrityFail)))) ∧
    (e.repair = true →
      (r.2 = true → sha256Of (s.chip.read img e.size) = e.digest →
        exec (.shardCommit fn) s = .next (s.withChip ((r.1.setPart p { x.setEpoch { e with committed := true } with
          build := some { epoch := e.num, ticket := t, todo := e.tiles } }).buildDone p))) ∧
      (r.2 = true → sha256Of (s.chip.read img e.size) ≠ e.digest →
        exec (.shardCommit fn) s = .next (s.withChip ((r.1.setPart p
          { x.setEpoch { e with repair := false, committed := false, invalid := true } with build := none }).complete t .integrityFail))))) ∧
  (∀ (s : State) (p array bank : Nat) (bad : List Nat) (x : Part) (b : Build) (e : Epoch) (t : Tile), s.chip.powered = true →
    s.chip.part p = some x → x.build = some b → x.epochNo b.epoch = some e →
    b.todo.find? (fun t => t.array == array && t.bank == bank) = some t → wordsIn s.chip.ue t.bytes = [] →
    let next : Part := { x with build := some { b with todo := b.todo.filter (· != t), done := b.done + 1 } }
    let r := s.chip.buildRemap array (s.chip.bank array bank).merged bad
    (e.repair = false → (∀ u ∈ b.todo, u.array / 2048 = array / 2048 →
        roundOf (e.tiles.filter (fun u => u.run == e.num)) t ≤ roundOf (e.tiles.filter (fun u => u.run == e.num)) u) →
      (r.ok = true → b.todo.filter (· != t) ≠ [] →
        Completes (.bankProgramDone p array bank bad) s (fun u => u.chip.mem = s.chip.mem ∧
          u.chip.bank array bank = { r.bank.programmed t (sliceCodes t.wfmt (s.chip.tileCodes t.payload t.wfmt)) with
            cleanAt := x.commits, scrubbed := [], measured := false } ∧
          (∀ a k, (a, k) ≠ (array, bank) → u.chip.bank a k = s.chip.bank a k) ∧ u.chip.part p = some next ∧
          u.chip.reg (rg .wgtEvtRemap p) = (s.chip.count (rg .wgtEvtRemap p) r.count).reg (rg .wgtEvtRemap p) ∧
          u.chip.funcs = s.chip.funcs)) ∧
      (r.ok = false → Completes (.bankProgramDone p array bank bad) s (fun u => u.chip.mem = s.chip.mem ∧
        u.chip.bank array bank = r.bank ∧ (∀ a k, (a, k) ≠ (array, bank) → u.chip.bank a k = s.chip.bank a k) ∧
        (∃ y, u.chip.part p = some y ∧ y.build = none ∧ ∀ f ∈ y.epochs, f.num ≠ e.num) ∧
        ((s.chip.func b.ticket.fn).era = b.ticket.era → ∃ w ∈ (u.chip.func b.ticket.fn).waiting, w.status = .noResource ∧
          w.cmdId = b.ticket.cmdId)))) ∧
    (e.repair = true → b.todo.filter (· != t) ≠ [] → Completes (.bankProgramDone p array bank bad) s (fun u =>
      u.chip.mem = s.chip.mem ∧ u.chip.part p = some next ∧ (∀ j ∈ bad, j ∈ (u.chip.bank array bank).refreshing) ∧
      (u.chip.bank array bank).cells = (s.chip.bank array bank).cells ∧
      ∀ a k, (a, k) ≠ (array, bank) → u.chip.bank a k = s.chip.bank a k)))

/-- 10 R369, R373-R375: EPOCH_SWITCH to a READY epoch, with none RETIRING, waits for the running step's boundary, or at once makes the epoch IN_FORCE and
the one in force RETIRING and completes OK; EPOCH_RETIRE of the RETIRING epoch sets its deadline and completes OK; while no step runs and retirement
was asked for, a RETIRING epoch that nothing selects or pins, or whose deadline has passed, becomes RETIRED and holds no tile. -/
def Obligations.EpochsSwitchAndRetire : Prop :=
  (∀ (s : State) (fn p : Nat) (x : Part) (k : Cmd) (rest : List Cmd) (e : Epoch), s.chip.powered = true →
    s.chip.Starts fn 0x13 (fun _ => true) p x k rest → bytesZero k.record 4 63 = true → x.epochNo (bytesLe k.record 0 4) = some e →
    e.state = .ready → x.epochIn .retiring = none →
    let t := k.ticket fn (s.chip.func fn).era
    (x.run.isSome = true → exec (.epochSwitch fn) s = .next (s.withChip ((s.chip.afterStart fn rest).setPart p
      { x with switch := x.switch ++ [(e.num, t)] }))) ∧
    (x.run = none → x.switch = [] → Completes (.epochSwitch fn) s (fun u =>
      (∃ y, u.chip.part p = some y ∧ y.switch = [] ∧ y.epochs = x.epochs.map (fun f =>
        if f.num = e.num then { f with state := .inForce } else if f.state = .inForce then { f with state := .retiring } else f)) ∧
      ∃ w, (u.chip.func fn).waiting = (s.chip.func fn).waiting ++ [w] ∧ (w.status = .ok ∨ w.status = .degraded) ∧ w.cmdId = k.cmdId))) ∧
  (∀ (s : State) (fn p : Nat) (x : Part) (k : Cmd) (rest : List Cmd) (e : Epoch), s.chip.powered = true →
    s.chip.Starts fn 0x14 (fun _ => true) p x k rest → (bytesZero k.record 4 7 && bytesZero k.record 16 63) = true →
    x.epochNo (bytesLe k.record 0 4) = some e → e.state = .retiring →
    let d := ((s.chip.afterStart fn rest).setPart p
      (x.setEpoch { e with retireAsked := true, retireAt := some (bytesLe k.record 8 8) })).complete (k.ticket fn (s.chip.func fn).era) .ok
    exec (.epochRetire fn) s = .next (s.withChip (if x.run.isSome then d else d.retire p))) ∧
  (∀ (s : State) (p : Nat) (x : Part) (e : Epoch), s.chip.powered = true → s.chip.part p = some x → x.run = none →
    x.epochIn .retiring = some e → e.retireAsked = true →
    ((x.pinnedTo e.num = false ∧ s.chip.selects p x e.num = false) ∨ (∃ d, e.retireAt = some d ∧ d ≤ s.chip.now)) →
    Completes (.epochRetireDeadline p) s (fun u => u.chip.banks = s.chip.banks ∧ u.chip.mem = s.chip.mem ∧
      ∃ y, u.chip.part p = some y ∧ y.epochs = x.epochs.map (fun f =>
        if f.num = e.num then { e with state := .retired, tiles := [], layers := [] } else f)))

/-- 10 R358, R360, R366-R368, 12 R426, R436, R441: a digest check that finds the image as it should be notes the time; one that does not marks the image
invalid and sets STATUS.DIGEST; one that meets a poisoned word marks it invalid, and the partition recovers. A scrub read notes a clean row, and
starts the refresh of each column in use that it finds wrong; a late finding in a bank in force sets INT_STATUS.LATE. The refresh that runs on an
array ends: its column leaves the list, and its trims become 0, at the running step's boundary or, with no step running, at once. -/
def Obligations.PeriodicChecksMendBanks : Prop :=
  (∀ (s : State) (p n : Nat) (x : Part) (e : Epoch), s.chip.powered = true → s.chip.part p = some x → x.epochNo n = some e →
    e.state ≠ .building → x.runLive n = true → s.chip.power.state = .live →
    e.lastCheck + 3600 * 10 ^ 9 * s.chip.field (rg .wgtDigestCfg p) 7 0 ≤ s.chip.liveTime →
    let img := physOr x p e.lo
    let checked (f : Epoch → Epoch) : List Epoch := x.epochs.map (fun g => if g.num = n then f { g with lastCheck := s.chip.liveTime } else g)
    let read (t : State) : Prop := t.chip.mem = s.chip.mem ∧ t.chip.banks = s.chip.banks ∧
      t.chip.reg (rg .wgtDigestTimeLo p) = BitVec.ofNat 32 s.chip.now ∧ t.chip.reg (rg .wgtDigestTimeHi p) = BitVec.ofNat 32 (s.chip.now / 2 ^ 32)
    (wordsIn s.chip.ue [(img, img + e.size)] = [] → sha256Of (s.chip.read img e.size) = e.digest →
      Completes (.digestCheck p n) s (fun t => read t ∧
        t.chip.part p = some { x with epochs := checked (fun g => { g with cleanAt := x.commits }) })) ∧
    (wordsIn s.chip.ue [(img, img + e.size)] = [] → sha256Of (s.chip.read img e.size) ≠ e.digest →
      Completes (.digestCheck p n) s (fun t => read t ∧ (t.chip.reg (rg .wgtStatus p)).bit 0 = true ∧
        t.chip.part p = some { x with epochs := checked (fun g => { g with invalid := true }) })) ∧
    (wordsIn s.chip.ue [(img, img + e.size)] ≠ [] →
      Completes (.digestCheck p n) s (fun t => read t ∧ (t.chip.reg (rg .safeIntStatus p)).bit 0 = true ∧
        t.chip.part p = some { x with recovery := true, clean := x.rounds, epochs := checked (fun g => { g with invalid := true }) }))) ∧
  (∀ (s : State) (p array bank row : Nat) (bad : List Nat) (x : Part), s.chip.powered = true → s.chip.part p = some x →
    x.bankHeld array bank = true → s.chip.power.state = .live →
    let b := s.chip.bank array bank
    let wrong := bad.filter b.inUse
    (wrong = [] → exec (.scrubRead p array bank row bad) s = .next (s.withChip
      (s.chip.setBank array bank { b with scrubbed := Tbl.set row x.commits b.scrubbed }))) ∧
    (wrong ≠ [] → Completes (.scrubRead p array bank row bad) s (fun t => t.chip.mem = s.chip.mem ∧ t.chip.parts = s.chip.parts ∧
      (∀ j ∈ wrong, j ∈ (t.chip.bank array bank).refreshing) ∧ (∀ a k, (a, k) ≠ (array, bank) → t.chip.bank a k = s.chip.bank a k) ∧
      (x.bankInForce array bank = true → (t.chip.reg (rg .safeIntStatus p)).bit 6 = true)))) ∧
  (∀ (s : State) (p array bank col : Nat) (stuck : Bool) (x : Part), s.chip.powered = true → s.chip.part p = some x →
    s.chip.refreshRuns array = some (bank, col) → p ≤ array / 2048 → array / 2048 < p + x.units → s.chip.power.state = .live →
    wordsIn s.chip.ue ((s.chip.bank array bank).imageOf col) = [] →
    let b := s.chip.bank array bank
    Completes (.refreshDone p array bank col stuck) s (fun t => t.chip.mem = s.chip.mem ∧
      (t.chip.bank array bank).rewrites = b.rewrites + 1 ∧ col ∉ (t.chip.bank array bank).refreshing ∧
      (100000 < b.rewrites + 1 → (t.chip.reg (rg .wgtStatus p)).bit 2 = true) ∧
      (stuck = false → Tbl.find? col b.foundWrong = some none →
        Tbl.find? col (t.chip.bank array bank).foundWrong = some (some x.commits)) ∧
      (x.run.isSome = true → (∀ a k, (a, k) ≠ (array, bank) → t.chip.bank a k = s.chip.bank a k) ∧
        (stuck = false → t.chip.parts = s.chip.parts ∧ (t.chip.bank array bank).zeroTrims = b.zeroTrims ++ [col])) ∧
      (x.run = none → stuck = false → (t.chip.bank array bank).zeroTrims = [] ∧
        Tbl.find? col (t.chip.bank array bank).gt = none ∧ Tbl.find? col (t.chip.bank array bank).ot = none)))

/-- 09 R321-R325, R340: a SERVE_CFG with BOUNDS_ONLY gives a serving partition new bounds for its next boundary; one whose record and plan are legal, with
no open request and room enough, makes the partition a serving one: the plan is placed in its work area, the record is in force with the blend ratio
of its role, and nothing of an earlier record remains. Both complete OK. -/
def Obligations.ServeCfgMakesAServingPartition : Prop :=
  ∀ (s : State) (fn p : Nat) (x y : Part) (k : Cmd) (rest : List Cmd), s.chip.powered = true →
    s.chip.Starts fn 0x20 (fun _ => true) p x k rest → ((s.chip.afterStart fn rest).kvEnsure p).part p = some y →
    let d := (s.chip.afterStart fn rest).kvEnsure p
    let t := k.ticket fn (s.chip.func fn).era
    let r := k.record
    (∀ v, (bytesLe r 7 1).testBit 0 = true → bytesLe r 2 1 ≤ bytesLe r 3 1 → bytesLe r 3 1 ≤ 16 → y.serving = some v →
      exec (.serveCfg fn) s = .next (s.withChip ((d.setPart p { y with serving := some { v with next := some (bytesLe r 2 1, bytesLe r 3 1) } }).complete
        t .ok))) ∧
    (∀ pl a, (bytesLe r 7 1).testBit 0 = false → s.chip.hostRead (bytesLe r 48 8) (bytesLe r 44 4) = .ok pl →
      servingOk r (s.chip.kvCfg p).tokens = true → planOk pl = true → profilesFit r pl = true → y.range p (recPlan r) (bytesLe r 64 4) = some (a, 2) →
      (∀ v, y.serving = some v → ∀ e ∈ v.requests, e.2.state = .closed) → 2 * bytesLe r 8 4 ≤ s.chip.kvSeqs p →
      recLists r ≤ recEnd r →
      Completes (.serveCfg fn) s (fun u => u.chip.mem = d.mem.write (physOr y p (recPlan r)) pl ∧
        (∃ w, u.chip.part p = some { y with serving := some w, fwResult := none } ∧ w.record = r ∧
          w.blend = (if bytesLe r 1 1 = 0 then 16 else if bytesLe r 1 1 = 1 then 0 else bytesLe r 4 1) ∧
          w.lo = bytesLe r 2 1 ∧ w.hi = bytesLe r 3 1 ∧ w.next = none ∧ w.imports = [] ∧ w.work = [] ∧ w.cur = none) ∧
        ∃ e, (u.chip.func fn).waiting = (s.chip.func fn).waiting ++ [e] ∧ (e.status = .ok ∨ e.status = .degraded) ∧ e.cmdId = k.cmdId))

/-- 09 R328-R334: REQ_OPEN of a legal record takes the lowest free entry: the request is OPEN with its input tokens and limit, and its handle is the
result of a first completion with MORE. REQ_APPEND to a request that is OPEN, PREFILL or PREEMPTED, or decodes and is not held, adds its tokens to the
input and its limit to the limit. REQ_CANCEL of a request that nothing holds closes it, and completes OK. -/
def Obligations.RequestsOpenAppendAndCancel : Prop :=
  (∀ (s : State) (fn p n : Nat) (x : Part) (v : Serving) (k : Cmd) (rest : List Cmd) (bs : List Byte), s.chip.powered = true →
    s.chip.Starts fn 0x21 (fun _ => true) p x k rest → x.serving = some v →
    requestOk v (s.chip.plan p x v) k.record = true → (v.role = 0 → (bytesLe k.record 55 1).testBit 0 = false) →
    (v.role = 1 → (bytesLe k.record 55 1).testBit 0 = true) →
    (List.range v.maxReq).find? (fun n => decide ((v.req n).state = .closed)) = some n →
    s.chip.hostRead (bytesLe k.record 0 8) (4 * bytesLe k.record 8 4) = .ok bs →
    let t := { k.ticket fn (s.chip.func fn).era with tag := bytesLe k.record 56 8 }
    Completes (.reqOpen fn) s (fun u => u.chip.mem = s.chip.mem ∧
      (u.chip.func fn).waiting = (s.chip.func fn).waiting ++
        [s.chip.entryFor t .ok (n + 65536 * (((v.req n).gen + 1) % 65536)) true] ∧
      ∃ w, u.chip.part p = some { x with serving := some w } ∧ (w.req n).state = .opened ∧ (w.req n).gen = ((v.req n).gen + 1) % 65536 ∧
        (w.req n).record = k.record ∧ (w.req n).hist = words32 bs (bytesLe k.record 8 4) ∧ (w.req n).limit = bytesLe k.record 12 4 ∧
        (w.req n).produced = 0 ∧ (w.req n).ticket = some { t with first := false } ∧
        ∀ m, m ≠ n → w.req m = v.req m)) ∧
  (∀ (s : State) (fn p n : Nat) (x : Part) (v : Serving) (k : Cmd) (rest : List Cmd), s.chip.powered = true →
    s.chip.Starts fn 0x22 (fun _ => true) p x k rest → x.serving = some v → v.entry (bytesLe k.args 0 4) = .ok n → v.role ≠ 1 →
    (v.req n).appendOk k.args = true →
    ((v.req n).state = .opened ∨ (v.req n).state = .prefill ∨ (v.req n).state = .preempted ∨
      ((v.req n).state = .decode ∧ (v.req n).exporting = none ∧ s.chip.reqHeld p n = false)) →
    let a := (s.chip.afterStart fn rest).appendAct p n k.args
    let t := k.ticket fn (s.chip.func fn).era
    exec (.reqAppend fn) s = .next (s.withChip (a.1.complete t a.2)) ∧
    (∀ bs, s.chip.hostRead (bytesLe k.args 8 8) (4 * bytesLe k.args 16 4) = .ok bs → a.2 = .ok →
      ∃ y w, a.1.part p = some y ∧ y.serving = some w ∧ (w.req n).hist = (v.req n).hist ++ words32 bs (bytesLe k.args 16 4) ∧
        (w.req n).inputs = (v.req n).inputs + bytesLe k.args 16 4 ∧ (w.req n).limit = (v.req n).limit + bytesLe k.args 20 4)) ∧
  (∀ (s : State) (fn p n : Nat) (x : Part) (v : Serving) (k : Cmd) (rest : List Cmd), s.chip.powered = true →
    s.chip.Starts fn 0x23 (fun _ => true) p x k rest → x.serving = some v → v.entry (bytesLe k.args 0 4) = .ok n →
    ((v.req n).state = .opened ∨ (v.req n).state = .prefill ∨ (v.req n).state = .preempted ∨ (v.req n).state = .decode) →
    (v.req n).exporting = none → (v.req n).cancelling = false → s.chip.reqHeld p n = false → v.importOf n = none →
    Completes (.reqCancel fn) s (fun u => (∃ y w, u.chip.part p = some y ∧ y.serving = some w ∧ (w.req n).state = .closed ∧
        (w.req n).final = some .cancelled ∧ ∀ m, m ≠ n → w.req m = v.req m) ∧
      (∃ e ∈ (u.chip.func fn).waiting, (e.status = .ok ∨ e.status = .degraded) ∧ e.cmdId = k.cmdId) ∧
      (∀ t, (v.req n).ticket = some t → (s.chip.func t.fn).era = t.era →
        ∃ e ∈ (u.chip.func t.fn).waiting, e.status = .cancelled ∧ e.cmdId = t.cmdId)))

/-- 09 R344-R346, 07 R278: KV_EXPORT of a request that decodes, to a chip that is routed, starts once no step holds the request. KV_IMPORT for an OPEN
request that awaits one, under a granted key, takes the lowest free slot: window 24 + slot opens on it, and the first completion is PENDING with the
slot and MORE. Where IMPORT_MS has passed before the header arrives, the window closes, the slot is free and the import ends with TIMEOUT. -/
def Obligations.CachesAreExportedAndImported : Prop :=
  (∀ (s : State) (fn p n : Nat) (x : Part) (v : Serving) (k : Cmd) (rest : List Cmd), s.chip.powered = true →
    s.chip.Starts fn 0x24 (fun _ => true) p x k rest → x.serving = some v → v.entry (bytesLe k.args 0 4) = .ok n →
    bytesLe k.args 8 1 < 8 → (v.req n).state = .decode → (v.req n).exporting = none →
    (s.chip.route (bytesLe k.args 4 2)).isSome = true →
    let d := s.chip.afterStart fn rest
    let t := k.ticket fn (s.chip.func fn).era
    exec (.kvExport fn) s = .next (s.withChip
      (if s.chip.reqHeld p n then d.waitReq p n 0x24 t k.args else d.exportStart p n t k.args))) ∧
  (∀ (s : State) (fn p n slot : Nat) (x : Part) (v : Serving) (k : Cmd) (rest : List Cmd), s.chip.powered = true →
    s.chip.Starts fn 0x25 (fun _ => true) p x k rest → x.kvInit = false → x.serving = some v →
    v.entry (bytesLe k.args 0 4) = .ok n → v.role ≠ 0 → (v.req n).state = .opened → ((v.req n).get 55 1).testBit 0 = true →
    v.importOf n = none → s.chip.keyGranted p (bytesLe k.args 6 2) = true →
    (List.range (v.get 68 1)).find? (fun i => (Tbl.find? i v.imports).isNone) = some slot →
    let t := k.ticket fn (s.chip.func fn).era
    Completes (.kvImport fn) s (fun u => u.chip.mem = s.chip.mem ∧
      (u.chip.func fn).waiting = (s.chip.func fn).waiting ++ [s.chip.entryFor t .pending slot true] ∧
      u.chip.reg (rg .scrWindowW0 p (24 + slot)) = BitVec.ofNat 32 (v.slotAt slot) ∧
      u.chip.reg (rg .scrWindowW2 p (24 + slot)) = BitVec.ofNat 32 (v.get 72 4 / 64) ∧
      u.chip.reg (rg .scrWindowW4 p (24 + slot)) = BitVec.ofNat 32 (bytesLe k.args 6 2) ∧
      u.chip.reg (rg .scrWindowW5 p (24 + slot)) = 3 ∧
      ∃ y w, u.chip.part p = some y ∧ y.serving = some w ∧ w.requests = v.requests ∧
        w.imports = Tbl.set slot ⟨n, t, if v.get 42 2 = 0 then none else some (s.chip.now + 1000000 * v.get 42 2)⟩ v.imports)) ∧
  (∀ (s : State) (p slot d : Nat) (x : Part) (v : Serving) (i : Import), s.chip.powered = true → s.chip.part p = some x →
    x.serving = some v → Tbl.find? slot v.imports = some i → i.due = some d →
    (d ≤ s.chip.now → Completes (.importTimeout p slot) s (fun u => u.chip.mem = s.chip.mem ∧
      u.chip.reg (rg .scrWindowW5 p (24 + slot)) = 0 ∧
      (∃ y w, u.chip.part p = some y ∧ y.serving = some w ∧ w.requests = v.requests ∧ w.imports = Tbl.del slot v.imports) ∧
      ((s.chip.func i.ticket.fn).era = i.ticket.era → (u.chip.func i.ticket.fn).waiting = (s.chip.func i.ticket.fn).waiting ++
        [s.chip.entryFor { i.ticket with first := false } .timeout slot]))) ∧
    (s.chip.now < d → exec (.importTimeout p slot) s = .next s))

/-- 06 R227, 09 R332-R343: at a boundary with no step running, and none built that has yet to run, the request processor follows up the last step and
takes bounds that wait; unless that step is to run again, waiting commands act, finished requests close, requests that the pool can never hold drain,
requests leave while pages are low if a step has committed, others are admitted, and the next step is built: the command answers the next state that
these rounds leave. A partition without a request only takes its bounds. While a step runs, or one built has yet to run, nothing happens. -/
def Obligations.ServeBoundaryDoesItsRounds : Prop :=
  ∀ (s : State) (p : Nat) (x : Part) (v : Serving), s.chip.powered = true → s.chip.part p = some x → x.serving = some v →
    (x.run.isSome = true ∨ (v.cur.isSome = true ∧ x.fwResult = none) → exec (.serveBoundary p) s = .next s) ∧
    (x.run = none → (v.cur = none ∨ x.fwResult.isSome = true) →
      let f := s.chip.followUp p
      let c1 := f.1.updSrv p (fun v => { v.newBounds with seen := x.commits })
      let c2 := (List.range v.maxReq).foldl (fun c n => c.drainLarge p n)
        ((List.range v.maxReq).foldl (fun c n => (c.waitActs p n).closeReq p n) c1)
      let c3 := if v.seen < x.commits then Chip.preemptWhile p (fun c => (c.part p).any (fun x => c.kvLow p x)) v.maxReq c2 else c2
      ∃ t, exec (.serveBoundary p) s = .next t ∧ t.pending = s.pending ∧ t.sys = s.sys ∧
        t.chip = (if f.2 then c1 else (Chip.admitAll p v.maxReq c3).nextStep p)) ∧
    (x.run = none → v.cur = none → v.requests = [] →
      ∃ t, exec (.serveBoundary p) s = .next t ∧ t.pending = s.pending ∧ t.sys = s.sys ∧
        t.chip = s.chip.setPart p { x with serving := some { v.newBounds with seen := x.commits } })

/-- 09 R332, R337: a request that has been OPEN, PREEMPTED or, where it may only be exported, in DECODE for the record's limit in ms drains with TIMEOUT,
PREEMPTED or TIMEOUT, and is closed at once where nothing holds it; before the limit, or with a limit of 0, nothing happens. -/
def Obligations.RequestsDrainAtTheirLimits : Prop :=
  ∀ (s : State) (p h : Nat) (x : Part) (v : Serving), s.chip.powered = true → s.chip.part p = some x → x.serving = some v →
    v.importOf (h % 65536) = none →
    let r := v.req (h % 65536)
    let drained (st : Status) (u : State) : Prop := ∃ y w, u.chip.part p = some y ∧ y.serving = some w ∧
      (w.req (h % 65536)).final = some st ∧ (∀ m, m ≠ h % 65536 → w.req m = v.req m) ∧
      (w.req (h % 65536)).state = (if s.chip.reqHeld p (h % 65536) = true ∨ r.exporting.isSome = true then .draining else .closed)
    let due (field : Nat) : Prop := v.get field 2 ≠ 0 ∧ r.since + 1000000 * v.get field 2 ≤ s.chip.now
    (r.state = .opened → (due 36 → Completes (.reqQueueTimeout p h) s (drained .timeout)) ∧
      (¬ due 36 → exec (.reqQueueTimeout p h) s = .next s)) ∧
    (r.state = .preempted → (due 38 → Completes (.reqPreemptTimeout p h) s (drained .preempted)) ∧
      (¬ due 38 → exec (.reqPreemptTimeout p h) s = .next s)) ∧
    (r.state = .decode → v.role = 0 → r.exporting = none → (due 40 → Completes (.reqHoldTimeout p h) s (drained .timeout)) ∧
      (¬ due 40 → exec (.reqHoldTimeout p h) s = .next s))

/-- 13 R464, R465: a poll that is due reads the doorbell page: each enabled submission ring takes its tail if the ring has such an index, and stops with
its SQ_ERR bit if not; each enabled completion ring takes its head if no entry before it is unwritten. The next poll is due POLL_NS later. Memory and
partitions stay. -/
def Obligations.DoorbellsMoveTailsAndHeads : Prop :=
  ∀ (s : State) (fn : Nat) (bs : List Byte), s.chip.powered = true → (s.chip.reg (rg .ringCtrl fn)).bit 0 = true →
    s.chip.busMaster fn = true → (s.chip.func fn).pollAt ≤ s.chip.now →
    s.chip.hostRead (s.chip.pair (rg .ringDbBaseLo fn) (rg .ringDbBaseHi fn)) 64 = .ok bs →
    Completes (.doorbellPoll fn) s (fun t => t.chip.mem = s.chip.mem ∧ t.chip.parts = s.chip.parts ∧ t.chip.host = s.chip.host ∧
      (t.chip.func fn).pollAt = s.chip.now + s.chip.field (rg .ringPollNs fn) 19 0 ∧
      (∀ n, n < 8 → s.chip.sqOn fn n = true → bytesLe bs (4 * n) 2 < s.chip.sqSize fn n →
        Tbl.get 0 n (t.chip.func fn).tails = bytesLe bs (4 * n) 2 ∧ t.chip.sqOn fn n = true) ∧
      (∀ n, n < 8 → s.chip.sqOn fn n = true → s.chip.sqSize fn n ≤ bytesLe bs (4 * n) 2 →
        t.chip.sqOn fn n = false ∧ (t.chip.reg (rg .ringStatus fn)).bit (8 + n) = true) ∧
      (∀ n, n < 8 → s.chip.cqOn fn n = true → n ∉ (s.chip.func fn).stopped → bytesLe bs (32 + 4 * n) 2 < s.chip.cqSize fn n →
        ringDist (s.chip.cqSize fn n) (Tbl.get 0 n (s.chip.func fn).heads) (bytesLe bs (32 + 4 * n) 2) ≤
          ringDist (s.chip.cqSize fn n) (Tbl.get 0 n (s.chip.func fn).heads) (s.chip.cqTail fn n) →
        Tbl.get 0 n (t.chip.func fn).heads = bytesLe bs (32 + 4 * n) 2))

/-- 13 R465-R471: the next descriptor of a ready ring whose turn it is, among the rings of every function, leaves the ring, takes a slot of its completion
ring, and is accepted with its record; one that breaks a rule of acceptance is completed at once with the rule's status. -/
def Obligations.DescriptorsAreAccepted : Prop :=
  ∀ (s : State) (fn n : Nat) (d : List Byte), s.chip.powered = true → s.chip.busMaster fn = true → n < 8 → s.chip.sqReady fn n = true →
    ((fn, n) ∈ s.chip.served → ∀ f m, f < 17 → m < 8 → s.chip.sqReady f m = true → (f, m) ∈ s.chip.served) →
    s.chip.hostRead (s.chip.pair (rg .ringSqBaseLo fn n) (rg .ringSqBaseHi fn n) + 64 * s.chip.sqHead fn n) 64 = .ok d →
    Completes (.descriptorAccept fn n) s (fun t => t.chip.mem = s.chip.mem ∧ t.chip.parts = s.chip.parts ∧ t.chip.host = s.chip.host ∧
      t.chip.reg (rg .ringSqHead fn n) = BitVec.ofNat 32 ((s.chip.sqHead fn n + 1) % s.chip.sqSize fn n) ∧
      Tbl.get 0 (s.chip.boundCq fn n) (t.chip.func fn).reserved = Tbl.get 0 (s.chip.boundCq fn n) (s.chip.func fn).reserved + 1 ∧
      (acceptCheck fn d = none → (t.chip.func fn).waiting = (s.chip.func fn).waiting ∧
        ∃ k, (t.chip.func fn).accepted = (s.chip.func fn).accepted ++ [k] ∧ k.sq = n ∧ k.cq = s.chip.boundCq fn n ∧
          k.opcode = bytesLe d 0 1 ∧ k.cmdId = bytesLe d 2 2 ∧ k.tag = bytesLe d 8 8 ∧ k.args = d.drop 16 ∧ k.time = s.chip.now ∧
          (∀ bs, recordBytes (bytesLe d 0 1) ≠ 0 → s.chip.hostRead (bytesLe d 16 8) (recordBytes (bytesLe d 0 1)) = .ok bs →
            k.record = bs ∧ k.recordErr = none)) ∧
      (∀ st, acceptCheck fn d = some st → (t.chip.func fn).accepted = (s.chip.func fn).accepted ∧
        ∃ e, (t.chip.func fn).waiting = (s.chip.func fn).waiting ++ [e] ∧ e.status = st ∧ e.cmdId = bytesLe d 2 2 ∧ e.tag = bytesLe d 8 8 ∧
          e.cq = s.chip.boundCq fn n))

/-- 13 R467, R472: the oldest completion that waits for an enabled ring that has room is written at the ring's tail, with the ring's phase in its last
byte; the tail moves on by one, and the phase flips where it wraps. Nothing of the part but the tail, the list and the reserved slots changes. -/
def Obligations.CompletionsReachTheirRing : Prop :=
  ∀ (s : State) (fn n : Nat) (k : Completion) (rest : List Completion), s.chip.power.inReset = false →
    takeFirst (fun k : Completion => k.cq == n) (s.chip.func fn).waiting = some (k, rest) → s.chip.busMaster fn = true →
    s.chip.cqOn fn n = true → n ∉ (s.chip.func fn).stopped → (k.reserved = true ∨ s.chip.cqRoom fn n = true) →
    let tail := s.chip.cqTail fn n
    let phase := s.chip.field (rg .ringCqTail fn n) 16 16
    let base := s.chip.pair (rg .ringCqBaseLo fn n) (rg .ringCqBaseHi fn n)
    let next := (tail + 1) % s.chip.cqSize fn n
    Completes (.completionWrite fn n) s (fun t => t.chip.mem = s.chip.mem ∧ t.chip.parts = s.chip.parts ∧
      t.chip.host.mem = s.chip.host.mem.write (base + 32 * tail)
        (leBytes 8 k.tag ++ leBytes 4 k.result ++ leBytes 2 k.cmdId ++ leBytes 2 k.sqHead ++ leBytes 1 k.status.code ++
          leBytes 1 (k.sq % 8 + (if k.more then 8 else 0) + (if k.opIndex.isSome then 16 else 0)) ++ leBytes 2 (k.opIndex.getD 0) ++
          leBytes 8 k.time ++ [0, 0, 0] ++ leBytes 1 phase) ∧
      t.chip.reg (rg .ringCqTail fn n) = BitVec.ofNat 32 (next + 65536 * (if next = 0 then 1 - phase else phase)) ∧
      (∀ r, r ≠ rg .ringCqTail fn n → t.chip.reg r = s.chip.reg r) ∧ (t.chip.func fn).waiting = rest ∧
      (t.chip.func fn).accepted = (s.chip.func fn).accepted ∧
      Tbl.get 0 n (t.chip.func fn).reserved = Tbl.get 0 n (s.chip.func fn).reserved - (if k.reserved then 1 else 0))

/-- 13 R478-R482: a page that is on and due is written to host memory at its base: 4,096 bytes that begin and end with the sequence number, one more than
the last, with DEVTIME after the first; nothing is due then. WRITE_NOW makes a page that is on due, and changes nothing else. -/
def Obligations.StatusPagesAreWritten : Prop :=
  (∀ (s : State) (fn : Nat), s.chip.power.inReset = false → s.chip.statOn fn = true → s.chip.busMaster fn = true →
    ((s.chip.func fn).pageDue = true ∨ (s.chip.func fn).lastPage + 1000 * s.chip.field (rg .statPeriodUs fn) 16 0 ≤ s.chip.now) →
    Completes (.statusPageWrite fn) s (fun t => t.chip.mem = s.chip.mem ∧ t.chip.parts = s.chip.parts ∧
      (t.chip.func fn).pageDue = false ∧
      let seq := (s.chip.pair (rg .statSeqLo fn) (rg .statSeqHi fn) + 1) % 2 ^ 64
      t.chip.pair (rg .statSeqLo fn) (rg .statSeqHi fn) = seq ∧
      ∃ page, page.length = 4096 ∧ page.take 8 = leBytes 8 seq ∧ page.drop 4088 = leBytes 8 seq ∧
        (page.drop 8).take 8 = leBytes 8 s.chip.now ∧
        t.chip.host.mem = s.chip.host.mem.write (s.chip.pair (rg .statPageBaseLo fn) (rg .statPageBaseHi fn)) page)) ∧
  (∀ (s : State) (fn : Nat), s.chip.powered = true → s.chip.statOn fn = true →
    exec (.statWriteNow fn) s = .next (s.withChip (s.chip.setFunc fn { s.chip.func fn with pageDue := true })))

/-- 13 R458-R461, R483, R484, R486: a ring configuration that is not refused is stored, and enabling a ring starts it empty with phase 1; Bus Master
Enable takes its value, and writes that waited for it are made, oldest first; a Function Level Reset returns the function's ring and status registers
to their reset values, keeps Bus Master Enable, and leaves none of its commands, completions or steps. A function that does not exist takes none of
them, and an inert one refuses to enable a ring. -/
def Obligations.FunctionsAreConfiguredAndReset : Prop :=
  (∀ (s : State) (fn n : Nat) (cq : Bool) (v : Word), s.chip.powered = true → s.chip.hasFunc fn = true →
    (s.chip.inert fn = false ∨ v.bit 31 = false) → s.chip.ringRefused fn cq n v = false →
    let r := rg (if cq then .ringCqCfg else .ringSqCfg) fn n
    Completes (.ringCfgWrite fn cq n v) s (fun t => t.chip.reg r = v &&& BitVec.ofNat 32 r.name.info.rw ∧ t.chip.mem = s.chip.mem ∧
      t.chip.parts = s.chip.parts ∧
      (v.bit 31 = true → (s.chip.reg r).bit 31 = false → cq = true →
        t.chip.cqTail fn n = 0 ∧ t.chip.field (rg .ringCqTail fn n) 16 16 = 1 ∧ Tbl.get 1 n (t.chip.func fn).heads = 0) ∧
      (v.bit 31 = true → (s.chip.reg r).bit 31 = false → cq = false → t.chip.sqHead fn n = 0 ∧ Tbl.get 1 n (t.chip.func fn).tails = 0) ∧
      (∀ q, q ≠ r → q ≠ rg .ringCqTail fn n → q ≠ rg .ringSqHead fn n → t.chip.reg q = s.chip.reg q))) ∧
  (∀ (s : State) (fn n : Nat) (cq : Bool) (v : Word), s.chip.powered = true → s.chip.hasFunc fn = true →
    (s.chip.inert fn = true → v.bit 31 = true →
      exec (.ringCfgWrite fn cq n v) s = .next (s.withChip (s.chip.setBits (rg .ringStatus fn) 2))) ∧
    ((s.chip.inert fn = false ∨ v.bit 31 = false) → s.chip.ringRefused fn cq n v = true →
      exec (.ringCfgWrite fn cq n v) s = .next (s.withChip (s.chip.setBits (rg .ringStatus fn) 1)))) ∧
  (∀ (s : State) (fn n : Nat) (cq on : Bool) (v : Word), s.chip.hasFunc fn = false →
    exec (.ringCfgWrite fn cq n v) s = .next s ∧ exec (.bmeWrite fn on) s = .next s ∧ exec (.functionLevelReset fn) s = .next s) ∧
  (∀ (s : State) (fn : Nat) (on : Bool), s.chip.power.inReset = false → s.chip.hasFunc fn = true →
    Completes (.bmeWrite fn on) s (fun t => (t.chip.func fn).bme = on ∧ t.chip.regs = s.chip.regs ∧ t.chip.mem = s.chip.mem ∧
      t.chip.parts = s.chip.parts ∧
      (on = true → s.chip.hostUp = true → (t.chip.func fn).writes = [] ∧
        t.chip.host.mem = (s.chip.func fn).writes.foldl (fun m w => m.write w.1 w.2) s.chip.host.mem) ∧
      ((on = false ∨ s.chip.hostUp = false) → t.chip.host = s.chip.host ∧ (t.chip.func fn).writes = (s.chip.func fn).writes))) ∧
  (∀ (s : State) (fn : Nat), s.chip.power.inReset = false → s.chip.hasFunc fn = true →
    Completes (.functionLevelReset fn) s (fun t => (t.chip.func fn).bme = (s.chip.func fn).bme ∧ (t.chip.func fn).accepted = [] ∧
      (t.chip.func fn).waiting = [] ∧ (t.chip.func fn).writes = [] ∧ (t.chip.func fn).tails = [] ∧ (t.chip.func fn).heads = [] ∧
      (∀ r, r.blk = fn → (r.name.info.block = .ring ∨ r.name.info.block = .stat) → t.chip.reg r = r.reset) ∧
      (∀ p, s.chip.partOf fn = some p → t.chip.running p = none ∧ (t.chip.part p).map Part.queued = some [])))

/-- 13 R459: where the host does not complete a read in time, a doorbell read sets HOSTIF.STATUS.DB_ERR, a descriptor read stops its ring, a command ends
with TIMEOUT, and a step whose program lies in host memory ends with TIMEOUT at 0xFFFF. -/
def Obligations.LateHostReadsTimeOut : Prop :=
  ∀ (s : State) (fn : Nat), s.chip.powered = true → s.chip.busMaster fn = true →
    ((s.chip.reg (rg .ringCtrl fn)).bit 0 = true →
      exec (.completionTimeout fn .doorbell) s = .next (s.withChip (s.chip.setBits (rg .hostifStatus fn) 4))) ∧
    (∀ n, n < 8 → s.chip.sqReady fn n = true → Completes (.completionTimeout fn (.descriptor n)) s (fun t =>
      t.chip.sqOn fn n = false ∧ (t.chip.reg (rg .ringStatus fn)).bit (8 + n) = true ∧ t.chip.mem = s.chip.mem ∧ t.chip.funcs = s.chip.funcs)) ∧
    (∀ sq id k rest, takeFirst (fun k : Cmd => k.sq == sq && k.cmdId == id) (s.chip.func fn).accepted = some (k, rest) →
      exec (.completionTimeout fn (.command sq id)) s = .next (s.withChip ((s.chip.afterStart fn rest).complete
        (k.ticket fn (s.chip.func fn).era) .timeout))) ∧
    (∀ p x st, s.chip.partOf fn = some p → s.chip.running p = some (x, st) → st.req.kind = 0 →
      Completes (.completionTimeout fn .step) s (fun t => s.chip.Failed t.chip p x st .timeout 0xFFFF))

/-- 13 R475-R477: CAL_REQUEST waits for an Accord measured since its acceptance on every engine it covers; PART_QUERY of a VF writes its partition's
record, of the management function one for every unit, and completes OK; TELEM_SNAPSHOT writes its record and completes OK. -/
def Obligations.QueriesAnswer : Prop :=
  ∀ (s : State) (fn : Nat) (k : Cmd) (rest : List Cmd), s.chip.powered = true →
    let d := s.chip.afterStart fn rest
    let t := k.ticket fn (s.chip.func fn).era
    (takeFirst (fun k : Cmd => k.opcode == 0x30) (s.chip.func fn).accepted = some (k, rest) →
      (fn = 0 → exec (.calRequest fn) s = .next (s.withChip ({ d with calWait := s.chip.calWait ++ [(t, k.time, 0, 8192)] } : Chip).calDone)) ∧
      (∀ p x, s.chip.partOf fn = some p → s.chip.part p = some x → exec (.calRequest fn) s = .next (s.withChip
        ({ d with calWait := s.chip.calWait ++ [(t, k.time, 512 * p, 512 * x.units)] } : Chip).calDone))) ∧
    (takeFirst (fun k : Cmd => k.opcode == 0x31) (s.chip.func fn).accepted = some (k, rest) →
      (fn = 0 → exec (.partQuery fn) s = .next (s.withChip
        ((d.hostWrite 0 (bytesLe k.args 0 8) ((List.range 16).flatMap s.chip.partRecord)).complete t .ok))) ∧
      (∀ p, s.chip.partOf fn = some p → exec (.partQuery fn) s = .next (s.withChip
        ((d.hostWrite fn (bytesLe k.args 0 8) (s.chip.partRecord p)).complete t .ok)))) ∧
    (takeFirst (fun k : Cmd => k.opcode == 0x32) (s.chip.func fn).accepted = some (k, rest) →
      exec (.telemSnapshot fn) s = .next (s.withChip ((d.hostWrite fn (bytesLe k.args 0 8) s.chip.snapshot).complete t .ok)))

/-- 01 R26, R27, R29, 00 R8-R11, 15 R533, R543: a write lands where its address says: bytes in memory or in the mailbox window; 32 bits in a register,
whose writable bits take the value; 64 bits in the two registers from the offset on; a narrow write of a register, or one where nothing lies, changes
nothing. A write of any width to a register that its agent may not write, or to the Warden's range by another agent, changes no register: it is
counted once and recorded. Each byte of HBM has a stack, a pseudo-channel and a place there of its own. -/
def Obligations.WritesLandWhereTheyAim : Prop :=
  (∀ (s : State) (t : Target) (v : DWord), s.chip.power.inReset = false → busErrorAt t = none →
    (∀ n a, s.chip.spot t = .memory a → exec (.registerWrite t n v) s = .next (s.withChip (s.chip.write a (leBytes n v.toNat)))) ∧
    (∀ n off, s.chip.spot t = .mailbox off → exec (.registerWrite t n v) s = .next (s.withChip
      { s.chip with mbxWindow := s.chip.mbxWindow.write off (leBytes n v.toNat) })) ∧
    (∀ n, (s.chip.spot t = .empty ∨ s.chip.spot t = .unmapped) → s.chip.denies t = false → n ≠ 8 →
      exec (.registerWrite t n v) s = .next s) ∧
    ((∀ a, s.chip.spot t ≠ .memory a ∧ s.chip.spot t ≠ .mailbox a) → s.chip.denies t = false → s.chip.denies (plusOf t 4) = false →
      exec (.registerWrite t 8 v) s = .next (s.withChip ((s.chip.busWrite t (BitVec.ofNat 32 v.toNat)).busWrite (plusOf t 4)
        (BitVec.ofNat 32 (v.toNat / 2 ^ 32))))) ∧
    (∀ r, s.chip.spot t = .reg r → offOf t % 4 = 0 → s.chip.denies t = !s.chip.mayWrite (agentOf t) r) ∧
    (s.chip.spot t = .empty → offOf t % 4 = 0 → s.chip.denies t = (match t with
      | .bar0 _ _ => false
      | .phys who a => decide (0x3F000000000 ≤ a) && decide (who ≠ s.chip.warden))) ∧
    (∀ r, s.chip.spot t = .reg r → offOf t % 4 = 0 → s.chip.mayWrite (agentOf t) r = true →
      (∀ n, n < 4 → exec (.registerWrite t n v) s = .next s) ∧
      ((governedBlock r.name.info.block = true → s.chip.governing r.blk = r.blk) →
        (∀ off, t = .bar0 0 off → r.name.info.block ≠ .therm ∧ r.name.info.block ≠ .telem) →
        r.name ∈ [RegName.ringCtrl, .engArraySel, .accGroupSel, .fixLayerBase, .fixBindBase, .fixOlistBase, .fixTableCfg, .kvPoolCfg,
          .almClassSel, .iltPCfg, .wgtArraySel, .calEngSel, .telemChSel, .thermSensorSel, .linkSakSel, .iltRetry, .iltUdp, .iltKeys,
          .vicCtrl, .vicSrcCfg, .vicHoldoff, .pwrCfg, .fwuRollbackSel] →
        Completes (.registerWrite t 4 v) s (fun u => u.chip.mem = s.chip.mem ∧ u.chip.parts = s.chip.parts ∧
          u.chip.reg r = ((s.chip.reg r &&& ~~~(BitVec.ofNat 32 r.name.info.rw)) ||| (BitVec.ofNat 32 v.toNat &&& BitVec.ofNat 32 r.name.info.rw)) ∧
          ∀ q, q ≠ r → u.chip.reg q = s.chip.reg q))) ∧
    (∀ n, (∀ a, s.chip.spot t ≠ .memory a ∧ s.chip.spot t ≠ .mailbox a) →
      (s.chip.denies t = true ∨ (n = 8 ∧ s.chip.denies (plusOf t 4) = true)) →
      Completes (.registerWrite t n v) s (fun u => u.chip.mem = s.chip.mem ∧ u.chip.parts = s.chip.parts ∧
        u.chip.reg (rg .safeEvtProtWrite) = (s.chip.count (rg .safeEvtProtWrite)).reg (rg .safeEvtProtWrite) ∧
        u.chip.reg (rg .safeProtLastLo) = BitVec.ofNat 32 (offsetOf t) ∧
        u.chip.reg (rg .safeProtLastHi) = BitVec.ofNat 32 (offsetOf t / 2 ^ 32) ∧
        ∀ q, q ≠ rg .safeEvtProtWrite → q ≠ rg .safeProtLastLo → q ≠ rg .safeProtLastHi → q ≠ rg .safeProtAgent →
          u.chip.reg q = s.chip.reg q))) ∧
  (∀ d h o, d < 8 → h < 2 → o < hbmUnit → let g := o / 256
    placeOf ((2 * d + h) * hbmUnit + o) = some ⟨d * 3 + g % 3, h * 32 + g / 3 % 32, g / 96 * 256 + o % 256⟩) ∧
  (∀ a b p, placeOf a = some p → placeOf b = some p → a = b)

/-- 00 R12, 01 R28: a read of an unimplemented offset within BAR0 returns 0, and a write to one is discarded without error. An access by a control
processor to a physical offset outside the map is a bus error, whichever of the register accesses it is; nothing is written. -/
def Obligations.AccessesWhereNothingLies : Prop :=
  (∀ (s : State) (fn off : Nat), s.chip.spot (.bar0 fn off) = .empty →
    s.busRead (.bar0 fn off) = (s, 0) ∧ ∀ n v, s.chip.spot (.bar0 fn (off / 4 * 4)) = .empty →
      (n = 8 → s.chip.spot (.bar0 fn (off + 4)) = .empty ∧ s.chip.spot (.bar0 fn ((off + 4) / 4 * 4)) = .empty) →
      exec (.registerWrite (.bar0 fn off) n v) s = .next s) ∧
  (∀ (s : State) (who : Agent) (a : Nat), s.chip.power.inReset = false → mapped a = false → who.num < 5 →
    (∀ n v, exec (.registerWrite (.phys who a) n v) s = .fault (.busError a)) ∧
    (∀ v, exec (.statusBitClear (.phys who a) v) s = .fault (.busError a)) ∧
    (∀ v, exec (.counterClear (.phys who a) v) s = .fault (.busError a)) ∧
    exec (.pairLowRead (.phys who a)) s = .fault (.busError a) ∧
    (∀ v, exec (.pairHighWrite (.phys who a) v) s = .fault (.busError a)))

/-- 00 R9, R12: a write of a status register clears the bits of its RW1C mask that are written as 1, and no other; a write of an EVT_CLEAR register clears
the counters that its bits select, and no other. -/
def Obligations.StatusBitsAndCountersClear : Prop :=
  ∀ (s : State) (t : Target) (v : Word) (r : Reg), s.chip.power.inReset = false → busErrorAt t = none → s.chip.spot t = .reg r →
    s.chip.mayWrite (agentOf t) r = true → (governedBlock r.name.info.block = true → s.chip.governing r.blk = r.blk) →
    (∀ off, t = .bar0 0 off → r.name.info.block ≠ .therm ∧ r.name.info.block ≠ .telem) →
    (r.name.info.w1c ≠ 0 → r.name ≠ .vicPending → Completes (.statusBitClear t v) s (fun u =>
      u.chip.reg r = s.chip.reg r &&& ~~~(v &&& BitVec.ofNat 32 r.name.info.w1c) ∧ u.chip.mem = s.chip.mem ∧ u.chip.parts = s.chip.parts ∧
      ∀ q, q ≠ r → u.chip.reg q = s.chip.reg q)) ∧
    (∀ base, evtBase r.name = some base → Completes (.counterClear t v) s (fun u => u.chip.mem = s.chip.mem ∧ u.chip.parts = s.chip.parts ∧
      (∀ b k, b < 32 → r.name.info.wo.testBit b = true → v.bit b = true → regAt r.name.info.block r.blk (base + 4 * b) = some k →
        k.name ≠ r.name → u.chip.reg k = 0) ∧
      (∀ q, (∀ b, b < 32 → r.name.info.wo.testBit b = true → v.bit b = true → regAt r.name.info.block r.blk (base + 4 * b) ≠ some q) →
        u.chip.reg q = s.chip.reg q)))

/-- 00 R11: a read of the low half of a pair returns it and holds the high half as it stands for the next read of that half; a write of the high half of a
pair that is not locked stores both halves at once, the low one as it was last written. -/
def Obligations.PairsAreReadAndWrittenWhole : Prop :=
  (∀ (s : State) (t : Target) (r : Reg) (h : RegName), s.chip.power.inReset = false → busErrorAt t = none → s.chip.spot t = .reg r →
    pairHigh r.name = some h →
    let g := s.chip.governs r
    exec (.pairLowRead t) s = .next (s.withChip { s.chip with
      readData := s.sysReg g, latch := Tbl.set { g with name := h } (s.sysReg { g with name := h }) s.chip.latch })) ∧
  (∀ (s : State) (t : Target) (v w : Word) (r : Reg) (l : RegName), s.chip.power.inReset = false → busErrorAt t = none →
    s.chip.spot t = .reg r → s.chip.mayWrite (agentOf t) r = true →
    (governedBlock r.name.info.block = true → s.chip.governing r.blk = r.blk) → pairLow r.name = some l →
    r.name ∈ [RegName.statPageBaseHi, .ringDbBaseHi, .ringSqBaseHi, .ringCqBaseHi, .iltPGroupBaseHi, .vicVbaseHi] →
    s.chip.baseLocked r = none → Tbl.find? { r with name := l } s.chip.latch = some w →
    Completes (.pairHighWrite t v) s (fun u => u.chip.mem = s.chip.mem ∧ u.chip.parts = s.chip.parts ∧
      u.chip.reg r = ((s.chip.reg r &&& ~~~(BitVec.ofNat 32 r.name.info.rw)) ||| (v &&& BitVec.ofNat 32 r.name.info.rw)) ∧
      u.chip.reg { r with name := l } = ((s.chip.reg { r with name := l } &&& ~~~(BitVec.ofNat 32 l.info.rw)) |||
        (w &&& BitVec.ofNat 32 l.info.rw)) ∧
      ∀ q, q ≠ r → q ≠ { r with name := l } → u.chip.reg q = s.chip.reg q))

/-- 07 R258, R265, R268, R277, R278, 09 R320: a handle's last word, written while the handle is not firmware's, commits the entry where its words name a
buffer wholly in the region they give, closes it where VALID is 0, and else is refused with STATUS.HANDLE; a window's last word commits its words
where they name a buffer, a granted key and a range of sources, and else is refused with STATUS.WINDOW; one that closes a window remembers what the
window has admitted and not yet landed. -/
def Obligations.HandlesAndWindowsCommit : Prop :=
  (∀ (s : State) (p n : Nat) (v : Word) (x : Part), s.chip.powered = true → s.chip.part p = some x → x.ownsHandle n = false →
    let w3 := (s.chip.plainWrite (rg .scrHandleW3 p n) v).reg (rg .scrHandleW3 p n)
    let base := (s.chip.reg (rg .scrHandleW0 p n)).toNat + 2 ^ 32 * (s.chip.reg (rg .scrHandleW1 p n)).toNat
    let bytes := 64 * (s.chip.reg (rg .scrHandleW2 p n)).field 21 0
    (w3.field 2 1 ≠ 3 → w3.bit 0 = false → Completes (.handleCommit p n v) s (fun t =>
      t.chip.part p = some { x with handles := Tbl.del n x.handles } ∧ t.chip.mem = s.chip.mem)) ∧
    (∀ a, w3.field 2 1 ≠ 3 → w3.bit 0 = true → x.buffer p base bytes = some (a, w3.field 2 1) → 0 < bytes → bytes ≤ 2 ^ 27 →
      Completes (.handleCommit p n v) s (fun t => t.chip.mem = s.chip.mem ∧
        t.chip.part p = some { x with handles := Tbl.set n ⟨a, bytes, w3.field 2 1, w3.bit 3⟩ x.handles })) ∧
    ((w3.field 2 1 = 3 ∨ (w3.bit 0 = true ∧ x.buffer p base bytes = none)) → Completes (.handleCommit p n v) s (fun t =>
      t.chip.parts = s.chip.parts ∧ (t.chip.reg (rg .scrStatus p)).bit 1 = true))) ∧
  (∀ (s : State) (p n : Nat) (v : Word) (x : Part), s.chip.powered = true → s.chip.part p = some x → x.ownsWindow n = false →
    let c := s.chip.plainWrite (rg .scrWindowW5 p n) v
    let ws := windowRegs.map (fun k => c.reg (rg k p n))
    let legal := 0 < (ws.getD 2 0).field 25 0 ∧
      (x.buffer p ((ws.getD 0 0).toNat + 2 ^ 32 * (ws.getD 1 0).toNat) (64 * (ws.getD 2 0).field 25 0)).isSome = true ∧
      s.chip.keyGranted p ((ws.getD 4 0).field 15 0) = true ∧ (ws.getD 3 0).field 15 0 ≤ (ws.getD 3 0).field 31 16
    (((ws.getD 5 0).bit 0 = false ∨ legal) → Completes (.windowCommit p n v) s (fun t => t.chip.mem = s.chip.mem ∧
      t.chip.part p = some { x with
        windows := Tbl.set n ws x.windows
        closing := if (ws.getD 5 0).bit 0 then x.closing
          else Tbl.set n (Tbl.get [] n x.closing ++ s.chip.landing p (Tbl.get [] n x.windows)) x.closing })) ∧
    ((ws.getD 5 0).bit 0 = true → ¬ legal → Completes (.windowCommit p n v) s (fun t =>
      t.chip.parts = s.chip.parts ∧ (t.chip.reg (rg .scrStatus p)).bit 2 = true)))

/-- 06 R238, 10 R381, 05 R180, 14 R511, R520: a write of the KV configuration while no sequence is VALID, and of the image region while no epoch is live,
takes effect where the registers then keep their rules, and marks the metadata to be initialised or the settings to be saved; else it is refused with
STATUS.CFG, and so it is while one is. FORCE asks for DEGRADED at the next commit; RESET_TAGS makes every next tag 0, while a step runs at its
boundary. -/
def Obligations.PartitionControlsTakeEffect : Prop :=
  (∀ (s : State) (p off : Nat) (v : Word) (x : Part) (r : Reg), s.chip.powered = true → s.chip.part p = some x → regAt .kv p off = some r →
    r.name ∈ [RegName.kvCfg, .kvPoolPages, .kvSeqCount, .kvSwapSlots] →
    let c := s.chip.plainWrite r v
    (s.chip.anyValid p x = false → c.kvConfigOk p x = true →
      exec (.kvCfgWrite p off v) s = .next (s.withChip (c.setPart p { x with kvInit := true }))) ∧
    ((s.chip.anyValid p x = true ∨ c.kvConfigOk p x = false) →
      exec (.kvCfgWrite p off v) s = .next (s.withChip (s.chip.setBits (rg .kvStatus p) 2)))) ∧
  (∀ (s : State) (p off : Nat) (v : Word) (x : Part) (r : Reg), s.chip.powered = true → s.chip.part p = some x → regAt .wgt p off = some r →
    r.name = .wgtImageSize →
    let c := s.chip.plainWrite r v
    ((∀ e ∈ x.epochs, e.state = .retired) → c.imageRegionOk p x = true →
      exec (.imageRegionWrite p off v) s = .next (s.withChip { c with settingsDue := true })) ∧
    (((∃ e ∈ x.epochs, e.state ≠ .retired) ∨ c.imageRegionOk p x = false) →
      exec (.imageRegionWrite p off v) s = .next (s.withChip (s.chip.setBits (rg .wgtStatus p) 16)))) ∧
  (∀ (s : State) (p : Nat) (x : Part), s.chip.powered = true → s.chip.part p = some x →
    exec (.degradedForce p) s = .next (s.withChip (s.chip.setPart p { x with force := true })) ∧
    (x.run.isSome = true → exec (.resetTags p) s = .next (s.withChip (s.chip.setPart p { x with resetTags := true }))) ∧
    (x.run = none → exec (.resetTags p) s = .next (s.withChip (s.chip.setPart p { x with nextTags := [] }))))

/-- 15 R521, R522, R524, R526-R528, 16 R571: PART_CREATE of free consecutive units makes their partition and answers its lowest unit; a mask that is empty
or has a gap is MALFORMED, a unit that is not FREE, or an open unlock, STATE. PART_RELEASE ends the partition, revokes its keys and scrubs its units;
a scrub that is done zeroes memory, erases banks and resets registers, and leaves units FREE or, where it failed, FAILED. -/
def Obligations.PartitionsAreMadeReleasedAndScrubbed : Prop :=
  (∀ (s : State) (req : MbxReq) (strict : Bool), s.Serves req →
    (∀ u n, 0 < n → u + n ≤ 16 → s.sys.dbg.unlocked = false → (∀ v, u ≤ v → v < u + n → (s.chip.unit v).1 = .free) →
      Completes (.partCreate req ((2 ^ n - 1) * 2 ^ u) strict) s (fun t => s.Answered t req .ok u ∧
        t.chip.part u = some {
          units := n, strict := strict, strictNext := strict,
          parityNow := (s.chip.reg (rg .safeIntCfg u)).bit 0, blockNow := (s.chip.reg (rg .safeIntCfg u)).bit 1,
          iftPeriod := (s.chip.reg (rg .safeIntCfg u)).field 31 16, iftDefer := (s.chip.reg (rg .safeIntCfg u)).field 15 8 } ∧
        (∀ v, u ≤ v → v < u + n → t.chip.unit v = (.active, u)) ∧
        (∀ v, (v < u ∨ u + n ≤ v) → t.chip.unit v = s.chip.unit v) ∧ (∀ p, p ≠ u → t.chip.part p = s.chip.part p) ∧
        t.chip.mem = s.chip.mem ∧ t.chip.regs = s.chip.regs ∧ t.chip.banks = s.chip.banks)) ∧
    (∀ m, m < 2 ^ 16 → (m = 0 ∨ ∃ i j k, i < j ∧ j < k ∧ m.testBit i = true ∧ m.testBit j = false ∧ m.testBit k = true) →
      Completes (.partCreate req m strict) s (fun t => s.Answered t req .malformed ∧ t.chip.parts = s.chip.parts ∧ t.chip.units = s.chip.units)) ∧
    (∀ u n, 0 < n → u + n ≤ 16 → (s.sys.dbg.unlocked = true ∨ ∃ v, u ≤ v ∧ v < u + n ∧ (s.chip.unit v).1 ≠ .free) →
      Completes (.partCreate req ((2 ^ n - 1) * 2 ^ u) strict) s (fun t => s.Answered t req .state ∧ t.chip.parts = s.chip.parts ∧
        t.chip.units = s.chip.units))) ∧
  (∀ (s : State) (req : MbxReq) (p : Nat) (x : Part), s.Serves req → s.chip.part p = some x →
    Completes (.partRelease req p) s (fun t => t.chip.part p = none ∧ t.chip.scrub = some (req, p, false) ∧
      (∀ u, p ≤ u → u < p + x.units → t.chip.unit u = (.scrubbing, p)) ∧
      (∀ k ∈ s.chip.keysOf p, t.chip.keyValid k = false ∧ ∀ f ∈ t.chip.fab.flows, 4096 ≤ f.1 → f.2.key ≠ k) ∧
      (∀ f ∈ t.chip.fab.flows, f.1 < 4096 → f.2.owner ≠ p)) ∧
    (∀ strict, Completes (.partStrict req p strict) s (fun t => s.Answered t req .ok ∧ t.chip.part p = some { x with strictNext := strict } ∧
      t.chip.mem = s.chip.mem))) ∧
  (∀ (s : State) (req : MbxReq) (p : Nat), s.Serves req → s.chip.part p = none → ∀ strict,
    Completes (.partRelease req p) s (fun t => s.Answered t req .state ∧ t.chip.parts = s.chip.parts) ∧
    Completes (.partStrict req p strict) s (fun t => s.Answered t req .state ∧ t.chip.parts = s.chip.parts)) ∧
  (∀ (s : State) (req : MbxReq) (u : Nat), s.Serves req →
    ((s.chip.unit u).1 = .failed → Completes (.unitScrub req u) s (fun t => t.chip.scrub = some (req, u, true) ∧ t.chip.units = s.chip.units)) ∧
    ((s.chip.unit u).1 ≠ .failed → Completes (.unitScrub req u) s (fun t => s.Answered t req .state ∧ t.chip.scrub = none))) ∧
  (∀ (s : State) (req : MbxReq) (p : Nat) (one : Bool) (failed : List Nat), s.chip.powered = true → s.chip.scrub = some (req, p, one) →
    s.chip.scrubUnits p ≠ [] →
    Completes (.partScrubDone p failed) s (fun t => t.chip.scrub = none ∧ t.chip.parts = s.chip.parts ∧
      s.Answered t req (if ∃ u ∈ s.chip.scrubUnits p, u ∈ failed then .integrityFail else .ok) ∧
      ∀ u ∈ s.chip.scrubUnits p, t.chip.unit u = (if u ∈ failed then .failed else .free, 0) ∧
        (∀ a, u * hbmUnit ≤ a → a < (u + 1) * hbmUnit → t.chip.mem.byte a = 0) ∧
        (∀ a b, a / 2048 = u → (t.chip.bank a b).cells = [] ∧ (t.chip.bank a b).layer = none) ∧
        (∀ r, inUnit u r = true → t.chip.reg r = r.reset)))

/-- 14 R518, 15 R524: KEY_GRANT gives a key that is not 0, not VALID and within the 16 of an ACTIVE partition to it; KEY_REVOKE makes a VALID key not
VALID and closes every window that carries it. REG_READ answers with a register of the die, package and Warden ranges, and is DENIED outside;
REG_WRITE writes the registers listed for it, and is DENIED for others. -/
def Obligations.KeysAndRegistersAreTheWardens : Prop :=
  (∀ (s : State) (req : MbxReq) (key p : Nat), s.Serves req → p < 16 → key < 2 ^ 16 →
    (key ≠ 0 → s.chip.keyValid key = false → (s.chip.part p).isSome = true → (s.chip.keysOf p).length < 16 →
      Completes (.keyGrant req key p) s (fun t => s.Answered t req .ok ∧ t.chip.keyValid key = true ∧ t.chip.keyByte key = 128 + p ∧
        (∀ k, k ≠ key → t.chip.keyByte k = s.chip.keyByte k) ∧ t.chip.parts = s.chip.parts ∧ t.chip.mem = s.chip.mem)) ∧
    (key = 0 → Completes (.keyGrant req key p) s (fun t => s.Answered t req .malformed ∧ t.chip.regs = s.chip.regs)) ∧
    (key ≠ 0 → (s.chip.keyValid key = true ∨ s.chip.part p = none) →
      Completes (.keyGrant req key p) s (fun t => s.Answered t req .state ∧ t.chip.regs = s.chip.regs)) ∧
    (key ≠ 0 → s.chip.keyValid key = false → (s.chip.part p).isSome = true → 16 ≤ (s.chip.keysOf p).length →
      Completes (.keyGrant req key p) s (fun t => s.Answered t req .noResource ∧ t.chip.regs = s.chip.regs)) ∧
    (s.chip.keyValid key = true → Completes (.keyRevoke req key) s (fun t => s.Answered t req .ok ∧ t.chip.keyValid key = false ∧
      (∀ k, k ≠ key → t.chip.keyByte k = s.chip.keyByte k) ∧ t.chip.mem = s.chip.mem ∧
      ∀ q x n ws, t.chip.part q = some x → Tbl.find? n x.windows = some ws → (ws.getD 4 0).field 15 0 = key → (ws.getD 5 0).bit 0 = false)) ∧
    (s.chip.keyValid key = false → Completes (.keyRevoke req key) s (fun t => s.Answered t req .state ∧ t.chip.regs = s.chip.regs))) ∧
  (∀ (s : State) (req : MbxReq) (a : Nat), s.wardenServes = true →
    (registerRange a = false → Completes (.regRead req a) s (fun t => s.Answered t req .denied ∧ t.chip.regs = s.chip.regs)) ∧
    (∀ r, registerRange a = true → physSpot a = .reg r → pairLow r.name = none → Completes (.regRead req a) s (fun t =>
      s.Answered t req .ok (s.sysReg (s.chip.governs r)).toNat ∧ t.chip.regs = s.chip.regs ∧ t.chip.parts = s.chip.parts))) ∧
  (∀ (s : State) (req : MbxReq) (a : Nat) (v : Word) (r : Reg), s.Serves req → physSpot a = .reg r →
    (r.name ∈ [RegName.iltChip, .iltTorus, .iltRoute, .iltNextHop, .linkMacLo, .linkMacHi, .linkIp, .telemCfg] →
      Completes (.regWrite req a v) s (fun t => s.Answered t req .ok ∧ t.chip.settingsDue = true ∧ t.chip.mem = s.chip.mem ∧
        t.chip.reg r = ((s.chip.reg r &&& ~~~(BitVec.ofNat 32 r.name.info.rw)) ||| (v &&& BitVec.ofNat 32 r.name.info.rw)) ∧
        ∀ q, q ≠ r → t.chip.reg q = s.chip.reg q)) ∧
    (r.name.info.block ∉ [Block.link, .ilt] → r.name ∉ [RegName.thermCfg, .telemCfg] → r ≠ rg .telemSnsCtrl →
      Completes (.regWrite req a v) s (fun t => s.Answered t req .denied ∧ t.chip.regs = s.chip.regs ∧ t.chip.parts = s.chip.parts)))

/-- 15 R534-R536, 16 R568: a failing pair in control hands over to the healthy standby pair, which counts; without one every step ends and nothing runs. A
checkpoint empties the log 1 ms after the last. A restart of a processor counts, and discards what it alone held: a request processor's running step
ends, and a step that has committed is kept (09 R319). The Warden's own pairs and halted processors are not restarted. Settings that are due are
written once. 15 R525 (message layouts: log entry 47): while the Warden runs, a control message sets the endpoint's identity or answers it, the
versions, or the message types, and adds its response to what the endpoint sent; it changes nothing of the data path. -/
def Obligations.WardenTakesOverRestartsAndAnswers : Prop :=
  ((∀ (s : State) (cause : Nat), s.chip.powered = true → s.wardenHalted = false →
    (s.chip.standby = true → exec (.wardenTakeover cause) s = .next { s.withChip ((s.chip.setBits (rg .safeWStatus) 1).count (rg .safeEvtTakeover)) with
      sys := { s.sys with warden := { s.sys.warden with log := [] } } }) ∧
    (s.chip.standby = false → Completes (.wardenTakeover cause) s (fun t => t.chip.powered = false ∧ t.chip.power.ready = false ∧
      ∀ p, t.chip.running p = none))) ∧
  (∀ s : State, s.chip.standby = true → s.wardenHalted = false → s.sys.warden.lastCheckpoint + 1000000 ≤ s.chip.now →
    exec .wardenCheckpoint s = .next (s.withSys { s.sys with warden := { s.sys.warden with log := [], lastCheckpoint := s.chip.now } })) ∧
  (∀ (s : State) (who : Agent), s.chip.powered = true → s.wardenHalted = false → who.num ≠ 2 → who ∉ s.sys.dbg.halted →
    Completes (.cpWatchdogRestart who) s (fun t => t.sys = s.sys ∧
      t.chip.reg (rg .safeEvtCpRestart) = (s.chip.count (rg .safeEvtCpRestart)).reg (rg .safeEvtCpRestart) ∧
      (who.num = 0 → ∀ e, e / 1024 = who.die → (t.chip.engine e).ready = none) ∧
      (∀ p x v, (who.num = 3 ∧ p < 8 ∨ who.num = 4 ∧ 8 ≤ p) → s.chip.srv p = some (x, v) →
        (∀ st, x.run = some st → st.serving = true → ∃ y w, t.chip.srv p = some (y, w) ∧ y.run = none ∧ w.cur = none) ∧
        (x.run = none → x.queued.all (fun q => q.ticket.isSome) = true → t.chip.part p = some x)))) ∧
  (∀ (s : State) (who : Agent), (who.num = 2 ∨ who ∈ s.sys.dbg.halted) → exec (.cpWatchdogRestart who) s = .next s) ∧
  (∀ (s : State) (body : List Byte), s.chip.power.inReset = false → s.chip.power.recovery = false → s.chip.power.noWarden = false →
    s.chip.power.clockLost = false → s.wardenHalted = false →
    (s.chip.settingsDue = true → Completes (.settingsWrite body) s (fun t => t.chip = { s.chip with settingsDue := false } ∧
      t.sys.fw.settingsVersion = s.sys.fw.settingsVersion ∧
      ∃ k seq, loadCopy t.sys.fw.copies s.sys.fw.settingsVersion = some (k, ⟨seq, s.sys.fw.settingsVersion, s.chip.settings⟩) ∧
        t.sys.fw.flash = s.sys.fw.flash.write (0x100000 * (k + 1)) (leBytes 4 seq ++ leBytes 2 s.sys.fw.settingsVersion ++ leBytes 2 0 ++
          leBytes 4 body.length ++ leBytes 4 (crc32c body) ++ body))) ∧
    (s.chip.settingsDue = false → exec (.settingsWrite body) s = .next s))) ∧
  (∀ s : State, s.chip.power.inReset = false → s.chip.power.noWarden = false → s.chip.power.clockLost = false → s.wardenHalted = false →
    let sent (eid : Nat) (bs : List Byte) := s.withSys { s.sys with warden := { s.sys.warden with eid := eid, mctp := s.sys.warden.mctp ++ [bs] } }
    let same := s.sys.warden.eid
    (∀ op eid, op < 2 → 8 ≤ eid → eid < 255 →
      exec (.mctpSetEndpointId op eid) s = .next (sent eid ([0, 1, 0, 0] ++ leBytes 1 eid ++ [0]))) ∧
    (∀ op eid, (2 ≤ op ∨ eid < 8 ∨ 255 ≤ eid) → exec (.mctpSetEndpointId op eid) s = .next (sent same [0, 1, 2])) ∧
    exec .mctpGetEndpointId s = .next (sent same ([0, 2, 0] ++ leBytes 1 same ++ [0, 0])) ∧
    (∀ k, (k = 0xFF ∨ k = 0 ∨ k = 0x7E) → exec (.mctpGetVersionSupport k) s = .next (sent same [0, 4, 0, 1, 0xF1, 0xF3, 0xFF, 0])) ∧
    (∀ k, k ≠ 0xFF → k ≠ 0 → k ≠ 0x7E → exec (.mctpGetVersionSupport k) s = .next (sent same [0, 4, 0x80])) ∧
    exec .mctpGetMessageType s = .next (sent same [0, 5, 0, 1, 0x7E]))

/-- 11 R399-R404, R406, R410: a conversion reports its channel by the coefficients in force; a sensor's channel gives its temperature, and two readings in
a row at or above 105 °C make a critical trip; a band-gap code out of range excludes its converter. A converter holds up to four urgent requests of
the Warden and refuses a fifth; its next conversion is the oldest one's, which goes to the Warden alone. A sense input is calibrated by a zero capture
and then a full one, refused where its span is too small or no zero capture came before, and CLEAR forgets it. -/
def Obligations.SensorsAreReadAndCalibrated : Prop :=
  (∀ (s : State) (d k : Nat) (code : Int), s.chip.powered = true → (s.chip.telemOf d k).excluded = false →
    let t₀ := s.chip.telemOf d k
    let ch := t₀.chan
    (26 ≤ ch → t₀.urgentWait = [] → Completes (.telemConversion d k code) s (fun t => t.chip.mem = s.chip.mem ∧ t.chip.parts = s.chip.parts ∧ t.chip.sensors = s.chip.sensors ∧
      Tbl.get 0 (d, ch) t.chip.chans = s.chip.volts d ch (s.chip.telemOf d k) code ∧
      (t.chip.telemOf d k).chan = nextChan k (s.chip.telemOf d (1 - k)).excluded ch)) ∧
    (∀ n, ch = n + 1 → n < 24 → k < 2 → (s.chip.sensor d n).broken = false → (s.chip.sensor d n).code ≠ code → (s.chip.sensor d n).apart < 15 → t₀.urgentWait = [] →
      let temp := s.chip.tempOf d (s.chip.telemOf d k) code
      temp ≤ 2400 → -640 ≤ temp →
      ((s.chip.sensor d n).temp < 1680 ∨ temp < 1680 → Completes (.telemConversion d k code) s (fun t => t.sys = s.sys ∧ t.chip.mem = s.chip.mem ∧
        t.chip.parts = s.chip.parts ∧ (t.chip.sensor d n).temp = temp ∧ (t.chip.sensor d n).valid = true ∧ (t.chip.sensor d n).broken = false)) ∧
      ((s.chip.sensor d n).valid = true → 1680 ≤ (s.chip.sensor d n).temp → 1680 ≤ temp → Completes (.telemConversion d k code) s (fun t =>
        t.sys.pins.thermtripN = false ∧ t.chip.power.state = .solstice ∧ t.chip.therm.tripping = true ∧ ∀ p, t.chip.running p = none))) ∧
    (ch = 0 → t₀.urgentWait = [] → (code < 1984 ∨ 2112 < code) → Completes (.telemConversion d k code) s (fun t => (t.chip.telemOf d k).excluded = true ∧
      (t.chip.reg (rg .telemStatus d)).bit 0 = true ∧ t.chip.reg (rg .telemEvtFault d) = (s.chip.count (rg .telemEvtFault d)).reg (rg .telemEvtFault d) ∧
      t.chip.mem = s.chip.mem ∧ t.chip.parts = s.chip.parts)) ∧
    (∀ u, scans k (s.chip.telemOf d (1 - k)).excluded u = true →
      (t₀.urgentWait.length < 4 → exec (.telemUrgent d k u s.chip.warden) s = .next (s.withChip
        ((s.chip.setTelem d k { t₀ with urgentWait := t₀.urgentWait ++ [u] }).count (rg .telemEvtUrgent d)))) ∧
      (4 ≤ t₀.urgentWait.length → exec (.telemUrgent d k u s.chip.warden) s = .next s)) ∧
    (∀ u who, who ≠ s.chip.warden → exec (.telemUrgent d k u who) s = .next s) ∧
    (∀ u rest, t₀.urgentWait = u :: rest → exec (.telemConversion d k code) s = .next (s.withChip
      (s.chip.setTelem d k { t₀ with urgentWait := rest, urgent := some (u, s.chip.volts d u t₀ code) })))) ∧
  (∀ (s : State) (i full : Nat) (l : List Int), s.chip.power.inReset = false → i < 4 → full < 2 ^ 16 → l.length = 256 →
    Completes (.snsCaptureZero i) s (fun t => t.chip.capture = some ⟨i, none⟩ ∧ t.chip.field (rg .telemSnsCtrl) 17 16 = i ∧ t.chip.sense = s.chip.sense) ∧
    ((Tbl.find? i s.chip.senseZero).isSome = true → Completes (.snsCaptureFull i full) s (fun t => t.chip.capture = some ⟨i, some full⟩ ∧
      t.chip.field (rg .telemSnsCtrl) 15 0 = full ∧ t.chip.sense = s.chip.sense)) ∧
    (Tbl.find? i s.chip.senseZero = none → Completes (.snsCaptureFull i full) s (fun t => t.chip.capture = s.chip.capture ∧
      (t.chip.reg (rg .telemSnsStat)).bit 5 = true ∧ t.chip.sense = s.chip.sense)) ∧
    Completes (.snsClear i) s (fun t => (∀ j, Tbl.find? j t.chip.sense = if j = i then none else Tbl.find? j s.chip.sense) ∧
      Tbl.find? i t.chip.senseZero = none ∧ t.chip.settingsDue = true) ∧
    (s.chip.capture = some ⟨i, none⟩ → exec (.snsCaptureDone l) s = .next (s.withChip { s.chip with
      capture := none, senseZero := Tbl.set i (rheInt l.sum 256) s.chip.senseZero })) ∧
    (∀ z, s.chip.capture = some ⟨i, some full⟩ → Tbl.find? i s.chip.senseZero = some z →
      (1000 ≤ rheInt l.sum 256 - z → exec (.snsCaptureDone l) s = .next (s.withChip { s.chip with
        capture := none, sense := Tbl.set i (z, rheInt l.sum 256, full) s.chip.sense, settingsDue := true })) ∧
      (rheInt l.sum 256 - z < 1000 → Completes (.snsCaptureDone l) s (fun t => t.chip.sense = s.chip.sense ∧ t.chip.capture = none ∧
        (t.chip.reg (rg .telemSnsStat)).bit 5 = true))))

/-- 11 R408, 01 R35, 16 R547: the grace that ends while WARNED enters ENFORCING at level 1; a tick of ENFORCING moves the level by one, up above 95 °C and
down below 88 °C, and level 0 is NORMAL. A millisecond above the power limit applies one lever, a millisecond at least 5 % below it releases one. Idle
time takes the package to Eve and then to Vigil, each of which counts. -/
def Obligations.HeatAndPowerAreHeldInBounds : Prop :=
  (∀ s : State, s.chip.powered = true → s.chip.therm.state = .warned → s.chip.therm.graceEnd ≤ s.chip.now →
    Completes .graceExpiry s (fun t => t.chip.mem = s.chip.mem ∧ t.chip.parts = s.chip.parts ∧
      t.chip.therm = { s.chip.therm with state := .enforcing, level := 1, slowdown := true, lastTick := s.chip.now } ∧
      t.chip.reg (rg .thermEvtEnforce) = (s.chip.count (rg .thermEvtEnforce)).reg (rg .thermEvtEnforce) ∧
      ∀ fn, fn < 17 → (t.chip.func fn).pageDue = true)) ∧
  (∀ s : State, s.chip.powered = true → s.wardenHalted = false → s.chip.therm.state = .enforcing → 0 < s.chip.therm.level →
    s.chip.therm.lastTick + 1000000 ≤ s.chip.now →
    let l := s.chip.therm.level
    let l' := if 1520 < s.chip.therm.pkg then min 7 (l + 1) else if s.chip.therm.pkg < 1408 then l - 1 else l
    Completes .thermLevelTick s (fun t => t.chip.mem = s.chip.mem ∧ t.chip.parts = s.chip.parts ∧ t.chip.regs = s.chip.regs ∧
      t.chip.therm = { s.chip.therm with level := l', lastTick := s.chip.therm.lastTick + 1000000,
                                         state := if l' = 0 then .normal else .enforcing, slowdown := if l' = 0 then false else s.chip.therm.slowdown } ∧
      (l' ≠ l → ∀ fn, fn < 17 → (t.chip.func fn).pageDue = true))) ∧
  (∀ (s : State) (w : Nat), s.chip.powered = true → s.chip.power.lastTick + 1000000 ≤ s.chip.now → w < 2048 →
    let p := s.chip.power
    let q := { p with watts := w, lastTick := s.chip.now }
    let limit := s.chip.field (rg .pwrLimit) 10 0
    (limit < w → exec (.powerLimitTick w) s = .next (s.withChip { s.chip with
      power := { q with lever := min 13 (p.lever + 1), unmet := decide (p.lever = 13), belowSince := none } })) ∧
    (100 * w ≤ 95 * limit → p.belowSince = none → exec (.powerLimitTick w) s = .next (s.withChip { s.chip with
      power := { q with unmet := false, belowSince := some s.chip.now } })) ∧
    (∀ since, 100 * w ≤ 95 * limit → p.belowSince = some since → since + 1000000 ≤ s.chip.now →
      exec (.powerLimitTick w) s = .next (s.withChip { s.chip with
        power := { q with unmet := false, lever := p.lever - 1, belowSince := some s.chip.now } })) ∧
    (95 * limit < 100 * w → w ≤ limit → exec (.powerLimitTick w) s = .next (s.withChip { s.chip with
      power := { q with unmet := false, belowSince := none } }))) ∧
  (∀ s : State, s.chip.powered = true → (s.chip.reg (rg .pwrCfg)).bit 31 = true →
    (s.chip.power.state = .live → s.chip.idle = true → s.chip.power.idleSince + 1000 * s.chip.field (rg .pwrCfg) 15 0 ≤ s.chip.now →
      exec .eveIdleExpiry s = .next (s.withChip
        (({ s.chip with power := { s.chip.power with state := .eve, awayFrom := s.chip.now } } : Chip).count (rg .pwrEvtEve)))) ∧
    (s.chip.power.state = .eve → s.chip.power.awayFrom + 1000000 * s.chip.field (rg .pwrCfg) 27 16 ≤ s.chip.now →
      exec .vigilIdleExpiry s = .next (s.withChip
        (({ s.chip with power := { s.chip.power with state := .vigil } } : Chip).count (rg .pwrEvtVigil)))))

/-- 16 R560, R563-R566: FWU_BEGIN opens an update of the inactive slot and erases its manifest; FWU_WRITE programs the slot from host memory and clears
VERIFIED; FWU_VERIFY answers the check that fails, or sets VERIFIED; FWU_ACTIVATE, once verified, makes the slot PENDING with no tries; FWU_ABORT
closes the update and clears PENDING. Each refuses as its row of the table says. -/
def Obligations.UpdatesOpenWriteVerifyAndActivate : Prop :=
  ∀ (s : State) (req : MbxReq), s.wardenServes = true → fromProcessor req = false → s.sys.fw.flash.wf = true →
    (directory s.sys.fw.flash).2.1 + 1 < 2 ^ 32 →
    let w := s.sys.fw
    (w.update = none → pendingSlot w.flash = none → Completes (.fwuBegin req) s (fun t => s.Answered t req .ok ∧
      t.sys.fw.update = some ⟨1 - activeSlot w.flash, false⟩ ∧
      t.sys.fw.flash = w.flash.zero (slotBase (1 - activeSlot w.flash)) (slotBase (1 - activeSlot w.flash) + 0x1000))) ∧
    ((w.update.isSome = true ∨ (pendingSlot w.flash).isSome = true) →
      Completes (.fwuBegin req) s (fun t => s.Answered t req .state ∧ t.sys.fw = w)) ∧
    (∀ off n a, fwuRangeOk off n a = false → Completes (.fwuWrite req off n a) s (fun t => s.Answered t req .malformed ∧ t.sys.fw = w)) ∧
    (w.update = none → Completes (.fwuVerify req) s (fun t => s.Answered t req .state ∧ t.sys.fw = w) ∧
      Completes (.fwuActivate req) s (fun t => s.Answered t req .state ∧ t.sys.fw = w) ∧
      ∀ off n a, fwuRangeOk off n a = true → Completes (.fwuWrite req off n a) s (fun t => s.Answered t req .state ∧ t.sys.fw = w)) ∧
    (∀ u, w.update = some u → u.slot < 2 →
      (∀ off n a bs, fwuRangeOk off n a = true → s.chip.busMaster 0 = true → s.chip.hostRead a n = .ok bs →
        Completes (.fwuWrite req off n a) s (fun t => s.Answered t req .ok ∧ t.sys.fw.update = some { u with verified := false } ∧
          t.sys.fw.flash = w.flash.write (slotBase u.slot + off) bs)) ∧
      (∀ off n a e, fwuRangeOk off n a = true → s.chip.hostRead a n = .error e →
        Completes (.fwuWrite req off n a) s (fun t => s.Answered t req .denied ∧ t.sys.fw.flash = w.flash)) ∧
      (∀ st, slotFault w.flash w.fuses u.slot = some st → Completes (.fwuVerify req) s (fun t => s.Answered t req st ∧ t.sys.fw = w)) ∧
      (slotFault w.flash w.fuses u.slot = none → olderImage w u.slot = true →
        Completes (.fwuVerify req) s (fun t => s.Answered t req .denied ∧ t.sys.fw = w)) ∧
      (slotFault w.flash w.fuses u.slot = none → olderImage w u.slot = false →
        Completes (.fwuVerify req) s (fun t => s.Answered t req .ok ∧ t.sys.fw = { w with update := some { u with verified := true } })) ∧
      (u.verified = true → Completes (.fwuActivate req) s (fun t => s.Answered t req .ok ∧ pendingSlot t.sys.fw.flash = some u.slot ∧
        activeSlot t.sys.fw.flash = activeSlot w.flash ∧ bootTries t.sys.fw.flash = 0)) ∧
      (u.verified = false → Completes (.fwuActivate req) s (fun t => s.Answered t req .state ∧ t.sys.fw = w))) ∧
    (w.trial = false → Completes (.fwuAbort req) s (fun t => s.Answered t req .ok ∧ t.sys.fw.update = none ∧
      pendingSlot t.sys.fw.flash = none ∧ activeSlot t.sys.fw.flash = activeSlot w.flash)) ∧
    (w.trial = true → Completes (.fwuAbort req) s (fun t => s.Answered t req .state ∧ t.sys.fw = w))

/-- 16 R546-R553, R564: PWR_SET enters Eve and Vigil from an idle package and is refused from another, wakes it to Live, enters Solstice, where no step is
left and every link and lock is closed, and leaves Solstice unless THERMTRIP_N is low; PKG_RESET is answered, then enters and boots, and keeps
DEVTIME, the link and the trip latch; PWR_CFG and PWR_LIMIT set their registers within their limits. -/
def Obligations.PackageStatesAreEnteredAndLeft : Prop :=
  (∀ (s : State) (req : MbxReq), s.Serves req → s.chip.power.state ≠ .solstice →
    (s.chip.idle = true →
      Completes (.pwrSetEve req) s (fun t => s.Answered t req .ok ∧ t.chip.power.state = .eve ∧ t.chip.power.awayFrom = s.chip.now ∧
        t.chip.mem = s.chip.mem ∧ t.chip.parts = s.chip.parts ∧
        t.chip.reg (rg .pwrEvtEve) = (s.chip.count (rg .pwrEvtEve)).reg (rg .pwrEvtEve)) ∧
      Completes (.pwrSetVigil req) s (fun t => s.Answered t req .ok ∧ t.chip.power.state = .vigil ∧ t.chip.power.awayFrom = s.chip.now ∧
        t.chip.mem = s.chip.mem ∧ t.chip.parts = s.chip.parts ∧
        t.chip.reg (rg .pwrEvtVigil) = (s.chip.count (rg .pwrEvtVigil)).reg (rg .pwrEvtVigil))) ∧
    (s.chip.idle = false →
      Completes (.pwrSetEve req) s (fun t => s.Answered t req .state ∧ t.chip.power.state = .live ∧ t.chip.regs = s.chip.regs) ∧
      Completes (.pwrSetVigil req) s (fun t => s.Answered t req .state ∧ t.chip.power.state = .live ∧ t.chip.regs = s.chip.regs)) ∧
    (∀ b, Completes (.pwrSetLive req b) s (fun t => s.Answered t req .ok ∧ t.chip.power.state = .live ∧ t.chip.mem = s.chip.mem ∧
      t.chip.parts = s.chip.parts)) ∧
    Completes (.pwrSetSolstice req) s (fun t => s.Answered t req .ok ∧ t.chip.power.state = .solstice ∧ t.chip.power.ready = false ∧
      (∀ p, t.chip.running p = none) ∧ t.chip.fab.flows = [] ∧ (∀ q, (t.chip.port q).up = false) ∧ t.chip.settingsDue = false ∧
      t.sys.dbg.unlocked = false ∧ t.sys.dbg.halted = [])) ∧
  (∀ (s : State) (req : MbxReq) (b : Start), s.Serves req → s.chip.power.state = .solstice →
    (s.sys.pins.thermtripN = true → Completes (.pwrSetLive req b) s (fun t => s.Answered t req .ok ∧ t.chip.power.state = .live ∧
      t.chip.power.ready = true ∧ t.chip.power.last = .solstice ∧ t.chip.now = s.chip.now ∧ t.chip.mem = [])) ∧
    (s.sys.pins.thermtripN = false → Completes (.pwrSetLive req b) s (fun t => s.Answered t req .state ∧ t.chip.power.state = .solstice))) ∧
  (∀ (s : State) (req : MbxReq) (b : Start), s.wardenServes = true → fromProcessor req = false →
    Completes (.pkgReset req b) s (fun t => (req.src = .pf → s.Answered t req .ok) ∧ t.chip.now = s.chip.now ∧ t.chip.hostUp = s.chip.hostUp ∧
      t.sys.pins.thermtripN = s.sys.pins.thermtripN ∧ t.chip.power.inReset = false ∧ t.chip.power.state = .live ∧ t.chip.mem = [] ∧
      (∀ p, t.chip.running p = none) ∧ t.sys.dbg.unlocked = false ∧ t.sys.fw.update = none)) ∧
  (∀ (s : State) (req : MbxReq) (v : Word) (watts : Nat), s.Serves req → watts < 2 ^ 16 →
    (v.field 27 16 ≠ 0 → v.field 15 0 ≠ 0 → Completes (.pwrCfg req v) s (fun t => s.Answered t req .ok ∧ t.chip.settingsDue = true ∧
      t.chip.reg (rg .pwrCfg) = ((s.chip.reg (rg .pwrCfg) &&& 0x70000000) ||| (v &&& 0x8FFFFFFF)) ∧
      ∀ q, q ≠ rg .pwrCfg → t.chip.reg q = s.chip.reg q)) ∧
    ((v.field 27 16 = 0 ∨ v.field 15 0 = 0) → Completes (.pwrCfg req v) s (fun t => s.Answered t req .malformed ∧ t.chip.regs = s.chip.regs)) ∧
    (300 ≤ watts → watts ≤ 1500 → Completes (.pwrLimit req watts) s (fun t => s.Answered t req .ok ∧ t.chip.settingsDue = true ∧
      t.chip.reg (rg .pwrLimit) = BitVec.ofNat 32 watts ∧ ∀ q, q ≠ rg .pwrLimit → t.chip.reg q = s.chip.reg q)) ∧
    ((watts < 300 ∨ 1500 < watts) → Completes (.pwrLimit req watts) s (fun t => s.Answered t req .malformed ∧ t.chip.regs = s.chip.regs)))

/-- 16 R564, R570-R573: DBG_CHALLENGE answers the chip identity and a nonce of 32 bytes, which nothing else constrains, until eight attempts have failed;
DBG_UNLOCK uses up the challenge, and unlocks where no unit is ACTIVE and the token's key, signature, nonce and expiry are right; else it counts the
refusal, and a wrong token the attempt. DBG_LOCK and EXPIRY lock: halts and breakpoints are gone. A challenge lapses after 60 s. -/
def Obligations.DebugUnlocksByChallengeAndToken : Prop :=
  (∀ (s : State) (req : MbxReq), s.Serves req →
    (s.sys.dbg.attempts < 8 → Completes (.dbgChallenge req) s (fun t => ∃ n : List Byte, n.length = 32 ∧
      s.Answered t req .ok 0 (s.sys.fw.fuses.uid ++ n) ∧ t.sys.dbg = { s.sys.dbg with challenge := some (n, s.chip.now) } ∧
      t.chip.regs = s.chip.regs ∧ t.chip.mem = s.chip.mem)) ∧
    (8 ≤ s.sys.dbg.attempts → Completes (.dbgChallenge req) s (fun t => s.Answered t req .denied ∧ t.sys.dbg = s.sys.dbg)) ∧
    Completes (.dbgLock req) s (fun t => s.Answered t req .ok ∧ t.sys.dbg.unlocked = false ∧ t.sys.dbg.scope = 0 ∧ t.sys.dbg.expiry = 0 ∧
      t.sys.dbg.halted = [] ∧ t.sys.dbg.breaks = [] ∧ t.sys.dbg.challenge = s.sys.dbg.challenge) ∧
    (∀ token, s.sys.dbg.challenge = none → Completes (.dbgUnlock req token) s (fun t => s.Answered t req .state ∧ t.sys.dbg = s.sys.dbg ∧
      t.chip.reg (rg .dbgEvtFail) = (s.chip.count (rg .dbgEvtFail)).reg (rg .dbgEvtFail))) ∧
    (∀ token n at_, s.sys.dbg.challenge = some (n, at_) →
      let active := ∃ u ∈ s.chip.units, u.2.1 = .active
      (active → Completes (.dbgUnlock req token) s (fun t => s.Answered t req .state ∧ t.sys.dbg = { s.sys.dbg with challenge := none } ∧
        t.chip.reg (rg .dbgEvtFail) = (s.chip.count (rg .dbgEvtFail)).reg (rg .dbgEvtFail))) ∧
      (¬ active → tokenOk s.sys.fw.fuses n token s.chip.now = true → Completes (.dbgUnlock req token) s (fun t => s.Answered t req .ok ∧
        t.sys.dbg = { s.sys.dbg with challenge := none, unlocked := true, scope := bytesLe token 0 1 % 8, expiry := bytesLe token 8 8 } ∧
        t.chip.reg (rg .dbgEvtUnlock) = (s.chip.count (rg .dbgEvtUnlock)).reg (rg .dbgEvtUnlock) ∧
        t.chip.reg (rg .dbgEvtFail) = s.chip.reg (rg .dbgEvtFail))) ∧
      (¬ active → tokenOk s.sys.fw.fuses n token s.chip.now = false → Completes (.dbgUnlock req token) s (fun t => s.Answered t req .denied ∧
        t.sys.dbg = { s.sys.dbg with challenge := none, attempts := s.sys.dbg.attempts + 1 } ∧
        t.chip.reg (rg .dbgEvtFail) = (s.chip.count (rg .dbgEvtFail)).reg (rg .dbgEvtFail))))) ∧
  (∀ (s : State) (n : List Byte) (at_ : Nat), s.sys.dbg.challenge = some (n, at_) →
    (at_ + 60000000000 ≤ s.chip.now →
      exec .dbgChallengeLapse s = .next (s.withSys { s.sys with dbg := { s.sys.dbg with challenge := none } })) ∧
    (s.chip.now < at_ + 60000000000 → exec .dbgChallengeLapse s = .next s)) ∧
  (∀ s : State, s.sys.dbg.unlocked = true →
    (s.sys.dbg.expiry ≤ s.chip.now → Completes .dbgExpiry s (fun t => t.chip = s.chip ∧ t.sys.dbg.unlocked = false ∧ t.sys.dbg.halted = [] ∧
      t.sys.dbg.breaks = [] ∧ t.sys.fw = s.sys.fw)) ∧
    (s.chip.now < s.sys.dbg.expiry → exec .dbgExpiry s = .next s))

/-- 16 R570, 17 R576, 01 R28: BYPASS shifts its one cell and the data in, IDCODE its 32 bits, SAMPLE/PRELOAD takes the pins and loads the cells; EXTEST,
CLAMP and HIGHZ drive the pins before READY or while unlocked, else act as BYPASS. Debug instructions reach the processors that SCOPE covers, else act
as BYPASS; a memory access of one reads and writes its map, and is a bus error outside. An access to no register by another agent reads 0 and writes
nothing (log entry 71). A poisoned word that a processor reads counts, delivers nothing and is its bus error (12 R426). -/
def Obligations.TestPortAndDebugInstructionsAct : Prop :=
  (∀ (s : State) (tdi bits : List Bool), s.sys.pins.porstN = true →
    let goes (instr : Nat) (out : List Bool) (drive : Nat) := s.withSys { s.sys with
      dbg := { s.sys.dbg with instr := instr, tdo := out }, pins := { s.sys.pins with drive := drive } }
    exec (.jtagBypass tdi) s = .next (goes 0 ((false :: tdi).take tdi.length) 0) ∧
    exec .jtagIdcode s = .next (goes 1 ((List.range 32).map (fun b =>
      ((rg .hostifChipId).reset.field 23 20 * 2 ^ 28 + 0x0C86 * 2 ^ 12 + 2 * Config.jedec.toNat + 1).testBit b)) 0) ∧
    (∃ out, exec (.jtagSamplePreload bits) s = .next (s.withSys { s.sys with
      dbg := { s.sys.dbg with instr := 2, tdo := out, boundary := bits }, pins := { s.sys.pins with drive := 0 } })) ∧
    ((s.sys.dbg.readySeen = false ∨ s.sys.dbg.unlocked = true) →
      (∃ out, exec .jtagExtest s = .next (goes 3 out 3)) ∧ (∃ out, exec .jtagClamp s = .next (goes 4 out 4)) ∧
      (∃ out, exec .jtagHighz s = .next (goes 5 out 5))) ∧
    (s.sys.dbg.readySeen = true → s.sys.dbg.unlocked = false →
      exec .jtagExtest s = .next (goes 0 [] 0) ∧ exec .jtagClamp s = .next (goes 0 [] 0) ∧ exec .jtagHighz s = .next (goes 0 [] 0))) ∧
  (∀ (s : State) (who : Agent) (n a : Nat) (watch : Bool), s.sys.dbg.unlocked = true →
    s.sys.dbg.scope.testBit (if who.num = 2 then 2 else if who.num < 5 then 0 else 1) = true →
    let goes (d : Debug) := s.withSys { s.sys with dbg := d }
    (who ∉ s.sys.dbg.halted → exec (.dbgHalt who) s = .next (goes { s.sys.dbg with halted := s.sys.dbg.halted ++ [who] }) ∧
      exec (.dbgSingleStep who) s = .next s) ∧
    (who ∈ s.sys.dbg.halted → exec (.dbgHalt who) s = .next s ∧ exec (.dbgSingleStep who) s = .next (goes { s.sys.dbg with
      steps := Tbl.set (who.die, who.num) (Tbl.get 0 (who.die, who.num) s.sys.dbg.steps + 1) s.sys.dbg.steps })) ∧
    (n < (if watch then 2 else 4) → Completes (.dbgBreakpoint who n watch a) s (fun t => t.chip = s.chip ∧
      ∀ b, b ∈ t.sys.dbg.breaks ↔ b = (who, n, watch, a) ∨ (b ∈ s.sys.dbg.breaks ∧ ¬ (b.1 = who ∧ b.2.1 = n ∧ b.2.2.1 = watch)))) ∧
    (s.chip.power.inReset = false → mapped a = false → ∀ w k v,
      (who.num < 5 → exec (.dbgMemoryAccess who w a k v) s = .fault (.busError a)) ∧
      (5 ≤ who.num → exec (.dbgMemoryAccess who true a 4 v) s = .next s ∧
        (a % 4 = 0 → exec (.dbgMemoryAccess who false a 4 v) s = .next (goes { s.sys.dbg with lastRead := 0 })))) ∧
    (s.chip.power.inReset = false → ∀ m, physSpot a = .memory m → ∀ k v,
      exec (.dbgMemoryAccess who true a k v) s = .next (s.withChip (s.chip.write m (leBytes k v.toNat))) ∧
      (s.chip.ce = [] → s.chip.ue = [] → s.chip.damaged = [] →
        exec (.dbgMemoryAccess who false a k v) s = .next (goes { s.sys.dbg with lastRead := s.chip.mem.le m k })) ∧
      (wordsIn s.chip.ue [(m / 8 * 8, m + k)] ≠ [] → Completes (.dbgMemoryAccess who false a k v) s (fun t =>
        t.sys = (s.busFault who m).sys ∧ t.chip.mem = s.chip.mem ∧
        let p := s.chip.governing (unitAt m)
        (t.chip.reg (rg .safeIntStatus p)).bit 0 = true ∧ t.chip.reg (rg .safeEvtUe p) =
          (s.chip.count (rg .safeEvtUe p) (wordsIn s.chip.ue [(m / 8 * 8, m + k)]).length).reg (rg .safeEvtUe p))))) ∧
  (∀ (s : State) (who : Agent) (n a : Nat) (watch w : Bool) (k : Nat) (v : DWord), s.sys.dbg.unlocked = false → ∀ i,
    i ∈ [Instr.dbgHalt who, .dbgSingleStep who, .dbgBreakpoint who n watch a, .dbgMemoryAccess who w a k v] →
    Completes i s (fun t => t.chip = s.chip ∧ t.sys.dbg.halted = s.sys.dbg.halted ∧ t.sys.dbg.breaks = s.sys.dbg.breaks ∧
      t.sys.dbg.steps = s.sys.dbg.steps ∧ t.sys.dbg.lastRead = s.sys.dbg.lastRead ∧ t.sys.dbg.instr = 0))

/-- 11 R389-R392, 12 R441-R444: an engine whose Accord is due and whose readings, the last slots among them, suffice makes a new one READY from them,
within the ranges of its items, and begins to measure anew; with no step running it comes into force at once, whole, and counts. A slot's readings are
kept for it and judged: of a column the fourth bad one in an Accord period is a detection, of a zero reference any, and one in a bank in force is
late. The in-field test counts, begins a new period, and takes what fails out of service, late since its last clean test; engines that no partition
owns are tested each second. How values follow from readings: log entry 83. -/
def Obligations.EnginesAreCalibratedAndTested : Prop :=
  (∀ (s : State) (e : Nat) (ks : List CalSlot), s.chip.powered = true →
    let c := s.chip.takeSlots e ks
    let g := c.engine e
    let a := c.accordOf e
    let busy := ((s.chip.ownerOfUnit (e / 512)).bind s.chip.part).any (fun x => x.run.isSome)
    let due := c.accordDue e = true ∧ c.measuredEnough e = true
    (∀ k, k.array / 4 = e → exec (.calibrationSlot e k) s = .next (s.withChip (s.chip.calibrationSlot k))) ∧
    (∀ k, k.array / 4 ≠ e → exec (.calibrationSlot e k) s = .next s) ∧
    (due → busy = true → Completes (.accordReady e ks) s (fun t => t.chip.mem = s.chip.mem ∧ t.chip.engine e = g.measured a ∧
      ∀ f, f ≠ e → t.chip.engine f = s.chip.engine f)) ∧
    (due → busy = false → Completes (.accordReady e ks) s (fun t => t.chip.mem = s.chip.mem ∧
      t.chip.engine e = { g.measured a with
        zc := a.m.zc, art := a.m.art, allowance := a.m.allowance, inForce := some a, ready := none,
        count := (g.count + 1) % 2 ^ 32, accordAt := s.chip.now, cfg := c.reg (rg .calCfg (e / 64)) } ∧
      ∀ f, f ≠ e → t.chip.engine f = s.chip.engine f)) ∧
    (¬ due → exec (.accordReady e ks) s = .next (s.withChip c)) ∧
    a.temp = s.chip.coreTemp (e / 64) ∧ a.time = s.chip.now ∧ a.began = g.readyAt ∧
    (∀ z ∈ a.m.zc, -8 ≤ z.2 ∧ z.2 ≤ 7) ∧ (∀ v, v ∈ a.m.gt ∨ v ∈ a.m.ot → -127 ≤ v.2 ∧ v.2 ≤ 127)) ∧
  (∀ (s : State) (k : CalSlot), s.chip.powered = true → s.chip.power.state = .live → k.bank < 2 →
    (k.source = .columns → (k.array, k.bank) ∈ s.chip.liveBanks (k.array / 4)) →
    let owner := s.chip.ownerOfUnit (k.array / 2048)
    let x := (owner.bind s.chip.part).getD {}
    let g := s.chip.engine (k.array / 4)
    let b := s.chip.bank k.array k.bank
    let us := s.chip.slotUnits k
    let g' := (g.noteSlot b x.commits us).takeSlot k
    let used (u : Nat × Nat × Nat) := if u.2.1 = 2 then x.bankInForce k.array 0 || x.bankInForce k.array 1 else x.bankInForce k.array k.bank
    let found (u : Nat × Nat × Nat) := (u, true) ∈ us ∧ g.detects u = true ∧ used u = true
    ((∀ u, ¬ found u) → exec (.calibrationSlot (k.array / 4) k) s = .next (s.withChip (s.chip.setEngine (k.array / 4) g'))) ∧
    (∀ p, owner = some p → (∃ u, found u) → Completes (.calibrationSlot (k.array / 4) k) s (fun t => (t.chip.reg (rg .safeIntStatus p)).bit 6 = true ∧
      (∃ u, found u ∧ t.chip.pair (rg .safeLateStepLo p) (rg .safeLateStepHi p) = g.lastClean b u % 2 ^ 64) ∧
      t.chip.engine (k.array / 4) = g' ∧ t.chip.mem = s.chip.mem ∧ t.chip.parts = s.chip.parts ∧ t.chip.banks = s.chip.banks)) ∧
    g'.slots = g.slots ++ [k] ∧
    (∀ u, u.2.1 ≠ 2 → Tbl.get 0 u g'.readings =
      if (u, true) ∈ us then (if Tbl.get 0 u g.readings = 3 then 0 else Tbl.get 0 u g.readings + 1) else Tbl.get 0 u g.readings)) ∧
  (∀ (s : State) (p : Nat) (faults : List TestFault) (x : Part), s.chip.powered = true → s.chip.power.state = .live → s.chip.part p = some x →
    x.run = none → (x.iftRun = true ∨ (x.iftDue = true ∧ x.queued = [])) →
    let mine := faults.filter (fun f => decide (p ≤ faultUnit f ∧ faultUnit f < p + x.units))
    let y := { x with iftSince := 0, iftDeferred := 0, iftForced := false, iftRun := false, tested := true, iftBad := x.badUnits mine }
    (mine = [] → exec (.iftRun p faults) s = .next (s.withChip ((s.chip.count (rg .safeEvtIftRun p)).setPart p y))) ∧
    (mine ≠ [] → Completes (.iftRun p faults) s (fun t => t.chip.mem = s.chip.mem ∧
      t.chip.reg (rg .safeEvtIftRun p) = (s.chip.count (rg .safeEvtIftRun p)).reg (rg .safeEvtIftRun p) ∧
      (∃ z, t.chip.part p = some z ∧ z.recovery = true ∧ z.iftSince = 0 ∧ z.iftRun = false ∧ z.iftBad = x.badUnits mine) ∧
      (t.chip.reg (rg .safeIntStatus p)).bit 7 = true ∧ (t.chip.reg (rg .safeIntStatus p)).bit 6 = true ∧
      (∃ f ∈ x.badUnits mine, t.chip.pair (rg .safeLateStepLo p) (rg .safeLateStepHi p) = f.2 % 2 ^ 64) ∧
      (∀ e, .engine e ∈ mine → (t.chip.engine e).outOfService = true) ∧ (∀ k, .fixative k ∈ mine → (t.chip.core k).outOfService = true) ∧
      (∀ u, .stream u ∈ mine → u ∈ t.chip.streamDown) ∧ (∀ a, .row a ∈ mine → a ∈ (t.chip.engine (a / 4)).failedRows) ∧
      (∀ a k, .converter a k ∈ mine → (a, k) ∈ t.chip.convFailed)))) ∧
  (∀ (s : State) (faults : List TestFault), s.chip.powered = true → s.chip.power.state = .live →
    (s.chip.unownedTest + 1000000000 ≤ s.chip.now → Completes (.iftUnowned faults) s (fun t => t.chip.mem = s.chip.mem ∧ t.chip.parts = s.chip.parts ∧
      t.chip.unownedTest = s.chip.now ∧ (∀ u, u < 16 → s.chip.ownerOfUnit u = none →
        t.chip.reg (rg .safeEvtIftRun u) = (s.chip.count (rg .safeEvtIftRun u)).reg (rg .safeEvtIftRun u) ∧
        (∀ e, e / 512 = u → .engine e ∈ faults → (t.chip.engine e).outOfService = true ∧ (t.chip.reg (rg .safeIntStatus u)).bit 7 = true)) ∧
      (∀ u, s.chip.ownerOfUnit u ≠ none → t.chip.reg (rg .safeEvtIftRun u) = s.chip.reg (rg .safeEvtIftRun u)))) ∧
    (s.chip.now < s.chip.unownedTest + 1000000000 → exec (.iftUnowned faults) s = .next s))

/-- 01 R22-R25, 16 R551-R553, R557, 17 R576-R584: a pulse of die 0 slews a die's copy towards it, and a copy more than 4 ns out, or one without a pulse
for 10 µs, is a fault; PORST_N low or PWRGD low hold the part in reset, which keeps the weights and the flash; PORST_N released with PWRGD high boots
it with DEVTIME 0; PERST_N low resets every function and takes the link down; a reference clock that is lost stops what it drives. What a part just
made holds in its fuses and on its board comes with its first power. -/
def Obligations.PinsAndClocksAct : Prop :=
  (∀ (s : State) (d : Nat), s.chip.powered = true → d ≠ 0 → d < s.chip.clocks.length →
    let k := s.chip.clock d
    let ref := s.chip.now
    let far := decide (ref + 4 < k.now ∨ k.now + 4 < ref)
    let slew := if k.now < ref then 1 else if ref < k.now then 2 else 0
    Completes (.devtimeAlignPulse d) s (fun t => t.sys = s.sys ∧ t.chip.mem = s.chip.mem ∧ t.chip.parts = s.chip.parts ∧ t.chip.now = ref ∧
      t.chip.clock d = { k with lastPulse := k.now, missed := false, unreliable := far, slew := slew, phase := if slew = k.slew then k.phase else 0 } ∧
      t.chip.reg (rg .telemEvtFault d) = (s.chip.count (rg .telemEvtFault d) (if far then 1 else 0)).reg (rg .telemEvtFault d)) ∧
    (k.missed = false → k.lastPulse + 10000 < k.now → Completes (.devtimePulseMiss d) s (fun t => t.chip.clock d = { k with missed := true, unreliable := true } ∧
      t.chip.reg (rg .telemEvtFault d) = (s.chip.count (rg .telemEvtFault d)).reg (rg .telemEvtFault d) ∧ t.chip.mem = s.chip.mem)) ∧
    (k.now ≤ k.lastPulse + 10000 → exec (.devtimePulseMiss d) s = .next s)) ∧
  (∀ (s : State) (b : Start), s.sys.pins.porstN = false →
    (s.sys.pins.pwrgd = true → Completes (.porstNRelease b) s (fun t => t.sys.pins.porstN = true ∧ t.sys.pins.thermtripN = true ∧
      t.sys.pins.smbus = some (0x60 + s.sys.pins.smbAddr) ∧
      t.chip.power.inReset = false ∧ t.chip.power.state = .live ∧ t.chip.now = 0 ∧ t.chip.mem = [] ∧ (∀ p, t.chip.running p = none) ∧
      (s.sys.pins.perstN = true → s.sys.pins.refclkPcie = true → t.chip.hostUp = true))) ∧
    (s.sys.pins.pwrgd = false →
      exec (.porstNRelease b) s = .next (s.withSys { s.sys with pins := { s.sys.pins with porstN := true, smbus := some (0x60 + s.sys.pins.smbAddr) } }))) ∧
  (∀ s : State,
    let held (t : State) := t.chip.power.inReset = true ∧ t.chip.mem = [] ∧ t.chip.regs = [] ∧ t.chip.hostUp = false ∧ (∀ p, t.chip.running p = none) ∧
      (∀ a b, (t.chip.bank a b).cells = (s.chip.bank a b).cells ∧ (t.chip.bank a b).rewrites = (s.chip.bank a b).rewrites) ∧
      t.sys.fw.flash = s.sys.fw.flash ∧ t.sys.fw.fuses = s.sys.fw.fuses ∧ t.sys.fw.update = none ∧ t.sys.dbg.unlocked = false ∧ t.sys.dbg.challenge = none
    (s.chip.power.inReset = false →
      Completes .porstNAssert s (fun t => held t ∧ t.sys.pins.porstN = false) ∧ Completes .pwrgdFall s (fun t => held t ∧ t.sys.pins.pwrgd = false)) ∧
    (s.chip.power.inReset = true →
      exec .porstNAssert s = .next (s.withSys { s.sys with pins := { s.sys.pins with porstN := false } }) ∧
      exec .pwrgdFall s = .next (s.withSys { s.sys with pins := { s.sys.pins with pwrgd := false } }))) ∧
  (∀ (s : State) (b : Board),
    let pins := { s.sys.pins with pwrgd := true, refclkSd := true, refclkPcie := true }
    (s.sys.fw.made = true → exec (.pwrgdRise b) s = .next (s.withSys { s.sys with pins := pins })) ∧
    (s.sys.fw.made = false → Completes (.pwrgdRise b) s (fun t => t.sys.pins = { pins with smbAddr := b.smbAddr } ∧ t.sys.fw.made = true ∧ t.sys.fw.fuses = ⟨b.uid, b.prod, b.fwKeys, b.fwRevoked, b.dbgKeys, b.dbgRevoked, b.rollback⟩ ∧
      t.chip = { s.chip with vbgh := b.vbgh, dividers := b.dividers }))) ∧
  (∀ s : State, s.chip.power.inReset = false →
    Completes .perstNAssert s (fun t => t.sys = { s.sys with pins := { s.sys.pins with perstN := false } } ∧ t.chip.hostUp = false ∧
      ∀ fn, fn < 17 → s.chip.hasFunc fn = true → (t.chip.func fn).accepted = [] ∧ (t.chip.func fn).bme = (s.chip.func fn).bme) ∧
    (s.sys.pins.porstN = true → s.sys.pins.pwrgd = true →
      (s.sys.pins.refclkPcie = true → Completes .perstNRelease s (fun t => t.chip.hostUp = true ∧ t.chip.mem = s.chip.mem ∧ t.chip.parts = s.chip.parts ∧
        t.chip.regs = s.chip.regs ∧ t.sys = { s.sys with pins := { s.sys.pins with perstN := true } })) ∧
      (s.sys.pins.perstN = true → Completes .refclkPcieReturn s (fun t => t.chip.hostUp = true ∧ t.chip.mem = s.chip.mem ∧ t.chip.parts = s.chip.parts ∧
        t.chip.regs = s.chip.regs ∧ t.sys = { s.sys with pins := { s.sys.pins with refclkPcie := true } }))) ∧
    exec .refclkPcieLoss s = .next { s.withChip { s.chip with hostUp := false } with sys := { s.sys with pins := { s.sys.pins with refclkPcie := false } } } ∧
    (s.chip.power.clockLost = false → Completes .refclkSdLoss s (fun t => t.sys.pins.refclkSd = false ∧ t.chip.power.clockLost = true ∧
      t.chip.power.ready = false ∧ t.chip.powered = false ∧ ∀ p, t.chip.running p = none)))

/-- 15 R537-R540: a source's line is followed and an edge source becomes pending; PEND_SET makes sources pending; the eligible source with the highest
priority, and of those the lowest number, is delivered: its vector is supplied, its bit clears, it goes on the stack, and its group's hold-off starts;
EOI takes the top of the stack off; a hold-off that has ended is gone. -/
def Obligations.InterruptsAreTakenAndDelivered : Prop :=
  ∀ (s : State) (who : Agent), s.chip.power.inReset = false →
    let k := vicOf who
    let v := s.chip.vic k
    (∀ n, vicWired who.die n = false → ∀ on, exec (.vicSourceEdge who n on) s = .next s) ∧
    (∀ n, vicWired who.die n = true →
      Completes (.vicSourceEdge who n true) s (fun t => t.chip.mem = s.chip.mem ∧ t.chip.regs = s.chip.regs ∧
        (t.chip.vic k).stack = v.stack ∧ (∀ m, m ∈ (t.chip.vic k).lines ↔ m ∈ v.lines ∨ m = n) ∧
        (∀ m, m ∈ (t.chip.vic k).pending ↔ m ∈ v.pending ∨ (m = n ∧ n ∉ v.lines ∧ (s.chip.reg (rg .vicSrcCfg k n)).bit 3 = false))) ∧
      Completes (.vicSourceEdge who n false) s (fun t => t.chip.mem = s.chip.mem ∧ t.chip.regs = s.chip.regs ∧
        (t.chip.vic k).stack = v.stack ∧ (t.chip.vic k).pending = v.pending ∧ ∀ m, m ∈ (t.chip.vic k).lines ↔ m ∈ v.lines ∧ m ≠ n)) ∧
    (∀ w x, Completes (.vicPendSet who w x) s (fun t => t.chip.mem = s.chip.mem ∧ t.chip.regs = s.chip.regs ∧ (t.chip.vic k).stack = v.stack ∧
      ∀ m, m ∈ (t.chip.vic k).pending ↔ m ∈ v.pending ∨ ∃ b, b < 32 ∧ x.bit b = true ∧ m = 32 * w + b)) ∧
    (∀ n, n < 256 → s.chip.vicEligible k true n = true →
      (∀ m, m < 256 → s.chip.vicEligible k true m = true → s.chip.vicPrio k m < s.chip.vicPrio k n ∨ (s.chip.vicPrio k m = s.chip.vicPrio k n ∧ n ≤ m)) →
      Completes (.vicDeliver who true) s (fun t => t.chip.mem = s.chip.mem ∧ t.chip.regs = s.chip.regs ∧
        (t.chip.vic k).vector = some (s.chip.pair (rg .vicVbaseLo k) (rg .vicVbaseHi k) + 16 * n) ∧
        (t.chip.vic k).stack = (s.chip.vicPrio k n, n) :: v.stack ∧ (∀ m, m ∈ (t.chip.vic k).pending ↔ m ∈ v.pending ∧ m ≠ n) ∧
        (s.chip.field (rg .vicHoldoff k (n / 8)) 15 0 ≠ 0 →
          Tbl.find? (n / 8) (t.chip.vic k).holdoff = some (s.chip.timeOn who.die + 64 * s.chip.field (rg .vicHoldoff k (n / 8)) 15 0)))) ∧
    (∀ mie, (∀ n, n < 256 → s.chip.vicEligible k mie n = false) → exec (.vicDeliver who mie) s = .next s) ∧
    Completes (.vicEoi who) s (fun t => t.chip.mem = s.chip.mem ∧ t.chip.regs = s.chip.regs ∧ (t.chip.vic k).stack = v.stack.drop 1 ∧
      (t.chip.vic k).pending = v.pending) ∧
    (∀ g, Completes (.vicHoldoffExpiry who g) s (fun t => t.chip.mem = s.chip.mem ∧ t.chip.regs = s.chip.regs ∧ (t.chip.vic k).pending = v.pending ∧
      ((∃ end_, Tbl.find? g v.holdoff = some end_ ∧ end_ ≤ s.chip.timeOn who.die) → Tbl.find? g (t.chip.vic k).holdoff = none) ∧
      (∀ end_, Tbl.find? g v.holdoff = some end_ → s.chip.timeOn who.die < end_ → Tbl.find? g (t.chip.vic k).holdoff = some end_)))

/-- 14 R489-R495, R502, R505, R517: SWITCH_TX moves to the other transmit key, and the last word of a key installs it; a port comes up in the highest mode
(0 is the highest) that its cap and its partner allow, and with a HELLO, which it sends again each millisecond; one that goes down counts. A port
drops frames while it is down, frames with a wrong FCS, and, with MACsec on, unprotected ones; it takes its neighbour from a HELLO, discards pause
frames, counts packets of unknown VERSION or TYPE, and passes on packets for other chips by their route. -/
def Obligations.PortsSendTakeAndForward : Prop :=
  (∀ (s : State) (q : Nat), s.chip.powered = true →
    let x := s.chip.port q
    let is (y : Port) := s.withChip (s.chip.setPort q y)
    (∀ e, List.find? (fun e : (Bool × Nat) × Sak => e.1.1 && x.txAn != some e.1.2) x.saks = some e →
      exec (.macsecSwitchTx q) s = .next (is { x with txAn := some e.1.2 })) ∧
    (List.find? (fun e : (Bool × Nat) × Sak => e.1.1 && x.txAn != some e.1.2) x.saks = none → exec (.macsecSwitchTx q) s = .next s) ∧
    (∀ v, let tx := !(s.chip.reg (rg .linkSakSel q)).bit 2
      let an := s.chip.field (rg .linkSakSel q) 1 0
      Completes (.sakInstall q v) s (fun t => t.chip.mem = s.chip.mem ∧ t.chip.regs = s.chip.regs ∧ (t.chip.port q).staging = [] ∧
        Tbl.find? (tx, an) (t.chip.port q).saks = some ⟨(List.range 7).map (fun i => Tbl.get 0 i x.staging) ++ [v], 1, true⟩ ∧
        (tx = true → (t.chip.port q).txAn = x.txAn.or (some an)) ∧ (tx = false → (t.chip.port q).txAn = x.txAn))) ∧
    (∀ partner mode, let can := q < 12 ∧ (s.chip.reg (rg .linkPortCtrl q)).bit 0 = true ∧ x.up = false
      let both m := s.chip.field (rg .linkPortCtrl q) 2 1 ≤ m ∧ m ≤ 2 ∧ partner.testBit m = true
      (can → both mode → (∀ m, m < mode → ¬ both m) → Completes (.portUp q partner) s (fun t => t.chip.mem = s.chip.mem ∧ t.chip.regs = s.chip.regs ∧ (t.chip.port q).up = true ∧
        (t.chip.port q).mode = mode ∧ (t.chip.port q).peerKnown = false ∧ (t.chip.port q).lastHello = s.chip.now ∧
        ((s.chip.reg (rg .linkMacsecCtrl q)).bit 0 = false → ∃ bs, t.chip.fab.tx = s.chip.fab.tx ++ [⟨q, none, bs⟩]))) ∧
      (¬ can ∨ (∀ m, ¬ both m) → exec (.portUp q partner) s = .next s)) ∧
    (x.up = true → exec (.portDown q) s = .next (s.withChip
      ((s.chip.setPort q { x with up := false, peerKnown := false, backlog := 0 }).count (rg .linkEvtDown q)))) ∧
    (x.up = false → exec (.portDown q) s = .next s) ∧
    (x.up = true → x.lastHello + 1000000 ≤ s.chip.now → Completes (.helloSend q) s (fun t => t.chip.mem = s.chip.mem ∧ t.chip.regs = s.chip.regs ∧
      (t.chip.port q).lastHello = s.chip.now ∧
      ((s.chip.reg (rg .linkMacsecCtrl q)).bit 0 = false → ∃ bs, t.chip.fab.tx = s.chip.fab.tx ++ [⟨q, none, bs⟩]))) ∧
    ((x.up = false ∨ s.chip.now < x.lastHello + 1000000) → exec (.helloSend q) s = .next s) ∧
    exec (.pauseFrame q) s = .next s) ∧
  (∀ (s : State) (f : Frame) (i : Instr), s.chip.powered = true →
    i ∈ [Instr.iltHello f, .iltOpen f, .iltOpenAck f, .iltWrite f, .iltReadReq f, .iltReadResp f, .iltColl f, .iltAck f, .iltNak f, .iltClose f,
      .iltBadPacket f, .iltForward f] →
    ((s.chip.port f.port).up = false → exec i s = .next s) ∧
    ((s.chip.port f.port).up = true → f.fcsOk = false → exec i s = .next (s.withChip (s.chip.count (rg .linkEvtFcs f.port)))) ∧
    ((s.chip.port f.port).up = true → f.fcsOk = true → (s.chip.reg (rg .linkMacsecCtrl f.port)).bit 0 = true → (f.secured = false ∨ f.icvOk = false) →
      exec i s = .next (s.withChip (s.chip.count (rg .linkEvtMacsecDrop f.port))))) ∧
  (∀ (s : State) (f : Frame), s.chip.powered = true → (s.chip.portRx f).2 = true →
    (∀ k, parsePacket f.bytes = some k → k.typ = 0 → Completes (.iltHello f) s (fun t => t.chip.mem = s.chip.mem ∧ t.chip.regs = s.chip.regs ∧
      (t.chip.port f.port).peerKnown = true ∧ (t.chip.port f.port).peerLink = bytesLe k.arg 0 1 ∧ (t.chip.port f.port).peerMac = bytesLe k.arg 2 6)) ∧
    (parsePacket f.bytes = none → exec (.iltBadPacket f) s = .next (s.withChip ((s.chip.portRx f).1.count (rg .iltEvtBad)))) ∧
    (∀ k, parsePacket f.bytes = some k → k.typ ≠ 0 → k.dst ≠ s.chip.chipNumber →
      (∀ link hop, s.chip.route k.dst = some (link, hop) → link ≠ f.port / 2 → (s.chip.portOf link).isSome = true → Completes (.iltForward f) s (fun t =>
        t.chip.mem = s.chip.mem ∧ t.chip.parts = s.chip.parts ∧ t.chip.fab.flows = s.chip.fab.flows ∧
        t.chip.reg (rg .iltEvtTransit) = (s.chip.count (rg .iltEvtTransit)).reg (rg .iltEvtTransit))) ∧
      ((∀ link hop, s.chip.route k.dst = some (link, hop) → link = f.port / 2 ∨ s.chip.portOf link = none) →
        exec (.iltForward f) s = .next (s.withChip (s.chip.portRx f).1))))

/-- 14 R496-R501, R507: an OPEN makes a receive flow and is acknowledged, unless the chip drains or the table is full; an OPEN_ACK opens the send flow and
what waited for it is sent; CLOSE discards a flow, and what a window has admitted of an unfinished block lands first (07 R268; log entry 82). An ACK
ends what came before ACK_PSN, and with it its op; a NAK that refuses a write ends its step with the status of its code, and one for a block that
failed its CRC twice with INTEGRITY_FAIL; a packet not acknowledged is sent again with RETX after RTO_US, and after MAX_TRIES the flow fails with
LINK_LOST; an ACK that is due is sent; an idle flow is closed. -/
def Obligations.FlowsOpenAcknowledgeAndClose : Prop :=
  (∀ (s : State) (f : Frame) (k : Packet), s.chip.powered = true → s.chip.Gets f k →
    (k.typ = 1 → s.chip.rxFlow k.src k.flow = none → (s.chip.reg (rg .iltChip)).bit 16 = false →
      (∀ i, s.chip.freeFlow 4096 = some i → Completes (.iltOpen f) s (fun t => t.chip.mem = s.chip.mem ∧
        t.chip.flow i = some { peer := k.src, id := k.flow, opened := true, caps := beAt k.ext 0 4, used := s.chip.now } ∧
        ∀ j, j ≠ i → t.chip.flow j = s.chip.flow j)) ∧
      (s.chip.freeFlow 4096 = none → Completes (.iltOpen f) s (fun t => t.chip.fab.flows = s.chip.fab.flows ∧
        t.chip.reg (rg .iltEvtNak) = (s.chip.count (rg .iltEvtNak)).reg (rg .iltEvtNak)))) ∧
    (k.typ = 1 → s.chip.rxFlow k.src k.flow = none → (s.chip.reg (rg .iltChip)).bit 16 = true → Completes (.iltOpen f) s (fun t =>
      t.chip.fab.flows = s.chip.fab.flows ∧ t.chip.reg (rg .iltEvtNak) = (s.chip.count (rg .iltEvtNak)).reg (rg .iltEvtNak))) ∧
    (∀ i x, k.typ = 2 → s.chip.ownFlow k.src k.flow = some i → s.chip.flow i = some x → x.opened = false →
      (∀ m ∈ x.waiting, ∀ b, needCap m.pkt.typ = some b → (beAt k.ext 0 4).testBit b = true) → Completes (.iltOpenAck f) s (fun t => t.chip.mem = s.chip.mem ∧
        ∃ y, t.chip.flow i = some y ∧ y.opened = true ∧ y.caps = beAt k.ext 0 4 ∧ y.waiting = [] ∧ x.sent.map Sent.pkt <+: y.sent.map Sent.pkt)) ∧
    (∀ i x, k.typ = 9 → s.chip.rxFlow k.src k.flow = some i → s.chip.flow i = some x →
      let gone (t : State) := t.chip.flow i = none ∧ ∀ j, j ≠ i → t.chip.flow j = s.chip.flow j
      (x.block = [] → Completes (.iltClose f) s (fun t => t.chip.mem = s.chip.mem ∧ gone t)) ∧
      (∀ w p y a, x.block = [w] → w.typ = 3 → s.chip.keyOwner w.key = some p → s.chip.part p = some y → y.phys p w.offset = some a →
        Completes (.iltClose f) s (fun t => t.chip.mem = s.chip.mem.write a w.data ∧ gone t))) ∧
    (∀ i x w p no op y st, s.chip.ackedFlow k.src k.flow = some i → s.chip.flow i = some x → x.sent = [w] → x.queued = [] → w.use = .stepOp p no op →
      s.chip.running p = some (y, st) → st.no = no → (∃ r ∈ st.remotes, r.op = op) →
      (k.typ = 7 → w.last = true → psnSub k.ack w.pkt.psn = 1 → Completes (.iltAck f) s (fun t => t.chip.mem = s.chip.mem ∧
        (∃ v, t.chip.flow i = some v ∧ v.sent = []) ∧ ∃ z u, t.chip.running p = some (z, u) ∧ ∀ r ∈ u.remotes, r.op ≠ op)) ∧
      (k.typ = 8 → beAt k.ext 4 4 = w.pkt.psn → ∀ st', (bytesLe k.ext 0 1, st') ∈ [(6, Status.malformed), (1, .denied), (2, .denied)] →
        Completes (.iltNak f) s (fun t => s.chip.Failed t.chip p y st st' op ∧ ∃ v, t.chip.flow i = some v ∧ v.sent = [])) ∧
      (k.typ = 8 → beAt k.ext 4 4 = w.pkt.psn → bytesLe k.ext 0 1 = 3 → w.crcAgain = true → Completes (.iltNak f) s (fun t =>
        s.chip.Failed t.chip p y st .integrityFail op ∧ (t.chip.reg (rg .safeIntStatus x.owner)).bit 2 = true ∧
        t.chip.reg (rg .safeEvtBlock x.owner) = (s.chip.count (rg .safeEvtBlock x.owner)).reg (rg .safeEvtBlock x.owner))))) ∧
  (∀ (s : State) (i psn : Nat) (x : Flow), s.chip.powered = true → s.chip.flow i = some x →
    (∀ w, (x.opened = true ∨ 4096 ≤ i) → x.sent.find? (fun w => w.pkt.psn == psn) = some w →
      (s.chip.now < w.at_ + s.chip.rto → exec (.iltRtoExpiry i psn) s = .next s) ∧
      (w.at_ + s.chip.rto ≤ s.chip.now → w.tries < s.chip.maxTries → Completes (.iltRtoExpiry i psn) s (fun t => t.chip.mem = s.chip.mem ∧
        ∃ y, t.chip.flow i = some y ∧ y.sent = x.sent.map (fun v => if v.pkt.psn = psn then
          { v with pkt := { v.pkt with flags := v.pkt.flags ||| 8 }, at_ := s.chip.now, tries := v.tries + 1 } else v))) ∧
      (w.at_ + s.chip.rto ≤ s.chip.now → s.chip.maxTries ≤ w.tries → ∀ p no op y st, x.sent = [w] → x.queued = [] → x.waiting = [] →
        w.use = .stepOp p no op → s.chip.running p = some (y, st) → st.no = no → (∃ r ∈ st.remotes, r.op = op) →
        Completes (.iltRtoExpiry i psn) s (fun t => t.chip.flow i = none ∧ s.chip.Failed t.chip p y st .linkLost op))) ∧
    (x.opened = false → i < 4096 → x.openAt + s.chip.rto ≤ s.chip.now → x.openTries < s.chip.maxTries → Completes (.iltRtoExpiry i psn) s (fun t =>
      t.chip.mem = s.chip.mem ∧ t.chip.flow i = some { x with openAt := s.chip.now, openTries := x.openTries + 1 })) ∧
    ((∃ d, x.ackDue = some d ∧ d ≤ s.chip.now) → Completes (.iltAckTimer i) s (fun t => t.chip.mem = s.chip.mem ∧
      t.chip.flow i = some { x with since := 0, ackDue := none })) ∧
    ((∀ d, x.ackDue = some d → s.chip.now < d) → exec (.iltAckTimer i) s = .next s) ∧
    (i < 4096 → x.opened = true → x.waiting = [] → x.queued = [] → x.sent = [] → x.used + 10000000 ≤ s.chip.now →
      exec (.flowIdleClose i) s = .next (s.withChip ((s.chip.dropFlow i).transmit
        { typ := 9, key := x.key, dst := x.peer, src := s.chip.chipNumber, flow := x.id }))) ∧
    ((4096 ≤ i ∨ x.opened = false ∨ s.chip.now < x.used + 10000000) → exec (.flowIdleClose i) s = .next s))

/-- 14 R497, R500, R507, R511, 08 R304: a WRITE in its turn that its window admits reaches memory at its offset, and no other byte, and its last packet
counts at its arrival counter; a COLL packet is staged in its slot; a READ_REQ is answered with the bytes it names, and a READ_RESP delivers them; a
packet that a check refuses changes no byte and draws a NAK, and so does one of an unknown flow. -/
def Obligations.PacketsActInTurn : Prop :=
  (∀ (s : State) (f : Frame) (k : Packet) (i : Nat) (x : Flow) (p : Nat) (y : Part), s.chip.powered = true → s.chip.InTurn f k i x →
    s.chip.keyPart k.key = some (p, y) → s.chip.refusal k = none → (k.hasCrc = true → crc32c k.data = k.crc) →
    (∀ a, k.typ = 3 → y.phys p k.offset = some a → k.isLast = true → (k.arrive < 8 ∨ 16 ≤ k.arrive) → Completes (.iltWrite f) s (fun t =>
      t.chip.mem = s.chip.mem.write a k.data ∧ t.chip.parts = s.chip.parts ∧
      (∃ z, t.chip.flow i = some z ∧ z.expect = psnAdd k.psn 1 ∧ z.acked = psnAdd k.psn 1) ∧
      (k.arrive < 8 → t.chip.reg (rg .seqArrive p k.arrive) = (s.chip.count (rg .seqArrive p k.arrive)).reg (rg .seqArrive p k.arrive)))) ∧
    (∀ a, k.typ = 4 → y.phys p k.offset = some a → x.queued = [] → x.sent = [] → Completes (.iltReadReq f) s (fun t => t.chip.mem = s.chip.mem ∧ t.chip.parts = s.chip.parts ∧
      ∃ z, t.chip.flow i = some z ∧ z.expect = psnAdd k.psn 1 ∧
        (z.sent.map Sent.pkt ++ z.queued.map Prod.fst).flatMap Packet.data = s.chip.read a k.readLen)) ∧
    (∀ gi g, k.typ = 6 → k.isLast = true → y.run = none → s.chip.groupById p y k.group = some (gi, g) →
      let old := (y.staged.find? (fun w => w.group == gi && w.tag == k.tag && w.rank == k.rank)).getD
        ⟨gi, k.tag, k.rank, k.kind, k.fmt, k.bytesField, 0, false, i, k.psn⟩
      Completes (.iltColl f) s (fun t =>
        t.chip.mem = s.chip.mem.write (physOr y p g.stage + slotOff g.stageBytes k.tag k.rank k.bytesField + old.got) k.data ∧
        ∃ z, t.chip.part p = some z ∧ { old with got := old.got + k.data.length, done := true, flow := i, psn := k.psn } ∈ z.staged))) ∧
  (∀ (s : State) (f : Frame) (k : Packet) (i : Nat) (x : Flow) (code : Nat) (cmd : Instr), s.chip.powered = true → s.chip.InTurn f k i x →
    s.chip.refusal k = some code → code < 6 → (k.typ, cmd) ∈ [(3, Instr.iltWrite f), (4, .iltReadReq f), (6, .iltColl f)] →
    Completes cmd s (fun t => t.chip.mem = s.chip.mem ∧ t.chip.parts = s.chip.parts ∧
      t.chip.reg (rg .iltEvtNak) = (s.chip.count (rg .iltEvtNak)).reg (rg .iltEvtNak))) ∧
  (∀ (s : State) (f : Frame) (k : Packet) (cmd : Instr), s.chip.powered = true → s.chip.Gets f k → s.chip.rxFlow k.src k.flow = none →
    (k.typ, cmd) ∈ [(3, Instr.iltWrite f), (4, .iltReadReq f), (6, .iltColl f)] →
    Completes cmd s (fun t => t.chip.mem = s.chip.mem ∧ t.chip.parts = s.chip.parts ∧ t.chip.fab.flows = s.chip.fab.flows ∧
      t.chip.reg (rg .iltEvtNak) = (s.chip.count (rg .iltEvtNak)).reg (rg .iltEvtNak))) ∧
  (∀ (s : State) (f : Frame) (k : Packet) (i : Nat) (x : Flow), s.chip.powered = true → s.chip.Gets f k → k.typ = 5 → s.chip.ownFlow k.src k.flow = some i →
    s.chip.flow i = some x → k.psn = x.expect → k.psn < 2 ^ 32 → x.held = [] → Completes (.iltReadResp f) s (fun t => t.chip.mem = s.chip.mem ∧
      t.chip.parts = s.chip.parts ∧ ∃ z, t.chip.flow i = some z ∧ z.data = x.data ++ k.data ∧ z.expect = psnAdd k.psn 1))

/-- A step takes the command at the front of the queue and is what the command does with the queue's rest. With no command waiting, a nanosecond passes
(the model's choice, log entry 2): DEVTIME of an aligned die 0 advances by one, memory, partitions and registers stay, but that ENG.EVT_BUDGET_WAIT
counts the core cycles of that nanosecond where a pass waits at admission (02 R78). -/
def Obligations.StepRunsFrontCommand : Prop :=
  (∀ (s : State) (c : Instr) (rest : List Instr), s.pending = c :: rest → step s = exec c { s with pending := rest }) ∧
  (∀ s : State, s.pending = [] → ∃ t, step s = .next t ∧ t.pending = [] ∧ t.sys = s.sys ∧ t.chip.mem = s.chip.mem ∧ t.chip.parts = s.chip.parts ∧
    (∀ r, (∀ k ∈ s.chip.tick.waitingCores, r ≠ rg .engEvtBudgetWait k) → t.chip.reg r = s.chip.reg r) ∧
    (∀ k ∈ s.chip.tick.waitingCores, s.chip.powered = true → t.chip.reg (rg .engEvtBudgetWait k) =
      (s.chip.count (rg .engEvtBudgetWait k) (coreCycles t.chip.now)).reg (rg .engEvtBudgetWait k)) ∧ (s.chip.power.inReset = true → t = s) ∧
    (s.chip.power.inReset = false → s.chip.power.clockLost = false → s.chip.clocks ≠ [] → (s.chip.clock 0).slew = 0 → t.chip.now = s.chip.now + 1))

/-- What State.reset holds: no command, every register at the value its table gives for reset, DEVTIME 0 on eight dies, no partition and every unit FREE,
every group FREE and every core with a full budget, Live, and held in reset with the pins low that hold it there; its memories are in canonical form.
What an unlisted byte reads as, the value of a register whose table gives none, and the pins are the model's choice (log entries 4, 5 and 7). -/
def Obligations.ResetHoldsItsValues : Prop :=
  State.reset.pending = [] ∧ State.reset.memoriesOk = true ∧ State.reset.chip.powered = false ∧ State.reset.chip.power.inReset = true ∧
  State.reset.chip.power.state = .live ∧ State.reset.sys.pins.porstN = false ∧ State.reset.sys.pins.pwrgd = false ∧ State.reset.sys.dbg.unlocked = false ∧
  (∀ r, State.reset.chip.reg r = BitVec.ofNat 32 r.name.info.reset) ∧ (∀ d, d < 8 → State.reset.chip.timeOn d = 0) ∧
  (∀ p, State.reset.chip.part p = none) ∧ (∀ u, (State.reset.chip.unit u).1 = .free) ∧ (∀ e g, (State.reset.chip.group e g).state = .free) ∧
  (∀ k, (State.reset.chip.core k).balance = 128) ∧ (∀ a, State.reset.chip.mem.byte a = 0) ∧
  (State.reset.chip.reg (rg .pwrLimit)).toNat = 1500 ∧ (State.reset.chip.reg (rg .pwrCfg)).field 27 16 = 100 ∧ (State.reset.chip.reg (rg .pwrCfg)).field 15 0 = 50 ∧
  (∀ d, (State.reset.chip.reg (rg .telemCfg d)).toNat = 24 ∧ (State.reset.chip.reg (rg .thermCfg d)).toNat = 20) ∧
  (∀ k, (State.reset.chip.reg (rg .calCfg k)).field 8 0 = 16 ∧ (State.reset.chip.reg (rg .calCfg k)).field 25 16 = 250) ∧
  (∀ p, (State.reset.chip.reg (rg .safeIntCfg p)).field 31 16 = 4096 ∧ (State.reset.chip.reg (rg .safeIntCfg p)).field 15 8 = 64) ∧
  (∀ fn, (State.reset.chip.reg (rg .ringPollNs fn)).toNat = 2000 ∧ (State.reset.chip.reg (rg .statPeriodUs fn)).toNat = 1000) ∧
  (State.reset.chip.reg (rg .iltRetry)).field 7 0 = 20 ∧ (State.reset.chip.reg (rg .iltRetry)).field 15 8 = 16 ∧
  (State.reset.chip.reg (rg .iltEncap)).field 31 16 = 0x88B5 ∧ (State.reset.chip.reg (rg .iltUdp)).toNat = 49374

/-- No command is left without a meaning: in every state each one answers a next state that keeps the commands waiting, or, and only outside reset and
only an access to a physical offset outside the map by a control processor, a bus error (01 R28). -/
def Obligations.EveryCommandCompletesOrIsABusError : Prop :=
  ∀ (i : Instr) (s : State),
    (∃ t, exec i s = .next t ∧ t.pending = s.pending) ∨
    ∃ who a, exec i s = .fault (.busError a) ∧ who.num < 5 ∧ mapped a = false ∧ s.chip.power.inReset = false ∧
      ((∃ n v, i = .registerWrite (.phys who a) n v) ∨ (∃ v, i = .statusBitClear (.phys who a) v) ∨ (∃ v, i = .counterClear (.phys who a) v) ∨
        i = .pairLowRead (.phys who a) ∨ (∃ v, i = .pairHighWrite (.phys who a) v) ∨ ∃ w n v, i = .dbgMemoryAccess who w a n v)

/-- 16 R553, 17 R576, R579: reset holds the part. Whatever step is taken in reset, the part stays in reset, and no memory, register, partition, bank,
unit, clock or host byte changes, unless the step is a release of PORST_N with PWRGD high. -/
def Obligations.ResetHoldsThePart : Prop :=
  ∀ s t : State, s.chip.power.inReset = true → step s = .next t →
    (t.chip.power = s.chip.power ∧ t.chip.mem = s.chip.mem ∧ t.chip.regs = s.chip.regs ∧ t.chip.parts = s.chip.parts ∧ t.chip.banks = s.chip.banks ∧
      t.chip.units = s.chip.units ∧ t.chip.clocks = s.chip.clocks ∧ t.chip.host = s.chip.host ∧ t.chip.funcs = s.chip.funcs ∧ t.chip.fab = s.chip.fab) ∨
    (∃ b rest, s.pending = .porstNRelease b :: rest ∧ s.sys.pins.porstN = false ∧ s.sys.pins.pwrgd = true ∧ t.chip.power.inReset = false)
end

