-- ==== Sys2Proof/Laws/Table.lean ====
section
/-! SUPPORT. Laws of sparse tables and byte memories: read after write, and the canonical form that every operation keeps. -/

namespace Sys2Proof

variable {κ ν : Type} [DecidableEq κ]

@[simp] theorem Tbl.find?_set_same (k : κ) (v : ν) (t : Tbl κ ν) : Tbl.find? k (Tbl.set k v t) = some v := by
  induction t with
  | nil => simp [Tbl.set, Tbl.find?]
  | cons e t ih => obtain ⟨k', v'⟩ := e; by_cases h : k' = k <;> simp [Tbl.set, Tbl.find?, h, ih]

theorem Tbl.find?_set_other (k j : κ) (v : ν) (t : Tbl κ ν) (h : j ≠ k) : Tbl.find? j (Tbl.set k v t) = Tbl.find? j t := by
  induction t with
  | nil => simp [Tbl.set, Tbl.find?, Ne.symm h]
  | cons e t ih =>
    obtain ⟨k', v'⟩ := e
    by_cases h1 : k' = k
    · subst h1; simp [Tbl.set, Tbl.find?, Ne.symm h]
    · simp [Tbl.set, Tbl.find?, h1, ih]

@[simp] theorem Tbl.get_set_same (d : ν) (k : κ) (v : ν) (t : Tbl κ ν) : Tbl.get d k (Tbl.set k v t) = v := by simp [Tbl.get]

theorem Tbl.get_set_other (d : ν) (k j : κ) (v : ν) (t : Tbl κ ν) (h : j ≠ k) : Tbl.get d j (Tbl.set k v t) = Tbl.get d j t := by
  simp [Tbl.get, Tbl.find?_set_other k j v t h]

theorem Tbl.get_set (d : ν) (k j : κ) (v : ν) (t : Tbl κ ν) : Tbl.get d j (Tbl.set k v t) = if j = k then v else Tbl.get d j t := by
  by_cases h : j = k
  · simp [h]
  · simp [h, Tbl.get_set_other]

/-! Byte memories -/

theorem Memory.wfFrom_mono {lo lo' : Nat} {m : Memory} (h : lo' ≤ lo) (w : Memory.wfFrom lo m = true) : Memory.wfFrom lo' m = true := by
  cases m with
  | nil => rfl
  | cons e t =>
    obtain ⟨a, v⟩ := e
    simp only [Memory.wfFrom, Bool.and_eq_true, decide_eq_true_eq] at w ⊢
    exact ⟨⟨by omega, w.1.2⟩, w.2⟩

theorem Memory.byte_below {lo k : Nat} {m : Memory} (w : Memory.wfFrom lo m = true) (h : k < lo) : Memory.byte m k = 0 := by
  cases m with
  | nil => rfl
  | cons e t =>
    obtain ⟨a, v⟩ := e
    simp only [Memory.wfFrom, Bool.and_eq_true, decide_eq_true_eq] at w
    have h1 : ¬ a = k := by omega
    have h2 : k < a := by omega
    simp [Memory.byte, h1, h2]

theorem Memory.put_wfFrom {lo k : Nat} {m : Memory} (v : Byte) (w : Memory.wfFrom lo m = true) (h : lo ≤ k) :
    Memory.wfFrom lo (Memory.put m k v) = true := by
  induction m generalizing lo with
  | nil => by_cases hv : v = 0#8 <;> simp [Memory.put, Memory.wfFrom, hv, h]
  | cons e t ih =>
    obtain ⟨a, x⟩ := e
    simp only [Memory.wfFrom, Bool.and_eq_true, decide_eq_true_eq] at w
    obtain ⟨⟨w1, w2⟩, w3⟩ := w
    have w2 : ¬ x = 0#8 := w2
    by_cases h1 : a < k
    · simp [Memory.put, h1, Memory.wfFrom, w1, w2, ih w3 h1]
    · by_cases h2 : a = k
      · subst h2
        by_cases hv : v = 0#8
        · simp [Memory.put, hv]; exact Memory.wfFrom_mono (by omega) w3
        · simp [Memory.put, hv, Memory.wfFrom, w1, w3]
      · have h3 : k + 1 ≤ a := by omega
        by_cases hv : v = 0#8
        · simp [Memory.put, h1, h2, hv, Memory.wfFrom, w1, w2, w3]
        · simp [Memory.put, h1, h2, hv, Memory.wfFrom, w2, w3, h, h3]

/-- A write of one byte keeps the canonical form. -/
theorem Memory.put_wf {m : Memory} (k : Nat) (v : Byte) (w : m.wf = true) : (m.put k v).wf = true :=
  Memory.put_wfFrom v w (Nat.zero_le k)

theorem Memory.byte_put_from {lo k j : Nat} {m : Memory} (v : Byte) (w : Memory.wfFrom lo m = true) :
    Memory.byte (Memory.put m k v) j = if j = k then v else Memory.byte m j := by
  induction m generalizing lo with
  | nil =>
    by_cases hv : v = 0#8
    · simp [Memory.put, Memory.byte, hv]
    · by_cases hj : j = k
      · simp [Memory.put, Memory.byte, hv, hj]
      · simp [Memory.put, Memory.byte, hv, hj, Ne.symm hj]
  | cons e t ih =>
    obtain ⟨a, x⟩ := e
    simp only [Memory.wfFrom, Bool.and_eq_true, decide_eq_true_eq] at w
    obtain ⟨⟨w1, w2⟩, w3⟩ := w
    have w2 : ¬ x = 0#8 := w2
    by_cases h1 : a < k
    · by_cases h2 : a = j
      · subst h2; have : a ≠ k := by omega
        simp [Memory.put, h1, Memory.byte, this]
      · by_cases h3 : j < a
        · have : j ≠ k := by omega
          simp [Memory.put, h1, Memory.byte, h2, h3, this]
        · simp [Memory.put, h1, Memory.byte, h2, h3, ih w3]
    · by_cases h2 : a = k
      · subst h2
        by_cases hv : v = 0#8
        · by_cases hj : j = a
          · subst hj; simp [Memory.put, hv, Memory.byte_below w3 (Nat.lt_succ_self _)]
          · by_cases h3 : j < a
            · simp [Memory.put, hv, hj, Memory.byte, h3, Ne.symm hj, Memory.byte_below w3 (Nat.lt_succ_of_lt h3)]
            · simp [Memory.put, hv, hj, Memory.byte, h3, Ne.symm hj]
        · by_cases hj : j = a
          · simp [Memory.put, hv, Memory.byte, hj]
          · simp [Memory.put, hv, Memory.byte, hj, Ne.symm hj]
      · by_cases hv : v = 0#8
        · by_cases hj : j = k
          · subst hj; have : j < a := by omega
            simp [Memory.put, h1, h2, hv, Memory.byte, this]
          · simp [Memory.put, h1, h2, hv, hj]
        · by_cases hj : j = k
          · simp [Memory.put, h1, h2, hv, Memory.byte, hj]
          · by_cases h3 : j < k
            · have h4 : ¬ a = j := by omega
              have h5 : j < a := by omega
              simp [Memory.put, h1, h2, hv, Memory.byte, hj, Ne.symm hj, h3, h4, h5]
            · simp [Memory.put, h1, h2, hv, Memory.byte, hj, Ne.symm hj, h3]

/-- Reading one byte after writing one. -/
theorem Memory.byte_put {m : Memory} (k j : Nat) (v : Byte) (w : m.wf = true) :
    (m.put k v).byte j = if j = k then v else m.byte j := Memory.byte_put_from v w

/-- A write of consecutive bytes keeps the canonical form. -/
theorem Memory.write_wf (bs : List Byte) {m : Memory} (a : Nat) (w : m.wf = true) : (m.write a bs).wf = true := by
  induction bs generalizing m a with
  | nil => exact w
  | cons b bs ih => exact ih _ (Memory.put_wf a b w)

/-- A byte after a write of consecutive bytes: the byte written there, or what it was. -/
theorem Memory.byte_write (bs : List Byte) {m : Memory} (a j : Nat) (w : m.wf = true) :
    (m.write a bs).byte j = if a ≤ j ∧ j < a + bs.length then bs.getD (j - a) 0 else m.byte j := by
  induction bs generalizing m a with
  | nil => simp [Memory.write] <;> omega
  | cons b bs ih =>
    rw [Memory.write, ih (a + 1) (Memory.put_wf a b w), Memory.byte_put a j b w]
    by_cases hj : j = a
    · subst hj
      rw [if_neg (by omega), if_pos rfl, if_pos ⟨Nat.le_refl _, by simp⟩]; simp
    · by_cases h : a + 1 ≤ j ∧ j < a + 1 + bs.length
      · have h2 : a ≤ j ∧ j < a + (b :: bs).length := by simp; omega
        have e : j - a = (j - (a + 1)) + 1 := by omega
        rw [if_pos h, if_pos h2, e]; simp [List.getD]
      · have h2 : ¬ (a ≤ j ∧ j < a + (b :: bs).length) := by simp; omega
        rw [if_neg h, if_neg h2, if_neg hj]

theorem Memory.read_getD (m : Memory) (n : Nat) (a i : Nat) (h : i < n) : (m.read a n).getD i 0 = m.byte (a + i) := by
  induction n generalizing a i with
  | zero => omega
  | succ n ih =>
    cases i with
    | zero => simp [Memory.read]
    | succ i =>
      have := ih (a + 1) i (by omega)
      simp only [Memory.read, List.getD_cons_succ]; rw [this]; congr 1; omega

@[simp] theorem Memory.read_length (m : Memory) (a n : Nat) : (m.read a n).length = n := by
  induction n generalizing a with
  | zero => rfl
  | succ n ih => simp [Memory.read, ih]

/-- Reading back what was written. -/
theorem Memory.read_write_same (bs : List Byte) {m : Memory} (a : Nat) (w : m.wf = true) :
    (m.write a bs).read a bs.length = bs := by
  apply List.ext_getElem (by simp)
  intro i h1 h2
  have h3 := Memory.read_getD (m.write a bs) bs.length a i h2
  rw [Memory.byte_write bs a (a + i) w, if_pos ⟨by omega, by omega⟩] at h3
  have e : a + i - a = i := by omega
  rw [e] at h3
  simp only [List.getD_eq_getElem?_getD, List.getElem?_eq_getElem h1, List.getElem?_eq_getElem h2, Option.getD_some] at h3
  exact h3

theorem Memory.filter_wfFrom {lo : Nat} {m : Memory} (f : Nat × Byte → Bool) (w : Memory.wfFrom lo m = true) :
    Memory.wfFrom lo (m.filter f) = true := by
  induction m generalizing lo with
  | nil => rfl
  | cons e t ih =>
    obtain ⟨a, v⟩ := e
    simp only [Memory.wfFrom, Bool.and_eq_true, decide_eq_true_eq] at w
    by_cases hf : f (a, v) = true
    · have w2 : ¬ v = 0#8 := w.1.2
      simp [List.filter, hf, Memory.wfFrom, w.1.1, w2, ih w.2]
    · simp [List.filter, hf]; exact Memory.wfFrom_mono (by omega) (ih w.2)

/-- Zeroing keeps the canonical form. -/
theorem Memory.zero_wf {m : Memory} (lo hi : Nat) (w : m.wf = true) : (m.zero lo hi).wf = true := Memory.filter_wfFrom _ w

theorem Memory.byte_filter {lo : Nat} {m : Memory} (f : Nat → Bool) (j : Nat) (w : Memory.wfFrom lo m = true) :
    Memory.byte (m.filter (fun c => f c.1)) j = if f j then Memory.byte m j else 0 := by
  induction m generalizing lo with
  | nil => simp [Memory.byte]
  | cons e t ih =>
    obtain ⟨a, v⟩ := e
    simp only [Memory.wfFrom, Bool.and_eq_true, decide_eq_true_eq] at w
    by_cases hf : f a = true
    · by_cases h1 : a = j
      · subst h1; simp [List.filter, hf, Memory.byte]
      · by_cases h2 : j < a
        · simp [List.filter, hf, Memory.byte, h1, h2]
        · simp [List.filter, hf, Memory.byte, h1, h2, ih w.2]
    · have hf' : f a = false := by simpa using hf
      simp only [List.filter, hf']
      rw [ih w.2]
      by_cases h1 : a = j
      · subst h1; simp [hf']
      · by_cases h2 : j < a
        · simp [Memory.byte, h1, h2, Memory.byte_below w.2 (show j < a + 1 by omega)]
        · simp [Memory.byte, h1, h2]

/-- A byte after zeroing. -/
theorem Memory.byte_zero {m : Memory} (lo hi j : Nat) (w : m.wf = true) :
    (m.zero lo hi).byte j = if lo ≤ j ∧ j < hi then 0 else m.byte j := by
  have := Memory.byte_filter (fun a => decide (a < lo ∨ hi ≤ a)) j w
  rw [Memory.zero, this]
  by_cases h : lo ≤ j ∧ j < hi
  · simp only [h, and_self, if_true]; simp; omega
  · have : j < lo ∨ hi ≤ j := by omega
    simp [this]; omega

@[simp] theorem leBytes_length (n v : Nat) : (leBytes n v).length = n := by
  induction n generalizing v with
  | zero => rfl
  | succ n ih => simp [leBytes, ih]

/-- The number in little-endian bytes. -/
theorem leNat_leBytes (n v : Nat) : leNat (leBytes n v) = v % 256 ^ n := by
  induction n generalizing v with
  | zero => simp [leBytes, leNat, Nat.mod_one]
  | succ n ih =>
    simp only [leBytes, leNat, ih, BitVec.toNat_ofNat]
    have e : (2 : Nat) ^ 8 = 256 := rfl
    rw [e, Nat.pow_succ', Nat.mod_mul]

theorem Word.bit_or (a b : Word) (i : Nat) : (a ||| b).bit i = (a.bit i || b.bit i) := by
  simp [Word.bit, BitVec.toNat_or, Nat.testBit_or]

end Sys2Proof
end

