-- ==== Sys2Proof/Laws/State.lean ====
section
/-! SUPPORT. One lemma per field per update of the data path, and reads of what was just stored. -/

namespace Sys2Proof.Machine

@[simp] theorem Chip.setReg_clocks (c : Chip) (r : Reg) (v : Word) : (c.setReg r v).clocks = c.clocks := rfl
@[simp] theorem Chip.setReg_regs (c : Chip) (r : Reg) (v : Word) : (c.setReg r v).regs = Tbl.set r v c.regs := rfl
@[simp] theorem Chip.setReg_latch (c : Chip) (r : Reg) (v : Word) : (c.setReg r v).latch = c.latch := rfl
@[simp] theorem Chip.setReg_mem (c : Chip) (r : Reg) (v : Word) : (c.setReg r v).mem = c.mem := rfl
@[simp] theorem Chip.setReg_ce (c : Chip) (r : Reg) (v : Word) : (c.setReg r v).ce = c.ce := rfl
@[simp] theorem Chip.setReg_ue (c : Chip) (r : Reg) (v : Word) : (c.setReg r v).ue = c.ue := rfl
@[simp] theorem Chip.setReg_damaged (c : Chip) (r : Reg) (v : Word) : (c.setReg r v).damaged = c.damaged := rfl
@[simp] theorem Chip.setReg_blockBad (c : Chip) (r : Reg) (v : Word) : (c.setReg r v).blockBad = c.blockBad := rfl
@[simp] theorem Chip.setReg_host (c : Chip) (r : Reg) (v : Word) : (c.setReg r v).host = c.host := rfl
@[simp] theorem Chip.setReg_hostUp (c : Chip) (r : Reg) (v : Word) : (c.setReg r v).hostUp = c.hostUp := rfl
@[simp] theorem Chip.setReg_numVfs (c : Chip) (r : Reg) (v : Word) : (c.setReg r v).numVfs = c.numVfs := rfl
@[simp] theorem Chip.setReg_served (c : Chip) (r : Reg) (v : Word) : (c.setReg r v).served = c.served := rfl
@[simp] theorem Chip.setReg_funcs (c : Chip) (r : Reg) (v : Word) : (c.setReg r v).funcs = c.funcs := rfl
@[simp] theorem Chip.setReg_units (c : Chip) (r : Reg) (v : Word) : (c.setReg r v).units = c.units := rfl
@[simp] theorem Chip.setReg_parts (c : Chip) (r : Reg) (v : Word) : (c.setReg r v).parts = c.parts := rfl
@[simp] theorem Chip.setReg_cores (c : Chip) (r : Reg) (v : Word) : (c.setReg r v).cores = c.cores := rfl
@[simp] theorem Chip.setReg_groups (c : Chip) (r : Reg) (v : Word) : (c.setReg r v).groups = c.groups := rfl
@[simp] theorem Chip.setReg_banks (c : Chip) (r : Reg) (v : Word) : (c.setReg r v).banks = c.banks := rfl
@[simp] theorem Chip.setReg_engines (c : Chip) (r : Reg) (v : Word) : (c.setReg r v).engines = c.engines := rfl
@[simp] theorem Chip.setReg_convFailed (c : Chip) (r : Reg) (v : Word) : (c.setReg r v).convFailed = c.convFailed := rfl
@[simp] theorem Chip.setReg_streamDown (c : Chip) (r : Reg) (v : Word) : (c.setReg r v).streamDown = c.streamDown := rfl
@[simp] theorem Chip.setReg_refreshTurn (c : Chip) (r : Reg) (v : Word) : (c.setReg r v).refreshTurn = c.refreshTurn := rfl
@[simp] theorem Chip.setReg_calWait (c : Chip) (r : Reg) (v : Word) : (c.setReg r v).calWait = c.calWait := rfl
@[simp] theorem Chip.setReg_unownedTest (c : Chip) (r : Reg) (v : Word) : (c.setReg r v).unownedTest = c.unownedTest := rfl
@[simp] theorem Chip.setReg_telem (c : Chip) (r : Reg) (v : Word) : (c.setReg r v).telem = c.telem := rfl
@[simp] theorem Chip.setReg_chans (c : Chip) (r : Reg) (v : Word) : (c.setReg r v).chans = c.chans := rfl
@[simp] theorem Chip.setReg_scanChans (c : Chip) (r : Reg) (v : Word) : (c.setReg r v).scanChans = c.scanChans := rfl
@[simp] theorem Chip.setReg_scanTemps (c : Chip) (r : Reg) (v : Word) : (c.setReg r v).scanTemps = c.scanTemps := rfl
@[simp] theorem Chip.setReg_sensors (c : Chip) (r : Reg) (v : Word) : (c.setReg r v).sensors = c.sensors := rfl
@[simp] theorem Chip.setReg_vbgh (c : Chip) (r : Reg) (v : Word) : (c.setReg r v).vbgh = c.vbgh := rfl
@[simp] theorem Chip.setReg_dividers (c : Chip) (r : Reg) (v : Word) : (c.setReg r v).dividers = c.dividers := rfl
@[simp] theorem Chip.setReg_sense (c : Chip) (r : Reg) (v : Word) : (c.setReg r v).sense = c.sense := rfl
@[simp] theorem Chip.setReg_senseZero (c : Chip) (r : Reg) (v : Word) : (c.setReg r v).senseZero = c.senseZero := rfl
@[simp] theorem Chip.setReg_capture (c : Chip) (r : Reg) (v : Word) : (c.setReg r v).capture = c.capture := rfl
@[simp] theorem Chip.setReg_therm (c : Chip) (r : Reg) (v : Word) : (c.setReg r v).therm = c.therm := rfl
@[simp] theorem Chip.setReg_power (c : Chip) (r : Reg) (v : Word) : (c.setReg r v).power = c.power := rfl
@[simp] theorem Chip.setReg_fab (c : Chip) (r : Reg) (v : Word) : (c.setReg r v).fab = c.fab := rfl
@[simp] theorem Chip.setReg_vics (c : Chip) (r : Reg) (v : Word) : (c.setReg r v).vics = c.vics := rfl
@[simp] theorem Chip.setReg_mbxWindow (c : Chip) (r : Reg) (v : Word) : (c.setReg r v).mbxWindow = c.mbxWindow := rfl
@[simp] theorem Chip.setReg_readData (c : Chip) (r : Reg) (v : Word) : (c.setReg r v).readData = c.readData := rfl
@[simp] theorem Chip.setReg_settingsDue (c : Chip) (r : Reg) (v : Word) : (c.setReg r v).settingsDue = c.settingsDue := rfl
@[simp] theorem Chip.setReg_scrub (c : Chip) (r : Reg) (v : Word) : (c.setReg r v).scrub = c.scrub := rfl
@[simp] theorem Chip.setReg_free (c : Chip) (r : Reg) (v : Word) : (c.setReg r v).free = c.free := rfl

@[simp] theorem Chip.setPart_clocks (c : Chip) (p : Nat) (x : Part) : (c.setPart p x).clocks = c.clocks := rfl
@[simp] theorem Chip.setPart_regs (c : Chip) (p : Nat) (x : Part) : (c.setPart p x).regs = c.regs := rfl
@[simp] theorem Chip.setPart_latch (c : Chip) (p : Nat) (x : Part) : (c.setPart p x).latch = c.latch := rfl
@[simp] theorem Chip.setPart_mem (c : Chip) (p : Nat) (x : Part) : (c.setPart p x).mem = c.mem := rfl
@[simp] theorem Chip.setPart_ce (c : Chip) (p : Nat) (x : Part) : (c.setPart p x).ce = c.ce := rfl
@[simp] theorem Chip.setPart_ue (c : Chip) (p : Nat) (x : Part) : (c.setPart p x).ue = c.ue := rfl
@[simp] theorem Chip.setPart_damaged (c : Chip) (p : Nat) (x : Part) : (c.setPart p x).damaged = c.damaged := rfl
@[simp] theorem Chip.setPart_blockBad (c : Chip) (p : Nat) (x : Part) : (c.setPart p x).blockBad = c.blockBad := rfl
@[simp] theorem Chip.setPart_host (c : Chip) (p : Nat) (x : Part) : (c.setPart p x).host = c.host := rfl
@[simp] theorem Chip.setPart_hostUp (c : Chip) (p : Nat) (x : Part) : (c.setPart p x).hostUp = c.hostUp := rfl
@[simp] theorem Chip.setPart_numVfs (c : Chip) (p : Nat) (x : Part) : (c.setPart p x).numVfs = c.numVfs := rfl
@[simp] theorem Chip.setPart_served (c : Chip) (p : Nat) (x : Part) : (c.setPart p x).served = c.served := rfl
@[simp] theorem Chip.setPart_funcs (c : Chip) (p : Nat) (x : Part) : (c.setPart p x).funcs = c.funcs := rfl
@[simp] theorem Chip.setPart_units (c : Chip) (p : Nat) (x : Part) : (c.setPart p x).units = c.units := rfl
@[simp] theorem Chip.setPart_parts (c : Chip) (p : Nat) (x : Part) : (c.setPart p x).parts = Tbl.set p x c.parts := rfl
@[simp] theorem Chip.setPart_cores (c : Chip) (p : Nat) (x : Part) : (c.setPart p x).cores = c.cores := rfl
@[simp] theorem Chip.setPart_groups (c : Chip) (p : Nat) (x : Part) : (c.setPart p x).groups = c.groups := rfl
@[simp] theorem Chip.setPart_banks (c : Chip) (p : Nat) (x : Part) : (c.setPart p x).banks = c.banks := rfl
@[simp] theorem Chip.setPart_engines (c : Chip) (p : Nat) (x : Part) : (c.setPart p x).engines = c.engines := rfl
@[simp] theorem Chip.setPart_convFailed (c : Chip) (p : Nat) (x : Part) : (c.setPart p x).convFailed = c.convFailed := rfl
@[simp] theorem Chip.setPart_streamDown (c : Chip) (p : Nat) (x : Part) : (c.setPart p x).streamDown = c.streamDown := rfl
@[simp] theorem Chip.setPart_refreshTurn (c : Chip) (p : Nat) (x : Part) : (c.setPart p x).refreshTurn = c.refreshTurn := rfl
@[simp] theorem Chip.setPart_calWait (c : Chip) (p : Nat) (x : Part) : (c.setPart p x).calWait = c.calWait := rfl
@[simp] theorem Chip.setPart_unownedTest (c : Chip) (p : Nat) (x : Part) : (c.setPart p x).unownedTest = c.unownedTest := rfl
@[simp] theorem Chip.setPart_telem (c : Chip) (p : Nat) (x : Part) : (c.setPart p x).telem = c.telem := rfl
@[simp] theorem Chip.setPart_chans (c : Chip) (p : Nat) (x : Part) : (c.setPart p x).chans = c.chans := rfl
@[simp] theorem Chip.setPart_scanChans (c : Chip) (p : Nat) (x : Part) : (c.setPart p x).scanChans = c.scanChans := rfl
@[simp] theorem Chip.setPart_scanTemps (c : Chip) (p : Nat) (x : Part) : (c.setPart p x).scanTemps = c.scanTemps := rfl
@[simp] theorem Chip.setPart_sensors (c : Chip) (p : Nat) (x : Part) : (c.setPart p x).sensors = c.sensors := rfl
@[simp] theorem Chip.setPart_vbgh (c : Chip) (p : Nat) (x : Part) : (c.setPart p x).vbgh = c.vbgh := rfl
@[simp] theorem Chip.setPart_dividers (c : Chip) (p : Nat) (x : Part) : (c.setPart p x).dividers = c.dividers := rfl
@[simp] theorem Chip.setPart_sense (c : Chip) (p : Nat) (x : Part) : (c.setPart p x).sense = c.sense := rfl
@[simp] theorem Chip.setPart_senseZero (c : Chip) (p : Nat) (x : Part) : (c.setPart p x).senseZero = c.senseZero := rfl
@[simp] theorem Chip.setPart_capture (c : Chip) (p : Nat) (x : Part) : (c.setPart p x).capture = c.capture := rfl
@[simp] theorem Chip.setPart_therm (c : Chip) (p : Nat) (x : Part) : (c.setPart p x).therm = c.therm := rfl
@[simp] theorem Chip.setPart_power (c : Chip) (p : Nat) (x : Part) : (c.setPart p x).power = c.power := rfl
@[simp] theorem Chip.setPart_fab (c : Chip) (p : Nat) (x : Part) : (c.setPart p x).fab = c.fab := rfl
@[simp] theorem Chip.setPart_vics (c : Chip) (p : Nat) (x : Part) : (c.setPart p x).vics = c.vics := rfl
@[simp] theorem Chip.setPart_mbxWindow (c : Chip) (p : Nat) (x : Part) : (c.setPart p x).mbxWindow = c.mbxWindow := rfl
@[simp] theorem Chip.setPart_readData (c : Chip) (p : Nat) (x : Part) : (c.setPart p x).readData = c.readData := rfl
@[simp] theorem Chip.setPart_settingsDue (c : Chip) (p : Nat) (x : Part) : (c.setPart p x).settingsDue = c.settingsDue := rfl
@[simp] theorem Chip.setPart_scrub (c : Chip) (p : Nat) (x : Part) : (c.setPart p x).scrub = c.scrub := rfl
@[simp] theorem Chip.setPart_free (c : Chip) (p : Nat) (x : Part) : (c.setPart p x).free = c.free := rfl

@[simp] theorem Chip.setCore_clocks (c : Chip) (n : Nat) (x : Core) : (c.setCore n x).clocks = c.clocks := rfl
@[simp] theorem Chip.setCore_regs (c : Chip) (n : Nat) (x : Core) : (c.setCore n x).regs = c.regs := rfl
@[simp] theorem Chip.setCore_latch (c : Chip) (n : Nat) (x : Core) : (c.setCore n x).latch = c.latch := rfl
@[simp] theorem Chip.setCore_mem (c : Chip) (n : Nat) (x : Core) : (c.setCore n x).mem = c.mem := rfl
@[simp] theorem Chip.setCore_ce (c : Chip) (n : Nat) (x : Core) : (c.setCore n x).ce = c.ce := rfl
@[simp] theorem Chip.setCore_ue (c : Chip) (n : Nat) (x : Core) : (c.setCore n x).ue = c.ue := rfl
@[simp] theorem Chip.setCore_damaged (c : Chip) (n : Nat) (x : Core) : (c.setCore n x).damaged = c.damaged := rfl
@[simp] theorem Chip.setCore_blockBad (c : Chip) (n : Nat) (x : Core) : (c.setCore n x).blockBad = c.blockBad := rfl
@[simp] theorem Chip.setCore_host (c : Chip) (n : Nat) (x : Core) : (c.setCore n x).host = c.host := rfl
@[simp] theorem Chip.setCore_hostUp (c : Chip) (n : Nat) (x : Core) : (c.setCore n x).hostUp = c.hostUp := rfl
@[simp] theorem Chip.setCore_numVfs (c : Chip) (n : Nat) (x : Core) : (c.setCore n x).numVfs = c.numVfs := rfl
@[simp] theorem Chip.setCore_served (c : Chip) (n : Nat) (x : Core) : (c.setCore n x).served = c.served := rfl
@[simp] theorem Chip.setCore_funcs (c : Chip) (n : Nat) (x : Core) : (c.setCore n x).funcs = c.funcs := rfl
@[simp] theorem Chip.setCore_units (c : Chip) (n : Nat) (x : Core) : (c.setCore n x).units = c.units := rfl
@[simp] theorem Chip.setCore_parts (c : Chip) (n : Nat) (x : Core) : (c.setCore n x).parts = c.parts := rfl
@[simp] theorem Chip.setCore_cores (c : Chip) (n : Nat) (x : Core) : (c.setCore n x).cores = Tbl.set n x c.cores := rfl
@[simp] theorem Chip.setCore_groups (c : Chip) (n : Nat) (x : Core) : (c.setCore n x).groups = c.groups := rfl
@[simp] theorem Chip.setCore_banks (c : Chip) (n : Nat) (x : Core) : (c.setCore n x).banks = c.banks := rfl
@[simp] theorem Chip.setCore_engines (c : Chip) (n : Nat) (x : Core) : (c.setCore n x).engines = c.engines := rfl
@[simp] theorem Chip.setCore_convFailed (c : Chip) (n : Nat) (x : Core) : (c.setCore n x).convFailed = c.convFailed := rfl
@[simp] theorem Chip.setCore_streamDown (c : Chip) (n : Nat) (x : Core) : (c.setCore n x).streamDown = c.streamDown := rfl
@[simp] theorem Chip.setCore_refreshTurn (c : Chip) (n : Nat) (x : Core) : (c.setCore n x).refreshTurn = c.refreshTurn := rfl
@[simp] theorem Chip.setCore_calWait (c : Chip) (n : Nat) (x : Core) : (c.setCore n x).calWait = c.calWait := rfl
@[simp] theorem Chip.setCore_unownedTest (c : Chip) (n : Nat) (x : Core) : (c.setCore n x).unownedTest = c.unownedTest := rfl
@[simp] theorem Chip.setCore_telem (c : Chip) (n : Nat) (x : Core) : (c.setCore n x).telem = c.telem := rfl
@[simp] theorem Chip.setCore_chans (c : Chip) (n : Nat) (x : Core) : (c.setCore n x).chans = c.chans := rfl
@[simp] theorem Chip.setCore_scanChans (c : Chip) (n : Nat) (x : Core) : (c.setCore n x).scanChans = c.scanChans := rfl
@[simp] theorem Chip.setCore_scanTemps (c : Chip) (n : Nat) (x : Core) : (c.setCore n x).scanTemps = c.scanTemps := rfl
@[simp] theorem Chip.setCore_sensors (c : Chip) (n : Nat) (x : Core) : (c.setCore n x).sensors = c.sensors := rfl
@[simp] theorem Chip.setCore_vbgh (c : Chip) (n : Nat) (x : Core) : (c.setCore n x).vbgh = c.vbgh := rfl
@[simp] theorem Chip.setCore_dividers (c : Chip) (n : Nat) (x : Core) : (c.setCore n x).dividers = c.dividers := rfl
@[simp] theorem Chip.setCore_sense (c : Chip) (n : Nat) (x : Core) : (c.setCore n x).sense = c.sense := rfl
@[simp] theorem Chip.setCore_senseZero (c : Chip) (n : Nat) (x : Core) : (c.setCore n x).senseZero = c.senseZero := rfl
@[simp] theorem Chip.setCore_capture (c : Chip) (n : Nat) (x : Core) : (c.setCore n x).capture = c.capture := rfl
@[simp] theorem Chip.setCore_therm (c : Chip) (n : Nat) (x : Core) : (c.setCore n x).therm = c.therm := rfl
@[simp] theorem Chip.setCore_power (c : Chip) (n : Nat) (x : Core) : (c.setCore n x).power = c.power := rfl
@[simp] theorem Chip.setCore_fab (c : Chip) (n : Nat) (x : Core) : (c.setCore n x).fab = c.fab := rfl
@[simp] theorem Chip.setCore_vics (c : Chip) (n : Nat) (x : Core) : (c.setCore n x).vics = c.vics := rfl
@[simp] theorem Chip.setCore_mbxWindow (c : Chip) (n : Nat) (x : Core) : (c.setCore n x).mbxWindow = c.mbxWindow := rfl
@[simp] theorem Chip.setCore_readData (c : Chip) (n : Nat) (x : Core) : (c.setCore n x).readData = c.readData := rfl
@[simp] theorem Chip.setCore_settingsDue (c : Chip) (n : Nat) (x : Core) : (c.setCore n x).settingsDue = c.settingsDue := rfl
@[simp] theorem Chip.setCore_scrub (c : Chip) (n : Nat) (x : Core) : (c.setCore n x).scrub = c.scrub := rfl
@[simp] theorem Chip.setCore_free (c : Chip) (n : Nat) (x : Core) : (c.setCore n x).free = c.free := rfl

@[simp] theorem Chip.setGroup_clocks (c : Chip) (e g : Nat) (x : Group) : (c.setGroup e g x).clocks = c.clocks := rfl
@[simp] theorem Chip.setGroup_regs (c : Chip) (e g : Nat) (x : Group) : (c.setGroup e g x).regs = c.regs := rfl
@[simp] theorem Chip.setGroup_latch (c : Chip) (e g : Nat) (x : Group) : (c.setGroup e g x).latch = c.latch := rfl
@[simp] theorem Chip.setGroup_mem (c : Chip) (e g : Nat) (x : Group) : (c.setGroup e g x).mem = c.mem := rfl
@[simp] theorem Chip.setGroup_ce (c : Chip) (e g : Nat) (x : Group) : (c.setGroup e g x).ce = c.ce := rfl
@[simp] theorem Chip.setGroup_ue (c : Chip) (e g : Nat) (x : Group) : (c.setGroup e g x).ue = c.ue := rfl
@[simp] theorem Chip.setGroup_damaged (c : Chip) (e g : Nat) (x : Group) : (c.setGroup e g x).damaged = c.damaged := rfl
@[simp] theorem Chip.setGroup_blockBad (c : Chip) (e g : Nat) (x : Group) : (c.setGroup e g x).blockBad = c.blockBad := rfl
@[simp] theorem Chip.setGroup_host (c : Chip) (e g : Nat) (x : Group) : (c.setGroup e g x).host = c.host := rfl
@[simp] theorem Chip.setGroup_hostUp (c : Chip) (e g : Nat) (x : Group) : (c.setGroup e g x).hostUp = c.hostUp := rfl
@[simp] theorem Chip.setGroup_numVfs (c : Chip) (e g : Nat) (x : Group) : (c.setGroup e g x).numVfs = c.numVfs := rfl
@[simp] theorem Chip.setGroup_served (c : Chip) (e g : Nat) (x : Group) : (c.setGroup e g x).served = c.served := rfl
@[simp] theorem Chip.setGroup_funcs (c : Chip) (e g : Nat) (x : Group) : (c.setGroup e g x).funcs = c.funcs := rfl
@[simp] theorem Chip.setGroup_units (c : Chip) (e g : Nat) (x : Group) : (c.setGroup e g x).units = c.units := rfl
@[simp] theorem Chip.setGroup_parts (c : Chip) (e g : Nat) (x : Group) : (c.setGroup e g x).parts = c.parts := rfl
@[simp] theorem Chip.setGroup_cores (c : Chip) (e g : Nat) (x : Group) : (c.setGroup e g x).cores = c.cores := rfl
@[simp] theorem Chip.setGroup_groups (c : Chip) (e g : Nat) (x : Group) : (c.setGroup e g x).groups = Tbl.set (e, g) x c.groups := rfl
@[simp] theorem Chip.setGroup_banks (c : Chip) (e g : Nat) (x : Group) : (c.setGroup e g x).banks = c.banks := rfl
@[simp] theorem Chip.setGroup_engines (c : Chip) (e g : Nat) (x : Group) : (c.setGroup e g x).engines = c.engines := rfl
@[simp] theorem Chip.setGroup_convFailed (c : Chip) (e g : Nat) (x : Group) : (c.setGroup e g x).convFailed = c.convFailed := rfl
@[simp] theorem Chip.setGroup_streamDown (c : Chip) (e g : Nat) (x : Group) : (c.setGroup e g x).streamDown = c.streamDown := rfl
@[simp] theorem Chip.setGroup_refreshTurn (c : Chip) (e g : Nat) (x : Group) : (c.setGroup e g x).refreshTurn = c.refreshTurn := rfl
@[simp] theorem Chip.setGroup_calWait (c : Chip) (e g : Nat) (x : Group) : (c.setGroup e g x).calWait = c.calWait := rfl
@[simp] theorem Chip.setGroup_unownedTest (c : Chip) (e g : Nat) (x : Group) : (c.setGroup e g x).unownedTest = c.unownedTest := rfl
@[simp] theorem Chip.setGroup_telem (c : Chip) (e g : Nat) (x : Group) : (c.setGroup e g x).telem = c.telem := rfl
@[simp] theorem Chip.setGroup_chans (c : Chip) (e g : Nat) (x : Group) : (c.setGroup e g x).chans = c.chans := rfl
@[simp] theorem Chip.setGroup_scanChans (c : Chip) (e g : Nat) (x : Group) : (c.setGroup e g x).scanChans = c.scanChans := rfl
@[simp] theorem Chip.setGroup_scanTemps (c : Chip) (e g : Nat) (x : Group) : (c.setGroup e g x).scanTemps = c.scanTemps := rfl
@[simp] theorem Chip.setGroup_sensors (c : Chip) (e g : Nat) (x : Group) : (c.setGroup e g x).sensors = c.sensors := rfl
@[simp] theorem Chip.setGroup_vbgh (c : Chip) (e g : Nat) (x : Group) : (c.setGroup e g x).vbgh = c.vbgh := rfl
@[simp] theorem Chip.setGroup_dividers (c : Chip) (e g : Nat) (x : Group) : (c.setGroup e g x).dividers = c.dividers := rfl
@[simp] theorem Chip.setGroup_sense (c : Chip) (e g : Nat) (x : Group) : (c.setGroup e g x).sense = c.sense := rfl
@[simp] theorem Chip.setGroup_senseZero (c : Chip) (e g : Nat) (x : Group) : (c.setGroup e g x).senseZero = c.senseZero := rfl
@[simp] theorem Chip.setGroup_capture (c : Chip) (e g : Nat) (x : Group) : (c.setGroup e g x).capture = c.capture := rfl
@[simp] theorem Chip.setGroup_therm (c : Chip) (e g : Nat) (x : Group) : (c.setGroup e g x).therm = c.therm := rfl
@[simp] theorem Chip.setGroup_power (c : Chip) (e g : Nat) (x : Group) : (c.setGroup e g x).power = c.power := rfl
@[simp] theorem Chip.setGroup_fab (c : Chip) (e g : Nat) (x : Group) : (c.setGroup e g x).fab = c.fab := rfl
@[simp] theorem Chip.setGroup_vics (c : Chip) (e g : Nat) (x : Group) : (c.setGroup e g x).vics = c.vics := rfl
@[simp] theorem Chip.setGroup_mbxWindow (c : Chip) (e g : Nat) (x : Group) : (c.setGroup e g x).mbxWindow = c.mbxWindow := rfl
@[simp] theorem Chip.setGroup_readData (c : Chip) (e g : Nat) (x : Group) : (c.setGroup e g x).readData = c.readData := rfl
@[simp] theorem Chip.setGroup_settingsDue (c : Chip) (e g : Nat) (x : Group) : (c.setGroup e g x).settingsDue = c.settingsDue := rfl
@[simp] theorem Chip.setGroup_scrub (c : Chip) (e g : Nat) (x : Group) : (c.setGroup e g x).scrub = c.scrub := rfl
@[simp] theorem Chip.setGroup_free (c : Chip) (e g : Nat) (x : Group) : (c.setGroup e g x).free = c.free := rfl

@[simp] theorem Chip.setBank_clocks (c : Chip) (a b : Nat) (x : Bank) : (c.setBank a b x).clocks = c.clocks := rfl
@[simp] theorem Chip.setBank_regs (c : Chip) (a b : Nat) (x : Bank) : (c.setBank a b x).regs = c.regs := rfl
@[simp] theorem Chip.setBank_latch (c : Chip) (a b : Nat) (x : Bank) : (c.setBank a b x).latch = c.latch := rfl
@[simp] theorem Chip.setBank_mem (c : Chip) (a b : Nat) (x : Bank) : (c.setBank a b x).mem = c.mem := rfl
@[simp] theorem Chip.setBank_ce (c : Chip) (a b : Nat) (x : Bank) : (c.setBank a b x).ce = c.ce := rfl
@[simp] theorem Chip.setBank_ue (c : Chip) (a b : Nat) (x : Bank) : (c.setBank a b x).ue = c.ue := rfl
@[simp] theorem Chip.setBank_damaged (c : Chip) (a b : Nat) (x : Bank) : (c.setBank a b x).damaged = c.damaged := rfl
@[simp] theorem Chip.setBank_blockBad (c : Chip) (a b : Nat) (x : Bank) : (c.setBank a b x).blockBad = c.blockBad := rfl
@[simp] theorem Chip.setBank_host (c : Chip) (a b : Nat) (x : Bank) : (c.setBank a b x).host = c.host := rfl
@[simp] theorem Chip.setBank_hostUp (c : Chip) (a b : Nat) (x : Bank) : (c.setBank a b x).hostUp = c.hostUp := rfl
@[simp] theorem Chip.setBank_numVfs (c : Chip) (a b : Nat) (x : Bank) : (c.setBank a b x).numVfs = c.numVfs := rfl
@[simp] theorem Chip.setBank_served (c : Chip) (a b : Nat) (x : Bank) : (c.setBank a b x).served = c.served := rfl
@[simp] theorem Chip.setBank_funcs (c : Chip) (a b : Nat) (x : Bank) : (c.setBank a b x).funcs = c.funcs := rfl
@[simp] theorem Chip.setBank_units (c : Chip) (a b : Nat) (x : Bank) : (c.setBank a b x).units = c.units := rfl
@[simp] theorem Chip.setBank_parts (c : Chip) (a b : Nat) (x : Bank) : (c.setBank a b x).parts = c.parts := rfl
@[simp] theorem Chip.setBank_cores (c : Chip) (a b : Nat) (x : Bank) : (c.setBank a b x).cores = c.cores := rfl
@[simp] theorem Chip.setBank_groups (c : Chip) (a b : Nat) (x : Bank) : (c.setBank a b x).groups = c.groups := rfl
@[simp] theorem Chip.setBank_banks (c : Chip) (a b : Nat) (x : Bank) : (c.setBank a b x).banks = Tbl.set (a, b) x c.banks := rfl
@[simp] theorem Chip.setBank_engines (c : Chip) (a b : Nat) (x : Bank) : (c.setBank a b x).engines = c.engines := rfl
@[simp] theorem Chip.setBank_convFailed (c : Chip) (a b : Nat) (x : Bank) : (c.setBank a b x).convFailed = c.convFailed := rfl
@[simp] theorem Chip.setBank_streamDown (c : Chip) (a b : Nat) (x : Bank) : (c.setBank a b x).streamDown = c.streamDown := rfl
@[simp] theorem Chip.setBank_refreshTurn (c : Chip) (a b : Nat) (x : Bank) : (c.setBank a b x).refreshTurn = c.refreshTurn := rfl
@[simp] theorem Chip.setBank_calWait (c : Chip) (a b : Nat) (x : Bank) : (c.setBank a b x).calWait = c.calWait := rfl
@[simp] theorem Chip.setBank_unownedTest (c : Chip) (a b : Nat) (x : Bank) : (c.setBank a b x).unownedTest = c.unownedTest := rfl
@[simp] theorem Chip.setBank_telem (c : Chip) (a b : Nat) (x : Bank) : (c.setBank a b x).telem = c.telem := rfl
@[simp] theorem Chip.setBank_chans (c : Chip) (a b : Nat) (x : Bank) : (c.setBank a b x).chans = c.chans := rfl
@[simp] theorem Chip.setBank_scanChans (c : Chip) (a b : Nat) (x : Bank) : (c.setBank a b x).scanChans = c.scanChans := rfl
@[simp] theorem Chip.setBank_scanTemps (c : Chip) (a b : Nat) (x : Bank) : (c.setBank a b x).scanTemps = c.scanTemps := rfl
@[simp] theorem Chip.setBank_sensors (c : Chip) (a b : Nat) (x : Bank) : (c.setBank a b x).sensors = c.sensors := rfl
@[simp] theorem Chip.setBank_vbgh (c : Chip) (a b : Nat) (x : Bank) : (c.setBank a b x).vbgh = c.vbgh := rfl
@[simp] theorem Chip.setBank_dividers (c : Chip) (a b : Nat) (x : Bank) : (c.setBank a b x).dividers = c.dividers := rfl
@[simp] theorem Chip.setBank_sense (c : Chip) (a b : Nat) (x : Bank) : (c.setBank a b x).sense = c.sense := rfl
@[simp] theorem Chip.setBank_senseZero (c : Chip) (a b : Nat) (x : Bank) : (c.setBank a b x).senseZero = c.senseZero := rfl
@[simp] theorem Chip.setBank_capture (c : Chip) (a b : Nat) (x : Bank) : (c.setBank a b x).capture = c.capture := rfl
@[simp] theorem Chip.setBank_therm (c : Chip) (a b : Nat) (x : Bank) : (c.setBank a b x).therm = c.therm := rfl
@[simp] theorem Chip.setBank_power (c : Chip) (a b : Nat) (x : Bank) : (c.setBank a b x).power = c.power := rfl
@[simp] theorem Chip.setBank_fab (c : Chip) (a b : Nat) (x : Bank) : (c.setBank a b x).fab = c.fab := rfl
@[simp] theorem Chip.setBank_vics (c : Chip) (a b : Nat) (x : Bank) : (c.setBank a b x).vics = c.vics := rfl
@[simp] theorem Chip.setBank_mbxWindow (c : Chip) (a b : Nat) (x : Bank) : (c.setBank a b x).mbxWindow = c.mbxWindow := rfl
@[simp] theorem Chip.setBank_readData (c : Chip) (a b : Nat) (x : Bank) : (c.setBank a b x).readData = c.readData := rfl
@[simp] theorem Chip.setBank_settingsDue (c : Chip) (a b : Nat) (x : Bank) : (c.setBank a b x).settingsDue = c.settingsDue := rfl
@[simp] theorem Chip.setBank_scrub (c : Chip) (a b : Nat) (x : Bank) : (c.setBank a b x).scrub = c.scrub := rfl
@[simp] theorem Chip.setBank_free (c : Chip) (a b : Nat) (x : Bank) : (c.setBank a b x).free = c.free := rfl

@[simp] theorem Chip.setEngine_clocks (c : Chip) (e : Nat) (x : Engine) : (c.setEngine e x).clocks = c.clocks := rfl
@[simp] theorem Chip.setEngine_regs (c : Chip) (e : Nat) (x : Engine) : (c.setEngine e x).regs = c.regs := rfl
@[simp] theorem Chip.setEngine_latch (c : Chip) (e : Nat) (x : Engine) : (c.setEngine e x).latch = c.latch := rfl
@[simp] theorem Chip.setEngine_mem (c : Chip) (e : Nat) (x : Engine) : (c.setEngine e x).mem = c.mem := rfl
@[simp] theorem Chip.setEngine_ce (c : Chip) (e : Nat) (x : Engine) : (c.setEngine e x).ce = c.ce := rfl
@[simp] theorem Chip.setEngine_ue (c : Chip) (e : Nat) (x : Engine) : (c.setEngine e x).ue = c.ue := rfl
@[simp] theorem Chip.setEngine_damaged (c : Chip) (e : Nat) (x : Engine) : (c.setEngine e x).damaged = c.damaged := rfl
@[simp] theorem Chip.setEngine_blockBad (c : Chip) (e : Nat) (x : Engine) : (c.setEngine e x).blockBad = c.blockBad := rfl
@[simp] theorem Chip.setEngine_host (c : Chip) (e : Nat) (x : Engine) : (c.setEngine e x).host = c.host := rfl
@[simp] theorem Chip.setEngine_hostUp (c : Chip) (e : Nat) (x : Engine) : (c.setEngine e x).hostUp = c.hostUp := rfl
@[simp] theorem Chip.setEngine_numVfs (c : Chip) (e : Nat) (x : Engine) : (c.setEngine e x).numVfs = c.numVfs := rfl
@[simp] theorem Chip.setEngine_served (c : Chip) (e : Nat) (x : Engine) : (c.setEngine e x).served = c.served := rfl
@[simp] theorem Chip.setEngine_funcs (c : Chip) (e : Nat) (x : Engine) : (c.setEngine e x).funcs = c.funcs := rfl
@[simp] theorem Chip.setEngine_units (c : Chip) (e : Nat) (x : Engine) : (c.setEngine e x).units = c.units := rfl
@[simp] theorem Chip.setEngine_parts (c : Chip) (e : Nat) (x : Engine) : (c.setEngine e x).parts = c.parts := rfl
@[simp] theorem Chip.setEngine_cores (c : Chip) (e : Nat) (x : Engine) : (c.setEngine e x).cores = c.cores := rfl
@[simp] theorem Chip.setEngine_groups (c : Chip) (e : Nat) (x : Engine) : (c.setEngine e x).groups = c.groups := rfl
@[simp] theorem Chip.setEngine_banks (c : Chip) (e : Nat) (x : Engine) : (c.setEngine e x).banks = c.banks := rfl
@[simp] theorem Chip.setEngine_engines (c : Chip) (e : Nat) (x : Engine) : (c.setEngine e x).engines = Tbl.set e x c.engines := rfl
@[simp] theorem Chip.setEngine_convFailed (c : Chip) (e : Nat) (x : Engine) : (c.setEngine e x).convFailed = c.convFailed := rfl
@[simp] theorem Chip.setEngine_streamDown (c : Chip) (e : Nat) (x : Engine) : (c.setEngine e x).streamDown = c.streamDown := rfl
@[simp] theorem Chip.setEngine_refreshTurn (c : Chip) (e : Nat) (x : Engine) : (c.setEngine e x).refreshTurn = c.refreshTurn := rfl
@[simp] theorem Chip.setEngine_calWait (c : Chip) (e : Nat) (x : Engine) : (c.setEngine e x).calWait = c.calWait := rfl
@[simp] theorem Chip.setEngine_unownedTest (c : Chip) (e : Nat) (x : Engine) : (c.setEngine e x).unownedTest = c.unownedTest := rfl
@[simp] theorem Chip.setEngine_telem (c : Chip) (e : Nat) (x : Engine) : (c.setEngine e x).telem = c.telem := rfl
@[simp] theorem Chip.setEngine_chans (c : Chip) (e : Nat) (x : Engine) : (c.setEngine e x).chans = c.chans := rfl
@[simp] theorem Chip.setEngine_scanChans (c : Chip) (e : Nat) (x : Engine) : (c.setEngine e x).scanChans = c.scanChans := rfl
@[simp] theorem Chip.setEngine_scanTemps (c : Chip) (e : Nat) (x : Engine) : (c.setEngine e x).scanTemps = c.scanTemps := rfl
@[simp] theorem Chip.setEngine_sensors (c : Chip) (e : Nat) (x : Engine) : (c.setEngine e x).sensors = c.sensors := rfl
@[simp] theorem Chip.setEngine_vbgh (c : Chip) (e : Nat) (x : Engine) : (c.setEngine e x).vbgh = c.vbgh := rfl
@[simp] theorem Chip.setEngine_dividers (c : Chip) (e : Nat) (x : Engine) : (c.setEngine e x).dividers = c.dividers := rfl
@[simp] theorem Chip.setEngine_sense (c : Chip) (e : Nat) (x : Engine) : (c.setEngine e x).sense = c.sense := rfl
@[simp] theorem Chip.setEngine_senseZero (c : Chip) (e : Nat) (x : Engine) : (c.setEngine e x).senseZero = c.senseZero := rfl
@[simp] theorem Chip.setEngine_capture (c : Chip) (e : Nat) (x : Engine) : (c.setEngine e x).capture = c.capture := rfl
@[simp] theorem Chip.setEngine_therm (c : Chip) (e : Nat) (x : Engine) : (c.setEngine e x).therm = c.therm := rfl
@[simp] theorem Chip.setEngine_power (c : Chip) (e : Nat) (x : Engine) : (c.setEngine e x).power = c.power := rfl
@[simp] theorem Chip.setEngine_fab (c : Chip) (e : Nat) (x : Engine) : (c.setEngine e x).fab = c.fab := rfl
@[simp] theorem Chip.setEngine_vics (c : Chip) (e : Nat) (x : Engine) : (c.setEngine e x).vics = c.vics := rfl
@[simp] theorem Chip.setEngine_mbxWindow (c : Chip) (e : Nat) (x : Engine) : (c.setEngine e x).mbxWindow = c.mbxWindow := rfl
@[simp] theorem Chip.setEngine_readData (c : Chip) (e : Nat) (x : Engine) : (c.setEngine e x).readData = c.readData := rfl
@[simp] theorem Chip.setEngine_settingsDue (c : Chip) (e : Nat) (x : Engine) : (c.setEngine e x).settingsDue = c.settingsDue := rfl
@[simp] theorem Chip.setEngine_scrub (c : Chip) (e : Nat) (x : Engine) : (c.setEngine e x).scrub = c.scrub := rfl
@[simp] theorem Chip.setEngine_free (c : Chip) (e : Nat) (x : Engine) : (c.setEngine e x).free = c.free := rfl

@[simp] theorem Chip.setFunc_clocks (c : Chip) (fn : Nat) (x : Func) : (c.setFunc fn x).clocks = c.clocks := rfl
@[simp] theorem Chip.setFunc_regs (c : Chip) (fn : Nat) (x : Func) : (c.setFunc fn x).regs = c.regs := rfl
@[simp] theorem Chip.setFunc_latch (c : Chip) (fn : Nat) (x : Func) : (c.setFunc fn x).latch = c.latch := rfl
@[simp] theorem Chip.setFunc_mem (c : Chip) (fn : Nat) (x : Func) : (c.setFunc fn x).mem = c.mem := rfl
@[simp] theorem Chip.setFunc_ce (c : Chip) (fn : Nat) (x : Func) : (c.setFunc fn x).ce = c.ce := rfl
@[simp] theorem Chip.setFunc_ue (c : Chip) (fn : Nat) (x : Func) : (c.setFunc fn x).ue = c.ue := rfl
@[simp] theorem Chip.setFunc_damaged (c : Chip) (fn : Nat) (x : Func) : (c.setFunc fn x).damaged = c.damaged := rfl
@[simp] theorem Chip.setFunc_blockBad (c : Chip) (fn : Nat) (x : Func) : (c.setFunc fn x).blockBad = c.blockBad := rfl
@[simp] theorem Chip.setFunc_host (c : Chip) (fn : Nat) (x : Func) : (c.setFunc fn x).host = c.host := rfl
@[simp] theorem Chip.setFunc_hostUp (c : Chip) (fn : Nat) (x : Func) : (c.setFunc fn x).hostUp = c.hostUp := rfl
@[simp] theorem Chip.setFunc_numVfs (c : Chip) (fn : Nat) (x : Func) : (c.setFunc fn x).numVfs = c.numVfs := rfl
@[simp] theorem Chip.setFunc_served (c : Chip) (fn : Nat) (x : Func) : (c.setFunc fn x).served = c.served := rfl
@[simp] theorem Chip.setFunc_funcs (c : Chip) (fn : Nat) (x : Func) : (c.setFunc fn x).funcs = Tbl.set fn x c.funcs := rfl
@[simp] theorem Chip.setFunc_units (c : Chip) (fn : Nat) (x : Func) : (c.setFunc fn x).units = c.units := rfl
@[simp] theorem Chip.setFunc_parts (c : Chip) (fn : Nat) (x : Func) : (c.setFunc fn x).parts = c.parts := rfl
@[simp] theorem Chip.setFunc_cores (c : Chip) (fn : Nat) (x : Func) : (c.setFunc fn x).cores = c.cores := rfl
@[simp] theorem Chip.setFunc_groups (c : Chip) (fn : Nat) (x : Func) : (c.setFunc fn x).groups = c.groups := rfl
@[simp] theorem Chip.setFunc_banks (c : Chip) (fn : Nat) (x : Func) : (c.setFunc fn x).banks = c.banks := rfl
@[simp] theorem Chip.setFunc_engines (c : Chip) (fn : Nat) (x : Func) : (c.setFunc fn x).engines = c.engines := rfl
@[simp] theorem Chip.setFunc_convFailed (c : Chip) (fn : Nat) (x : Func) : (c.setFunc fn x).convFailed = c.convFailed := rfl
@[simp] theorem Chip.setFunc_streamDown (c : Chip) (fn : Nat) (x : Func) : (c.setFunc fn x).streamDown = c.streamDown := rfl
@[simp] theorem Chip.setFunc_refreshTurn (c : Chip) (fn : Nat) (x : Func) : (c.setFunc fn x).refreshTurn = c.refreshTurn := rfl
@[simp] theorem Chip.setFunc_calWait (c : Chip) (fn : Nat) (x : Func) : (c.setFunc fn x).calWait = c.calWait := rfl
@[simp] theorem Chip.setFunc_unownedTest (c : Chip) (fn : Nat) (x : Func) : (c.setFunc fn x).unownedTest = c.unownedTest := rfl
@[simp] theorem Chip.setFunc_telem (c : Chip) (fn : Nat) (x : Func) : (c.setFunc fn x).telem = c.telem := rfl
@[simp] theorem Chip.setFunc_chans (c : Chip) (fn : Nat) (x : Func) : (c.setFunc fn x).chans = c.chans := rfl
@[simp] theorem Chip.setFunc_scanChans (c : Chip) (fn : Nat) (x : Func) : (c.setFunc fn x).scanChans = c.scanChans := rfl
@[simp] theorem Chip.setFunc_scanTemps (c : Chip) (fn : Nat) (x : Func) : (c.setFunc fn x).scanTemps = c.scanTemps := rfl
@[simp] theorem Chip.setFunc_sensors (c : Chip) (fn : Nat) (x : Func) : (c.setFunc fn x).sensors = c.sensors := rfl
@[simp] theorem Chip.setFunc_vbgh (c : Chip) (fn : Nat) (x : Func) : (c.setFunc fn x).vbgh = c.vbgh := rfl
@[simp] theorem Chip.setFunc_dividers (c : Chip) (fn : Nat) (x : Func) : (c.setFunc fn x).dividers = c.dividers := rfl
@[simp] theorem Chip.setFunc_sense (c : Chip) (fn : Nat) (x : Func) : (c.setFunc fn x).sense = c.sense := rfl
@[simp] theorem Chip.setFunc_senseZero (c : Chip) (fn : Nat) (x : Func) : (c.setFunc fn x).senseZero = c.senseZero := rfl
@[simp] theorem Chip.setFunc_capture (c : Chip) (fn : Nat) (x : Func) : (c.setFunc fn x).capture = c.capture := rfl
@[simp] theorem Chip.setFunc_therm (c : Chip) (fn : Nat) (x : Func) : (c.setFunc fn x).therm = c.therm := rfl
@[simp] theorem Chip.setFunc_power (c : Chip) (fn : Nat) (x : Func) : (c.setFunc fn x).power = c.power := rfl
@[simp] theorem Chip.setFunc_fab (c : Chip) (fn : Nat) (x : Func) : (c.setFunc fn x).fab = c.fab := rfl
@[simp] theorem Chip.setFunc_vics (c : Chip) (fn : Nat) (x : Func) : (c.setFunc fn x).vics = c.vics := rfl
@[simp] theorem Chip.setFunc_mbxWindow (c : Chip) (fn : Nat) (x : Func) : (c.setFunc fn x).mbxWindow = c.mbxWindow := rfl
@[simp] theorem Chip.setFunc_readData (c : Chip) (fn : Nat) (x : Func) : (c.setFunc fn x).readData = c.readData := rfl
@[simp] theorem Chip.setFunc_settingsDue (c : Chip) (fn : Nat) (x : Func) : (c.setFunc fn x).settingsDue = c.settingsDue := rfl
@[simp] theorem Chip.setFunc_scrub (c : Chip) (fn : Nat) (x : Func) : (c.setFunc fn x).scrub = c.scrub := rfl
@[simp] theorem Chip.setFunc_free (c : Chip) (fn : Nat) (x : Func) : (c.setFunc fn x).free = c.free := rfl

@[simp] theorem Chip.write_clocks (c : Chip) (a : Nat) (bs : List Byte) : (c.write a bs).clocks = c.clocks := rfl
@[simp] theorem Chip.write_regs (c : Chip) (a : Nat) (bs : List Byte) : (c.write a bs).regs = c.regs := rfl
@[simp] theorem Chip.write_latch (c : Chip) (a : Nat) (bs : List Byte) : (c.write a bs).latch = c.latch := rfl
@[simp] theorem Chip.write_mem (c : Chip) (a : Nat) (bs : List Byte) : (c.write a bs).mem = c.mem.write a bs := rfl
@[simp] theorem Chip.write_ce (c : Chip) (a : Nat) (bs : List Byte) : (c.write a bs).ce = c.ce := rfl
@[simp] theorem Chip.write_ue (c : Chip) (a : Nat) (bs : List Byte) : (c.write a bs).ue = c.ue := rfl
@[simp] theorem Chip.write_damaged (c : Chip) (a : Nat) (bs : List Byte) : (c.write a bs).damaged = c.damaged := rfl
@[simp] theorem Chip.write_blockBad (c : Chip) (a : Nat) (bs : List Byte) : (c.write a bs).blockBad = c.blockBad := rfl
@[simp] theorem Chip.write_host (c : Chip) (a : Nat) (bs : List Byte) : (c.write a bs).host = c.host := rfl
@[simp] theorem Chip.write_hostUp (c : Chip) (a : Nat) (bs : List Byte) : (c.write a bs).hostUp = c.hostUp := rfl
@[simp] theorem Chip.write_numVfs (c : Chip) (a : Nat) (bs : List Byte) : (c.write a bs).numVfs = c.numVfs := rfl
@[simp] theorem Chip.write_served (c : Chip) (a : Nat) (bs : List Byte) : (c.write a bs).served = c.served := rfl
@[simp] theorem Chip.write_funcs (c : Chip) (a : Nat) (bs : List Byte) : (c.write a bs).funcs = c.funcs := rfl
@[simp] theorem Chip.write_units (c : Chip) (a : Nat) (bs : List Byte) : (c.write a bs).units = c.units := rfl
@[simp] theorem Chip.write_parts (c : Chip) (a : Nat) (bs : List Byte) : (c.write a bs).parts = c.parts := rfl
@[simp] theorem Chip.write_cores (c : Chip) (a : Nat) (bs : List Byte) : (c.write a bs).cores = c.cores := rfl
@[simp] theorem Chip.write_groups (c : Chip) (a : Nat) (bs : List Byte) : (c.write a bs).groups = c.groups := rfl
@[simp] theorem Chip.write_banks (c : Chip) (a : Nat) (bs : List Byte) : (c.write a bs).banks = c.banks := rfl
@[simp] theorem Chip.write_engines (c : Chip) (a : Nat) (bs : List Byte) : (c.write a bs).engines = c.engines := rfl
@[simp] theorem Chip.write_convFailed (c : Chip) (a : Nat) (bs : List Byte) : (c.write a bs).convFailed = c.convFailed := rfl
@[simp] theorem Chip.write_streamDown (c : Chip) (a : Nat) (bs : List Byte) : (c.write a bs).streamDown = c.streamDown := rfl
@[simp] theorem Chip.write_refreshTurn (c : Chip) (a : Nat) (bs : List Byte) : (c.write a bs).refreshTurn = c.refreshTurn := rfl
@[simp] theorem Chip.write_calWait (c : Chip) (a : Nat) (bs : List Byte) : (c.write a bs).calWait = c.calWait := rfl
@[simp] theorem Chip.write_unownedTest (c : Chip) (a : Nat) (bs : List Byte) : (c.write a bs).unownedTest = c.unownedTest := rfl
@[simp] theorem Chip.write_telem (c : Chip) (a : Nat) (bs : List Byte) : (c.write a bs).telem = c.telem := rfl
@[simp] theorem Chip.write_chans (c : Chip) (a : Nat) (bs : List Byte) : (c.write a bs).chans = c.chans := rfl
@[simp] theorem Chip.write_scanChans (c : Chip) (a : Nat) (bs : List Byte) : (c.write a bs).scanChans = c.scanChans := rfl
@[simp] theorem Chip.write_scanTemps (c : Chip) (a : Nat) (bs : List Byte) : (c.write a bs).scanTemps = c.scanTemps := rfl
@[simp] theorem Chip.write_sensors (c : Chip) (a : Nat) (bs : List Byte) : (c.write a bs).sensors = c.sensors := rfl
@[simp] theorem Chip.write_vbgh (c : Chip) (a : Nat) (bs : List Byte) : (c.write a bs).vbgh = c.vbgh := rfl
@[simp] theorem Chip.write_dividers (c : Chip) (a : Nat) (bs : List Byte) : (c.write a bs).dividers = c.dividers := rfl
@[simp] theorem Chip.write_sense (c : Chip) (a : Nat) (bs : List Byte) : (c.write a bs).sense = c.sense := rfl
@[simp] theorem Chip.write_senseZero (c : Chip) (a : Nat) (bs : List Byte) : (c.write a bs).senseZero = c.senseZero := rfl
@[simp] theorem Chip.write_capture (c : Chip) (a : Nat) (bs : List Byte) : (c.write a bs).capture = c.capture := rfl
@[simp] theorem Chip.write_therm (c : Chip) (a : Nat) (bs : List Byte) : (c.write a bs).therm = c.therm := rfl
@[simp] theorem Chip.write_power (c : Chip) (a : Nat) (bs : List Byte) : (c.write a bs).power = c.power := rfl
@[simp] theorem Chip.write_fab (c : Chip) (a : Nat) (bs : List Byte) : (c.write a bs).fab = c.fab := rfl
@[simp] theorem Chip.write_vics (c : Chip) (a : Nat) (bs : List Byte) : (c.write a bs).vics = c.vics := rfl
@[simp] theorem Chip.write_mbxWindow (c : Chip) (a : Nat) (bs : List Byte) : (c.write a bs).mbxWindow = c.mbxWindow := rfl
@[simp] theorem Chip.write_readData (c : Chip) (a : Nat) (bs : List Byte) : (c.write a bs).readData = c.readData := rfl
@[simp] theorem Chip.write_settingsDue (c : Chip) (a : Nat) (bs : List Byte) : (c.write a bs).settingsDue = c.settingsDue := rfl
@[simp] theorem Chip.write_scrub (c : Chip) (a : Nat) (bs : List Byte) : (c.write a bs).scrub = c.scrub := rfl
@[simp] theorem Chip.write_free (c : Chip) (a : Nat) (bs : List Byte) : (c.write a bs).free = c.free := rfl

@[simp] theorem Chip.zero_clocks (c : Chip) (a n : Nat) : (c.zero a n).clocks = c.clocks := rfl
@[simp] theorem Chip.zero_regs (c : Chip) (a n : Nat) : (c.zero a n).regs = c.regs := rfl
@[simp] theorem Chip.zero_latch (c : Chip) (a n : Nat) : (c.zero a n).latch = c.latch := rfl
@[simp] theorem Chip.zero_mem (c : Chip) (a n : Nat) : (c.zero a n).mem = c.mem.zero a (a + n) := rfl
@[simp] theorem Chip.zero_ce (c : Chip) (a n : Nat) : (c.zero a n).ce = c.ce := rfl
@[simp] theorem Chip.zero_ue (c : Chip) (a n : Nat) : (c.zero a n).ue = c.ue := rfl
@[simp] theorem Chip.zero_damaged (c : Chip) (a n : Nat) : (c.zero a n).damaged = c.damaged := rfl
@[simp] theorem Chip.zero_blockBad (c : Chip) (a n : Nat) : (c.zero a n).blockBad = c.blockBad := rfl
@[simp] theorem Chip.zero_host (c : Chip) (a n : Nat) : (c.zero a n).host = c.host := rfl
@[simp] theorem Chip.zero_hostUp (c : Chip) (a n : Nat) : (c.zero a n).hostUp = c.hostUp := rfl
@[simp] theorem Chip.zero_numVfs (c : Chip) (a n : Nat) : (c.zero a n).numVfs = c.numVfs := rfl
@[simp] theorem Chip.zero_served (c : Chip) (a n : Nat) : (c.zero a n).served = c.served := rfl
@[simp] theorem Chip.zero_funcs (c : Chip) (a n : Nat) : (c.zero a n).funcs = c.funcs := rfl
@[simp] theorem Chip.zero_units (c : Chip) (a n : Nat) : (c.zero a n).units = c.units := rfl
@[simp] theorem Chip.zero_parts (c : Chip) (a n : Nat) : (c.zero a n).parts = c.parts := rfl
@[simp] theorem Chip.zero_cores (c : Chip) (a n : Nat) : (c.zero a n).cores = c.cores := rfl
@[simp] theorem Chip.zero_groups (c : Chip) (a n : Nat) : (c.zero a n).groups = c.groups := rfl
@[simp] theorem Chip.zero_banks (c : Chip) (a n : Nat) : (c.zero a n).banks = c.banks := rfl
@[simp] theorem Chip.zero_engines (c : Chip) (a n : Nat) : (c.zero a n).engines = c.engines := rfl
@[simp] theorem Chip.zero_convFailed (c : Chip) (a n : Nat) : (c.zero a n).convFailed = c.convFailed := rfl
@[simp] theorem Chip.zero_streamDown (c : Chip) (a n : Nat) : (c.zero a n).streamDown = c.streamDown := rfl
@[simp] theorem Chip.zero_refreshTurn (c : Chip) (a n : Nat) : (c.zero a n).refreshTurn = c.refreshTurn := rfl
@[simp] theorem Chip.zero_calWait (c : Chip) (a n : Nat) : (c.zero a n).calWait = c.calWait := rfl
@[simp] theorem Chip.zero_unownedTest (c : Chip) (a n : Nat) : (c.zero a n).unownedTest = c.unownedTest := rfl
@[simp] theorem Chip.zero_telem (c : Chip) (a n : Nat) : (c.zero a n).telem = c.telem := rfl
@[simp] theorem Chip.zero_chans (c : Chip) (a n : Nat) : (c.zero a n).chans = c.chans := rfl
@[simp] theorem Chip.zero_scanChans (c : Chip) (a n : Nat) : (c.zero a n).scanChans = c.scanChans := rfl
@[simp] theorem Chip.zero_scanTemps (c : Chip) (a n : Nat) : (c.zero a n).scanTemps = c.scanTemps := rfl
@[simp] theorem Chip.zero_sensors (c : Chip) (a n : Nat) : (c.zero a n).sensors = c.sensors := rfl
@[simp] theorem Chip.zero_vbgh (c : Chip) (a n : Nat) : (c.zero a n).vbgh = c.vbgh := rfl
@[simp] theorem Chip.zero_dividers (c : Chip) (a n : Nat) : (c.zero a n).dividers = c.dividers := rfl
@[simp] theorem Chip.zero_sense (c : Chip) (a n : Nat) : (c.zero a n).sense = c.sense := rfl
@[simp] theorem Chip.zero_senseZero (c : Chip) (a n : Nat) : (c.zero a n).senseZero = c.senseZero := rfl
@[simp] theorem Chip.zero_capture (c : Chip) (a n : Nat) : (c.zero a n).capture = c.capture := rfl
@[simp] theorem Chip.zero_therm (c : Chip) (a n : Nat) : (c.zero a n).therm = c.therm := rfl
@[simp] theorem Chip.zero_power (c : Chip) (a n : Nat) : (c.zero a n).power = c.power := rfl
@[simp] theorem Chip.zero_fab (c : Chip) (a n : Nat) : (c.zero a n).fab = c.fab := rfl
@[simp] theorem Chip.zero_vics (c : Chip) (a n : Nat) : (c.zero a n).vics = c.vics := rfl
@[simp] theorem Chip.zero_mbxWindow (c : Chip) (a n : Nat) : (c.zero a n).mbxWindow = c.mbxWindow := rfl
@[simp] theorem Chip.zero_readData (c : Chip) (a n : Nat) : (c.zero a n).readData = c.readData := rfl
@[simp] theorem Chip.zero_settingsDue (c : Chip) (a n : Nat) : (c.zero a n).settingsDue = c.settingsDue := rfl
@[simp] theorem Chip.zero_scrub (c : Chip) (a n : Nat) : (c.zero a n).scrub = c.scrub := rfl
@[simp] theorem Chip.zero_free (c : Chip) (a n : Nat) : (c.zero a n).free = c.free := rfl

@[simp] theorem Chip.setBits_clocks (c : Chip) (r : Reg) (m : Nat) : (c.setBits r m).clocks = c.clocks := rfl
@[simp] theorem Chip.setBits_regs (c : Chip) (r : Reg) (m : Nat) : (c.setBits r m).regs = Tbl.set r (c.reg r ||| BitVec.ofNat 32 m) c.regs := rfl
@[simp] theorem Chip.setBits_latch (c : Chip) (r : Reg) (m : Nat) : (c.setBits r m).latch = c.latch := rfl
@[simp] theorem Chip.setBits_mem (c : Chip) (r : Reg) (m : Nat) : (c.setBits r m).mem = c.mem := rfl
@[simp] theorem Chip.setBits_ce (c : Chip) (r : Reg) (m : Nat) : (c.setBits r m).ce = c.ce := rfl
@[simp] theorem Chip.setBits_ue (c : Chip) (r : Reg) (m : Nat) : (c.setBits r m).ue = c.ue := rfl
@[simp] theorem Chip.setBits_damaged (c : Chip) (r : Reg) (m : Nat) : (c.setBits r m).damaged = c.damaged := rfl
@[simp] theorem Chip.setBits_blockBad (c : Chip) (r : Reg) (m : Nat) : (c.setBits r m).blockBad = c.blockBad := rfl
@[simp] theorem Chip.setBits_host (c : Chip) (r : Reg) (m : Nat) : (c.setBits r m).host = c.host := rfl
@[simp] theorem Chip.setBits_hostUp (c : Chip) (r : Reg) (m : Nat) : (c.setBits r m).hostUp = c.hostUp := rfl
@[simp] theorem Chip.setBits_numVfs (c : Chip) (r : Reg) (m : Nat) : (c.setBits r m).numVfs = c.numVfs := rfl
@[simp] theorem Chip.setBits_served (c : Chip) (r : Reg) (m : Nat) : (c.setBits r m).served = c.served := rfl
@[simp] theorem Chip.setBits_funcs (c : Chip) (r : Reg) (m : Nat) : (c.setBits r m).funcs = c.funcs := rfl
@[simp] theorem Chip.setBits_units (c : Chip) (r : Reg) (m : Nat) : (c.setBits r m).units = c.units := rfl
@[simp] theorem Chip.setBits_parts (c : Chip) (r : Reg) (m : Nat) : (c.setBits r m).parts = c.parts := rfl
@[simp] theorem Chip.setBits_cores (c : Chip) (r : Reg) (m : Nat) : (c.setBits r m).cores = c.cores := rfl
@[simp] theorem Chip.setBits_groups (c : Chip) (r : Reg) (m : Nat) : (c.setBits r m).groups = c.groups := rfl
@[simp] theorem Chip.setBits_banks (c : Chip) (r : Reg) (m : Nat) : (c.setBits r m).banks = c.banks := rfl
@[simp] theorem Chip.setBits_engines (c : Chip) (r : Reg) (m : Nat) : (c.setBits r m).engines = c.engines := rfl
@[simp] theorem Chip.setBits_convFailed (c : Chip) (r : Reg) (m : Nat) : (c.setBits r m).convFailed = c.convFailed := rfl
@[simp] theorem Chip.setBits_streamDown (c : Chip) (r : Reg) (m : Nat) : (c.setBits r m).streamDown = c.streamDown := rfl
@[simp] theorem Chip.setBits_refreshTurn (c : Chip) (r : Reg) (m : Nat) : (c.setBits r m).refreshTurn = c.refreshTurn := rfl
@[simp] theorem Chip.setBits_calWait (c : Chip) (r : Reg) (m : Nat) : (c.setBits r m).calWait = c.calWait := rfl
@[simp] theorem Chip.setBits_unownedTest (c : Chip) (r : Reg) (m : Nat) : (c.setBits r m).unownedTest = c.unownedTest := rfl
@[simp] theorem Chip.setBits_telem (c : Chip) (r : Reg) (m : Nat) : (c.setBits r m).telem = c.telem := rfl
@[simp] theorem Chip.setBits_chans (c : Chip) (r : Reg) (m : Nat) : (c.setBits r m).chans = c.chans := rfl
@[simp] theorem Chip.setBits_scanChans (c : Chip) (r : Reg) (m : Nat) : (c.setBits r m).scanChans = c.scanChans := rfl
@[simp] theorem Chip.setBits_scanTemps (c : Chip) (r : Reg) (m : Nat) : (c.setBits r m).scanTemps = c.scanTemps := rfl
@[simp] theorem Chip.setBits_sensors (c : Chip) (r : Reg) (m : Nat) : (c.setBits r m).sensors = c.sensors := rfl
@[simp] theorem Chip.setBits_vbgh (c : Chip) (r : Reg) (m : Nat) : (c.setBits r m).vbgh = c.vbgh := rfl
@[simp] theorem Chip.setBits_dividers (c : Chip) (r : Reg) (m : Nat) : (c.setBits r m).dividers = c.dividers := rfl
@[simp] theorem Chip.setBits_sense (c : Chip) (r : Reg) (m : Nat) : (c.setBits r m).sense = c.sense := rfl
@[simp] theorem Chip.setBits_senseZero (c : Chip) (r : Reg) (m : Nat) : (c.setBits r m).senseZero = c.senseZero := rfl
@[simp] theorem Chip.setBits_capture (c : Chip) (r : Reg) (m : Nat) : (c.setBits r m).capture = c.capture := rfl
@[simp] theorem Chip.setBits_therm (c : Chip) (r : Reg) (m : Nat) : (c.setBits r m).therm = c.therm := rfl
@[simp] theorem Chip.setBits_power (c : Chip) (r : Reg) (m : Nat) : (c.setBits r m).power = c.power := rfl
@[simp] theorem Chip.setBits_fab (c : Chip) (r : Reg) (m : Nat) : (c.setBits r m).fab = c.fab := rfl
@[simp] theorem Chip.setBits_vics (c : Chip) (r : Reg) (m : Nat) : (c.setBits r m).vics = c.vics := rfl
@[simp] theorem Chip.setBits_mbxWindow (c : Chip) (r : Reg) (m : Nat) : (c.setBits r m).mbxWindow = c.mbxWindow := rfl
@[simp] theorem Chip.setBits_readData (c : Chip) (r : Reg) (m : Nat) : (c.setBits r m).readData = c.readData := rfl
@[simp] theorem Chip.setBits_settingsDue (c : Chip) (r : Reg) (m : Nat) : (c.setBits r m).settingsDue = c.settingsDue := rfl
@[simp] theorem Chip.setBits_scrub (c : Chip) (r : Reg) (m : Nat) : (c.setBits r m).scrub = c.scrub := rfl
@[simp] theorem Chip.setBits_free (c : Chip) (r : Reg) (m : Nat) : (c.setBits r m).free = c.free := rfl

@[simp] theorem Chip.clearBits_clocks (c : Chip) (r : Reg) (m : Nat) : (c.clearBits r m).clocks = c.clocks := rfl
@[simp] theorem Chip.clearBits_regs (c : Chip) (r : Reg) (m : Nat) : (c.clearBits r m).regs = Tbl.set r (c.reg r &&& ~~~(BitVec.ofNat 32 m)) c.regs := rfl
@[simp] theorem Chip.clearBits_latch (c : Chip) (r : Reg) (m : Nat) : (c.clearBits r m).latch = c.latch := rfl
@[simp] theorem Chip.clearBits_mem (c : Chip) (r : Reg) (m : Nat) : (c.clearBits r m).mem = c.mem := rfl
@[simp] theorem Chip.clearBits_ce (c : Chip) (r : Reg) (m : Nat) : (c.clearBits r m).ce = c.ce := rfl
@[simp] theorem Chip.clearBits_ue (c : Chip) (r : Reg) (m : Nat) : (c.clearBits r m).ue = c.ue := rfl
@[simp] theorem Chip.clearBits_damaged (c : Chip) (r : Reg) (m : Nat) : (c.clearBits r m).damaged = c.damaged := rfl
@[simp] theorem Chip.clearBits_blockBad (c : Chip) (r : Reg) (m : Nat) : (c.clearBits r m).blockBad = c.blockBad := rfl
@[simp] theorem Chip.clearBits_host (c : Chip) (r : Reg) (m : Nat) : (c.clearBits r m).host = c.host := rfl
@[simp] theorem Chip.clearBits_hostUp (c : Chip) (r : Reg) (m : Nat) : (c.clearBits r m).hostUp = c.hostUp := rfl
@[simp] theorem Chip.clearBits_numVfs (c : Chip) (r : Reg) (m : Nat) : (c.clearBits r m).numVfs = c.numVfs := rfl
@[simp] theorem Chip.clearBits_served (c : Chip) (r : Reg) (m : Nat) : (c.clearBits r m).served = c.served := rfl
@[simp] theorem Chip.clearBits_funcs (c : Chip) (r : Reg) (m : Nat) : (c.clearBits r m).funcs = c.funcs := rfl
@[simp] theorem Chip.clearBits_units (c : Chip) (r : Reg) (m : Nat) : (c.clearBits r m).units = c.units := rfl
@[simp] theorem Chip.clearBits_parts (c : Chip) (r : Reg) (m : Nat) : (c.clearBits r m).parts = c.parts := rfl
@[simp] theorem Chip.clearBits_cores (c : Chip) (r : Reg) (m : Nat) : (c.clearBits r m).cores = c.cores := rfl
@[simp] theorem Chip.clearBits_groups (c : Chip) (r : Reg) (m : Nat) : (c.clearBits r m).groups = c.groups := rfl
@[simp] theorem Chip.clearBits_banks (c : Chip) (r : Reg) (m : Nat) : (c.clearBits r m).banks = c.banks := rfl
@[simp] theorem Chip.clearBits_engines (c : Chip) (r : Reg) (m : Nat) : (c.clearBits r m).engines = c.engines := rfl
@[simp] theorem Chip.clearBits_convFailed (c : Chip) (r : Reg) (m : Nat) : (c.clearBits r m).convFailed = c.convFailed := rfl
@[simp] theorem Chip.clearBits_streamDown (c : Chip) (r : Reg) (m : Nat) : (c.clearBits r m).streamDown = c.streamDown := rfl
@[simp] theorem Chip.clearBits_refreshTurn (c : Chip) (r : Reg) (m : Nat) : (c.clearBits r m).refreshTurn = c.refreshTurn := rfl
@[simp] theorem Chip.clearBits_calWait (c : Chip) (r : Reg) (m : Nat) : (c.clearBits r m).calWait = c.calWait := rfl
@[simp] theorem Chip.clearBits_unownedTest (c : Chip) (r : Reg) (m : Nat) : (c.clearBits r m).unownedTest = c.unownedTest := rfl
@[simp] theorem Chip.clearBits_telem (c : Chip) (r : Reg) (m : Nat) : (c.clearBits r m).telem = c.telem := rfl
@[simp] theorem Chip.clearBits_chans (c : Chip) (r : Reg) (m : Nat) : (c.clearBits r m).chans = c.chans := rfl
@[simp] theorem Chip.clearBits_scanChans (c : Chip) (r : Reg) (m : Nat) : (c.clearBits r m).scanChans = c.scanChans := rfl
@[simp] theorem Chip.clearBits_scanTemps (c : Chip) (r : Reg) (m : Nat) : (c.clearBits r m).scanTemps = c.scanTemps := rfl
@[simp] theorem Chip.clearBits_sensors (c : Chip) (r : Reg) (m : Nat) : (c.clearBits r m).sensors = c.sensors := rfl
@[simp] theorem Chip.clearBits_vbgh (c : Chip) (r : Reg) (m : Nat) : (c.clearBits r m).vbgh = c.vbgh := rfl
@[simp] theorem Chip.clearBits_dividers (c : Chip) (r : Reg) (m : Nat) : (c.clearBits r m).dividers = c.dividers := rfl
@[simp] theorem Chip.clearBits_sense (c : Chip) (r : Reg) (m : Nat) : (c.clearBits r m).sense = c.sense := rfl
@[simp] theorem Chip.clearBits_senseZero (c : Chip) (r : Reg) (m : Nat) : (c.clearBits r m).senseZero = c.senseZero := rfl
@[simp] theorem Chip.clearBits_capture (c : Chip) (r : Reg) (m : Nat) : (c.clearBits r m).capture = c.capture := rfl
@[simp] theorem Chip.clearBits_therm (c : Chip) (r : Reg) (m : Nat) : (c.clearBits r m).therm = c.therm := rfl
@[simp] theorem Chip.clearBits_power (c : Chip) (r : Reg) (m : Nat) : (c.clearBits r m).power = c.power := rfl
@[simp] theorem Chip.clearBits_fab (c : Chip) (r : Reg) (m : Nat) : (c.clearBits r m).fab = c.fab := rfl
@[simp] theorem Chip.clearBits_vics (c : Chip) (r : Reg) (m : Nat) : (c.clearBits r m).vics = c.vics := rfl
@[simp] theorem Chip.clearBits_mbxWindow (c : Chip) (r : Reg) (m : Nat) : (c.clearBits r m).mbxWindow = c.mbxWindow := rfl
@[simp] theorem Chip.clearBits_readData (c : Chip) (r : Reg) (m : Nat) : (c.clearBits r m).readData = c.readData := rfl
@[simp] theorem Chip.clearBits_settingsDue (c : Chip) (r : Reg) (m : Nat) : (c.clearBits r m).settingsDue = c.settingsDue := rfl
@[simp] theorem Chip.clearBits_scrub (c : Chip) (r : Reg) (m : Nat) : (c.clearBits r m).scrub = c.scrub := rfl
@[simp] theorem Chip.clearBits_free (c : Chip) (r : Reg) (m : Nat) : (c.clearBits r m).free = c.free := rfl

@[simp] theorem Chip.setField_clocks (c : Chip) (r : Reg) (h l v : Nat) : (c.setField r h l v).clocks = c.clocks := rfl
@[simp] theorem Chip.setField_regs (c : Chip) (r : Reg) (h l v : Nat) : (c.setField r h l v).regs = Tbl.set r (putField (c.reg r) h l v) c.regs := rfl
@[simp] theorem Chip.setField_latch (c : Chip) (r : Reg) (h l v : Nat) : (c.setField r h l v).latch = c.latch := rfl
@[simp] theorem Chip.setField_mem (c : Chip) (r : Reg) (h l v : Nat) : (c.setField r h l v).mem = c.mem := rfl
@[simp] theorem Chip.setField_ce (c : Chip) (r : Reg) (h l v : Nat) : (c.setField r h l v).ce = c.ce := rfl
@[simp] theorem Chip.setField_ue (c : Chip) (r : Reg) (h l v : Nat) : (c.setField r h l v).ue = c.ue := rfl
@[simp] theorem Chip.setField_damaged (c : Chip) (r : Reg) (h l v : Nat) : (c.setField r h l v).damaged = c.damaged := rfl
@[simp] theorem Chip.setField_blockBad (c : Chip) (r : Reg) (h l v : Nat) : (c.setField r h l v).blockBad = c.blockBad := rfl
@[simp] theorem Chip.setField_host (c : Chip) (r : Reg) (h l v : Nat) : (c.setField r h l v).host = c.host := rfl
@[simp] theorem Chip.setField_hostUp (c : Chip) (r : Reg) (h l v : Nat) : (c.setField r h l v).hostUp = c.hostUp := rfl
@[simp] theorem Chip.setField_numVfs (c : Chip) (r : Reg) (h l v : Nat) : (c.setField r h l v).numVfs = c.numVfs := rfl
@[simp] theorem Chip.setField_served (c : Chip) (r : Reg) (h l v : Nat) : (c.setField r h l v).served = c.served := rfl
@[simp] theorem Chip.setField_funcs (c : Chip) (r : Reg) (h l v : Nat) : (c.setField r h l v).funcs = c.funcs := rfl
@[simp] theorem Chip.setField_units (c : Chip) (r : Reg) (h l v : Nat) : (c.setField r h l v).units = c.units := rfl
@[simp] theorem Chip.setField_parts (c : Chip) (r : Reg) (h l v : Nat) : (c.setField r h l v).parts = c.parts := rfl
@[simp] theorem Chip.setField_cores (c : Chip) (r : Reg) (h l v : Nat) : (c.setField r h l v).cores = c.cores := rfl
@[simp] theorem Chip.setField_groups (c : Chip) (r : Reg) (h l v : Nat) : (c.setField r h l v).groups = c.groups := rfl
@[simp] theorem Chip.setField_banks (c : Chip) (r : Reg) (h l v : Nat) : (c.setField r h l v).banks = c.banks := rfl
@[simp] theorem Chip.setField_engines (c : Chip) (r : Reg) (h l v : Nat) : (c.setField r h l v).engines = c.engines := rfl
@[simp] theorem Chip.setField_convFailed (c : Chip) (r : Reg) (h l v : Nat) : (c.setField r h l v).convFailed = c.convFailed := rfl
@[simp] theorem Chip.setField_streamDown (c : Chip) (r : Reg) (h l v : Nat) : (c.setField r h l v).streamDown = c.streamDown := rfl
@[simp] theorem Chip.setField_refreshTurn (c : Chip) (r : Reg) (h l v : Nat) : (c.setField r h l v).refreshTurn = c.refreshTurn := rfl
@[simp] theorem Chip.setField_calWait (c : Chip) (r : Reg) (h l v : Nat) : (c.setField r h l v).calWait = c.calWait := rfl
@[simp] theorem Chip.setField_unownedTest (c : Chip) (r : Reg) (h l v : Nat) : (c.setField r h l v).unownedTest = c.unownedTest := rfl
@[simp] theorem Chip.setField_telem (c : Chip) (r : Reg) (h l v : Nat) : (c.setField r h l v).telem = c.telem := rfl
@[simp] theorem Chip.setField_chans (c : Chip) (r : Reg) (h l v : Nat) : (c.setField r h l v).chans = c.chans := rfl
@[simp] theorem Chip.setField_scanChans (c : Chip) (r : Reg) (h l v : Nat) : (c.setField r h l v).scanChans = c.scanChans := rfl
@[simp] theorem Chip.setField_scanTemps (c : Chip) (r : Reg) (h l v : Nat) : (c.setField r h l v).scanTemps = c.scanTemps := rfl
@[simp] theorem Chip.setField_sensors (c : Chip) (r : Reg) (h l v : Nat) : (c.setField r h l v).sensors = c.sensors := rfl
@[simp] theorem Chip.setField_vbgh (c : Chip) (r : Reg) (h l v : Nat) : (c.setField r h l v).vbgh = c.vbgh := rfl
@[simp] theorem Chip.setField_dividers (c : Chip) (r : Reg) (h l v : Nat) : (c.setField r h l v).dividers = c.dividers := rfl
@[simp] theorem Chip.setField_sense (c : Chip) (r : Reg) (h l v : Nat) : (c.setField r h l v).sense = c.sense := rfl
@[simp] theorem Chip.setField_senseZero (c : Chip) (r : Reg) (h l v : Nat) : (c.setField r h l v).senseZero = c.senseZero := rfl
@[simp] theorem Chip.setField_capture (c : Chip) (r : Reg) (h l v : Nat) : (c.setField r h l v).capture = c.capture := rfl
@[simp] theorem Chip.setField_therm (c : Chip) (r : Reg) (h l v : Nat) : (c.setField r h l v).therm = c.therm := rfl
@[simp] theorem Chip.setField_power (c : Chip) (r : Reg) (h l v : Nat) : (c.setField r h l v).power = c.power := rfl
@[simp] theorem Chip.setField_fab (c : Chip) (r : Reg) (h l v : Nat) : (c.setField r h l v).fab = c.fab := rfl
@[simp] theorem Chip.setField_vics (c : Chip) (r : Reg) (h l v : Nat) : (c.setField r h l v).vics = c.vics := rfl
@[simp] theorem Chip.setField_mbxWindow (c : Chip) (r : Reg) (h l v : Nat) : (c.setField r h l v).mbxWindow = c.mbxWindow := rfl
@[simp] theorem Chip.setField_readData (c : Chip) (r : Reg) (h l v : Nat) : (c.setField r h l v).readData = c.readData := rfl
@[simp] theorem Chip.setField_settingsDue (c : Chip) (r : Reg) (h l v : Nat) : (c.setField r h l v).settingsDue = c.settingsDue := rfl
@[simp] theorem Chip.setField_scrub (c : Chip) (r : Reg) (h l v : Nat) : (c.setField r h l v).scrub = c.scrub := rfl
@[simp] theorem Chip.setField_free (c : Chip) (r : Reg) (h l v : Nat) : (c.setField r h l v).free = c.free := rfl

@[simp] theorem Chip.count_clocks (c : Chip) (r : Reg) (n : Nat) : (c.count r n).clocks = c.clocks := rfl
@[simp] theorem Chip.count_regs (c : Chip) (r : Reg) (n : Nat) : (c.count r n).regs = Tbl.set r (BitVec.ofNat 32 (min 0xFFFFFFFF ((c.reg r).toNat + n))) c.regs := rfl
@[simp] theorem Chip.count_latch (c : Chip) (r : Reg) (n : Nat) : (c.count r n).latch = c.latch := rfl
@[simp] theorem Chip.count_mem (c : Chip) (r : Reg) (n : Nat) : (c.count r n).mem = c.mem := rfl
@[simp] theorem Chip.count_ce (c : Chip) (r : Reg) (n : Nat) : (c.count r n).ce = c.ce := rfl
@[simp] theorem Chip.count_ue (c : Chip) (r : Reg) (n : Nat) : (c.count r n).ue = c.ue := rfl
@[simp] theorem Chip.count_damaged (c : Chip) (r : Reg) (n : Nat) : (c.count r n).damaged = c.damaged := rfl
@[simp] theorem Chip.count_blockBad (c : Chip) (r : Reg) (n : Nat) : (c.count r n).blockBad = c.blockBad := rfl
@[simp] theorem Chip.count_host (c : Chip) (r : Reg) (n : Nat) : (c.count r n).host = c.host := rfl
@[simp] theorem Chip.count_hostUp (c : Chip) (r : Reg) (n : Nat) : (c.count r n).hostUp = c.hostUp := rfl
@[simp] theorem Chip.count_numVfs (c : Chip) (r : Reg) (n : Nat) : (c.count r n).numVfs = c.numVfs := rfl
@[simp] theorem Chip.count_served (c : Chip) (r : Reg) (n : Nat) : (c.count r n).served = c.served := rfl
@[simp] theorem Chip.count_funcs (c : Chip) (r : Reg) (n : Nat) : (c.count r n).funcs = c.funcs := rfl
@[simp] theorem Chip.count_units (c : Chip) (r : Reg) (n : Nat) : (c.count r n).units = c.units := rfl
@[simp] theorem Chip.count_parts (c : Chip) (r : Reg) (n : Nat) : (c.count r n).parts = c.parts := rfl
@[simp] theorem Chip.count_cores (c : Chip) (r : Reg) (n : Nat) : (c.count r n).cores = c.cores := rfl
@[simp] theorem Chip.count_groups (c : Chip) (r : Reg) (n : Nat) : (c.count r n).groups = c.groups := rfl
@[simp] theorem Chip.count_banks (c : Chip) (r : Reg) (n : Nat) : (c.count r n).banks = c.banks := rfl
@[simp] theorem Chip.count_engines (c : Chip) (r : Reg) (n : Nat) : (c.count r n).engines = c.engines := rfl
@[simp] theorem Chip.count_convFailed (c : Chip) (r : Reg) (n : Nat) : (c.count r n).convFailed = c.convFailed := rfl
@[simp] theorem Chip.count_streamDown (c : Chip) (r : Reg) (n : Nat) : (c.count r n).streamDown = c.streamDown := rfl
@[simp] theorem Chip.count_refreshTurn (c : Chip) (r : Reg) (n : Nat) : (c.count r n).refreshTurn = c.refreshTurn := rfl
@[simp] theorem Chip.count_calWait (c : Chip) (r : Reg) (n : Nat) : (c.count r n).calWait = c.calWait := rfl
@[simp] theorem Chip.count_unownedTest (c : Chip) (r : Reg) (n : Nat) : (c.count r n).unownedTest = c.unownedTest := rfl
@[simp] theorem Chip.count_telem (c : Chip) (r : Reg) (n : Nat) : (c.count r n).telem = c.telem := rfl
@[simp] theorem Chip.count_chans (c : Chip) (r : Reg) (n : Nat) : (c.count r n).chans = c.chans := rfl
@[simp] theorem Chip.count_scanChans (c : Chip) (r : Reg) (n : Nat) : (c.count r n).scanChans = c.scanChans := rfl
@[simp] theorem Chip.count_scanTemps (c : Chip) (r : Reg) (n : Nat) : (c.count r n).scanTemps = c.scanTemps := rfl
@[simp] theorem Chip.count_sensors (c : Chip) (r : Reg) (n : Nat) : (c.count r n).sensors = c.sensors := rfl
@[simp] theorem Chip.count_vbgh (c : Chip) (r : Reg) (n : Nat) : (c.count r n).vbgh = c.vbgh := rfl
@[simp] theorem Chip.count_dividers (c : Chip) (r : Reg) (n : Nat) : (c.count r n).dividers = c.dividers := rfl
@[simp] theorem Chip.count_sense (c : Chip) (r : Reg) (n : Nat) : (c.count r n).sense = c.sense := rfl
@[simp] theorem Chip.count_senseZero (c : Chip) (r : Reg) (n : Nat) : (c.count r n).senseZero = c.senseZero := rfl
@[simp] theorem Chip.count_capture (c : Chip) (r : Reg) (n : Nat) : (c.count r n).capture = c.capture := rfl
@[simp] theorem Chip.count_therm (c : Chip) (r : Reg) (n : Nat) : (c.count r n).therm = c.therm := rfl
@[simp] theorem Chip.count_power (c : Chip) (r : Reg) (n : Nat) : (c.count r n).power = c.power := rfl
@[simp] theorem Chip.count_fab (c : Chip) (r : Reg) (n : Nat) : (c.count r n).fab = c.fab := rfl
@[simp] theorem Chip.count_vics (c : Chip) (r : Reg) (n : Nat) : (c.count r n).vics = c.vics := rfl
@[simp] theorem Chip.count_mbxWindow (c : Chip) (r : Reg) (n : Nat) : (c.count r n).mbxWindow = c.mbxWindow := rfl
@[simp] theorem Chip.count_readData (c : Chip) (r : Reg) (n : Nat) : (c.count r n).readData = c.readData := rfl
@[simp] theorem Chip.count_settingsDue (c : Chip) (r : Reg) (n : Nat) : (c.count r n).settingsDue = c.settingsDue := rfl
@[simp] theorem Chip.count_scrub (c : Chip) (r : Reg) (n : Nat) : (c.count r n).scrub = c.scrub := rfl
@[simp] theorem Chip.count_free (c : Chip) (r : Reg) (n : Nat) : (c.count r n).free = c.free := rfl

@[simp] theorem Chip.setPair_clocks (c : Chip) (lo hi : Reg) (v : Nat) : (c.setPair lo hi v).clocks = c.clocks := rfl
@[simp] theorem Chip.setPair_regs (c : Chip) (lo hi : Reg) (v : Nat) : (c.setPair lo hi v).regs = Tbl.set hi (BitVec.ofNat 32 (v / 2 ^ 32)) (Tbl.set lo (BitVec.ofNat 32 v) c.regs) := rfl
@[simp] theorem Chip.setPair_latch (c : Chip) (lo hi : Reg) (v : Nat) : (c.setPair lo hi v).latch = c.latch := rfl
@[simp] theorem Chip.setPair_mem (c : Chip) (lo hi : Reg) (v : Nat) : (c.setPair lo hi v).mem = c.mem := rfl
@[simp] theorem Chip.setPair_ce (c : Chip) (lo hi : Reg) (v : Nat) : (c.setPair lo hi v).ce = c.ce := rfl
@[simp] theorem Chip.setPair_ue (c : Chip) (lo hi : Reg) (v : Nat) : (c.setPair lo hi v).ue = c.ue := rfl
@[simp] theorem Chip.setPair_damaged (c : Chip) (lo hi : Reg) (v : Nat) : (c.setPair lo hi v).damaged = c.damaged := rfl
@[simp] theorem Chip.setPair_blockBad (c : Chip) (lo hi : Reg) (v : Nat) : (c.setPair lo hi v).blockBad = c.blockBad := rfl
@[simp] theorem Chip.setPair_host (c : Chip) (lo hi : Reg) (v : Nat) : (c.setPair lo hi v).host = c.host := rfl
@[simp] theorem Chip.setPair_hostUp (c : Chip) (lo hi : Reg) (v : Nat) : (c.setPair lo hi v).hostUp = c.hostUp := rfl
@[simp] theorem Chip.setPair_numVfs (c : Chip) (lo hi : Reg) (v : Nat) : (c.setPair lo hi v).numVfs = c.numVfs := rfl
@[simp] theorem Chip.setPair_served (c : Chip) (lo hi : Reg) (v : Nat) : (c.setPair lo hi v).served = c.served := rfl
@[simp] theorem Chip.setPair_funcs (c : Chip) (lo hi : Reg) (v : Nat) : (c.setPair lo hi v).funcs = c.funcs := rfl
@[simp] theorem Chip.setPair_units (c : Chip) (lo hi : Reg) (v : Nat) : (c.setPair lo hi v).units = c.units := rfl
@[simp] theorem Chip.setPair_parts (c : Chip) (lo hi : Reg) (v : Nat) : (c.setPair lo hi v).parts = c.parts := rfl
@[simp] theorem Chip.setPair_cores (c : Chip) (lo hi : Reg) (v : Nat) : (c.setPair lo hi v).cores = c.cores := rfl
@[simp] theorem Chip.setPair_groups (c : Chip) (lo hi : Reg) (v : Nat) : (c.setPair lo hi v).groups = c.groups := rfl
@[simp] theorem Chip.setPair_banks (c : Chip) (lo hi : Reg) (v : Nat) : (c.setPair lo hi v).banks = c.banks := rfl
@[simp] theorem Chip.setPair_engines (c : Chip) (lo hi : Reg) (v : Nat) : (c.setPair lo hi v).engines = c.engines := rfl
@[simp] theorem Chip.setPair_convFailed (c : Chip) (lo hi : Reg) (v : Nat) : (c.setPair lo hi v).convFailed = c.convFailed := rfl
@[simp] theorem Chip.setPair_streamDown (c : Chip) (lo hi : Reg) (v : Nat) : (c.setPair lo hi v).streamDown = c.streamDown := rfl
@[simp] theorem Chip.setPair_refreshTurn (c : Chip) (lo hi : Reg) (v : Nat) : (c.setPair lo hi v).refreshTurn = c.refreshTurn := rfl
@[simp] theorem Chip.setPair_calWait (c : Chip) (lo hi : Reg) (v : Nat) : (c.setPair lo hi v).calWait = c.calWait := rfl
@[simp] theorem Chip.setPair_unownedTest (c : Chip) (lo hi : Reg) (v : Nat) : (c.setPair lo hi v).unownedTest = c.unownedTest := rfl
@[simp] theorem Chip.setPair_telem (c : Chip) (lo hi : Reg) (v : Nat) : (c.setPair lo hi v).telem = c.telem := rfl
@[simp] theorem Chip.setPair_chans (c : Chip) (lo hi : Reg) (v : Nat) : (c.setPair lo hi v).chans = c.chans := rfl
@[simp] theorem Chip.setPair_scanChans (c : Chip) (lo hi : Reg) (v : Nat) : (c.setPair lo hi v).scanChans = c.scanChans := rfl
@[simp] theorem Chip.setPair_scanTemps (c : Chip) (lo hi : Reg) (v : Nat) : (c.setPair lo hi v).scanTemps = c.scanTemps := rfl
@[simp] theorem Chip.setPair_sensors (c : Chip) (lo hi : Reg) (v : Nat) : (c.setPair lo hi v).sensors = c.sensors := rfl
@[simp] theorem Chip.setPair_vbgh (c : Chip) (lo hi : Reg) (v : Nat) : (c.setPair lo hi v).vbgh = c.vbgh := rfl
@[simp] theorem Chip.setPair_dividers (c : Chip) (lo hi : Reg) (v : Nat) : (c.setPair lo hi v).dividers = c.dividers := rfl
@[simp] theorem Chip.setPair_sense (c : Chip) (lo hi : Reg) (v : Nat) : (c.setPair lo hi v).sense = c.sense := rfl
@[simp] theorem Chip.setPair_senseZero (c : Chip) (lo hi : Reg) (v : Nat) : (c.setPair lo hi v).senseZero = c.senseZero := rfl
@[simp] theorem Chip.setPair_capture (c : Chip) (lo hi : Reg) (v : Nat) : (c.setPair lo hi v).capture = c.capture := rfl
@[simp] theorem Chip.setPair_therm (c : Chip) (lo hi : Reg) (v : Nat) : (c.setPair lo hi v).therm = c.therm := rfl
@[simp] theorem Chip.setPair_power (c : Chip) (lo hi : Reg) (v : Nat) : (c.setPair lo hi v).power = c.power := rfl
@[simp] theorem Chip.setPair_fab (c : Chip) (lo hi : Reg) (v : Nat) : (c.setPair lo hi v).fab = c.fab := rfl
@[simp] theorem Chip.setPair_vics (c : Chip) (lo hi : Reg) (v : Nat) : (c.setPair lo hi v).vics = c.vics := rfl
@[simp] theorem Chip.setPair_mbxWindow (c : Chip) (lo hi : Reg) (v : Nat) : (c.setPair lo hi v).mbxWindow = c.mbxWindow := rfl
@[simp] theorem Chip.setPair_readData (c : Chip) (lo hi : Reg) (v : Nat) : (c.setPair lo hi v).readData = c.readData := rfl
@[simp] theorem Chip.setPair_settingsDue (c : Chip) (lo hi : Reg) (v : Nat) : (c.setPair lo hi v).settingsDue = c.settingsDue := rfl
@[simp] theorem Chip.setPair_scrub (c : Chip) (lo hi : Reg) (v : Nat) : (c.setPair lo hi v).scrub = c.scrub := rfl
@[simp] theorem Chip.setPair_free (c : Chip) (lo hi : Reg) (v : Nat) : (c.setPair lo hi v).free = c.free := rfl

@[simp] theorem Chip.updFunc_clocks (c : Chip) (fn : Nat) (f : Func → Func) : (c.updFunc fn f).clocks = c.clocks := rfl
@[simp] theorem Chip.updFunc_regs (c : Chip) (fn : Nat) (f : Func → Func) : (c.updFunc fn f).regs = c.regs := rfl
@[simp] theorem Chip.updFunc_latch (c : Chip) (fn : Nat) (f : Func → Func) : (c.updFunc fn f).latch = c.latch := rfl
@[simp] theorem Chip.updFunc_mem (c : Chip) (fn : Nat) (f : Func → Func) : (c.updFunc fn f).mem = c.mem := rfl
@[simp] theorem Chip.updFunc_ce (c : Chip) (fn : Nat) (f : Func → Func) : (c.updFunc fn f).ce = c.ce := rfl
@[simp] theorem Chip.updFunc_ue (c : Chip) (fn : Nat) (f : Func → Func) : (c.updFunc fn f).ue = c.ue := rfl
@[simp] theorem Chip.updFunc_damaged (c : Chip) (fn : Nat) (f : Func → Func) : (c.updFunc fn f).damaged = c.damaged := rfl
@[simp] theorem Chip.updFunc_blockBad (c : Chip) (fn : Nat) (f : Func → Func) : (c.updFunc fn f).blockBad = c.blockBad := rfl
@[simp] theorem Chip.updFunc_host (c : Chip) (fn : Nat) (f : Func → Func) : (c.updFunc fn f).host = c.host := rfl
@[simp] theorem Chip.updFunc_hostUp (c : Chip) (fn : Nat) (f : Func → Func) : (c.updFunc fn f).hostUp = c.hostUp := rfl
@[simp] theorem Chip.updFunc_numVfs (c : Chip) (fn : Nat) (f : Func → Func) : (c.updFunc fn f).numVfs = c.numVfs := rfl
@[simp] theorem Chip.updFunc_served (c : Chip) (fn : Nat) (f : Func → Func) : (c.updFunc fn f).served = c.served := rfl
@[simp] theorem Chip.updFunc_funcs (c : Chip) (fn : Nat) (f : Func → Func) : (c.updFunc fn f).funcs = Tbl.set fn (f (c.func fn)) c.funcs := rfl
@[simp] theorem Chip.updFunc_units (c : Chip) (fn : Nat) (f : Func → Func) : (c.updFunc fn f).units = c.units := rfl
@[simp] theorem Chip.updFunc_parts (c : Chip) (fn : Nat) (f : Func → Func) : (c.updFunc fn f).parts = c.parts := rfl
@[simp] theorem Chip.updFunc_cores (c : Chip) (fn : Nat) (f : Func → Func) : (c.updFunc fn f).cores = c.cores := rfl
@[simp] theorem Chip.updFunc_groups (c : Chip) (fn : Nat) (f : Func → Func) : (c.updFunc fn f).groups = c.groups := rfl
@[simp] theorem Chip.updFunc_banks (c : Chip) (fn : Nat) (f : Func → Func) : (c.updFunc fn f).banks = c.banks := rfl
@[simp] theorem Chip.updFunc_engines (c : Chip) (fn : Nat) (f : Func → Func) : (c.updFunc fn f).engines = c.engines := rfl
@[simp] theorem Chip.updFunc_convFailed (c : Chip) (fn : Nat) (f : Func → Func) : (c.updFunc fn f).convFailed = c.convFailed := rfl
@[simp] theorem Chip.updFunc_streamDown (c : Chip) (fn : Nat) (f : Func → Func) : (c.updFunc fn f).streamDown = c.streamDown := rfl
@[simp] theorem Chip.updFunc_refreshTurn (c : Chip) (fn : Nat) (f : Func → Func) : (c.updFunc fn f).refreshTurn = c.refreshTurn := rfl
@[simp] theorem Chip.updFunc_calWait (c : Chip) (fn : Nat) (f : Func → Func) : (c.updFunc fn f).calWait = c.calWait := rfl
@[simp] theorem Chip.updFunc_unownedTest (c : Chip) (fn : Nat) (f : Func → Func) : (c.updFunc fn f).unownedTest = c.unownedTest := rfl
@[simp] theorem Chip.updFunc_telem (c : Chip) (fn : Nat) (f : Func → Func) : (c.updFunc fn f).telem = c.telem := rfl
@[simp] theorem Chip.updFunc_chans (c : Chip) (fn : Nat) (f : Func → Func) : (c.updFunc fn f).chans = c.chans := rfl
@[simp] theorem Chip.updFunc_scanChans (c : Chip) (fn : Nat) (f : Func → Func) : (c.updFunc fn f).scanChans = c.scanChans := rfl
@[simp] theorem Chip.updFunc_scanTemps (c : Chip) (fn : Nat) (f : Func → Func) : (c.updFunc fn f).scanTemps = c.scanTemps := rfl
@[simp] theorem Chip.updFunc_sensors (c : Chip) (fn : Nat) (f : Func → Func) : (c.updFunc fn f).sensors = c.sensors := rfl
@[simp] theorem Chip.updFunc_vbgh (c : Chip) (fn : Nat) (f : Func → Func) : (c.updFunc fn f).vbgh = c.vbgh := rfl
@[simp] theorem Chip.updFunc_dividers (c : Chip) (fn : Nat) (f : Func → Func) : (c.updFunc fn f).dividers = c.dividers := rfl
@[simp] theorem Chip.updFunc_sense (c : Chip) (fn : Nat) (f : Func → Func) : (c.updFunc fn f).sense = c.sense := rfl
@[simp] theorem Chip.updFunc_senseZero (c : Chip) (fn : Nat) (f : Func → Func) : (c.updFunc fn f).senseZero = c.senseZero := rfl
@[simp] theorem Chip.updFunc_capture (c : Chip) (fn : Nat) (f : Func → Func) : (c.updFunc fn f).capture = c.capture := rfl
@[simp] theorem Chip.updFunc_therm (c : Chip) (fn : Nat) (f : Func → Func) : (c.updFunc fn f).therm = c.therm := rfl
@[simp] theorem Chip.updFunc_power (c : Chip) (fn : Nat) (f : Func → Func) : (c.updFunc fn f).power = c.power := rfl
@[simp] theorem Chip.updFunc_fab (c : Chip) (fn : Nat) (f : Func → Func) : (c.updFunc fn f).fab = c.fab := rfl
@[simp] theorem Chip.updFunc_vics (c : Chip) (fn : Nat) (f : Func → Func) : (c.updFunc fn f).vics = c.vics := rfl
@[simp] theorem Chip.updFunc_mbxWindow (c : Chip) (fn : Nat) (f : Func → Func) : (c.updFunc fn f).mbxWindow = c.mbxWindow := rfl
@[simp] theorem Chip.updFunc_readData (c : Chip) (fn : Nat) (f : Func → Func) : (c.updFunc fn f).readData = c.readData := rfl
@[simp] theorem Chip.updFunc_settingsDue (c : Chip) (fn : Nat) (f : Func → Func) : (c.updFunc fn f).settingsDue = c.settingsDue := rfl
@[simp] theorem Chip.updFunc_scrub (c : Chip) (fn : Nat) (f : Func → Func) : (c.updFunc fn f).scrub = c.scrub := rfl
@[simp] theorem Chip.updFunc_free (c : Chip) (fn : Nat) (f : Func → Func) : (c.updFunc fn f).free = c.free := rfl

@[simp] theorem Chip.updPart_clocks (c : Chip) (p : Nat) (f : Part → Part) : (c.updPart p f).clocks = c.clocks := by simp only [Chip.updPart]; split <;> rfl
@[simp] theorem Chip.updPart_regs (c : Chip) (p : Nat) (f : Part → Part) : (c.updPart p f).regs = c.regs := by simp only [Chip.updPart]; split <;> rfl
@[simp] theorem Chip.updPart_latch (c : Chip) (p : Nat) (f : Part → Part) : (c.updPart p f).latch = c.latch := by simp only [Chip.updPart]; split <;> rfl
@[simp] theorem Chip.updPart_mem (c : Chip) (p : Nat) (f : Part → Part) : (c.updPart p f).mem = c.mem := by simp only [Chip.updPart]; split <;> rfl
@[simp] theorem Chip.updPart_ce (c : Chip) (p : Nat) (f : Part → Part) : (c.updPart p f).ce = c.ce := by simp only [Chip.updPart]; split <;> rfl
@[simp] theorem Chip.updPart_ue (c : Chip) (p : Nat) (f : Part → Part) : (c.updPart p f).ue = c.ue := by simp only [Chip.updPart]; split <;> rfl
@[simp] theorem Chip.updPart_damaged (c : Chip) (p : Nat) (f : Part → Part) : (c.updPart p f).damaged = c.damaged := by simp only [Chip.updPart]; split <;> rfl
@[simp] theorem Chip.updPart_blockBad (c : Chip) (p : Nat) (f : Part → Part) : (c.updPart p f).blockBad = c.blockBad := by simp only [Chip.updPart]; split <;> rfl
@[simp] theorem Chip.updPart_host (c : Chip) (p : Nat) (f : Part → Part) : (c.updPart p f).host = c.host := by simp only [Chip.updPart]; split <;> rfl
@[simp] theorem Chip.updPart_hostUp (c : Chip) (p : Nat) (f : Part → Part) : (c.updPart p f).hostUp = c.hostUp := by simp only [Chip.updPart]; split <;> rfl
@[simp] theorem Chip.updPart_numVfs (c : Chip) (p : Nat) (f : Part → Part) : (c.updPart p f).numVfs = c.numVfs := by simp only [Chip.updPart]; split <;> rfl
@[simp] theorem Chip.updPart_served (c : Chip) (p : Nat) (f : Part → Part) : (c.updPart p f).served = c.served := by simp only [Chip.updPart]; split <;> rfl
@[simp] theorem Chip.updPart_funcs (c : Chip) (p : Nat) (f : Part → Part) : (c.updPart p f).funcs = c.funcs := by simp only [Chip.updPart]; split <;> rfl
@[simp] theorem Chip.updPart_units (c : Chip) (p : Nat) (f : Part → Part) : (c.updPart p f).units = c.units := by simp only [Chip.updPart]; split <;> rfl
@[simp] theorem Chip.updPart_cores (c : Chip) (p : Nat) (f : Part → Part) : (c.updPart p f).cores = c.cores := by simp only [Chip.updPart]; split <;> rfl
@[simp] theorem Chip.updPart_groups (c : Chip) (p : Nat) (f : Part → Part) : (c.updPart p f).groups = c.groups := by simp only [Chip.updPart]; split <;> rfl
@[simp] theorem Chip.updPart_banks (c : Chip) (p : Nat) (f : Part → Part) : (c.updPart p f).banks = c.banks := by simp only [Chip.updPart]; split <;> rfl
@[simp] theorem Chip.updPart_engines (c : Chip) (p : Nat) (f : Part → Part) : (c.updPart p f).engines = c.engines := by simp only [Chip.updPart]; split <;> rfl
@[simp] theorem Chip.updPart_convFailed (c : Chip) (p : Nat) (f : Part → Part) : (c.updPart p f).convFailed = c.convFailed := by simp only [Chip.updPart]; split <;> rfl
@[simp] theorem Chip.updPart_streamDown (c : Chip) (p : Nat) (f : Part → Part) : (c.updPart p f).streamDown = c.streamDown := by simp only [Chip.updPart]; split <;> rfl
@[simp] theorem Chip.updPart_refreshTurn (c : Chip) (p : Nat) (f : Part → Part) : (c.updPart p f).refreshTurn = c.refreshTurn := by simp only [Chip.updPart]; split <;> rfl
@[simp] theorem Chip.updPart_calWait (c : Chip) (p : Nat) (f : Part → Part) : (c.updPart p f).calWait = c.calWait := by simp only [Chip.updPart]; split <;> rfl
@[simp] theorem Chip.updPart_unownedTest (c : Chip) (p : Nat) (f : Part → Part) : (c.updPart p f).unownedTest = c.unownedTest := by simp only [Chip.updPart]; split <;> rfl
@[simp] theorem Chip.updPart_telem (c : Chip) (p : Nat) (f : Part → Part) : (c.updPart p f).telem = c.telem := by simp only [Chip.updPart]; split <;> rfl
@[simp] theorem Chip.updPart_chans (c : Chip) (p : Nat) (f : Part → Part) : (c.updPart p f).chans = c.chans := by simp only [Chip.updPart]; split <;> rfl
@[simp] theorem Chip.updPart_scanChans (c : Chip) (p : Nat) (f : Part → Part) : (c.updPart p f).scanChans = c.scanChans := by simp only [Chip.updPart]; split <;> rfl
@[simp] theorem Chip.updPart_scanTemps (c : Chip) (p : Nat) (f : Part → Part) : (c.updPart p f).scanTemps = c.scanTemps := by simp only [Chip.updPart]; split <;> rfl
@[simp] theorem Chip.updPart_sensors (c : Chip) (p : Nat) (f : Part → Part) : (c.updPart p f).sensors = c.sensors := by simp only [Chip.updPart]; split <;> rfl
@[simp] theorem Chip.updPart_vbgh (c : Chip) (p : Nat) (f : Part → Part) : (c.updPart p f).vbgh = c.vbgh := by simp only [Chip.updPart]; split <;> rfl
@[simp] theorem Chip.updPart_dividers (c : Chip) (p : Nat) (f : Part → Part) : (c.updPart p f).dividers = c.dividers := by simp only [Chip.updPart]; split <;> rfl
@[simp] theorem Chip.updPart_sense (c : Chip) (p : Nat) (f : Part → Part) : (c.updPart p f).sense = c.sense := by simp only [Chip.updPart]; split <;> rfl
@[simp] theorem Chip.updPart_senseZero (c : Chip) (p : Nat) (f : Part → Part) : (c.updPart p f).senseZero = c.senseZero := by simp only [Chip.updPart]; split <;> rfl
@[simp] theorem Chip.updPart_capture (c : Chip) (p : Nat) (f : Part → Part) : (c.updPart p f).capture = c.capture := by simp only [Chip.updPart]; split <;> rfl
@[simp] theorem Chip.updPart_therm (c : Chip) (p : Nat) (f : Part → Part) : (c.updPart p f).therm = c.therm := by simp only [Chip.updPart]; split <;> rfl
@[simp] theorem Chip.updPart_power (c : Chip) (p : Nat) (f : Part → Part) : (c.updPart p f).power = c.power := by simp only [Chip.updPart]; split <;> rfl
@[simp] theorem Chip.updPart_fab (c : Chip) (p : Nat) (f : Part → Part) : (c.updPart p f).fab = c.fab := by simp only [Chip.updPart]; split <;> rfl
@[simp] theorem Chip.updPart_vics (c : Chip) (p : Nat) (f : Part → Part) : (c.updPart p f).vics = c.vics := by simp only [Chip.updPart]; split <;> rfl
@[simp] theorem Chip.updPart_mbxWindow (c : Chip) (p : Nat) (f : Part → Part) : (c.updPart p f).mbxWindow = c.mbxWindow := by simp only [Chip.updPart]; split <;> rfl
@[simp] theorem Chip.updPart_readData (c : Chip) (p : Nat) (f : Part → Part) : (c.updPart p f).readData = c.readData := by simp only [Chip.updPart]; split <;> rfl
@[simp] theorem Chip.updPart_settingsDue (c : Chip) (p : Nat) (f : Part → Part) : (c.updPart p f).settingsDue = c.settingsDue := by simp only [Chip.updPart]; split <;> rfl
@[simp] theorem Chip.updPart_scrub (c : Chip) (p : Nat) (f : Part → Part) : (c.updPart p f).scrub = c.scrub := by simp only [Chip.updPart]; split <;> rfl
@[simp] theorem Chip.updPart_free (c : Chip) (p : Nat) (f : Part → Part) : (c.updPart p f).free = c.free := by simp only [Chip.updPart]; split <;> rfl

@[simp] theorem Chip.setStep_clocks (c : Chip) (p : Nat) (st : StepCtx) : (c.setStep p st).clocks = c.clocks := by exact Chip.updPart_clocks c p _
@[simp] theorem Chip.setStep_regs (c : Chip) (p : Nat) (st : StepCtx) : (c.setStep p st).regs = c.regs := by exact Chip.updPart_regs c p _
@[simp] theorem Chip.setStep_latch (c : Chip) (p : Nat) (st : StepCtx) : (c.setStep p st).latch = c.latch := by exact Chip.updPart_latch c p _
@[simp] theorem Chip.setStep_mem (c : Chip) (p : Nat) (st : StepCtx) : (c.setStep p st).mem = c.mem := by exact Chip.updPart_mem c p _
@[simp] theorem Chip.setStep_ce (c : Chip) (p : Nat) (st : StepCtx) : (c.setStep p st).ce = c.ce := by exact Chip.updPart_ce c p _
@[simp] theorem Chip.setStep_ue (c : Chip) (p : Nat) (st : StepCtx) : (c.setStep p st).ue = c.ue := by exact Chip.updPart_ue c p _
@[simp] theorem Chip.setStep_damaged (c : Chip) (p : Nat) (st : StepCtx) : (c.setStep p st).damaged = c.damaged := by exact Chip.updPart_damaged c p _
@[simp] theorem Chip.setStep_blockBad (c : Chip) (p : Nat) (st : StepCtx) : (c.setStep p st).blockBad = c.blockBad := by exact Chip.updPart_blockBad c p _
@[simp] theorem Chip.setStep_host (c : Chip) (p : Nat) (st : StepCtx) : (c.setStep p st).host = c.host := by exact Chip.updPart_host c p _
@[simp] theorem Chip.setStep_hostUp (c : Chip) (p : Nat) (st : StepCtx) : (c.setStep p st).hostUp = c.hostUp := by exact Chip.updPart_hostUp c p _
@[simp] theorem Chip.setStep_numVfs (c : Chip) (p : Nat) (st : StepCtx) : (c.setStep p st).numVfs = c.numVfs := by exact Chip.updPart_numVfs c p _
@[simp] theorem Chip.setStep_served (c : Chip) (p : Nat) (st : StepCtx) : (c.setStep p st).served = c.served := by exact Chip.updPart_served c p _
@[simp] theorem Chip.setStep_funcs (c : Chip) (p : Nat) (st : StepCtx) : (c.setStep p st).funcs = c.funcs := by exact Chip.updPart_funcs c p _
@[simp] theorem Chip.setStep_units (c : Chip) (p : Nat) (st : StepCtx) : (c.setStep p st).units = c.units := by exact Chip.updPart_units c p _
@[simp] theorem Chip.setStep_cores (c : Chip) (p : Nat) (st : StepCtx) : (c.setStep p st).cores = c.cores := by exact Chip.updPart_cores c p _
@[simp] theorem Chip.setStep_groups (c : Chip) (p : Nat) (st : StepCtx) : (c.setStep p st).groups = c.groups := by exact Chip.updPart_groups c p _
@[simp] theorem Chip.setStep_banks (c : Chip) (p : Nat) (st : StepCtx) : (c.setStep p st).banks = c.banks := by exact Chip.updPart_banks c p _
@[simp] theorem Chip.setStep_engines (c : Chip) (p : Nat) (st : StepCtx) : (c.setStep p st).engines = c.engines := by exact Chip.updPart_engines c p _
@[simp] theorem Chip.setStep_convFailed (c : Chip) (p : Nat) (st : StepCtx) : (c.setStep p st).convFailed = c.convFailed := by exact Chip.updPart_convFailed c p _
@[simp] theorem Chip.setStep_streamDown (c : Chip) (p : Nat) (st : StepCtx) : (c.setStep p st).streamDown = c.streamDown := by exact Chip.updPart_streamDown c p _
@[simp] theorem Chip.setStep_refreshTurn (c : Chip) (p : Nat) (st : StepCtx) : (c.setStep p st).refreshTurn = c.refreshTurn := by exact Chip.updPart_refreshTurn c p _
@[simp] theorem Chip.setStep_calWait (c : Chip) (p : Nat) (st : StepCtx) : (c.setStep p st).calWait = c.calWait := by exact Chip.updPart_calWait c p _
@[simp] theorem Chip.setStep_unownedTest (c : Chip) (p : Nat) (st : StepCtx) : (c.setStep p st).unownedTest = c.unownedTest := by exact Chip.updPart_unownedTest c p _
@[simp] theorem Chip.setStep_telem (c : Chip) (p : Nat) (st : StepCtx) : (c.setStep p st).telem = c.telem := by exact Chip.updPart_telem c p _
@[simp] theorem Chip.setStep_chans (c : Chip) (p : Nat) (st : StepCtx) : (c.setStep p st).chans = c.chans := by exact Chip.updPart_chans c p _
@[simp] theorem Chip.setStep_scanChans (c : Chip) (p : Nat) (st : StepCtx) : (c.setStep p st).scanChans = c.scanChans := by exact Chip.updPart_scanChans c p _
@[simp] theorem Chip.setStep_scanTemps (c : Chip) (p : Nat) (st : StepCtx) : (c.setStep p st).scanTemps = c.scanTemps := by exact Chip.updPart_scanTemps c p _
@[simp] theorem Chip.setStep_sensors (c : Chip) (p : Nat) (st : StepCtx) : (c.setStep p st).sensors = c.sensors := by exact Chip.updPart_sensors c p _
@[simp] theorem Chip.setStep_vbgh (c : Chip) (p : Nat) (st : StepCtx) : (c.setStep p st).vbgh = c.vbgh := by exact Chip.updPart_vbgh c p _
@[simp] theorem Chip.setStep_dividers (c : Chip) (p : Nat) (st : StepCtx) : (c.setStep p st).dividers = c.dividers := by exact Chip.updPart_dividers c p _
@[simp] theorem Chip.setStep_sense (c : Chip) (p : Nat) (st : StepCtx) : (c.setStep p st).sense = c.sense := by exact Chip.updPart_sense c p _
@[simp] theorem Chip.setStep_senseZero (c : Chip) (p : Nat) (st : StepCtx) : (c.setStep p st).senseZero = c.senseZero := by exact Chip.updPart_senseZero c p _
@[simp] theorem Chip.setStep_capture (c : Chip) (p : Nat) (st : StepCtx) : (c.setStep p st).capture = c.capture := by exact Chip.updPart_capture c p _
@[simp] theorem Chip.setStep_therm (c : Chip) (p : Nat) (st : StepCtx) : (c.setStep p st).therm = c.therm := by exact Chip.updPart_therm c p _
@[simp] theorem Chip.setStep_power (c : Chip) (p : Nat) (st : StepCtx) : (c.setStep p st).power = c.power := by exact Chip.updPart_power c p _
@[simp] theorem Chip.setStep_fab (c : Chip) (p : Nat) (st : StepCtx) : (c.setStep p st).fab = c.fab := by exact Chip.updPart_fab c p _
@[simp] theorem Chip.setStep_vics (c : Chip) (p : Nat) (st : StepCtx) : (c.setStep p st).vics = c.vics := by exact Chip.updPart_vics c p _
@[simp] theorem Chip.setStep_mbxWindow (c : Chip) (p : Nat) (st : StepCtx) : (c.setStep p st).mbxWindow = c.mbxWindow := by exact Chip.updPart_mbxWindow c p _
@[simp] theorem Chip.setStep_readData (c : Chip) (p : Nat) (st : StepCtx) : (c.setStep p st).readData = c.readData := by exact Chip.updPart_readData c p _
@[simp] theorem Chip.setStep_settingsDue (c : Chip) (p : Nat) (st : StepCtx) : (c.setStep p st).settingsDue = c.settingsDue := by exact Chip.updPart_settingsDue c p _
@[simp] theorem Chip.setStep_scrub (c : Chip) (p : Nat) (st : StepCtx) : (c.setStep p st).scrub = c.scrub := by exact Chip.updPart_scrub c p _
@[simp] theorem Chip.setStep_free (c : Chip) (p : Nat) (st : StepCtx) : (c.setStep p st).free = c.free := by exact Chip.updPart_free c p _

@[simp] theorem Chip.updStep_clocks (c : Chip) (p : Nat) (f : StepCtx → StepCtx) : (c.updStep p f).clocks = c.clocks := by exact Chip.updPart_clocks c p _
@[simp] theorem Chip.updStep_regs (c : Chip) (p : Nat) (f : StepCtx → StepCtx) : (c.updStep p f).regs = c.regs := by exact Chip.updPart_regs c p _
@[simp] theorem Chip.updStep_latch (c : Chip) (p : Nat) (f : StepCtx → StepCtx) : (c.updStep p f).latch = c.latch := by exact Chip.updPart_latch c p _
@[simp] theorem Chip.updStep_mem (c : Chip) (p : Nat) (f : StepCtx → StepCtx) : (c.updStep p f).mem = c.mem := by exact Chip.updPart_mem c p _
@[simp] theorem Chip.updStep_ce (c : Chip) (p : Nat) (f : StepCtx → StepCtx) : (c.updStep p f).ce = c.ce := by exact Chip.updPart_ce c p _
@[simp] theorem Chip.updStep_ue (c : Chip) (p : Nat) (f : StepCtx → StepCtx) : (c.updStep p f).ue = c.ue := by exact Chip.updPart_ue c p _
@[simp] theorem Chip.updStep_damaged (c : Chip) (p : Nat) (f : StepCtx → StepCtx) : (c.updStep p f).damaged = c.damaged := by exact Chip.updPart_damaged c p _
@[simp] theorem Chip.updStep_blockBad (c : Chip) (p : Nat) (f : StepCtx → StepCtx) : (c.updStep p f).blockBad = c.blockBad := by exact Chip.updPart_blockBad c p _
@[simp] theorem Chip.updStep_host (c : Chip) (p : Nat) (f : StepCtx → StepCtx) : (c.updStep p f).host = c.host := by exact Chip.updPart_host c p _
@[simp] theorem Chip.updStep_hostUp (c : Chip) (p : Nat) (f : StepCtx → StepCtx) : (c.updStep p f).hostUp = c.hostUp := by exact Chip.updPart_hostUp c p _
@[simp] theorem Chip.updStep_numVfs (c : Chip) (p : Nat) (f : StepCtx → StepCtx) : (c.updStep p f).numVfs = c.numVfs := by exact Chip.updPart_numVfs c p _
@[simp] theorem Chip.updStep_served (c : Chip) (p : Nat) (f : StepCtx → StepCtx) : (c.updStep p f).served = c.served := by exact Chip.updPart_served c p _
@[simp] theorem Chip.updStep_funcs (c : Chip) (p : Nat) (f : StepCtx → StepCtx) : (c.updStep p f).funcs = c.funcs := by exact Chip.updPart_funcs c p _
@[simp] theorem Chip.updStep_units (c : Chip) (p : Nat) (f : StepCtx → StepCtx) : (c.updStep p f).units = c.units := by exact Chip.updPart_units c p _
@[simp] theorem Chip.updStep_cores (c : Chip) (p : Nat) (f : StepCtx → StepCtx) : (c.updStep p f).cores = c.cores := by exact Chip.updPart_cores c p _
@[simp] theorem Chip.updStep_groups (c : Chip) (p : Nat) (f : StepCtx → StepCtx) : (c.updStep p f).groups = c.groups := by exact Chip.updPart_groups c p _
@[simp] theorem Chip.updStep_banks (c : Chip) (p : Nat) (f : StepCtx → StepCtx) : (c.updStep p f).banks = c.banks := by exact Chip.updPart_banks c p _
@[simp] theorem Chip.updStep_engines (c : Chip) (p : Nat) (f : StepCtx → StepCtx) : (c.updStep p f).engines = c.engines := by exact Chip.updPart_engines c p _
@[simp] theorem Chip.updStep_convFailed (c : Chip) (p : Nat) (f : StepCtx → StepCtx) : (c.updStep p f).convFailed = c.convFailed := by exact Chip.updPart_convFailed c p _
@[simp] theorem Chip.updStep_streamDown (c : Chip) (p : Nat) (f : StepCtx → StepCtx) : (c.updStep p f).streamDown = c.streamDown := by exact Chip.updPart_streamDown c p _
@[simp] theorem Chip.updStep_refreshTurn (c : Chip) (p : Nat) (f : StepCtx → StepCtx) : (c.updStep p f).refreshTurn = c.refreshTurn := by exact Chip.updPart_refreshTurn c p _
@[simp] theorem Chip.updStep_calWait (c : Chip) (p : Nat) (f : StepCtx → StepCtx) : (c.updStep p f).calWait = c.calWait := by exact Chip.updPart_calWait c p _
@[simp] theorem Chip.updStep_unownedTest (c : Chip) (p : Nat) (f : StepCtx → StepCtx) : (c.updStep p f).unownedTest = c.unownedTest := by exact Chip.updPart_unownedTest c p _
@[simp] theorem Chip.updStep_telem (c : Chip) (p : Nat) (f : StepCtx → StepCtx) : (c.updStep p f).telem = c.telem := by exact Chip.updPart_telem c p _
@[simp] theorem Chip.updStep_chans (c : Chip) (p : Nat) (f : StepCtx → StepCtx) : (c.updStep p f).chans = c.chans := by exact Chip.updPart_chans c p _
@[simp] theorem Chip.updStep_scanChans (c : Chip) (p : Nat) (f : StepCtx → StepCtx) : (c.updStep p f).scanChans = c.scanChans := by exact Chip.updPart_scanChans c p _
@[simp] theorem Chip.updStep_scanTemps (c : Chip) (p : Nat) (f : StepCtx → StepCtx) : (c.updStep p f).scanTemps = c.scanTemps := by exact Chip.updPart_scanTemps c p _
@[simp] theorem Chip.updStep_sensors (c : Chip) (p : Nat) (f : StepCtx → StepCtx) : (c.updStep p f).sensors = c.sensors := by exact Chip.updPart_sensors c p _
@[simp] theorem Chip.updStep_vbgh (c : Chip) (p : Nat) (f : StepCtx → StepCtx) : (c.updStep p f).vbgh = c.vbgh := by exact Chip.updPart_vbgh c p _
@[simp] theorem Chip.updStep_dividers (c : Chip) (p : Nat) (f : StepCtx → StepCtx) : (c.updStep p f).dividers = c.dividers := by exact Chip.updPart_dividers c p _
@[simp] theorem Chip.updStep_sense (c : Chip) (p : Nat) (f : StepCtx → StepCtx) : (c.updStep p f).sense = c.sense := by exact Chip.updPart_sense c p _
@[simp] theorem Chip.updStep_senseZero (c : Chip) (p : Nat) (f : StepCtx → StepCtx) : (c.updStep p f).senseZero = c.senseZero := by exact Chip.updPart_senseZero c p _
@[simp] theorem Chip.updStep_capture (c : Chip) (p : Nat) (f : StepCtx → StepCtx) : (c.updStep p f).capture = c.capture := by exact Chip.updPart_capture c p _
@[simp] theorem Chip.updStep_therm (c : Chip) (p : Nat) (f : StepCtx → StepCtx) : (c.updStep p f).therm = c.therm := by exact Chip.updPart_therm c p _
@[simp] theorem Chip.updStep_power (c : Chip) (p : Nat) (f : StepCtx → StepCtx) : (c.updStep p f).power = c.power := by exact Chip.updPart_power c p _
@[simp] theorem Chip.updStep_fab (c : Chip) (p : Nat) (f : StepCtx → StepCtx) : (c.updStep p f).fab = c.fab := by exact Chip.updPart_fab c p _
@[simp] theorem Chip.updStep_vics (c : Chip) (p : Nat) (f : StepCtx → StepCtx) : (c.updStep p f).vics = c.vics := by exact Chip.updPart_vics c p _
@[simp] theorem Chip.updStep_mbxWindow (c : Chip) (p : Nat) (f : StepCtx → StepCtx) : (c.updStep p f).mbxWindow = c.mbxWindow := by exact Chip.updPart_mbxWindow c p _
@[simp] theorem Chip.updStep_readData (c : Chip) (p : Nat) (f : StepCtx → StepCtx) : (c.updStep p f).readData = c.readData := by exact Chip.updPart_readData c p _
@[simp] theorem Chip.updStep_settingsDue (c : Chip) (p : Nat) (f : StepCtx → StepCtx) : (c.updStep p f).settingsDue = c.settingsDue := by exact Chip.updPart_settingsDue c p _
@[simp] theorem Chip.updStep_scrub (c : Chip) (p : Nat) (f : StepCtx → StepCtx) : (c.updStep p f).scrub = c.scrub := by exact Chip.updPart_scrub c p _
@[simp] theorem Chip.updStep_free (c : Chip) (p : Nat) (f : StepCtx → StepCtx) : (c.updStep p f).free = c.free := by exact Chip.updPart_free c p _

@[simp] theorem Chip.hostWrite_clocks (c : Chip) (fn a : Nat) (bs : List Byte) : (c.hostWrite fn a bs).clocks = c.clocks := by simp only [Chip.hostWrite]; split <;> rfl
@[simp] theorem Chip.hostWrite_regs (c : Chip) (fn a : Nat) (bs : List Byte) : (c.hostWrite fn a bs).regs = c.regs := by simp only [Chip.hostWrite]; split <;> rfl
@[simp] theorem Chip.hostWrite_latch (c : Chip) (fn a : Nat) (bs : List Byte) : (c.hostWrite fn a bs).latch = c.latch := by simp only [Chip.hostWrite]; split <;> rfl
@[simp] theorem Chip.hostWrite_mem (c : Chip) (fn a : Nat) (bs : List Byte) : (c.hostWrite fn a bs).mem = c.mem := by simp only [Chip.hostWrite]; split <;> rfl
@[simp] theorem Chip.hostWrite_ce (c : Chip) (fn a : Nat) (bs : List Byte) : (c.hostWrite fn a bs).ce = c.ce := by simp only [Chip.hostWrite]; split <;> rfl
@[simp] theorem Chip.hostWrite_ue (c : Chip) (fn a : Nat) (bs : List Byte) : (c.hostWrite fn a bs).ue = c.ue := by simp only [Chip.hostWrite]; split <;> rfl
@[simp] theorem Chip.hostWrite_damaged (c : Chip) (fn a : Nat) (bs : List Byte) : (c.hostWrite fn a bs).damaged = c.damaged := by simp only [Chip.hostWrite]; split <;> rfl
@[simp] theorem Chip.hostWrite_blockBad (c : Chip) (fn a : Nat) (bs : List Byte) : (c.hostWrite fn a bs).blockBad = c.blockBad := by simp only [Chip.hostWrite]; split <;> rfl
@[simp] theorem Chip.hostWrite_hostUp (c : Chip) (fn a : Nat) (bs : List Byte) : (c.hostWrite fn a bs).hostUp = c.hostUp := by simp only [Chip.hostWrite]; split <;> rfl
@[simp] theorem Chip.hostWrite_numVfs (c : Chip) (fn a : Nat) (bs : List Byte) : (c.hostWrite fn a bs).numVfs = c.numVfs := by simp only [Chip.hostWrite]; split <;> rfl
@[simp] theorem Chip.hostWrite_served (c : Chip) (fn a : Nat) (bs : List Byte) : (c.hostWrite fn a bs).served = c.served := by simp only [Chip.hostWrite]; split <;> rfl
@[simp] theorem Chip.hostWrite_units (c : Chip) (fn a : Nat) (bs : List Byte) : (c.hostWrite fn a bs).units = c.units := by simp only [Chip.hostWrite]; split <;> rfl
@[simp] theorem Chip.hostWrite_parts (c : Chip) (fn a : Nat) (bs : List Byte) : (c.hostWrite fn a bs).parts = c.parts := by simp only [Chip.hostWrite]; split <;> rfl
@[simp] theorem Chip.hostWrite_cores (c : Chip) (fn a : Nat) (bs : List Byte) : (c.hostWrite fn a bs).cores = c.cores := by simp only [Chip.hostWrite]; split <;> rfl
@[simp] theorem Chip.hostWrite_groups (c : Chip) (fn a : Nat) (bs : List Byte) : (c.hostWrite fn a bs).groups = c.groups := by simp only [Chip.hostWrite]; split <;> rfl
@[simp] theorem Chip.hostWrite_banks (c : Chip) (fn a : Nat) (bs : List Byte) : (c.hostWrite fn a bs).banks = c.banks := by simp only [Chip.hostWrite]; split <;> rfl
@[simp] theorem Chip.hostWrite_engines (c : Chip) (fn a : Nat) (bs : List Byte) : (c.hostWrite fn a bs).engines = c.engines := by simp only [Chip.hostWrite]; split <;> rfl
@[simp] theorem Chip.hostWrite_convFailed (c : Chip) (fn a : Nat) (bs : List Byte) : (c.hostWrite fn a bs).convFailed = c.convFailed := by simp only [Chip.hostWrite]; split <;> rfl
@[simp] theorem Chip.hostWrite_streamDown (c : Chip) (fn a : Nat) (bs : List Byte) : (c.hostWrite fn a bs).streamDown = c.streamDown := by simp only [Chip.hostWrite]; split <;> rfl
@[simp] theorem Chip.hostWrite_refreshTurn (c : Chip) (fn a : Nat) (bs : List Byte) : (c.hostWrite fn a bs).refreshTurn = c.refreshTurn := by simp only [Chip.hostWrite]; split <;> rfl
@[simp] theorem Chip.hostWrite_calWait (c : Chip) (fn a : Nat) (bs : List Byte) : (c.hostWrite fn a bs).calWait = c.calWait := by simp only [Chip.hostWrite]; split <;> rfl
@[simp] theorem Chip.hostWrite_unownedTest (c : Chip) (fn a : Nat) (bs : List Byte) : (c.hostWrite fn a bs).unownedTest = c.unownedTest := by simp only [Chip.hostWrite]; split <;> rfl
@[simp] theorem Chip.hostWrite_telem (c : Chip) (fn a : Nat) (bs : List Byte) : (c.hostWrite fn a bs).telem = c.telem := by simp only [Chip.hostWrite]; split <;> rfl
@[simp] theorem Chip.hostWrite_chans (c : Chip) (fn a : Nat) (bs : List Byte) : (c.hostWrite fn a bs).chans = c.chans := by simp only [Chip.hostWrite]; split <;> rfl
@[simp] theorem Chip.hostWrite_scanChans (c : Chip) (fn a : Nat) (bs : List Byte) : (c.hostWrite fn a bs).scanChans = c.scanChans := by simp only [Chip.hostWrite]; split <;> rfl
@[simp] theorem Chip.hostWrite_scanTemps (c : Chip) (fn a : Nat) (bs : List Byte) : (c.hostWrite fn a bs).scanTemps = c.scanTemps := by simp only [Chip.hostWrite]; split <;> rfl
@[simp] theorem Chip.hostWrite_sensors (c : Chip) (fn a : Nat) (bs : List Byte) : (c.hostWrite fn a bs).sensors = c.sensors := by simp only [Chip.hostWrite]; split <;> rfl
@[simp] theorem Chip.hostWrite_vbgh (c : Chip) (fn a : Nat) (bs : List Byte) : (c.hostWrite fn a bs).vbgh = c.vbgh := by simp only [Chip.hostWrite]; split <;> rfl
@[simp] theorem Chip.hostWrite_dividers (c : Chip) (fn a : Nat) (bs : List Byte) : (c.hostWrite fn a bs).dividers = c.dividers := by simp only [Chip.hostWrite]; split <;> rfl
@[simp] theorem Chip.hostWrite_sense (c : Chip) (fn a : Nat) (bs : List Byte) : (c.hostWrite fn a bs).sense = c.sense := by simp only [Chip.hostWrite]; split <;> rfl
@[simp] theorem Chip.hostWrite_senseZero (c : Chip) (fn a : Nat) (bs : List Byte) : (c.hostWrite fn a bs).senseZero = c.senseZero := by simp only [Chip.hostWrite]; split <;> rfl
@[simp] theorem Chip.hostWrite_capture (c : Chip) (fn a : Nat) (bs : List Byte) : (c.hostWrite fn a bs).capture = c.capture := by simp only [Chip.hostWrite]; split <;> rfl
@[simp] theorem Chip.hostWrite_therm (c : Chip) (fn a : Nat) (bs : List Byte) : (c.hostWrite fn a bs).therm = c.therm := by simp only [Chip.hostWrite]; split <;> rfl
@[simp] theorem Chip.hostWrite_power (c : Chip) (fn a : Nat) (bs : List Byte) : (c.hostWrite fn a bs).power = c.power := by simp only [Chip.hostWrite]; split <;> rfl
@[simp] theorem Chip.hostWrite_fab (c : Chip) (fn a : Nat) (bs : List Byte) : (c.hostWrite fn a bs).fab = c.fab := by simp only [Chip.hostWrite]; split <;> rfl
@[simp] theorem Chip.hostWrite_vics (c : Chip) (fn a : Nat) (bs : List Byte) : (c.hostWrite fn a bs).vics = c.vics := by simp only [Chip.hostWrite]; split <;> rfl
@[simp] theorem Chip.hostWrite_mbxWindow (c : Chip) (fn a : Nat) (bs : List Byte) : (c.hostWrite fn a bs).mbxWindow = c.mbxWindow := by simp only [Chip.hostWrite]; split <;> rfl
@[simp] theorem Chip.hostWrite_readData (c : Chip) (fn a : Nat) (bs : List Byte) : (c.hostWrite fn a bs).readData = c.readData := by simp only [Chip.hostWrite]; split <;> rfl
@[simp] theorem Chip.hostWrite_settingsDue (c : Chip) (fn a : Nat) (bs : List Byte) : (c.hostWrite fn a bs).settingsDue = c.settingsDue := by simp only [Chip.hostWrite]; split <;> rfl
@[simp] theorem Chip.hostWrite_scrub (c : Chip) (fn a : Nat) (bs : List Byte) : (c.hostWrite fn a bs).scrub = c.scrub := by simp only [Chip.hostWrite]; split <;> rfl
@[simp] theorem Chip.hostWrite_free (c : Chip) (fn a : Nat) (bs : List Byte) : (c.hostWrite fn a bs).free = c.free := by simp only [Chip.hostWrite]; split <;> rfl

@[simp] theorem Chip.complete_clocks (c : Chip) (t : Ticket) (st : Status) (r : Nat) (m : Bool) (i g : Option Nat) : (c.complete t st r m i g).clocks = c.clocks := rfl
@[simp] theorem Chip.complete_regs (c : Chip) (t : Ticket) (st : Status) (r : Nat) (m : Bool) (i g : Option Nat) : (c.complete t st r m i g).regs = c.regs := rfl
@[simp] theorem Chip.complete_latch (c : Chip) (t : Ticket) (st : Status) (r : Nat) (m : Bool) (i g : Option Nat) : (c.complete t st r m i g).latch = c.latch := rfl
@[simp] theorem Chip.complete_mem (c : Chip) (t : Ticket) (st : Status) (r : Nat) (m : Bool) (i g : Option Nat) : (c.complete t st r m i g).mem = c.mem := rfl
@[simp] theorem Chip.complete_ce (c : Chip) (t : Ticket) (st : Status) (r : Nat) (m : Bool) (i g : Option Nat) : (c.complete t st r m i g).ce = c.ce := rfl
@[simp] theorem Chip.complete_ue (c : Chip) (t : Ticket) (st : Status) (r : Nat) (m : Bool) (i g : Option Nat) : (c.complete t st r m i g).ue = c.ue := rfl
@[simp] theorem Chip.complete_damaged (c : Chip) (t : Ticket) (st : Status) (r : Nat) (m : Bool) (i g : Option Nat) : (c.complete t st r m i g).damaged = c.damaged := rfl
@[simp] theorem Chip.complete_blockBad (c : Chip) (t : Ticket) (st : Status) (r : Nat) (m : Bool) (i g : Option Nat) : (c.complete t st r m i g).blockBad = c.blockBad := rfl
@[simp] theorem Chip.complete_host (c : Chip) (t : Ticket) (st : Status) (r : Nat) (m : Bool) (i g : Option Nat) : (c.complete t st r m i g).host = c.host := rfl
@[simp] theorem Chip.complete_hostUp (c : Chip) (t : Ticket) (st : Status) (r : Nat) (m : Bool) (i g : Option Nat) : (c.complete t st r m i g).hostUp = c.hostUp := rfl
@[simp] theorem Chip.complete_numVfs (c : Chip) (t : Ticket) (st : Status) (r : Nat) (m : Bool) (i g : Option Nat) : (c.complete t st r m i g).numVfs = c.numVfs := rfl
@[simp] theorem Chip.complete_served (c : Chip) (t : Ticket) (st : Status) (r : Nat) (m : Bool) (i g : Option Nat) : (c.complete t st r m i g).served = c.served := rfl
@[simp] theorem Chip.complete_units (c : Chip) (t : Ticket) (st : Status) (r : Nat) (m : Bool) (i g : Option Nat) : (c.complete t st r m i g).units = c.units := rfl
@[simp] theorem Chip.complete_parts (c : Chip) (t : Ticket) (st : Status) (r : Nat) (m : Bool) (i g : Option Nat) : (c.complete t st r m i g).parts = c.parts := rfl
@[simp] theorem Chip.complete_cores (c : Chip) (t : Ticket) (st : Status) (r : Nat) (m : Bool) (i g : Option Nat) : (c.complete t st r m i g).cores = c.cores := rfl
@[simp] theorem Chip.complete_groups (c : Chip) (t : Ticket) (st : Status) (r : Nat) (m : Bool) (i g : Option Nat) : (c.complete t st r m i g).groups = c.groups := rfl
@[simp] theorem Chip.complete_banks (c : Chip) (t : Ticket) (st : Status) (r : Nat) (m : Bool) (i g : Option Nat) : (c.complete t st r m i g).banks = c.banks := rfl
@[simp] theorem Chip.complete_engines (c : Chip) (t : Ticket) (st : Status) (r : Nat) (m : Bool) (i g : Option Nat) : (c.complete t st r m i g).engines = c.engines := rfl
@[simp] theorem Chip.complete_convFailed (c : Chip) (t : Ticket) (st : Status) (r : Nat) (m : Bool) (i g : Option Nat) : (c.complete t st r m i g).convFailed = c.convFailed := rfl
@[simp] theorem Chip.complete_streamDown (c : Chip) (t : Ticket) (st : Status) (r : Nat) (m : Bool) (i g : Option Nat) : (c.complete t st r m i g).streamDown = c.streamDown := rfl
@[simp] theorem Chip.complete_refreshTurn (c : Chip) (t : Ticket) (st : Status) (r : Nat) (m : Bool) (i g : Option Nat) : (c.complete t st r m i g).refreshTurn = c.refreshTurn := rfl
@[simp] theorem Chip.complete_calWait (c : Chip) (t : Ticket) (st : Status) (r : Nat) (m : Bool) (i g : Option Nat) : (c.complete t st r m i g).calWait = c.calWait := rfl
@[simp] theorem Chip.complete_unownedTest (c : Chip) (t : Ticket) (st : Status) (r : Nat) (m : Bool) (i g : Option Nat) : (c.complete t st r m i g).unownedTest = c.unownedTest := rfl
@[simp] theorem Chip.complete_telem (c : Chip) (t : Ticket) (st : Status) (r : Nat) (m : Bool) (i g : Option Nat) : (c.complete t st r m i g).telem = c.telem := rfl
@[simp] theorem Chip.complete_chans (c : Chip) (t : Ticket) (st : Status) (r : Nat) (m : Bool) (i g : Option Nat) : (c.complete t st r m i g).chans = c.chans := rfl
@[simp] theorem Chip.complete_scanChans (c : Chip) (t : Ticket) (st : Status) (r : Nat) (m : Bool) (i g : Option Nat) : (c.complete t st r m i g).scanChans = c.scanChans := rfl
@[simp] theorem Chip.complete_scanTemps (c : Chip) (t : Ticket) (st : Status) (r : Nat) (m : Bool) (i g : Option Nat) : (c.complete t st r m i g).scanTemps = c.scanTemps := rfl
@[simp] theorem Chip.complete_sensors (c : Chip) (t : Ticket) (st : Status) (r : Nat) (m : Bool) (i g : Option Nat) : (c.complete t st r m i g).sensors = c.sensors := rfl
@[simp] theorem Chip.complete_vbgh (c : Chip) (t : Ticket) (st : Status) (r : Nat) (m : Bool) (i g : Option Nat) : (c.complete t st r m i g).vbgh = c.vbgh := rfl
@[simp] theorem Chip.complete_dividers (c : Chip) (t : Ticket) (st : Status) (r : Nat) (m : Bool) (i g : Option Nat) : (c.complete t st r m i g).dividers = c.dividers := rfl
@[simp] theorem Chip.complete_sense (c : Chip) (t : Ticket) (st : Status) (r : Nat) (m : Bool) (i g : Option Nat) : (c.complete t st r m i g).sense = c.sense := rfl
@[simp] theorem Chip.complete_senseZero (c : Chip) (t : Ticket) (st : Status) (r : Nat) (m : Bool) (i g : Option Nat) : (c.complete t st r m i g).senseZero = c.senseZero := rfl
@[simp] theorem Chip.complete_capture (c : Chip) (t : Ticket) (st : Status) (r : Nat) (m : Bool) (i g : Option Nat) : (c.complete t st r m i g).capture = c.capture := rfl
@[simp] theorem Chip.complete_therm (c : Chip) (t : Ticket) (st : Status) (r : Nat) (m : Bool) (i g : Option Nat) : (c.complete t st r m i g).therm = c.therm := rfl
@[simp] theorem Chip.complete_power (c : Chip) (t : Ticket) (st : Status) (r : Nat) (m : Bool) (i g : Option Nat) : (c.complete t st r m i g).power = c.power := rfl
@[simp] theorem Chip.complete_fab (c : Chip) (t : Ticket) (st : Status) (r : Nat) (m : Bool) (i g : Option Nat) : (c.complete t st r m i g).fab = c.fab := rfl
@[simp] theorem Chip.complete_vics (c : Chip) (t : Ticket) (st : Status) (r : Nat) (m : Bool) (i g : Option Nat) : (c.complete t st r m i g).vics = c.vics := rfl
@[simp] theorem Chip.complete_mbxWindow (c : Chip) (t : Ticket) (st : Status) (r : Nat) (m : Bool) (i g : Option Nat) : (c.complete t st r m i g).mbxWindow = c.mbxWindow := rfl
@[simp] theorem Chip.complete_readData (c : Chip) (t : Ticket) (st : Status) (r : Nat) (m : Bool) (i g : Option Nat) : (c.complete t st r m i g).readData = c.readData := rfl
@[simp] theorem Chip.complete_settingsDue (c : Chip) (t : Ticket) (st : Status) (r : Nat) (m : Bool) (i g : Option Nat) : (c.complete t st r m i g).settingsDue = c.settingsDue := rfl
@[simp] theorem Chip.complete_scrub (c : Chip) (t : Ticket) (st : Status) (r : Nat) (m : Bool) (i g : Option Nat) : (c.complete t st r m i g).scrub = c.scrub := rfl
@[simp] theorem Chip.complete_free (c : Chip) (t : Ticket) (st : Status) (r : Nat) (m : Bool) (i g : Option Nat) : (c.complete t st r m i g).free = c.free := rfl

/-! Reads of stored pieces -/

theorem Chip.reg_setReg (c : Chip) (r q : Reg) (v : Word) : (c.setReg r v).reg q = if q = r then v else c.reg q := by
  simp only [Chip.reg, Chip.setReg_regs, Tbl.get_set]

@[simp] theorem Chip.reg_setReg_same (c : Chip) (r : Reg) (v : Word) : (c.setReg r v).reg r = v := by simp [Chip.reg_setReg]

theorem Chip.reg_setReg_other (c : Chip) (r q : Reg) (v : Word) (h : q ≠ r) : (c.setReg r v).reg q = c.reg q := by
  simp [Chip.reg_setReg, h]

/-- A register reads from the register table alone. -/
theorem Chip.reg_of_regs {c d : Chip} (h : c.regs = d.regs) (r : Reg) : c.reg r = d.reg r := by simp [Chip.reg, h]

@[simp] theorem Chip.part_setPart_same (c : Chip) (p : Nat) (x : Part) : (c.setPart p x).part p = some x := by simp [Chip.part]

theorem Chip.part_setPart_other (c : Chip) (p q : Nat) (x : Part) (h : q ≠ p) : (c.setPart p x).part q = c.part q := by
  simp [Chip.part, Tbl.find?_set_other p q x c.parts h]

theorem Chip.part_of_parts {c d : Chip} (h : c.parts = d.parts) (p : Nat) : c.part p = d.part p := by simp [Chip.part, h]

theorem Chip.updPart_eq {c : Chip} {p : Nat} {x : Part} (h : c.part p = some x) (f : Part → Part) : c.updPart p f = c.setPart p (f x) := by
  simp [Chip.updPart, h]

@[simp] theorem Chip.func_setFunc_same (c : Chip) (fn : Nat) (x : Func) : (c.setFunc fn x).func fn = x := by simp [Chip.func]

theorem Chip.func_setFunc_other (c : Chip) (fn g : Nat) (x : Func) (h : g ≠ fn) : (c.setFunc fn x).func g = c.func g := by
  simp [Chip.func, Tbl.get_set_other ({} : Func) fn g x c.funcs h]

@[simp] theorem Chip.func_updFunc_same (c : Chip) (fn : Nat) (f : Func → Func) : (c.updFunc fn f).func fn = f (c.func fn) := by
  simp [Chip.func]

theorem Chip.func_updFunc_other (c : Chip) (fn g : Nat) (f : Func → Func) (h : g ≠ fn) : (c.updFunc fn f).func g = c.func g := by
  simp [Chip.func, Tbl.get_set_other _ fn g _ c.funcs h]

theorem Chip.func_of_funcs {c d : Chip} (h : c.funcs = d.funcs) (fn : Nat) : c.func fn = d.func fn := by simp [Chip.func, h]

@[simp] theorem Chip.core_setCore_same (c : Chip) (n : Nat) (x : Core) : (c.setCore n x).core n = x := by simp [Chip.core]
@[simp] theorem Chip.group_setGroup_same (c : Chip) (e g : Nat) (x : Group) : (c.setGroup e g x).group e g = x := by simp [Chip.group]
@[simp] theorem Chip.bank_setBank_same (c : Chip) (a b : Nat) (x : Bank) : (c.setBank a b x).bank a b = x := by simp [Chip.bank]
@[simp] theorem Chip.engine_setEngine_same (c : Chip) (e : Nat) (x : Engine) : (c.setEngine e x).engine e = x := by simp [Chip.engine]

/-- The time reads from the clocks alone. -/
theorem Chip.now_of_clocks {c d : Chip} (h : c.clocks = d.clocks) : c.now = d.now := by simp [Chip.now, Chip.clock, h]

end Sys2Proof.Machine
end

