-- ==== Sys2Proof/Laws/Outcome.lean ====
section
/-! SUPPORT. What the shared outcomes of commands can be, and the shared starts of ops and of host commands. -/

namespace Sys2Proof.Machine

/-! Commands that change the data path only -/

theorem State.onChip_powered {s : State} (h : s.chip.powered = true) (f : Chip → Chip) : s.onChip f = .next { s with chip := f s.chip } := by
  simp [State.onChip, h]

theorem State.onChip_off {s : State} (h : s.chip.powered = false) (f : Chip → Chip) : s.onChip f = .next s := by
  simp [State.onChip, h]

theorem State.onPort_up {s : State} (h : s.chip.power.inReset = false) (f : Chip → Chip) :
    s.onPort f = .next { s with chip := f s.chip } := by
  simp [State.onPort, h]

theorem State.onPort_reset {s : State} (h : s.chip.power.inReset = true) (f : Chip → Chip) : s.onPort f = .next s := by
  simp [State.onPort, h]

theorem State.onDie_on {s : State} {d : Nat} (h1 : s.chip.power.inReset = false) (h2 : s.chip.power.clockLost = false)
    (h3 : s.chip.power.state ≠ .solstice ∨ d = 0) (f : State → State) : s.onDie d f = .next (f s) := by
  rcases h3 with h | h <;> simp [State.onDie, h1, h2, h]

/-- A powered part is out of reset, outside Solstice, with a Warden, a clock and firmware. -/
theorem Chip.powered_iff (c : Chip) : c.powered = true ↔ c.power.inReset = false ∧ c.power.state ≠ .solstice ∧
    c.power.noWarden = false ∧ c.power.clockLost = false ∧ c.power.recovery = false := by
  simp only [Chip.powered, Bool.and_eq_true, Bool.not_eq_true', decide_eq_true_eq, and_assoc]

/-! Mailbox commands (15 R523, R524) -/

theorem State.mailbox_served {s : State} {req : MbxReq} {code : Nat} {inRec : Bool} (f : State → State) (h1 : s.wardenServes = true)
    (h2 : fromProcessor req = false) (h3 : s.chip.power.recovery = false ∨ inRec = true) :
    s.mailbox req code inRec f = .next (f (s.taken code req)) := by
  have h4 : (s.chip.wake 2).power.recovery = s.chip.power.recovery := by simp only [Chip.wake]; split <;> rfl
  rcases h3 with h | h
  · simp [State.mailbox, h1, h2, State.taken, State.logCommand, h4, h]
  · simp [State.mailbox, h1, h2, State.taken, State.logCommand, h]

/-- A command that the Warden turns away by its source is answered DENIED. -/
theorem State.mailbox_denied {s : State} {req : MbxReq} {code : Nat} {inRec : Bool} (f : State → State) (h1 : s.wardenServes = true)
    (h2 : fromProcessor req = true) : s.mailbox req code inRec f = .next ((s.taken code req).answer req .denied) := by
  simp [State.mailbox, h1, h2, State.taken, State.logCommand]

/-- While the Warden does not serve, a mailbox event changes nothing. -/
theorem State.mailbox_waits {s : State} {req : MbxReq} {code : Nat} {inRec : Bool} (f : State → State) (h : s.wardenServes = false) :
    s.mailbox req code inRec f = .next s := by
  simp [State.mailbox, h]

/-! Running steps -/

theorem Chip.running_setStep {c : Chip} {p : Nat} {x : Part} (h : c.part p = some x) (st : StepCtx) :
    (c.setStep p st).running p = some ({ x with run := some st }, st) := by
  simp [Chip.setStep, Chip.updPart_eq h, Chip.running]

theorem Chip.part_of_running {c : Chip} {p : Nat} {x : Part} {st : StepCtx} (h : c.running p = some (x, st)) :
    c.part p = some x ∧ x.run = some st := by
  simp only [Chip.running] at h
  split at h
  · rename_i y hy
    cases hr : y.run with
    | none => simp [hr] at h
    | some w => simp [hr] at h; obtain ⟨rfl, rfl⟩ := h; exact ⟨hy, hr⟩
  · cases h

theorem Chip.running_of_parts {c d : Chip} (h : c.parts = d.parts) (p : Nat) : c.running p = d.running p := by
  simp [Chip.running, Chip.part_of_parts h]

/-- Checking what an op reads touches no partition where it passes. -/
theorem Chip.readCheck_parts {c : Chip} {p : Nat} {parity : Bool} {rs : List (Nat × Nat)} (h : (c.readCheck p parity rs).2 = true) :
    (c.readCheck p parity rs).1.parts = c.parts := by
  simp only [Chip.readCheck] at h ⊢
  split at h
  · cases h
  · split at h
    · cases h
    · rename_i h1 h2
      rw [if_neg h1, if_neg h2]
      simp only [Chip.correct]; split <;> rfl

@[simp] theorem worst_nil : worst [] = none := rfl

theorem worst_nil_iff (l : List Status) : worst l = none ↔ l = [] := by
  cases l with
  | nil => simp [worst]
  | cons a t =>
    simp only [worst, reduceCtorEq, iff_false]
    cases worst t with
    | none => simp
    | some u => simp only; split <;> simp

theorem Chip.correct_mem (c : Chip) (p : Nat) (rs : List (Nat × Nat)) : (c.correct p rs).mem = c.mem := by
  simp only [Chip.correct]; split <;> rfl

theorem Chip.correct_blockBad (c : Chip) (p : Nat) (rs : List (Nat × Nat)) : (c.correct p rs).blockBad = c.blockBad := by
  simp only [Chip.correct]; split <;> rfl

/-- What an op reads passes its checks: corrected words are counted, and nothing else happens. -/
theorem Chip.readCheck_eq {c : Chip} {p : Nat} {parity : Bool} {rs : List (Nat × Nat)} (h : (c.readCheck p parity rs).2 = true) :
    c.readCheck p parity rs = (c.correct p rs, true) := by
  simp only [Chip.readCheck] at h ⊢
  split at h
  · cases h
  · split at h
    · cases h
    · rename_i h1 h2; rw [if_neg h1, if_neg h2]

/-- An op that has left its queue has changed no byte of memory. -/
theorem Chip.afterIssue_mem {c : Chip} {p : Nat} {q : Queue} {n : Nat} {x : Part} {st : StepCtx} {o : Op} {rest : List Op}
    (h : c.Issues p q n x st o rest) : (c.afterIssue p q x st o rest).mem = c.mem := by
  simp only [Chip.afterIssue, Chip.readCheck_eq h.healthy]
  split <;> simp [Chip.almAccepted, Chip.correct_mem]

theorem Chip.afterIssue_blockBad {c : Chip} {p : Nat} {q : Queue} {n : Nat} {x : Part} {st : StepCtx} {o : Op} {rest : List Op}
    (h : c.Issues p q n x st o rest) : (c.afterIssue p q x st o rest).blockBad = c.blockBad := by
  simp only [Chip.afterIssue, Chip.readCheck_eq h.healthy]
  split <;> simp [Chip.almAccepted, Chip.correct_blockBad]

/-- The running step of a partition after an op has left its queue. -/
theorem Chip.afterIssue_running {c : Chip} {p : Nat} {q : Queue} {n : Nat} {x : Part} {st : StepCtx} {o : Op} {rest : List Op}
    (h : c.Issues p q n x st o rest) :
    ∃ y, (c.afterIssue p q x st o rest).running p = some (y, st.left q rest) ∧ y.run = some (st.left q rest) ∧
      y = { x with run := some (st.left q rest), almClasses := y.almClasses } := by
  have hp := (Chip.part_of_running h.running).1
  have hq : (c.readCheck p st.parity (c.opUses p x st o)).1.part p = some x := by
    rw [Chip.part_of_parts (Chip.readCheck_parts h.healthy)]; exact hp
  simp only [Chip.afterIssue]
  cases (planOf c p x st o).alm with
  | none => exact ⟨_, Chip.running_setStep hq _, rfl, rfl⟩
  | some a =>
    have h1 := (Chip.part_of_running (Chip.running_setStep hq (st.left q rest))).1
    have h2 : (((c.readCheck p st.parity (c.opUses p x st o)).1.setStep p (st.left q rest)).setReg (rg .almLast p)
        (BitVec.ofNat 32 (((c.readCheck p st.parity (c.opUses p x st o)).1.setStep p (st.left q rest)).le a.1 4 +
          8192 * ((c.readCheck p st.parity (c.opUses p x st o)).1.setStep p (st.left q rest)).le (a.1 + 4) 4))).part p =
        some { x with run := some (st.left q rest) } := h1
    simp only [Chip.almAccepted, Chip.updPart_eq h2]
    exact ⟨_, by simp only [Chip.running, Chip.part_setPart_same]; rfl, rfl, rfl⟩

/-- An op that issues runs on the part in which it has left its queue. -/
theorem Chip.issue_eq {c : Chip} {p : Nat} {q : Queue} {n : Nat} {x : Part} {st : StepCtx} {o : Op} {rest : List Op}
    (h : c.Issues p q n x st o rest) (run : Chip → Part → StepCtx → Op → Chip) :
    ∃ y, (c.afterIssue p q x st o rest).running p = some (y, st.left q rest) ∧
      y = { x with run := some (st.left q rest), almClasses := y.almClasses } ∧
      c.issue p q n run = run (c.afterIssue p q x st o rest) y (st.left q rest) o := by
  obtain ⟨y, h1, _, h3⟩ := Chip.afterIssue_running h
  refine ⟨y, h1, h3, ?_⟩
  have hp := (Chip.part_of_running h.running).1
  have hk : (if q = .attention then c.kvEnsure p else c) = c := by
    split
    · rename_i hq; simp [Chip.kvEnsure, hp, h.initialised hq]
    · rfl
  have hw1 : worst (planOf c p x st o).errs = none := (worst_nil_iff _).2 h.rules
  obtain ⟨hc1, hc2⟩ := List.append_eq_nil_iff.1 h.contents
  have hcalm : ((planOf c p x st o).alm.isSome && blocked c p x st o.idx (planOf c p x st o).almReads []) = false := by
    cases ha : (planOf c p x st o).alm.isSome with
    | false => rfl
    | true => simpa using h.almanacFree ha
  have hf := h.free
  have hh := h.healthy
  simp only [Chip.opReads] at hf
  simp only [Chip.opUses] at hh
  unfold Chip.issue
  simp only [h.running, h.head, h.names, hk, hp, hw1, hcalm, hc1, hc2, hf, hh, h.edits, ne_eq, not_true_eq_false, if_false, if_true,
    List.append_nil, worst_nil, Bool.not_true, Bool.not_false, Bool.and_self, Bool.false_eq_true, Bool.or_false]
  simp only [Chip.afterIssue, Chip.opUses, StepCtx.left] at h1 ⊢
  cases hal : (planOf c p x st o).alm with
  | none => simp only [hal] at h1 ⊢; simp only [h1]
  | some a => simp only [hal] at h1 ⊢; simp only [h1]

/-! Programs: what a step program reads as depends on memory, the host's memory and the partition's units -/

theorem Part.phys_of {x y : Part} (hu : y.units = x.units) (p o : Nat) : y.phys p o = x.phys p o := by
  unfold Part.phys Part.coreCount Part.clusterCount
  rw [hu]

theorem Part.range_of {x y : Part} (hu : y.units = x.units) (p o n : Nat) : y.range p o n = x.range p o n := by
  unfold Part.range Part.phys Part.coreCount Part.clusterCount
  rw [hu]

theorem Part.select_of {x y : Part} (he : y.epochs = x.epochs) (sel : Nat) : y.select sel = x.select sel := by
  unfold Part.select Part.epochIn Part.epochNo
  rw [he]

theorem Chip.progRead_of {c d : Chip} {x y : Part} (hm : d.mem = c.mem) (hh : d.host = c.host) (hu : y.units = x.units)
    (p : Nat) (q : StepReq) (o n : Nat) : d.progRead p y q o n = c.progRead p x q o n := by
  simp only [Chip.progRead, Chip.hostRead, Chip.read, Part.range_of hu, hm, hh]

theorem Chip.progOps_of {c d : Chip} {x y : Part} (hm : d.mem = c.mem) (hh : d.host = c.host) (hu : y.units = x.units)
    (p : Nat) (q : StepReq) : d.progOps p y q = c.progOps p x q := by
  simp only [Chip.progOps, Chip.progRead_of hm hh hu]

theorem Chip.progCheck_of {c d : Chip} {x y : Part} (hm : d.mem = c.mem) (hh : d.host = c.host) (hu : y.units = x.units)
    (he : y.epochs = x.epochs) (p : Nat) (q : StepReq) : d.progCheck p y q = c.progCheck p x q := by
  simp only [Chip.progCheck, Chip.commitLast, Chip.progRead_of hm hh hu, progPlace, Part.range_of hu, Part.phys_of hu, Part.select_of he]

/-- A read that passes its checks changes the marks of corrected words and their counter alone. -/
theorem Chip.readCheck_frame {c : Chip} {p : Nat} {parity : Bool} {rs : List (Nat × Nat)} (h : (c.readCheck p parity rs).2 = true) :
    ∃ ce regs, (c.readCheck p parity rs).1 = { c with ce := ce, regs := regs } := by
  rw [Chip.readCheck_eq h]
  simp only [Chip.correct]
  split
  · exact ⟨c.ce, c.regs, rfl⟩
  · exact ⟨_, _, rfl⟩

theorem Chip.progWords_frame {c : Chip} {p : Nat} {x : Part} {q : StepReq} {rs : List (Nat × Nat)} (h : (c.progWords p x q rs).2 = true) :
    ∃ ce regs, (c.progWords p x q rs).1 = { c with ce := ce, regs := regs } := by
  simp only [Chip.progWords] at h ⊢
  split at h
  · rename_i h1; rw [if_pos h1]; exact ⟨c.ce, c.regs, rfl⟩
  · rename_i h1; rw [if_neg h1]; exact Chip.readCheck_frame h

/-! Host commands -/

/-- A command that starts runs on the part in which it has left the list of accepted ones. -/
theorem Chip.start_eq {c : Chip} {fn n : Nat} {pick : Cmd → Bool} {p : Nat} {x : Part} {k : Cmd} {rest : List Cmd}
    (h : c.Starts fn n pick p x k rest) (f : Chip → Nat → Part → Ticket → Cmd → Chip) :
    c.start fn n pick f = f (c.afterStart fn rest) p x (k.ticket fn (c.func fn).era) k := by
  have h1 : (k.readsHost && !c.busMaster fn) = false := by
    cases hk : k.readsHost with
    | false => rfl
    | true => simp [h.reads hk]
  have h2 : (c.updFunc fn (fun x => { x with accepted := rest })).partOf fn = some p := by
    have : (c.updFunc fn (fun x => { x with accepted := rest })).partOf fn = c.partOf fn := rfl
    rw [this, h.owner]
  have h3 : (c.updFunc fn (fun x => { x with accepted := rest })).part p = some x := by simpa [Chip.part] using h.part
  have h4 : ¬(k.opcode = 0x21 ∧ x.serving = none) := fun ⟨ho, hs⟩ => by have := h.served ho; simp [hs] at this
  simp [Chip.start, h.oldest, h1, h.record, h2, h3, h4, Chip.afterStart]

/-- The completion that a ticket gets joins the list of its function. -/
theorem Chip.complete_waiting {c : Chip} {t : Ticket} (h : (c.func t.fn).era = t.era) (st : Status) (r : Nat) (m : Bool) :
    ((c.complete t st r m).func t.fn).waiting = (c.func t.fn).waiting ++ [c.entryFor t st r m] := by
  simp [Chip.complete, h, Chip.entryFor]

end Sys2Proof.Machine
end

