-- ==== Sys2Proof/Laws/Boundary.lean ====
section
/-! SUPPORT. What a step boundary, and the end of a step without commit, can change. -/

namespace Sys2Proof.Machine

/-- One part follows another with the same registers but the counter of inserted tests, groups, running steps and cores, and with
completions only added. -/
structure Chip.Keeps (c d : Chip) : Prop where
  regs : ∀ r : Reg, r.name ≠ .safeEvtIftInsert → d.reg r = c.reg r
  groups : d.groups = c.groups
  cores : d.cores = c.cores
  power : d.power = c.power
  runs : ∀ q, (d.part q).map Part.run = (c.part q).map Part.run
  adds : ∀ fn, (c.func fn).waiting <+: (d.func fn).waiting
  eras : ∀ fn, (d.func fn).era = (c.func fn).era

theorem Chip.Keeps.refl (c : Chip) : c.Keeps c :=
  ⟨fun _ _ => rfl, rfl, rfl, rfl, fun _ => rfl, fun _ => List.prefix_refl _, fun _ => rfl⟩

theorem Chip.Keeps.trans {c d e : Chip} (h : c.Keeps d) (k : d.Keeps e) : c.Keeps e :=
  ⟨fun r hr => (k.regs r hr).trans (h.regs r hr), k.groups.trans h.groups, k.cores.trans h.cores, k.power.trans h.power, fun q => (k.runs q).trans (h.runs q),
    fun fn => (h.adds fn).trans (k.adds fn), fun fn => (k.eras fn).trans (h.eras fn)⟩

theorem Chip.Keeps.foldl {α : Type} (l : List α) (f : Chip → α → Chip) (h : ∀ (c : Chip) (a : α), c.Keeps (f c a)) (c : Chip) :
    c.Keeps (l.foldl f c) := by
  induction l generalizing c with
  | nil => exact .refl c
  | cons a t ih => exact (h c a).trans (ih _)

theorem Chip.Keeps.foldN {n : Nat} (f : Chip → Nat → Chip) (h : ∀ (c : Chip) (a : Nat), c.Keeps (f c a)) (c : Chip) : c.Keeps (foldN n f c) :=
  .foldl _ f h c

/-- A part that differs only outside what is kept. -/
theorem Chip.Keeps.of_eq {c d : Chip} (h1 : d.regs = c.regs) (h2 : d.groups = c.groups) (h3 : d.cores = c.cores)
    (h6 : d.power = c.power) (h4 : d.parts = c.parts) (h5 : d.funcs = c.funcs) : c.Keeps d :=
  ⟨fun r _ => Chip.reg_of_regs h1 r, h2, h3, h6, fun q => by rw [Chip.part_of_parts h4], fun fn => by simp [Chip.func_of_funcs h5],
    fun fn => by rw [Chip.func_of_funcs h5]⟩

/-- A change to a partition that leaves its running step. -/
theorem Chip.Keeps.setPart {c : Chip} {p : Nat} {x y : Part} (h : c.part p = some x) (hr : y.run = x.run) : c.Keeps (c.setPart p y) := by
  refine ⟨fun _ _ => rfl, rfl, rfl, rfl, fun q => ?_, fun fn => List.prefix_refl _, fun _ => rfl⟩
  by_cases hq : q = p
  · subst hq; simp [h, hr]
  · rw [Chip.part_setPart_other _ _ _ _ hq]

theorem Chip.Keeps.updPart (c : Chip) (p : Nat) (f : Part → Part) (hr : ∀ x, (f x).run = x.run) : c.Keeps (c.updPart p f) := by
  simp only [Chip.updPart]
  split
  · rename_i x hx; exact .setPart hx (hr x)
  · exact .refl c

theorem Chip.func_complete (c : Chip) (t : Ticket) (st : Status) (r : Nat) (m : Bool) (i g : Option Nat) (fn : Nat) :
    (c.func fn).waiting <+: ((c.complete t st r m i g).func fn).waiting ∧ ((c.complete t st r m i g).func fn).era = (c.func fn).era := by
  simp only [Chip.complete, Chip.updFunc, Chip.setFunc, Chip.func, Tbl.get_set]
  by_cases h : fn = t.fn
  · subst h
    by_cases h2 : (Tbl.get ({} : Func) t.fn c.funcs).era = t.era
    · simp only [if_true, h2]; exact ⟨List.prefix_append _ _, trivial⟩
    · simp only [if_true, h2, if_false]; exact ⟨List.prefix_refl _, trivial⟩
  · simp only [h, if_false]; exact ⟨List.prefix_refl _, trivial⟩

theorem Chip.Keeps.complete (c : Chip) (t : Ticket) (st : Status) (r : Nat) (m : Bool) (i g : Option Nat) :
    c.Keeps (c.complete t st r m i g) :=
  ⟨fun r _ => Chip.reg_of_regs (by simp) r, by simp, by simp, by simp, fun _ => by rw [Chip.part_of_parts (Chip.complete_parts ..)],
    fun fn => (Chip.func_complete c t st r m i g fn).1, fun fn => (Chip.func_complete c t st r m i g fn).2⟩

theorem Chip.Keeps.roundStep (c : Chip) (p e : Nat) : c.Keeps (c.roundStep p e) :=
  .updPart c p _ (fun x => by dsimp only; repeat' split <;> try rfl)

theorem Chip.Keeps.setBanks (g : Chip → Nat × Nat → Bank) (l : List (Nat × Nat)) (c : Chip) :
    c.Keeps (l.foldl (fun c k => c.setBank k.1 k.2 (g c k)) c) :=
  .foldl l (fun c k => c.setBank k.1 k.2 (g c k)) (fun _ _ => .of_eq rfl rfl rfl rfl rfl rfl) c

/-- A check of a partition whose outcome changes no running step. -/
theorem Chip.Keeps.endRecovery (c : Chip) (p : Nat) : c.Keeps (c.endRecovery p) := by
  simp only [Chip.endRecovery]
  split
  · exact .refl c
  · rename_i x hx; split <;> first | exact .setPart hx rfl | exact .refl c

theorem Chip.Keeps.noteMends (c : Chip) (p : Nat) : c.Keeps (c.noteMends p) := by
  simp only [Chip.noteMends]
  split
  · exact .refl c
  · rename_i x hx; split <;> first | exact .setPart hx rfl | exact .refl c

theorem Chip.Keeps.takeSafeCfg (c : Chip) (p : Nat) : c.Keeps (c.takeSafeCfg p) := .updPart c p _ (fun _ => rfl)

theorem Chip.Keeps.accordInForce (c : Chip) (e : Nat) : c.Keeps (c.accordInForce e) := by
  simp only [Chip.accordInForce]
  split
  · exact .refl c
  · split
    · exact .trans (.trans (.trans (Chip.Keeps.of_eq (d := c.setEngine e _) rfl rfl rfl rfl rfl rfl) (.setBanks _ _ _)) (.roundStep _ _ _))
        (.endRecovery _ _)
    · exact .trans (Chip.Keeps.of_eq (d := c.setEngine e _) rfl rfl rfl rfl rfl rfl) (.setBanks _ _ _)

theorem Chip.Keeps.resetMonitors (c : Chip) (p : Nat) (x : Part) : c.Keeps (c.resetMonitors p x) := by
  simp only [Chip.resetMonitors]
  apply Chip.Keeps.foldN; intro c i
  apply Chip.Keeps.foldN; intro c l
  exact .of_eq rfl rfl rfl rfl rfl rfl

/-- Taking back a firmware step leaves the running one. -/
theorem Part.unbuild_run (x : Part) : x.unbuild.run = x.run := by simp only [Part.unbuild]; split <;> rfl

theorem Chip.Keeps.switchEpoch (c : Chip) (p : Nat) : c.Keeps (c.switchEpoch p) := by
  simp only [Chip.switchEpoch]
  split
  · exact .refl c
  · rename_i x hx
    split
    · exact .refl c
    · exact .trans (.trans (Chip.Keeps.setPart (y := _) hx (by exact x.unbuild_run)) (.resetMonitors _ p _))
        (.foldl _ (fun c t => c.complete t .ok) (fun c t => .complete c t .ok 0 false none none) _)

theorem Chip.Keeps.retire (c : Chip) (p : Nat) : c.Keeps (c.retire p) := by
  simp only [Chip.retire]
  split
  · exact .refl c
  · rename_i x hx
    split
    · exact .refl c
    · split
      · exact .refl c
      · exact .setPart hx rfl

/-- A count of inserted tests touches no other register. -/
theorem Chip.Keeps.countInsert (c : Chip) (p : Nat) : c.Keeps (c.count (rg .safeEvtIftInsert p)) :=
  ⟨fun r hr => by rw [Chip.count, Chip.reg_setReg_other _ _ _ _ (by rintro rfl; exact hr rfl)], rfl, rfl, rfl, fun _ => rfl,
    fun _ => List.prefix_refl _, fun _ => rfl⟩

theorem Chip.Keeps.iftBoundary (c : Chip) (p : Nat) : c.Keeps (c.iftBoundary p) := by
  simp only [Chip.iftBoundary]
  split
  · exact .refl c
  · rename_i x hx
    split
    · exact .refl c
    · split
      · exact .setPart hx rfl
      · split
        · exact .setPart hx rfl
        · exact .trans (d := c.setPart p { x with iftRun := true }) (.setPart hx rfl) (.countInsert _ p)

/-- A step boundary writes no register but the count of inserted tests, no group, core or running step, and takes back no completion. -/
theorem Chip.boundary_keeps (c : Chip) (p : Nat) : c.Keeps (c.boundary p) := by
  simp only [Chip.boundary]
  split
  · exact .refl c
  · rename_i x hx
    have h1 : c.Keeps ((((c.readyEngines p x).foldl Chip.accordInForce c).noteMends p).banksAtBoundary p x) :=
      .trans (.trans (.foldl _ Chip.accordInForce Chip.Keeps.accordInForce c) (.noteMends _ p)) (.of_eq rfl rfl rfl rfl rfl rfl)
    exact .trans (.trans h1 (.trans (.switchEpoch _ p) (.retire _ p)))
      (.trans (.trans (.trans (.endRecovery _ p) (.takeSafeCfg _ p)) (.iftBoundary _ p)) (.updPart _ p _ (fun x => rfl)))

/-! The end of a step without commit -/

/-- One part follows another with the same registers, groups, partitions, functions and power. -/
structure Chip.SameSide (c d : Chip) : Prop where
  regs : d.regs = c.regs
  groups : d.groups = c.groups
  parts : d.parts = c.parts
  funcs : d.funcs = c.funcs
  power : d.power = c.power
  clocks : d.clocks = c.clocks

theorem Chip.SameSide.refl (c : Chip) : c.SameSide c := ⟨rfl, rfl, rfl, rfl, rfl, rfl⟩
theorem Chip.SameSide.trans {c d e : Chip} (h : c.SameSide d) (k : d.SameSide e) : c.SameSide e :=
  ⟨k.1.trans h.1, k.2.trans h.2, k.3.trans h.3, k.4.trans h.4, k.5.trans h.5, k.6.trans h.6⟩
theorem Chip.SameSide.foldl {α : Type} (l : List α) (f : Chip → α → Chip) (h : ∀ (c : Chip) (a : α), c.SameSide (f c a)) (c : Chip) :
    c.SameSide (l.foldl f c) := by
  induction l generalizing c with
  | nil => exact .refl c
  | cons a t ih => exact (h c a).trans (ih _)

theorem Chip.write_same (c : Chip) (a : Nat) (bs : List Byte) : c.SameSide (c.write a bs) := ⟨rfl, rfl, rfl, rfl, rfl, rfl⟩

theorem Chip.setEntry_same (c : Chip) (p : Nat) (x : Part) (q i v : Nat) : c.SameSide (c.setEntry p x q i v) := by
  unfold Chip.setEntry
  cases c.entryAt p x q i with
  | none => exact .refl c
  | some a => exact Chip.write_same c a _

theorem Chip.setPageState_same (c : Chip) (p : Nat) (x : Part) (n v : Nat) : c.SameSide (c.setPageState p x n v) := by
  unfold Chip.setPageState
  by_cases h : n < c.kvPages p
  · rw [if_pos h]; exact Chip.write_same c _ _
  · rw [if_neg h]; exact .refl c

theorem Chip.setSlotState_same (c : Chip) (p : Nat) (x : Part) (n v : Nat) : c.SameSide (c.setSlotState p x n v) := by
  simp only [Chip.setSlotState]
  split
  · exact Chip.write_same ..
  · exact .refl c

theorem Chip.setSeq_same (c : Chip) (p : Nat) (x : Part) (q off n v : Nat) : c.SameSide (c.setSeq p x q off n v) := Chip.write_same ..

theorem Chip.freePage_same (c : Chip) (p : Nat) (x : Part) (q n : Nat) : c.SameSide (c.freePage p x q n) := by
  unfold Chip.freePage; generalize emptyEntry = v; exact .trans (Chip.setPageState_same ..) (Chip.setSeq_same ..)

theorem Chip.freeSlot_same (c : Chip) (p : Nat) (x : Part) (q n : Nat) : c.SameSide (c.freeSlot p x q n) := by
  unfold Chip.freeSlot; generalize emptyEntry = v; exact .trans (Chip.setSlotState_same ..) (Chip.setSeq_same ..)

theorem Chip.dropEntry_same (c : Chip) (p : Nat) (x : Part) (q i : Nat) : c.SameSide (c.dropEntry p x q i) := by
  simp only [Chip.dropEntry]
  split
  · exact .refl c
  · split
    · exact .trans (Chip.freePage_same ..) (Chip.setEntry_same ..)
    · exact .trans (Chip.freeSlot_same ..) (Chip.setEntry_same ..)

/-- Undoing a step's cache changes touches memory only. -/
theorem Chip.kvUndo_same (c : Chip) (p : Nat) (x : Part) (us : List SeqUse) : c.SameSide (c.kvUndo p x us) := by
  simp only [Chip.kvUndo]
  apply Chip.SameSide.foldl; intro c u
  simp only [Chip.unpin, Chip.setSeq]
  exact .trans (.foldl _ (fun c i => c.dropEntry p x u.seq i) (fun c i => c.dropEntry_same p x u.seq i) c) (Chip.write_same ..)

/-- Spoiling ranges touches memory only. -/
theorem Chip.spoil_same (c : Chip) (rs : List (Nat × Nat)) : c.SameSide (c.spoil rs) :=
  .foldl rs (fun c r => ({ c with free := c.free + 1 } : Chip).write r.1
      ((List.range (r.2 - r.1)).map (fun i => Config.staleByte c.free (r.1 + i)))) (fun _ _ => ⟨rfl, rfl, rfl, rfl, rfl, rfl⟩) c

theorem Tbl.find?_filter_none {κ ν : Type} [DecidableEq κ] (f : κ → Bool) (k : κ) (t : Tbl κ ν) (h : f k = false) :
    Tbl.find? k (t.filter (fun e => f e.1)) = none := by
  induction t with
  | nil => rfl
  | cons a t ih =>
    simp only [List.filter_cons]
    split
    · rename_i ha
      have : a.1 ≠ k := by rintro rfl; simp [h] at ha
      simp only [Tbl.find?, this, if_false]; exact ih
    · exact ih

/-- A step ends without commit: nothing runs on the partition, LAST_FAIL and STATUS.ABORTED tell why and where, its groups are free,
and its command's completion, if it has one, is generated. -/
theorem Chip.endStep_facts {c : Chip} {p : Nat} {x : Part} {st : StepCtx} (h : c.running p = some (x, st)) (status : Status) (idx : Nat) :
    (c.endStep p status idx).running p = none ∧
    (c.endStep p status idx).reg (rg .seqLastFail p) = BitVec.ofNat 32 (status.code * 65536 + idx % 65536) ∧
    (c.endStep p status idx).reg (rg .seqStatus p) = c.reg (rg .seqStatus p) ||| 2 ∧
    (∀ r, r ≠ rg .seqLastFail p → r ≠ rg .seqStatus p → r ≠ rg .seqEvtAbort p → r.name ≠ .safeEvtIftInsert →
      (c.endStep p status idx).reg r = c.reg r) ∧
    (∀ e g, firstEngine p ≤ e → e < firstEngine p + 512 * x.units → (c.endStep p status idx).group e g = {}) ∧
    (∀ t, st.req.ticket = some t → (c.func t.fn).era = t.era → ∃ k ∈ ((c.endStep p status idx).func t.fn).waiting,
      k.cmdId = t.cmdId ∧ k.opIndex = some idx ∧ k.tag = st.tag ∧ (status ≠ .ok → k.status = status) ∧ k.time = c.now) := by
  obtain ⟨hp, hr⟩ := Chip.part_of_running h
  have hu := (c.kvUndo_same p x st.uses).trans (Chip.spoil_same _ (st.issued.flatMap Issued.writes))
  have hset : ∀ d : Chip, ((d.noteFail p status idx).reg (rg .seqLastFail p) = BitVec.ofNat 32 (status.code * 65536 + idx % 65536)) ∧
      ((d.noteFail p status idx).reg (rg .seqStatus p) = d.reg (rg .seqStatus p) ||| 2) ∧
      (∀ r, r ≠ rg .seqLastFail p → r ≠ rg .seqStatus p → r ≠ rg .seqEvtAbort p → (d.noteFail p status idx).reg r = d.reg r) := by
    intro d
    refine ⟨by simp [Chip.noteFail], ?_, ?_⟩
    · simp only [Chip.noteFail]
      rw [Chip.reg_setReg_other _ _ _ _ (by simp [rg]), Chip.count, Chip.reg_setReg_other _ _ _ _ (by simp [rg]), Chip.setBits,
        Chip.reg_setReg_same]; rfl
    · intro r h1 h2 h3
      simp only [Chip.noteFail]
      rw [Chip.reg_setReg_other _ _ _ _ h1, Chip.count, Chip.reg_setReg_other _ _ _ _ h3, Chip.setBits, Chip.reg_setReg_other _ _ _ _ h2]
  have heq : c.endStep p status idx =
      (match st.req.ticket with
        | some t => ((((((c.kvUndo p x st.uses).spoil (st.issued.flatMap Issued.writes)).clearStep p x).dropUnsent p st.no).noteFail p status idx).setPart p
            { x with run := none, trippedLast := false, fwResult := if st.serving then some (status, ((((((c.kvUndo p x st.uses).spoil (st.issued.flatMap Issued.writes)).clearStep p x).dropUnsent p st.no).noteFail p status idx)).now - st.began) else x.fwResult }).complete t status 0 false (some idx) (some st.tag)
        | none => (((((c.kvUndo p x st.uses).spoil (st.issued.flatMap Issued.writes)).clearStep p x).dropUnsent p st.no).noteFail p status idx).setPart p
            { x with run := none, trippedLast := false, fwResult := if st.serving then some (status, ((((((c.kvUndo p x st.uses).spoil (st.issued.flatMap Issued.writes)).clearStep p x).dropUnsent p st.no).noteFail p status idx)).now - st.began) else x.fwResult }).boundary p := by
    simp only [Chip.endStep, hp, hr] <;> cases st.req.ticket <;> rfl
  generalize hd : ((((c.kvUndo p x st.uses).spoil (st.issued.flatMap Issued.writes)).clearStep p x).dropUnsent p st.no).noteFail p status idx = d at heq
  have hdf : d.funcs = c.funcs := by rw [← hd]; simp only [Chip.noteFail, Chip.setReg_funcs, Chip.count_funcs, Chip.setBits_funcs]; exact hu.funcs
  have hdp : d.parts = c.parts := by rw [← hd]; simp only [Chip.noteFail, Chip.setReg_parts, Chip.count_parts, Chip.setBits_parts]; exact hu.parts
  have hdc : d.clocks = c.clocks := by rw [← hd]; simp only [Chip.noteFail, Chip.setReg_clocks, Chip.count_clocks, Chip.setBits_clocks]; exact hu.clocks
  have hdg : d.groups = c.groups.filter (fun g => !decide (firstEngine p ≤ g.1.1 ∧ g.1.1 < firstEngine p + 512 * x.units)) := by
    rw [← hd]; simp only [Chip.noteFail, Chip.setReg_groups, Chip.count_groups, Chip.setBits_groups]
    simp only [Chip.dropUnsent, Chip.clearStep, Chip.dropFix, Chip.freeGroups, hu.groups]
  have hdr : ∀ r, (((((c.kvUndo p x st.uses).spoil (st.issued.flatMap Issued.writes)).clearStep p x).dropUnsent p st.no)).reg r = c.reg r := by
    intro r; simp only [Chip.dropUnsent, Chip.clearStep, Chip.dropFix, Chip.freeGroups]
    exact Chip.reg_of_regs hu.regs r
  obtain ⟨n1, n2, n3⟩ := hset ((((c.kvUndo p x st.uses).spoil (st.issued.flatMap Issued.writes)).clearStep p x).dropUnsent p st.no)
  rw [hd] at n1 n2 n3
  -- the part before the boundary
  generalize he : (match st.req.ticket with
        | some t => (d.setPart p
            { x with run := none, trippedLast := false, fwResult := if st.serving then some (status, d.now - st.began) else x.fwResult }).complete t status 0 false (some idx) (some st.tag)
        | none => d.setPart p
            { x with run := none, trippedLast := false, fwResult := if st.serving then some (status, d.now - st.began) else x.fwResult }) = e at heq
  have e1 : e.regs = d.regs ∧ e.groups = d.groups ∧ (e.part p).map Part.run = some none := by
    rw [← he]; split
    · exact ⟨by simp, by simp, by rw [Chip.part_of_parts (Chip.complete_parts ..)]; simp⟩
    · exact ⟨by simp, by simp, by simp⟩
  have hb := Chip.boundary_keeps e p
  rw [heq]
  refine ⟨?_, ?_, ?_, ?_, ?_, ?_⟩
  · have := (hb.runs p).trans e1.2.2
    simp only [Chip.running]
    split
    · rename_i y hy; rw [hy] at this; simp at this; simp [this]
    · rfl
  · rw [hb.regs _ (by simp [rg]), Chip.reg_of_regs e1.1]; exact n1
  · rw [hb.regs _ (by simp [rg]), Chip.reg_of_regs e1.1, n2, hdr]
  · intro r h1 h2 h3 h4; rw [hb.regs _ h4, Chip.reg_of_regs e1.1, n3 r h1 h2 h3, hdr]
  · intro en g h1 h2
    simp only [Chip.group, hb.groups, e1.2.1, hdg, Tbl.get]
    rw [Tbl.find?_filter_none (fun k : Nat × Nat => !decide (firstEngine p ≤ k.1 ∧ k.1 < firstEngine p + 512 * x.units)) _ _ (by simp [h1, h2])]
    rfl
  · intro t ht hera
    have hk := hb.adds t.fn
    simp only [ht] at he
    have hfd : ((d.setPart p { x with run := none, trippedLast := false, fwResult := if st.serving then some (status, d.now - st.began) else x.fwResult }).func t.fn).era = t.era := by
      show (d.func t.fn).era = t.era
      rw [Chip.func_of_funcs hdf]; exact hera
    rw [← he] at hk ⊢
    simp only [Chip.complete, hfd, if_true, Chip.func_updFunc_same] at hk
    refine ⟨_, hk.subset (List.mem_append_right _ (List.mem_singleton.2 rfl)), rfl, rfl, rfl, ?_, ?_⟩
    · intro hne; simp [Chip.statusFor, hne]
    · exact Chip.now_of_clocks hdc

end Sys2Proof.Machine
end

