-- ==== Sys2Proof/WellFormed.lean ====
section
/-! DEFINITION. Which commands name things the part has: functions 0 to 16, units 0 to 15, cores, clusters, arrays, rings,
ports and so on (01 R16, R17, 13 R460, R463, 14 R489, 15 R535-R537). Meanings also cover ill-formed operands. -/

namespace Sys2Proof

def fnOk (fn : Nat) : Bool := decide (fn ≤ 16)
def unitOk (u : Nat) : Bool := decide (u < 16)
def coreOk (k : Nat) : Bool := decide (k < 128)
def suOk (k : Nat) : Bool := decide (k < 32)
def arrayOk (a : Nat) : Bool := decide (a < 32768)
def engineOk (e : Nat) : Bool := decide (e < 8192)
def ringOk (n : Nat) : Bool := decide (n < 8)
def portOk (n : Nat) : Bool := decide (n < 12)
def dieOk (d : Nat) : Bool := decide (d < 8)
def agentOk (a : Agent) : Bool := dieOk a.die && decide (a.num < 256)
def vicOk (a : Agent) : Bool := dieOk a.die && decide (a.num < 5)
/-- A processor that debug reaches: a control processor, or a scalar sequencer (16 R570). -/
def debugOk (a : Agent) : Bool := dieOk a.die && decide (a.num < 5 ∨ (16 ≤ a.num ∧ a.num < 32))
def handleOk (h : Nat) : Bool := decide (h < 2 ^ 32)

/-- A register access is naturally placed: a BAR0 offset below 16 MiB, a 48-bit physical offset. -/
def targetOk : Target → Bool
  | .bar0 fn off => fnOk fn && decide (off < 2 ^ 24)
  | .phys who addr => agentOk who && decide (addr < 2 ^ 48)

/-- A frame names a port and carries a packet of at most a jumbo frame. -/
def frameOk (f : Frame) : Bool := portOk f.port && decide (f.vlan < 4096) && decide (f.an < 4) && decide (f.bytes.length ≤ 9600)

/-- A calibration slot drives rows of one segment of a bank and reads codes of columns, or of converters (02 R43, R61). -/
def slotOk (k : CalSlot) : Bool :=
  arrayOk k.array && decide (k.bank < 2) && decide (k.seg < 4) && decide (k.rcode ≤ 5) && k.rows.all (fun r => r.1 / 256 == k.seg) &&
    k.codes.all (fun e => decide (e.1 < (if k.source = .columns then 1044 else 522)) && decide (-128 ≤ e.2 ∧ e.2 ≤ 127))

/-- A mailbox request of another processor names one (15 R524, R535). -/
def mbxOk (r : MbxReq) : Bool :=
  match r.src with
  | .pf => true
  | .mctp => true
  | .proc who => vicOk who

/-- Every operand of the command names something the part has. -/
def Instr.wellFormed : Instr → Bool
  | .stepRun fn => fnOk fn
  | .stepBegin p => unitOk p
  | .opDispatch p => unitOk p
  | .stepDeadlineExpiry p => unitOk p
  | .scoreboardTimeout p _ => unitOk p
  | .pass p k => unitOk p && coreOk k
  | .passAdmit p k codes => unitOk p && coreOk k && codes.all (fun e => decide (-128 ≤ e.2 ∧ e.2 ≤ 127))
  | .budgetRefill k => coreOk k
  | .passPromote p k => unitOk p && coreOk k
  | .fixRecomputeDone p k => unitOk p && coreOk k
  | .arbitrationDone p k => unitOk p && coreOk k
  | .accOpen p k => unitOk p && coreOk k
  | .accClose p k => unitOk p && coreOk k
  | .groupClose p k e g => unitOk p && coreOk k && decide (e < 64) && decide (g < 8)
  | .kvAppend p us => unitOk p && us.all suOk
  | .attend p us => unitOk p && us.all suOk
  | .attendFold p _ e => unitOk p && decide (e < 4096)
  | .kvRollback p => unitOk p
  | .norm p k => unitOk p && suOk k
  | .rotate p k => unitOk p && suOk k
  | .elem p k => unitOk p && suOk k
  | .reduce p k => unitOk p && suOk k
  | .route p k => unitOk p && suOk k
  | .sample p k => unitOk p && suOk k
  | .copy p m => unitOk p && unitOk m
  | .gather p m => unitOk p && unitOk m
  | .scatter p m => unitOk p && unitOk m
  | .collective p m => unitOk p && unitOk m
  | .collTimeout p _ => unitOk p
  | .fence p => unitOk p
  | .fenceSatisfied p => unitOk p
  | .fenceTimeout p => unitOk p
  | .check p => unitOk p
  | .checkSatisfied p => unitOk p
  | .commit p => unitOk p
  | .kvEditOpen fn => fnOk fn
  | .kvEditRelist fn => fnOk fn
  | .kvEditTrim fn => fnOk fn
  | .kvEditFree fn => fnOk fn
  | .kvEditApply p _ => unitOk p
  | .swapOut fn => fnOk fn
  | .swapIn fn => fnOk fn
  | .shardBegin fn => fnOk fn
  | .shardRepair fn => fnOk fn
  | .shardData fn => fnOk fn
  | .shardCommit fn => fnOk fn
  | .bankProgramDone p a b cols => unitOk p && arrayOk a && decide (b < 2) && cols.all (fun k => decide (k < 1044))
  | .epochSwitch fn => fnOk fn
  | .epochRetire fn => fnOk fn
  | .epochRetireDeadline p => unitOk p
  | .serveCfg fn => fnOk fn
  | .reqOpen fn => fnOk fn
  | .reqAppend fn => fnOk fn
  | .reqCancel fn => fnOk fn
  | .kvExport fn => fnOk fn
  | .kvImport fn => fnOk fn
  | .serveBoundary p => unitOk p
  | .reqQueueTimeout p h => unitOk p && handleOk h
  | .reqPreemptTimeout p h => unitOk p && handleOk h
  | .reqHoldTimeout p h => unitOk p && handleOk h
  | .importTimeout p _ => unitOk p
  | .calRequest fn => fnOk fn
  | .partQuery fn => fnOk fn
  | .telemSnapshot fn => fnOk fn
  | .doorbellPoll fn => fnOk fn
  | .descriptorAccept fn q => fnOk fn && ringOk q
  | .completionWrite fn q => fnOk fn && ringOk q
  | .statusPageWrite fn => fnOk fn
  | .statWriteNow fn => fnOk fn
  | .ringCfgWrite fn _ n _ => fnOk fn && ringOk n
  | .functionLevelReset fn => fnOk fn
  | .bmeWrite fn _ => fnOk fn
  | .registerWrite t n _ => targetOk t && (n == 1 || n == 2 || n == 4 || n == 8)
  | .statusBitClear t _ => targetOk t
  | .counterClear t _ => targetOk t
  | .pairLowRead t => targetOk t
  | .pairHighWrite t _ => targetOk t
  | .handleCommit p n _ => unitOk p && decide (n < 256)
  | .windowCommit p n _ => unitOk p && decide (n < 32)
  | .kvCfgWrite p off _ => unitOk p && decide (off < 0x1000)
  | .imageRegionWrite p off _ => unitOk p && decide (off < 0x1000)
  | .degradedForce p => unitOk p
  | .resetTags p => unitOk p
  | .partCreate r us _ => mbxOk r && decide (us < 2 ^ 16)
  | .partRelease r u => mbxOk r && decide (u < 256)
  | .partScrubDone p us => unitOk p && us.all unitOk
  | .partStrict r u _ => mbxOk r && decide (u < 256)
  | .unitScrub r u => mbxOk r && decide (u < 256)
  | .keyGrant r k u => mbxOk r && decide (k < 2 ^ 16) && decide (u < 256)
  | .keyRevoke r k => mbxOk r && decide (k < 2 ^ 16)
  | .regRead r a => mbxOk r && decide (a < 2 ^ 64)
  | .regWrite r a _ => mbxOk r && decide (a < 2 ^ 64)
  | .snsCaptureZero k => decide (k < 4)
  | .snsCaptureFull k v => decide (k < 4) && decide (v < 2 ^ 16)
  | .snsClear k => decide (k < 4)
  | .snsCaptureDone rs => rs.length == 256
  | .fwuBegin r => mbxOk r
  | .fwuWrite r _ _ a => mbxOk r && decide (a < 2 ^ 64)
  | .fwuVerify r => mbxOk r
  | .fwuActivate r => mbxOk r
  | .fwuAbort r => mbxOk r
  | .pwrSetLive r _ => mbxOk r
  | .pwrSetEve r => mbxOk r
  | .pwrSetVigil r => mbxOk r
  | .pwrSetSolstice r => mbxOk r
  | .pwrCfg r _ => mbxOk r
  | .pwrLimit r w => mbxOk r && decide (w < 2 ^ 32)
  | .pkgReset r _ => mbxOk r
  | .dbgChallenge r => mbxOk r
  | .dbgUnlock r tok => mbxOk r && decide (tok.length ≤ 1016)
  | .dbgLock r => mbxOk r
  | .dbgChallengeLapse => true
  | .dbgExpiry => true
  | .mctpSetEndpointId op eid => decide (op < 4) && decide (eid < 256)
  | .mctpGetEndpointId => true
  | .mctpGetVersionSupport t => decide (t < 256)
  | .mctpGetMessageType => true
  | .jtagBypass _ => true
  | .jtagIdcode => true
  | .jtagSamplePreload _ => true
  | .jtagExtest => true
  | .jtagClamp => true
  | .jtagHighz => true
  | .dbgHalt a => debugOk a
  | .dbgSingleStep a => debugOk a
  | .dbgBreakpoint a n w addr => debugOk a && decide (n < if w then 2 else 4) && decide (addr < 2 ^ 64)
  | .dbgMemoryAccess a _ addr n _ => debugOk a && decide (addr < 2 ^ 48) && (n == 1 || n == 2 || n == 4 || n == 8)
  | .accordReady e ks => engineOk e && ks.all (fun k => slotOk k && k.array / 4 == e)
  | .calibrationSlot e k => slotOk k && k.array / 4 == e
  | .scrubRead p a b row bad => unitOk p && arrayOk a && decide (b < 2) && decide (row < 1024) && bad.all (fun k => decide (k < 1044))
  | .refreshDone p a b col _ => unitOk p && arrayOk a && decide (b < 2) && decide (col < 1044)
  | .digestCheck p _ => unitOk p
  | .iftRun p _ => unitOk p
  | .iftUnowned _ => true
  | .telemConversion d k _ => dieOk d && decide (k < 2)
  | .telemUrgent d k ch who => dieOk d && decide (k < 2) && decide (ch < 48) && agentOk who
  | .graceExpiry => true
  | .thermLevelTick => true
  | .powerLimitTick _ => true
  | .eveIdleExpiry => true
  | .vigilIdleExpiry => true
  | .devtimeAlignPulse d => dieOk d && d != 0
  | .devtimePulseMiss d => dieOk d && d != 0
  | .porstNRelease _ => true
  | .porstNAssert => true
  | .pwrgdFall => true
  | .perstNAssert => true
  | .refclkSdLoss => true
  | .refclkPcieLoss => true
  | .settingsWrite _ => true
  | .wardenTakeover k => decide (k < 3)
  | .wardenCheckpoint => true
  | .cpWatchdogRestart a => vicOk a
  | .vicSourceEdge a n _ => vicOk a && decide (n < 256)
  | .vicPendSet a w _ => vicOk a && decide (w < 8)
  | .vicDeliver a _ => vicOk a
  | .vicEoi a => vicOk a
  | .vicHoldoffExpiry a g => vicOk a && decide (g < 32)
  | .macsecSwitchTx k => portOk k
  | .sakInstall k _ => portOk k
  | .portUp k m => portOk k && decide (m < 8)
  | .portDown k => portOk k
  | .helloSend k => portOk k
  | .iltHello f => frameOk f
  | .iltOpen f => frameOk f
  | .iltOpenAck f => frameOk f
  | .iltWrite f => frameOk f
  | .iltReadReq f => frameOk f
  | .iltReadResp f => frameOk f
  | .iltColl f => frameOk f
  | .iltAck f => frameOk f
  | .iltNak f => frameOk f
  | .iltClose f => frameOk f
  | .iltBadPacket f => frameOk f
  | .pauseFrame k => portOk k
  | .iltForward f => frameOk f
  | .iltAckTimer _ => true
  | .iltRtoExpiry _ psn => decide (psn < 2 ^ 32)
  | .flowIdleClose _ => true
  | .perstNRelease => true
  | .pwrgdRise _ => true
  | .refclkPcieReturn => true
  | .completionTimeout fn _ => fnOk fn

end Sys2Proof
end

