-- ==== Sys2Proof/Laws/PerInstr.lean ====
section
/-! SUPPORT. A law of every command as syntax: a well-formed one names a function and a partition that the part has. -/

namespace Sys2Proof.Laws.Shape

/-- The function a command is given to (13 R460). -/
def namedFunction : Instr → Option Nat
  | .stepRun fn => some fn
  | .kvEditOpen fn => some fn
  | .kvEditRelist fn => some fn
  | .kvEditTrim fn => some fn
  | .kvEditFree fn => some fn
  | .swapOut fn => some fn
  | .swapIn fn => some fn
  | .shardBegin fn => some fn
  | .shardRepair fn => some fn
  | .shardData fn => some fn
  | .shardCommit fn => some fn
  | .epochSwitch fn => some fn
  | .epochRetire fn => some fn
  | .serveCfg fn => some fn
  | .reqOpen fn => some fn
  | .reqAppend fn => some fn
  | .reqCancel fn => some fn
  | .kvExport fn => some fn
  | .kvImport fn => some fn
  | .calRequest fn => some fn
  | .partQuery fn => some fn
  | .telemSnapshot fn => some fn
  | .doorbellPoll fn => some fn
  | .descriptorAccept fn _ => some fn
  | .completionWrite fn _ => some fn
  | .statusPageWrite fn => some fn
  | .statWriteNow fn => some fn
  | .ringCfgWrite fn _ _ _ => some fn
  | .functionLevelReset fn => some fn
  | .bmeWrite fn _ => some fn
  | .completionTimeout fn _ => some fn
  | _ => none

/-- The partition a command acts in, by its lowest unit (15 R521). -/
def namedUnit : Instr → Option Nat
  | .stepBegin p => some p
  | .opDispatch p => some p
  | .stepDeadlineExpiry p => some p
  | .scoreboardTimeout p _ => some p
  | .pass p _ => some p
  | .passAdmit p _ _ => some p
  | .passPromote p _ => some p
  | .fixRecomputeDone p _ => some p
  | .arbitrationDone p _ => some p
  | .accOpen p _ => some p
  | .accClose p _ => some p
  | .groupClose p _ _ _ => some p
  | .kvAppend p _ => some p
  | .attend p _ => some p
  | .attendFold p _ _ => some p
  | .kvRollback p => some p
  | .norm p _ => some p
  | .rotate p _ => some p
  | .elem p _ => some p
  | .reduce p _ => some p
  | .route p _ => some p
  | .sample p _ => some p
  | .copy p _ => some p
  | .gather p _ => some p
  | .scatter p _ => some p
  | .collective p _ => some p
  | .collTimeout p _ => some p
  | .fence p => some p
  | .fenceSatisfied p => some p
  | .fenceTimeout p => some p
  | .check p => some p
  | .checkSatisfied p => some p
  | .commit p => some p
  | .kvEditApply p _ => some p
  | .bankProgramDone p _ _ _ => some p
  | .epochRetireDeadline p => some p
  | .serveBoundary p => some p
  | .reqQueueTimeout p _ => some p
  | .reqPreemptTimeout p _ => some p
  | .reqHoldTimeout p _ => some p
  | .importTimeout p _ => some p
  | .handleCommit p _ _ => some p
  | .windowCommit p _ _ => some p
  | .kvCfgWrite p _ _ => some p
  | .imageRegionWrite p _ _ => some p
  | .degradedForce p => some p
  | .resetTags p => some p
  | .partScrubDone p _ => some p
  | .scrubRead p _ _ _ _ => some p
  | .refreshDone p _ _ _ _ => some p
  | .digestCheck p _ => some p
  | .iftRun p _ => some p
  | _ => none

/-- A well-formed command names one of the 17 functions and one of the 16 units, if any. -/
def Statement (i : Instr) : Prop :=
  i.wellFormed = true → (∀ fn, namedFunction i = some fn → fn ≤ 16) ∧ (∀ u, namedUnit i = some u → u < 16)

theorem well_formed_named (i : Instr) : Statement i := by
  intro h
  cases i <;> simp_all [Instr.wellFormed, namedFunction, namedUnit, fnOk, unitOk]

theorem stepRun (fn : Nat) : Statement (.stepRun fn) := well_formed_named _
theorem stepBegin (p : Nat) : Statement (.stepBegin p) := well_formed_named _
theorem opDispatch (p : Nat) : Statement (.opDispatch p) := well_formed_named _
theorem stepDeadlineExpiry (p : Nat) : Statement (.stepDeadlineExpiry p) := well_formed_named _
theorem scoreboardTimeout (p : Nat) (queue : Queue) : Statement (.scoreboardTimeout p queue) := well_formed_named _
theorem pass (p core : Nat) : Statement (.pass p core) := well_formed_named _
theorem passAdmit (p core : Nat) (codes : List (Nat × Int)) : Statement (.passAdmit p core codes) := well_formed_named _
theorem budgetRefill (core : Nat) : Statement (.budgetRefill core) := well_formed_named _
theorem passPromote (p core : Nat) : Statement (.passPromote p core) := well_formed_named _
theorem fixRecomputeDone (p core : Nat) : Statement (.fixRecomputeDone p core) := well_formed_named _
theorem arbitrationDone (p core : Nat) : Statement (.arbitrationDone p core) := well_formed_named _
theorem accOpen (p core : Nat) : Statement (.accOpen p core) := well_formed_named _
theorem accClose (p core : Nat) : Statement (.accClose p core) := well_formed_named _
theorem groupClose (p core engine group : Nat) : Statement (.groupClose p core engine group) := well_formed_named _
theorem kvAppend (p : Nat) (units : List Nat) : Statement (.kvAppend p units) := well_formed_named _
theorem attend (p : Nat) (units : List Nat) : Statement (.attend p units) := well_formed_named _
theorem attendFold (p op entry : Nat) : Statement (.attendFold p op entry) := well_formed_named _
theorem kvRollback (p : Nat) : Statement (.kvRollback p) := well_formed_named _
theorem norm (p su : Nat) : Statement (.norm p su) := well_formed_named _
theorem rotate (p su : Nat) : Statement (.rotate p su) := well_formed_named _
theorem elem (p su : Nat) : Statement (.elem p su) := well_formed_named _
theorem reduce (p su : Nat) : Statement (.reduce p su) := well_formed_named _
theorem route (p su : Nat) : Statement (.route p su) := well_formed_named _
theorem sample (p su : Nat) : Statement (.sample p su) := well_formed_named _
theorem copy (p mover : Nat) : Statement (.copy p mover) := well_formed_named _
theorem gather (p mover : Nat) : Statement (.gather p mover) := well_formed_named _
theorem scatter (p mover : Nat) : Statement (.scatter p mover) := well_formed_named _
theorem collective (p mover : Nat) : Statement (.collective p mover) := well_formed_named _
theorem collTimeout (p op : Nat) : Statement (.collTimeout p op) := well_formed_named _
theorem fence (p : Nat) : Statement (.fence p) := well_formed_named _
theorem fenceSatisfied (p : Nat) : Statement (.fenceSatisfied p) := well_formed_named _
theorem fenceTimeout (p : Nat) : Statement (.fenceTimeout p) := well_formed_named _
theorem check (p : Nat) : Statement (.check p) := well_formed_named _
theorem checkSatisfied (p : Nat) : Statement (.checkSatisfied p) := well_formed_named _
theorem commit (p : Nat) : Statement (.commit p) := well_formed_named _
theorem kvEditOpen (fn : Nat) : Statement (.kvEditOpen fn) := well_formed_named _
theorem kvEditRelist (fn : Nat) : Statement (.kvEditRelist fn) := well_formed_named _
theorem kvEditTrim (fn : Nat) : Statement (.kvEditTrim fn) := well_formed_named _
theorem kvEditFree (fn : Nat) : Statement (.kvEditFree fn) := well_formed_named _
theorem kvEditApply (p seq : Nat) : Statement (.kvEditApply p seq) := well_formed_named _
theorem swapOut (fn : Nat) : Statement (.swapOut fn) := well_formed_named _
theorem swapIn (fn : Nat) : Statement (.swapIn fn) := well_formed_named _
theorem shardBegin (fn : Nat) : Statement (.shardBegin fn) := well_formed_named _
theorem shardRepair (fn : Nat) : Statement (.shardRepair fn) := well_formed_named _
theorem shardData (fn : Nat) : Statement (.shardData fn) := well_formed_named _
theorem shardCommit (fn : Nat) : Statement (.shardCommit fn) := well_formed_named _
theorem bankProgramDone (p array bank : Nat) (badCols : List Nat) : Statement (.bankProgramDone p array bank badCols) := well_formed_named _
theorem epochSwitch (fn : Nat) : Statement (.epochSwitch fn) := well_formed_named _
theorem epochRetire (fn : Nat) : Statement (.epochRetire fn) := well_formed_named _
theorem epochRetireDeadline (p : Nat) : Statement (.epochRetireDeadline p) := well_formed_named _
theorem serveCfg (fn : Nat) : Statement (.serveCfg fn) := well_formed_named _
theorem reqOpen (fn : Nat) : Statement (.reqOpen fn) := well_formed_named _
theorem reqAppend (fn : Nat) : Statement (.reqAppend fn) := well_formed_named _
theorem reqCancel (fn : Nat) : Statement (.reqCancel fn) := well_formed_named _
theorem kvExport (fn : Nat) : Statement (.kvExport fn) := well_formed_named _
theorem kvImport (fn : Nat) : Statement (.kvImport fn) := well_formed_named _
theorem serveBoundary (p : Nat) : Statement (.serveBoundary p) := well_formed_named _
theorem reqQueueTimeout (p handle : Nat) : Statement (.reqQueueTimeout p handle) := well_formed_named _
theorem reqPreemptTimeout (p handle : Nat) : Statement (.reqPreemptTimeout p handle) := well_formed_named _
theorem reqHoldTimeout (p handle : Nat) : Statement (.reqHoldTimeout p handle) := well_formed_named _
theorem importTimeout (p slot : Nat) : Statement (.importTimeout p slot) := well_formed_named _
theorem calRequest (fn : Nat) : Statement (.calRequest fn) := well_formed_named _
theorem partQuery (fn : Nat) : Statement (.partQuery fn) := well_formed_named _
theorem telemSnapshot (fn : Nat) : Statement (.telemSnapshot fn) := well_formed_named _
theorem doorbellPoll (fn : Nat) : Statement (.doorbellPoll fn) := well_formed_named _
theorem descriptorAccept (fn sq : Nat) : Statement (.descriptorAccept fn sq) := well_formed_named _
theorem completionWrite (fn cq : Nat) : Statement (.completionWrite fn cq) := well_formed_named _
theorem statusPageWrite (fn : Nat) : Statement (.statusPageWrite fn) := well_formed_named _
theorem statWriteNow (fn : Nat) : Statement (.statWriteNow fn) := well_formed_named _
theorem ringCfgWrite (fn : Nat) (cq : Bool) (n : Nat) (value : Word) : Statement (.ringCfgWrite fn cq n value) := well_formed_named _
theorem functionLevelReset (fn : Nat) : Statement (.functionLevelReset fn) := well_formed_named _
theorem bmeWrite (fn : Nat) (on : Bool) : Statement (.bmeWrite fn on) := well_formed_named _
theorem registerWrite (target : Target) (bytes : Nat) (value : DWord) : Statement (.registerWrite target bytes value) := well_formed_named _
theorem statusBitClear (target : Target) (value : Word) : Statement (.statusBitClear target value) := well_formed_named _
theorem counterClear (target : Target) (value : Word) : Statement (.counterClear target value) := well_formed_named _
theorem pairLowRead (target : Target) : Statement (.pairLowRead target) := well_formed_named _
theorem pairHighWrite (target : Target) (value : Word) : Statement (.pairHighWrite target value) := well_formed_named _
theorem handleCommit (p n : Nat) (value : Word) : Statement (.handleCommit p n value) := well_formed_named _
theorem windowCommit (p n : Nat) (value : Word) : Statement (.windowCommit p n value) := well_formed_named _
theorem kvCfgWrite (p off : Nat) (value : Word) : Statement (.kvCfgWrite p off value) := well_formed_named _
theorem imageRegionWrite (p off : Nat) (value : Word) : Statement (.imageRegionWrite p off value) := well_formed_named _
theorem degradedForce (p : Nat) : Statement (.degradedForce p) := well_formed_named _
theorem resetTags (p : Nat) : Statement (.resetTags p) := well_formed_named _
theorem partCreate (req : MbxReq) (units : Nat) (strict : Bool) : Statement (.partCreate req units strict) := well_formed_named _
theorem partRelease (req : MbxReq) (lowest : Nat) : Statement (.partRelease req lowest) := well_formed_named _
theorem partScrubDone (p : Nat) (failed : List Nat) : Statement (.partScrubDone p failed) := well_formed_named _
theorem partStrict (req : MbxReq) (lowest : Nat) (strict : Bool) : Statement (.partStrict req lowest strict) := well_formed_named _
theorem unitScrub (req : MbxReq) (unit : Nat) : Statement (.unitScrub req unit) := well_formed_named _
theorem keyGrant (req : MbxReq) (key lowest : Nat) : Statement (.keyGrant req key lowest) := well_formed_named _
theorem keyRevoke (req : MbxReq) (key : Nat) : Statement (.keyRevoke req key) := well_formed_named _
theorem regRead (req : MbxReq) (addr : Nat) : Statement (.regRead req addr) := well_formed_named _
theorem regWrite (req : MbxReq) (addr : Nat) (value : Word) : Statement (.regWrite req addr value) := well_formed_named _
theorem snsCaptureZero (sel : Nat) : Statement (.snsCaptureZero sel) := well_formed_named _
theorem snsCaptureFull (sel full : Nat) : Statement (.snsCaptureFull sel full) := well_formed_named _
theorem snsClear (sel : Nat) : Statement (.snsClear sel) := well_formed_named _
theorem snsCaptureDone (readings : List Int) : Statement (.snsCaptureDone readings) := well_formed_named _
theorem fwuBegin (req : MbxReq) : Statement (.fwuBegin req) := well_formed_named _
theorem fwuWrite (req : MbxReq) (off bytes host : Nat) : Statement (.fwuWrite req off bytes host) := well_formed_named _
theorem fwuVerify (req : MbxReq) : Statement (.fwuVerify req) := well_formed_named _
theorem fwuActivate (req : MbxReq) : Statement (.fwuActivate req) := well_formed_named _
theorem fwuAbort (req : MbxReq) : Statement (.fwuAbort req) := well_formed_named _
theorem pwrSetLive (req : MbxReq) (start : Start) : Statement (.pwrSetLive req start) := well_formed_named _
theorem pwrSetEve (req : MbxReq) : Statement (.pwrSetEve req) := well_formed_named _
theorem pwrSetVigil (req : MbxReq) : Statement (.pwrSetVigil req) := well_formed_named _
theorem pwrSetSolstice (req : MbxReq) : Statement (.pwrSetSolstice req) := well_formed_named _
theorem pwrCfg (req : MbxReq) (value : Word) : Statement (.pwrCfg req value) := well_formed_named _
theorem pwrLimit (req : MbxReq) (watts : Nat) : Statement (.pwrLimit req watts) := well_formed_named _
theorem pkgReset (req : MbxReq) (start : Start) : Statement (.pkgReset req start) := well_formed_named _
theorem dbgChallenge (req : MbxReq) : Statement (.dbgChallenge req) := well_formed_named _
theorem dbgUnlock (req : MbxReq) (token : List Byte) : Statement (.dbgUnlock req token) := well_formed_named _
theorem dbgLock (req : MbxReq) : Statement (.dbgLock req) := well_formed_named _
theorem dbgChallengeLapse : Statement (.dbgChallengeLapse) := well_formed_named _
theorem dbgExpiry : Statement (.dbgExpiry) := well_formed_named _
theorem mctpSetEndpointId (op eid : Nat) : Statement (.mctpSetEndpointId op eid) := well_formed_named _
theorem mctpGetEndpointId : Statement (.mctpGetEndpointId) := well_formed_named _
theorem mctpGetVersionSupport (msgType : Nat) : Statement (.mctpGetVersionSupport msgType) := well_formed_named _
theorem mctpGetMessageType : Statement (.mctpGetMessageType) := well_formed_named _
theorem jtagBypass (tdi : List Bool) : Statement (.jtagBypass tdi) := well_formed_named _
theorem jtagIdcode : Statement (.jtagIdcode) := well_formed_named _
theorem jtagSamplePreload (bits : List Bool) : Statement (.jtagSamplePreload bits) := well_formed_named _
theorem jtagExtest : Statement (.jtagExtest) := well_formed_named _
theorem jtagClamp : Statement (.jtagClamp) := well_formed_named _
theorem jtagHighz : Statement (.jtagHighz) := well_formed_named _
theorem dbgHalt (who : Agent) : Statement (.dbgHalt who) := well_formed_named _
theorem dbgSingleStep (who : Agent) : Statement (.dbgSingleStep who) := well_formed_named _
theorem dbgBreakpoint (who : Agent) (n : Nat) (watch : Bool) (addr : Nat) : Statement (.dbgBreakpoint who n watch addr) := well_formed_named _
theorem dbgMemoryAccess (who : Agent) (write : Bool) (addr bytes : Nat) (value : DWord) : Statement (.dbgMemoryAccess who write addr bytes value) := well_formed_named _
theorem accordReady (engine : Nat) (slots : List CalSlot) : Statement (.accordReady engine slots) := well_formed_named _
theorem calibrationSlot (engine : Nat) (slot : CalSlot) : Statement (.calibrationSlot engine slot) := well_formed_named _
theorem scrubRead (p array bank row : Nat) (bad : List Nat) : Statement (.scrubRead p array bank row bad) := well_formed_named _
theorem refreshDone (p array bank col : Nat) (stuck : Bool) : Statement (.refreshDone p array bank col stuck) := well_formed_named _
theorem digestCheck (p epoch : Nat) : Statement (.digestCheck p epoch) := well_formed_named _
theorem iftRun (p : Nat) (faults : List TestFault) : Statement (.iftRun p faults) := well_formed_named _
theorem iftUnowned (faults : List TestFault) : Statement (.iftUnowned faults) := well_formed_named _
theorem telemConversion (die conv : Nat) (code : Int) : Statement (.telemConversion die conv code) := well_formed_named _
theorem telemUrgent (die conv chan : Nat) (who : Agent) : Statement (.telemUrgent die conv chan who) := well_formed_named _
theorem graceExpiry : Statement (.graceExpiry) := well_formed_named _
theorem thermLevelTick : Statement (.thermLevelTick) := well_formed_named _
theorem powerLimitTick (watts : Nat) : Statement (.powerLimitTick watts) := well_formed_named _
theorem eveIdleExpiry : Statement (.eveIdleExpiry) := well_formed_named _
theorem vigilIdleExpiry : Statement (.vigilIdleExpiry) := well_formed_named _
theorem devtimeAlignPulse (die : Nat) : Statement (.devtimeAlignPulse die) := well_formed_named _
theorem devtimePulseMiss (die : Nat) : Statement (.devtimePulseMiss die) := well_formed_named _
theorem porstNRelease (start : Start) : Statement (.porstNRelease start) := well_formed_named _
theorem porstNAssert : Statement (.porstNAssert) := well_formed_named _
theorem pwrgdFall : Statement (.pwrgdFall) := well_formed_named _
theorem perstNAssert : Statement (.perstNAssert) := well_formed_named _
theorem refclkSdLoss : Statement (.refclkSdLoss) := well_formed_named _
theorem refclkPcieLoss : Statement (.refclkPcieLoss) := well_formed_named _
theorem settingsWrite (bytes : List Byte) : Statement (.settingsWrite bytes) := well_formed_named _
theorem wardenTakeover (cause : Nat) : Statement (.wardenTakeover cause) := well_formed_named _
theorem wardenCheckpoint : Statement (.wardenCheckpoint) := well_formed_named _
theorem cpWatchdogRestart (who : Agent) : Statement (.cpWatchdogRestart who) := well_formed_named _
theorem vicSourceEdge (who : Agent) (source : Nat) (asserted : Bool) : Statement (.vicSourceEdge who source asserted) := well_formed_named _
theorem vicPendSet (who : Agent) (word : Nat) (value : Word) : Statement (.vicPendSet who word value) := well_formed_named _
theorem vicDeliver (who : Agent) (mie : Bool) : Statement (.vicDeliver who mie) := well_formed_named _
theorem vicEoi (who : Agent) : Statement (.vicEoi who) := well_formed_named _
theorem vicHoldoffExpiry (who : Agent) (group : Nat) : Statement (.vicHoldoffExpiry who group) := well_formed_named _
theorem macsecSwitchTx (port : Nat) : Statement (.macsecSwitchTx port) := well_formed_named _
theorem sakInstall (port : Nat) (value : Word) : Statement (.sakInstall port value) := well_formed_named _
theorem portUp (port mode : Nat) : Statement (.portUp port mode) := well_formed_named _
theorem portDown (port : Nat) : Statement (.portDown port) := well_formed_named _
theorem helloSend (port : Nat) : Statement (.helloSend port) := well_formed_named _
theorem iltHello (f : Frame) : Statement (.iltHello f) := well_formed_named _
theorem iltOpen (f : Frame) : Statement (.iltOpen f) := well_formed_named _
theorem iltOpenAck (f : Frame) : Statement (.iltOpenAck f) := well_formed_named _
theorem iltWrite (f : Frame) : Statement (.iltWrite f) := well_formed_named _
theorem iltReadReq (f : Frame) : Statement (.iltReadReq f) := well_formed_named _
theorem iltReadResp (f : Frame) : Statement (.iltReadResp f) := well_formed_named _
theorem iltColl (f : Frame) : Statement (.iltColl f) := well_formed_named _
theorem iltAck (f : Frame) : Statement (.iltAck f) := well_formed_named _
theorem iltNak (f : Frame) : Statement (.iltNak f) := well_formed_named _
theorem iltClose (f : Frame) : Statement (.iltClose f) := well_formed_named _
theorem iltBadPacket (f : Frame) : Statement (.iltBadPacket f) := well_formed_named _
theorem pauseFrame (port : Nat) : Statement (.pauseFrame port) := well_formed_named _
theorem iltForward (f : Frame) : Statement (.iltForward f) := well_formed_named _
theorem iltAckTimer (flow : Nat) : Statement (.iltAckTimer flow) := well_formed_named _
theorem iltRtoExpiry (flow psn : Nat) : Statement (.iltRtoExpiry flow psn) := well_formed_named _
theorem flowIdleClose (flow : Nat) : Statement (.flowIdleClose flow) := well_formed_named _
theorem perstNRelease : Statement (.perstNRelease) := well_formed_named _
theorem pwrgdRise (board : Board) : Statement (.pwrgdRise board) := well_formed_named _
theorem refclkPcieReturn : Statement (.refclkPcieReturn) := well_formed_named _
theorem completionTimeout (fn : Nat) (reader : HostReader) : Statement (.completionTimeout fn reader) := well_formed_named _

end Sys2Proof.Laws.Shape
end

