-- ==== Sys2Proof/Laws/Wait.lean ====
section
/-! SUPPORT. What the passing of a nanosecond counts: ENG.EVT_BUDGET_WAIT of the cores on which a pass waits (02 R78). -/

namespace Sys2Proof.Machine

theorem Chip.powered_tick (c : Chip) : c.tick.powered = c.powered := by
  unfold Chip.tick Chip.powered
  by_cases h : c.power.inReset || c.power.clockLost
  · simp [h]
  · rw [if_neg h]
    by_cases hi : c.idle <;> simp [hi]

/-- Counting on a list of registers keeps everything but those registers. -/
theorem Chip.count_fold (g : Nat → Reg) (n : Nat) (ks : List Nat) :
    ∀ c : Chip, ∃ t, ks.foldl (fun d k => d.count (g k) n) c = { c with regs := t } ∧
      (∀ r, (∀ k ∈ ks, r ≠ g k) → (ks.foldl (fun d k => d.count (g k) n) c).reg r = c.reg r) := by
  induction ks with
  | nil => exact fun c => ⟨c.regs, rfl, fun _ _ => rfl⟩
  | cons k ks ih =>
    intro c
    obtain ⟨t, h, hr⟩ := ih (c.count (g k) n)
    refine ⟨t, h.trans rfl, fun r hk => ?_⟩
    rw [List.foldl_cons, hr r (fun j hj => hk j (List.mem_cons_of_mem _ hj)), Chip.count,
      Chip.reg_setReg_other _ _ _ _ (hk k (List.mem_cons_self ..))]

/-- What a nanosecond's waits change: ENG.EVT_BUDGET_WAIT of cores that wait, and nothing else. -/
theorem Chip.budgetWaits_frame (c : Chip) : ∃ t, c.budgetWaits = { c with regs := t } ∧
    (∀ r, (∀ k ∈ c.waitingCores, r ≠ rg .engEvtBudgetWait k) → c.budgetWaits.reg r = c.reg r) := by
  unfold Chip.budgetWaits
  split
  · exact Chip.count_fold (fun k => rg .engEvtBudgetWait k) _ _ c
  · exact ⟨c.regs, rfl, fun _ _ => rfl⟩

end Sys2Proof.Machine
end

