-- ==== Sys2Proof/Tests/Slice0.lean ====
section
/-! SUPPORT. Tests of the model's parts on small states, and for each statement states and operands that meet its hypotheses (holds_…). -/

namespace Sys2Proof.Tests
open Sys2Proof.Machine
set_option Elab.async false

/-! Builders -/

/-- A record of n bytes with fields set: offset, width, value. -/
def bytesWith (n : Nat) (fs : List (Nat × Nat × Nat)) : List Byte :=
  Memory.read (fs.foldl (fun (m : Memory) f => m.write f.1 (leBytes f.2.1 f.2.2)) []) 0 n

/-- An op: its index, opcode, unit and operands. -/
def op (idx code unit : Nat) (fs : List (Nat × Nat × Nat)) : Op :=
  ⟨idx, bytesWith 64 ([(0, 1, code), (1, 1, 1), (2, 2, unit)] ++ fs)⟩

/-- A part that runs with its host link up and one partition of one unit. -/
def chipOn (x : Part) : Chip :=
  { power := { inReset := false, ready := true }, hostUp := true, units := [(0, (.active, 0))], parts := [(0, x)] }

/-- 64 KiB in HBM (1 and 2), in core 0's scratch (3) and in cluster 0's scratch (4). -/
def bufs : Tbl Nat Handle :=
  [(1, ⟨0x10000, 0x10000, 2, true⟩), (2, ⟨0x20000, 0x10000, 2, true⟩), (3, ⟨coreScratch, 0x10000, 0, true⟩),
   (4, ⟨clusterScratch, 0x10000, 1, true⟩)]

/-- A reference to an offset of a buffer. -/
def ref (h off : Nat) : Nat := h * 2 ^ 24 + off / 8

/-- A running step with one op at the head of a queue. -/
def stepWith (q : Queue) (o : Op) : StepCtx := { opCount := 9, next := 9, handles := bufs, queues := [(q, [o])] }

def chipStep (st : StepCtx) : Chip := chipOn { run := some st }

/-- The op at the head of a queue issues, and more holds of it. -/
def issues (c : Chip) (q : Queue) (code : Nat) (more : Part → StepCtx → Op → Bool) : Bool :=
  match c.running 0 with
  | none => false
  | some (x, st) =>
    match Tbl.get [] q st.queues with
    | [] => false
    | o :: _ =>
      let pl := planOf c 0 x st o
      o.opcode == code && (decide (q ≠ .attention) || !x.kvInit) && pl.errs.isEmpty &&
      (!pl.alm.isSome || !blocked c 0 x st o.idx pl.almReads []) &&
      (pl.almLate ++ appendRule st o pl.alm ++ pl.late).isEmpty && !blocked c 0 x st o.idx (c.opReads 0 x st o) pl.writes &&
      !waitsEdit c 0 x st o (almSeqs c 0 x pl.alm) && (c.readCheck 0 st.parity (c.opUses 0 x st o)).2 && more x st o

theorem issues_of {c : Chip} {q : Queue} {code : Nat} {more : Part → StepCtx → Op → Bool} (h : issues c q code more = true) :
    ∃ x st o rest, c.Issues 0 q code x st o rest ∧ more x st o = true := by
  unfold issues at h
  split at h
  · cases h
  · rename_i x st hr
    split at h
    · cases h
    · rename_i o rest hq
      simp only [Bool.and_eq_true, Bool.or_eq_true, beq_iff_eq, List.isEmpty_iff, Bool.not_eq_true', decide_eq_true_eq] at h
      obtain ⟨⟨⟨⟨⟨⟨⟨⟨h1, h2⟩, h3⟩, h4⟩, h5⟩, h6⟩, h7⟩, h8⟩, h9⟩ := h
      refine ⟨x, st, o, rest, ⟨hr, hq, h1, ?_, h3, ?_, h5, h6, h7, h8⟩, h9⟩
      · intro e; exact h2.resolve_left (fun n => n e)
      · intro e; exact h4.resolve_left (by simp [e])

/-- An answer is right, and more holds of it. -/
def okAnd {ε α : Type} (r : Except ε α) (more : α → Bool) : Bool := match r with | .ok a => more a | .error _ => false

theorem okAnd_of {ε α : Type} {r : Except ε α} {more : α → Bool} (h : okAnd r more = true) : ∃ a, r = .ok a ∧ more a = true := by
  cases r with
  | error e => cases h
  | ok a => exact ⟨a, rfl, h⟩

/-- A value is there, and more holds of it. -/
def someAnd {α : Type} (r : Option α) (more : α → Bool) : Bool := match r with | some a => more a | none => false

theorem someAnd_of {α : Type} {r : Option α} {more : α → Bool} (h : someAnd r more = true) : ∃ a, r = some a ∧ more a = true := by
  cases r with
  | none => cases h
  | some a => exact ⟨a, rfl, h⟩

/-! Movers and stream units: the op at the head of its queue issues (O1-O3) -/

def copyOp := op 0 0x20 0 [(8, 4, ref 1 0), (12, 4, ref 2 0), (16, 4, 64)]
def gatherOp := op 0 0x21 0 [(8, 4, ref 1 0), (12, 4, ref 1 0x8000), (16, 4, ref 2 0), (20, 4, 1), (24, 4, 64), (28, 4, 1)]
def scatterOp := op 0 0x22 0 [(8, 4, ref 1 0), (12, 4, ref 1 0x8000), (16, 4, ref 2 0), (20, 4, 2), (24, 4, 64), (28, 4, 1)]

theorem holds_movers_issue :
    (∃ x st o rest, (chipStep (stepWith (.mover 0) copyOp)).Issues 0 (moverQueue 0 0) 0x20 x st o rest ∧
      (decide ((o.get 20 1).testBit 0 = false) && !st.block) = true) ∧
    (∃ x st o rest, (chipStep (stepWith (.mover 0) gatherOp)).Issues 0 (moverQueue 0 0) 0x21 x st o rest ∧ (!st.block) = true) ∧
    (∃ x st o rest, ((chipStep (stepWith (.mover 0) scatterOp)).write 0x18004 (leBytes 4 0xFFFFFFFF)).Issues 0 (moverQueue 0 0) 0x22 x st o rest ∧
      (!st.block) = true) :=
  ⟨issues_of (by decide +kernel), issues_of (by decide +kernel), issues_of (by decide +kernel)⟩

/-- Memory with an Almanac of one new token of sequence 0 at a place (06 R202, R203). -/
def almAt (a seq start new list : Nat) : List (Nat × List Byte) :=
  [(a, bytesWith 96 [(0, 4, 1), (4, 4, new), (8, 1, 6), (64, 4, seq), (68, 4, start), (72, 4, start + new), (76, 2, new), (80, 8, list)])]

def chipBytes (c : Chip) (l : List (Nat × List Byte)) : Chip := l.foldl (fun c e => c.write e.1 e.2) c

/-- A cache of two sequences, four pages and two slots in HBM, sequence 0 VALID with its list of two entries at 0x30000. -/
def kvRegs : Tbl Reg Word :=
  [(rg .kvPoolBaseLo 0, 0x100000), (rg .kvMetaBaseLo 0, 0x200000), (rg .kvPoolPages 0, 4), (rg .kvSeqCount 0, 2), (rg .kvSwapSlots 0, 2)]

def kvBytes : List (Nat × List Byte) :=
  [(0x200000, bytesWith 64 [(0, 8, 0x30000), (8, 4, 2), (20, 1, 1)]), (0x201000, List.replicate 16 0xFF), (0x202000, List.replicate 8 0xFF),
   (0x30000, List.replicate 8 0xFF)]

def chipKv (c : Chip) : Chip := chipBytes { c with regs := kvRegs } kvBytes

def normOp := op 0 0x18 0 [(8, 4, ref 1 0), (12, 4, ref 2 0), (16, 4, ref 1 0x8000), (28, 4, 1), (32, 2, 64), (36, 1, 4)]
def rotateOp := op 0 0x19 0 [(8, 4, ref 1 0), (12, 4, ref 1 0x4000), (16, 4, ref 2 0), (20, 4, ref 1 0x8000), (24, 1, 1), (26, 2, 2)]
def elemOp := op 0 0x1A 0 [(8, 4, ref 1 0), (12, 4, ref 1 0x8000), (16, 4, ref 2 0), (20, 4, 64), (26, 1, 4)]
def reduceOp := op 0 0x1B 0 [(8, 4, ref 1 0), (12, 4, ref 2 0), (16, 4, 1), (20, 4, 1)]
def routeOp := op 0 0x1C 0 [(8, 4, ref 1 0), (12, 4, ref 2 0), (16, 4, ref 2 0x1000), (20, 4, ref 2 0x2000), (24, 2, 2), (26, 1, 1), (28, 1, 1), (32, 4, 1)]
def sampleOp := op 0 0x1D 0 [(8, 4, ref 1 0), (12, 4, ref 1 0x4000), (16, 4, 1), (40, 4, ref 2 0), (44, 4, ref 2 0x1000)]

def chipStream (o : Op) : Chip := chipBytes (chipKv (chipStep (stepWith (.stream 0) o))) (almAt 0x10000 0 0 1 0x30000)

theorem holds_stream_ops_issue :
    (∃ x st o rest, (chipStream normOp).Issues 0 (streamQueue 0 0) 0x18 x st o rest ∧ true = true) ∧
    (∃ x st o rest, (chipStream rotateOp).Issues 0 (streamQueue 0 0) 0x19 x st o rest ∧ true = true) ∧
    (∃ x st o rest, (chipStream elemOp).Issues 0 (streamQueue 0 0) 0x1A x st o rest ∧ true = true) ∧
    (∃ x st o rest, (chipStream reduceOp).Issues 0 (streamQueue 0 0) 0x1B x st o rest ∧ true = true) ∧
    (∃ x st o rest, (chipStream routeOp).Issues 0 (streamQueue 0 0) 0x1C x st o rest ∧ true = true) ∧
    (∃ x st o rest, (chipStream sampleOp).Issues 0 (streamQueue 0 0) 0x1D x st o rest ∧ true = true) :=
  ⟨issues_of (by decide +kernel), issues_of (by decide +kernel), issues_of (by decide +kernel), issues_of (by decide +kernel),
    issues_of (by decide +kernel), issues_of (by decide +kernel)⟩

/-! Core ops -/

def passOp := op 0 0x01 0 [(12, 4, ref 3 0), (28, 4, ref 3 0x1000), (44, 2, 0xFFFF)]
def openOp := op 0 0x02 0 [(8, 1, 63), (9, 1, 0x81)]
def closeOp := op 1 0x03 0 [(11, 1, 4), (14, 2, 0xFFFF), (24, 4, ref 3 0x2000)]

/-- Layer 0 of core 0 with no binding, on a bank in force. -/
def stepCore (o : Op) : StepCtx :=
  { stepWith (.core 0) o with
    epoch := 1, tableCfg := [(0, 1)], config := [((0, 0), bytesWith 64 [(2, 2, 0xFFFF)])] }

def epoch1 : Epoch := { num := 1, state := .inForce, lo := 0x400000, size := 4096, tiles := [⟨0, 0, 0, 0, 0x3F800000, 0, 0x410000, 1, 0, 0xFFFF⟩], layers := [(0, 1)] }

def chipCore (st : StepCtx) (g : Group) : Chip :=
  { chipOn { run := some st, epochs := [epoch1], lastEpoch := 1 } with
    banks := [((0, 0), { layer := some 0, payload := 0x410000, run := 1, scale := 0x3F800000 })]
    groups := [((0, 0), g)], engines := [(0, { inForce := some {} })] }

theorem holds_core_ops_issue :
    (∃ x st o rest, (chipCore (stepCore passOp) { state := .opened }).Issues 0 (coreQueue 0 0) 0x01 x st o rest ∧ true = true) ∧
    (∃ x st o rest, (chipCore (stepCore openOp) {}).Issues 0 (coreQueue 0 0) 0x02 x st o rest ∧ true = true) ∧
    (∃ x st o rest, (chipCore (stepCore closeOp) { state := .opened }).Issues 0 (coreQueue 0 0) 0x03 x st o rest ∧ true = true) :=
  ⟨issues_of (by decide +kernel), issues_of (by decide +kernel), issues_of (by decide +kernel)⟩

/-! Passes and groups -/

/-- A pass on array 0 in a mode, with two rows of code 1 and no others: it costs one slot. -/
def passRec (mode : Nat) : PassRec :=
  { op := 0, core := 0, engine := 0, layer := 0, arrange := 0, array := 0, range := 0, optimistic := true, quiet := false, afmt := 0,
    wide := false, group := 0, half := false, mode := mode, banks := [(0, 0)], slices := [[0x11]], sides := [[]], outs := [([], 0, 0)],
    rEff := [(0, 0)] }

def stepPass (r : PassRec) : StepCtx := { stepCore passOp with passes := [r], queues := [] }
def chipPass (r : PassRec) : Chip := chipCore (stepPass r) { state := .opened }

/-- A pass held back by its core's balance waits; 5 ns are 8 core cycles of 0.625 ns (02 R65). -/
theorem holds_budget_wait :
    0 ∈ Chip.waitingCores (Chip.tick ((chipPass (passRec 0)).setCore 0 { balance := -1 })) ∧
    Chip.powered ((chipPass (passRec 0)).setCore 0 { balance := -1 }) = true := by decide +kernel

theorem test_core_cycles : ((List.range 5).map (fun k => coreCycles (k + 1))).sum = 8 := by decide

/-- Each clause of the issue budget: reference mode; a cost that just fits, a full balance, one below the cost; a refill due. -/
theorem holds_budget :
    (∃ x st, (chipPass (passRec 1)).running 0 = some (x, st) ∧
      st.passes.find? (fun r => r.core == 0 && r.phase == .issued) = some (passRec 1)) ∧
    (∃ x st, ((chipPass (passRec 0)).setCore 0 { balance := 1 }).running 0 = some (x, st) ∧
      st.passes.find? (fun r => r.core == 0 && r.phase == .issued) = some (passRec 0)) ∧
    (if (passRec 0).arrange = 0 then 1 else 4) * ((passRec 0).plan (passRec 0).lanes).cost = 1 ∧
    (({ chipOn {} with clocks := [{ now := 1000 }] } : Chip).core 0).refilled < ({ chipOn {} with clocks := [{ now := 1000 }] } : Chip).timeOn 0 / 1000 := by
  refine ⟨⟨_, _, rfl, by decide +kernel⟩, ⟨_, _, rfl, by decide +kernel⟩, by decide +kernel, by decide +kernel⟩

def readyRec : PassRec := { passRec 0 with phase := .admitted }
def fixRec : PassRec := { passRec 1 with phase := .admitted, todo := [1023] }

theorem holds_promote : ∃ x st, (chipPass readyRec).running 0 = some (x, st) ∧
    st.passes.find? (fun r => r.core == 0 && r.ready st) = some readyRec :=
  ⟨_, _, rfl, by decide +kernel⟩

def chipFix : Chip := (chipPass fixRec).setCore 0 { fixq := [⟨0, 0, 1023⟩] }

theorem holds_recompute : ∃ x st, chipFix.running 0 = some (x, st) ∧ (chipFix.core 0).fixq = [⟨0, 0, 1023⟩] ∧
    st.passes.find? (fun r => r.op == 0) = some fixRec ∧ wordsIn chipFix.ue (fixRec.imageRanges chipFix 1023) = [] ∧
    fixRec.imageBad chipFix 1023 = false :=
  ⟨_, _, rfl, by decide +kernel, by decide +kernel, by decide +kernel, by decide +kernel⟩

/-- A suspect pass whose array feeds no column has none to judge; one on array 0 judges all 1,024, and column 0 is wrong. -/
def suspectRec (array : Nat) (av : Word) : PassRec := { passRec 0 with phase := .admitted, suspect := [array], av := [(0, av)] }

theorem holds_arbitration :
    (∃ x st, (chipPass (suspectRec 7 0)).running 0 = some (x, st) ∧ st.passes.find? (fun r => r.core == 0 && r.phase == .admitted &&
      r.isSuspect && !r.arbitrated) = some (suspectRec 7 0) ∧ (suspectRec 7 0).implicated = []) ∧
    (∃ x st, (chipPass (suspectRec 0 0x7F000000)).running 0 = some (x, st) ∧ st.passes.find? (fun r => r.core == 0 && r.phase == .admitted &&
      r.isSuspect && !r.arbitrated) = some (suspectRec 0 0x7F000000) ∧ 0 ∈ (suspectRec 0 0x7F000000).implicated ∧
      (suspectRec 0 0x7F000000).agrees (chipPass (suspectRec 0 0x7F000000)) 0 = false) :=
  ⟨⟨_, _, rfl, by decide +kernel, by decide +kernel⟩, ⟨_, _, rfl, by decide +kernel, by decide +kernel, by decide +kernel⟩⟩

def closeRec : CloseRec := { op := 1, core := 0, engine := 0, group := 0, desc := closeOp.desc }
def stepClose : StepCtx := { stepPass { passRec 0 with phase := .promoted } with closes := [closeRec] }

theorem holds_close : ∃ x st, (chipCore stepClose { state := .closing }).running 0 = some (x, st) ∧
    st.closes.find? (fun k => k.engine == 0 * 64 + 0 && k.group == 0 && !k.closed) = some closeRec ∧
    st.passes.any (fun r => decide (r.op < 1) && r.phase != .promoted && r.uses 0 0) = false ∧
    st.closes.any (fun q => decide (q.op < 1) && q.core == 0 && !q.closed && (⟨q.op, q.desc⟩ : Op).layer == closeOp.layer) = false ∧
    layerMode ((st.layerEntry 0 closeOp.layer).getD []) ≠ 2 ∧ bitsOf (closeOp.get 10 1) 5 4 = 0 :=
  ⟨_, _, rfl, by decide +kernel, by decide +kernel, by decide +kernel, by decide +kernel, by decide +kernel⟩

/-! Steps -/

/-- The oldest accepted command with an opcode is ready to start, and more holds of it. -/
def starts (c : Chip) (fn opcode : Nat) (pick : Cmd → Bool) (more : Nat → Part → Cmd → Bool) : Bool :=
  match takeFirst (fun k => decide (k.opcode = opcode) && pick k) (c.func fn).accepted with
  | none => false
  | some (k, _) =>
    match c.partOf fn with
    | none => false
    | some p =>
      match c.part p with
      | none => false
      | some x => (!k.readsHost || c.busMaster fn) && (decide (k.opcode ≠ 0x21) || x.serving.isSome) && k.recordErr.isNone && more p x k

theorem starts_of {c : Chip} {fn opcode : Nat} {pick : Cmd → Bool} {more : Nat → Part → Cmd → Bool}
    (h : starts c fn opcode pick more = true) : ∃ p x k rest, c.Starts fn opcode pick p x k rest ∧ more p x k = true := by
  unfold starts at h
  split at h
  · cases h
  · rename_i k rest hk
    split at h
    · cases h
    · rename_i p hp
      split at h
      · cases h
      · rename_i x hx
        simp only [Bool.and_eq_true, Bool.or_eq_true, Bool.not_eq_true', Option.isNone_iff_eq_none, decide_eq_true_eq] at h
        obtain ⟨⟨⟨h1, h0⟩, h2⟩, h3⟩ := h
        refine ⟨p, x, k, rest, ⟨hk, ?_, fun e => h0.resolve_left (fun n => n e), h2, hp, hx⟩, h3⟩
        intro hr
        rcases h1 with h1 | h1
        · rw [h1] at hr; cases hr
        · exact h1

/-- An accepted command. -/
def cmd (opcode : Nat) (args record : List Byte) : Cmd :=
  { sq := 0, cq := 0, opcode := opcode, cmdId := 7, tag := 9, args := args, record := record, recordErr := none, status := .ok, time := 0 }

/-- The commands that a function has accepted; its Bus Master Enable is 1. -/
def accepts (c : Chip) (ks : List Cmd) : Chip := c.setFunc 1 { bme := true, accepted := ks }

/-- A program of two ops at 0x50000: a FENCE that waits for nothing, and a COMMIT. -/
def fenceOp := op 0 0x30 0xFFFF [(8, 1, 15), (9, 1, 0xFF)]
def commitOp := op 1 0x3F 0xFFFF []
def progCrc : Nat := crcFeed (crcFeed 0xFFFFFFFF fenceOp.desc) commitOp.desc ^^^ 0xFFFFFFFF
def progBytes : List (Nat × List Byte) :=
  [(0x50000, bytesWith 64 [(0, 2, 1), (4, 4, 2), (8, 4, progCrc), (16, 8, 5)]), (0x50040, fenceOp.desc), (0x50080, commitOp.desc)]
def progReq : StepReq := { addr := 0x50000, ticket := some { fn := 1 } }

def chipProg (x : Part) : Chip := chipBytes (accepts (chipOn x) [cmd 1 (bytesWith 48 [(0, 8, 0x50000), (8, 1, 1)]) []]) progBytes
def dispatching (next : Nat) (crc : Nat) : StepCtx := { req := progReq, opCount := 2, opsCrc := progCrc, next := next, crc := crc }

/-- A program queues, begins, and dispatches its first op and its last. -/
theorem holds_steps :
    (∃ p x k rest, (chipProg {}).Starts 1 0x01 (fun _ => true) p x k rest ∧ true = true) ∧
    (∃ r, (chipProg { queued := [progReq] }).progCheck 0 { queued := [progReq] } progReq = .ok r ∧ true = true) ∧
    ({ queued := [progReq] } : Part).calibrated (chipProg { queued := [progReq] }) = true ∧
    (∃ d, (chipProg {}).progRead 0 {} progReq (64 + 64 * 0) 64 = .ok d ∧
      ((⟨0, d⟩ : Op).dispatchOk {} && decide ((⟨0, d⟩ : Op).queue = some .control)) = true) ∧
    (∃ d, (chipProg {}).progRead 0 {} progReq (64 + 64 * 1) 64 = .ok d ∧
      ((⟨1, d⟩ : Op).dispatchOk {} && decide ((⟨1, d⟩ : Op).queue = some .control ∧
        (crcFeed (dispatching 1 (crcFeed 0xFFFFFFFF fenceOp.desc)).crc d ^^^ 0xFFFFFFFF) = progCrc)) = true) :=
  ⟨starts_of (by decide +kernel), okAnd_of (by decide +kernel), by decide +kernel, okAnd_of (by decide +kernel), okAnd_of (by decide +kernel)⟩

/-! Limits: a time that has come, and one that has not -/

def at_ (c : Chip) (t : Nat) : Chip := { c with clocks := List.replicate 8 { now := t } }

def stalled : StepCtx := { stepWith (.mover 0) copyOp with stalls := [(.mover 0, 0)], watchdog := 1 }
def fenceRec : ControlRec := ⟨op 0 0x30 0xFFFF [(8, 1, 15), (9, 1, 0), (10, 1, 1), (12, 4, 2), (16, 4, 1)], 0⟩
def collRec : RemoteRec := ⟨0, [], true, 1⟩

theorem holds_limits :
    (∃ r, (chipStep { deadline := some 0 }).running 0 = some r ∧ decide (r.2.deadline = some 0) = true) ∧
    (chipStep { deadline := some 0 }).now = 0 ∧ (chipStep { deadline := some 1 }).now < 1 ∧
    (∃ r, (chipStep stalled).running 0 = some r ∧
      decide (Tbl.find? (.mover 0) r.2.stalls = some 0 ∧ Tbl.get [] (.mover 0) r.2.queues = [copyOp] ∧ r.2.watchdog = 1) = true) ∧
    0 + 1000 * 1 ≤ (at_ (chipStep stalled) 1000).timeOn (queueDie 0 (.mover 0)) ∧ (at_ (chipStep stalled) 999).timeOn (queueDie 0 (.mover 0)) < 0 + 1000 * 1 ∧
    (∃ r, (chipStep { control := some fenceRec }).running 0 = some r ∧ decide (r.2.waiting 0x30 = some fenceRec ∧
      fenceRec.since + 1000 * fenceRec.op.get 16 4 = 1000) = true) ∧
    (∃ r, (chipStep { remotes := [collRec] }).running 0 = some r ∧
      decide (r.2.remotes.find? (fun r => r.op == 0 && r.coll) = some collRec) = true) :=
  ⟨someAnd_of (by decide +kernel), by decide +kernel, by decide +kernel, someAnd_of (by decide +kernel), by decide +kernel, by decide +kernel,
    someAnd_of (by decide +kernel), someAnd_of (by decide +kernel)⟩

/-! Control ops -/

def checkRec : ControlRec := ⟨op 5 0x31 0xFFFF [(8, 1, 1)], 0⟩
/-- Behind a waiting CHECK with index 5: an op of a core with index 5, a suspect pass after it, and before it a close that is done. -/
def checked : StepCtx :=
  { control := some checkRec, passes := [{ suspectRec 0 0 with op := 6 }], closes := [{ closeRec with op := 4, closed := true }]
    queues := [(.core 0, [op 5 0x02 0 []])] }
def chipFence : Chip := { chipStep { control := some fenceRec } with regs := [(rg .seqArrive 0 0, 2)] }

theorem holds_control :
    (∃ x st o rest, (chipStep (stepWith .control fenceRec.op)).Issues 0 .control 0x30 x st o rest ∧ fenceOk o = true) ∧
    (∃ x st o rest, (chipStep (stepWith .control checkRec.op)).Issues 0 .control 0x31 x st o rest ∧ true = true) ∧
    (∃ r, chipFence.running 0 = some r ∧ decide (r.2.waiting 0x30 = some fenceRec ∧
      ((List.range 4).all (fun k => !(fenceRec.op.get 8 1).testBit k || r.2.classDone k fenceRec.op.idx) = true) ∧
      fenceRec.op.get 12 4 ≤ (chipFence.reg (rg .seqArrive 0 (fenceRec.op.get 9 1))).toNat) = true) ∧
    (∃ r, (chipStep checked).running 0 = some r ∧
      decide (r.2.waiting 0x31 = some checkRec ∧ (∀ e ∈ r.2.passes, e.op < 5 → e.suspect = []) ∧ (∀ k ∈ r.2.closes, k.op < 5 → k.tripped = false) ∧
        (∀ q ∈ r.2.queues, queueClass q.1 = 0 → ∀ o ∈ q.2, 5 ≤ o.idx) ∧
        (∀ e ∈ r.2.passes, e.op < 5 → e.phase ≠ .issued ∧ (e.suspect = [] ∨ e.arbitrated = true)) ∧
        (∀ k ∈ r.2.closes, k.op < 5 → k.closed = true)) = true) :=
  ⟨issues_of (by decide +kernel), issues_of (by decide +kernel), someAnd_of (by decide +kernel), someAnd_of (by decide +kernel)⟩

def pubRec : ControlRec := ⟨op 1 0x3F 0xFFFF [(8, 1, 1), (16, 4, ref 1 0), (20, 4, 4), (24, 8, 0x7000)], 0⟩
def chipCommit : Chip := accepts (chipStep { handles := bufs, control := some pubRec, deadline := some 1, req := progReq }) []

theorem holds_commit : ∃ r, chipCommit.running 0 = some r ∧ decide (r.2.waiting 0x3F = some pubRec ∧ chipCommit.now < 1 ∧
    r.2.allDone pubRec.op.idx = true ∧ chipCommit.openGroupCores 0 r.1 = [] ∧ chipCommit.appendShort 0 r.2 = false ∧ r.2.closes = [] ∧
    (pubEntries r.2 pubRec.op).length = 1 ∧ chipCommit.busMaster 1 = true ∧ (chipCommit.publish 0 r.2 pubRec.op).2 = true) = true :=
  someAnd_of (by decide +kernel)

/-! The cache -/

def appendOp := op 1 0x11 0xFFFF [(8, 4, ref 1 0), (16, 4, ref 2 0), (20, 4, ref 2 0x1000)]
def attendOp := op 2 0x10 0xFFFF [(8, 4, ref 1 0), (14, 1, 1), (16, 4, ref 2 0), (20, 4, ref 2 0x1000)]
def rollbackOp := op 2 0x12 0xFFFF [(8, 4, ref 1 0), (16, 4, ref 4 0)]

def chipAttn (o : Op) (st : StepCtx) (l : List (Nat × List Byte)) : Chip :=
  chipBytes (chipKv (chipStep { st with opCount := 9, next := 9, handles := bufs, queues := [(.attention, [o])] })) (almAt 0x10000 0 0 1 0x30000 ++ l)

/-- Pages for every new position, and a pool with none. -/
def appended (c : Chip) : Bool :=
  match c.running 0 with
  | none => false
  | some (x, st) =>
    let d := c.afterIssue 0 .attention x st appendOp []
    let y := { x with run := some (st.left .attention []), almClasses := ((d.part 0).map Part.almClasses).getD [] }
    let es := d.almEntries (almRef st appendOp inAttention).at
    (es.foldl (fun r e => if r.2 then r.1.appendPages 0 y e else r)
      (es.foldl (fun c e => match c.part 0 with | some x => c.usePin 0 x e | none => c) d, true)).2

def usedOnce : StepCtx := { appends := [(0, 0x10000)], uses := [{ seq := 0, start := 0, new := 1, appended := [0] }] }

theorem holds_attention :
    (∃ x st o rest, (chipAttn appendOp {} []).Issues 0 .attention 0x11 x st o rest ∧ true = true) ∧ appended (chipAttn appendOp {} []) = true ∧
    (∃ x st o rest, ((chipAttn appendOp {} []).setReg (rg .kvPoolPages 0) 0).Issues 0 .attention 0x11 x st o rest ∧ true = true) ∧
    appended ((chipAttn appendOp {} []).setReg (rg .kvPoolPages 0) 0) = false ∧
    (∃ x st o rest, (chipAttn attendOp usedOnce [(0x30000, leBytes 4 0)]).Issues 0 .attention 0x10 x st o rest ∧ true = true) ∧
    (∃ x st o rest, (chipAttn rollbackOp usedOnce [(clusterScratch, leBytes 2 1)]).Issues 0 .attention 0x12 x st o rest ∧ true = true) :=
  ⟨issues_of (by decide +kernel), by decide +kernel, issues_of (by decide +kernel), by decide +kernel, issues_of (by decide +kernel),
    issues_of (by decide +kernel)⟩

def attendRec (entries : List Nat) : AttendRec := { op := 2, desc := attendOp.desc, entries := entries, units := [0] }

/-- The last entry of an ATTEND, and one that is not the last. -/
theorem holds_fold :
    (∃ r, (chipAttn attendOp { attends := [attendRec [0]] } []).running 0 = some r ∧
      decide (r.2.attends.find? (fun r => r.op == 2) = some (attendRec [0]) ∧ (attendRec [0]).entries.filter (· != 0) = []) = true) ∧
    (∃ r, (chipAttn attendOp { attends := [attendRec [0, 1]] } []).running 0 = some r ∧
      decide (r.2.attends.find? (fun r => r.op == 2) = some (attendRec [0, 1]) ∧ (attendRec [0, 1]).entries.filter (· != 0) ≠ []) = true) ∧
    (chipAttn attendOp {} []).ue = [] :=
  ⟨someAnd_of (by decide +kernel), someAnd_of (by decide +kernel), by decide +kernel⟩

/-! Collectives: chips 0 and 1 by link 0, keys 5 and 6 -/

def collOp := op 0 0x28 0 [(8, 4, ref 1 0), (12, 4, ref 2 0), (16, 4, 64)]
def collRegs : Tbl Reg Word := [(rg .iltKeys 0 1, 0x8000), (rg .iltRoute 0 1, 0xC0000000)]
def collBytes : List (Nat × List Byte) :=
  [(0x60000, bytesWith 128 [(0, 4, 3), (4, 2, 2), (8, 8, 0x70000), (16, 8, 0x1000), (64, 2, 0), (66, 2, 5), (68, 2, 1), (70, 2, 6)])]
def chipColl : Chip :=
  chipBytes { chipStep { stepWith (.mover 0) collOp with collBase := 0x60000, collCfg := 0x10001 } with regs := collRegs } collBytes

theorem holds_collective : ∃ x st o rest, chipColl.Issues 0 (moverQueue 0 0) 0x28 x st o rest ∧
    (!st.block && x.mismatched o == [] && someAnd ((chipColl.afterIssue 0 (moverQueue 0 0) x st o []).collGroup 0 { x with run := some (st.left (moverQueue 0 0) []) }
      (st.left (moverQueue 0 0) []) (o.get 22 2)) (fun g =>
        someAnd (chipColl.collRank 0 g) (fun own => g.chips.zipIdx.all (fun e => e.2 == own || (chipColl.route e.1.1).isSome)))) = true :=
  issues_of (by decide +kernel)

/-! Cache edits and swaps -/

def edit (kind cap arg : Nat) : List Byte := bytesWith 48 [(0, 4, if kind = 0 then 1 else 0), (4, 1, kind), (8, 8, 0x31000), (16, 4, cap), (20, 4, arg)]
def chipEdit (kind cap arg pin : Nat) : Chip :=
  accepts ((chipKv (chipOn {})).write (0x200010 + (if kind = 0 then 64 else 0)) (leBytes 4 pin)) [cmd 2 (edit kind cap arg) []]

/-- What the statement asks of an edit that starts: its checks pass, and the pin is 0 or not. -/
def editRight (c : Chip) (pinned : Bool) (p : Nat) (x : Part) (k : Cmd) : Bool :=
  let e : KvEdit := { seq := bytesLe k.args 0 4, kind := bytesLe k.args 4 1, args := k.args.take 32, ticket := none }
  p == 0 && !x.kvInit && decide (c.editCheck p x (x.ownsSeq e.seq) e = .ok ∧ (c.seqPin p x e.seq ≠ 0 ↔ pinned = true) ∧ c.seqApplying p x e.seq = false ∧
    (e.kind = 1 → ceilDiv (c.seqLen p x e.seq) (c.kvCfg p).tokens ≤ bytesLe e.args 16 4) ∧ (e.kind = 2 → bytesLe e.args 20 4 ≤ c.seqLen p x e.seq))

theorem holds_edits :
    (∃ p x k rest, (chipEdit 0 1 0 0).Starts 1 2 (fun k => bytesLe k.args 4 1 == 0) p x k rest ∧ editRight (chipEdit 0 1 0 0) false p x k = true) ∧
    (∃ p x k rest, (chipEdit 1 1 0 0).Starts 1 2 (fun k => bytesLe k.args 4 1 == 1) p x k rest ∧ editRight (chipEdit 1 1 0 0) false p x k = true) ∧
    (∃ p x k rest, (chipEdit 2 0 0 0).Starts 1 2 (fun k => bytesLe k.args 4 1 == 2) p x k rest ∧ editRight (chipEdit 2 0 0 0) false p x k = true) ∧
    (∃ p x k rest, (chipEdit 3 0 0 0).Starts 1 2 (fun k => bytesLe k.args 4 1 == 3) p x k rest ∧ editRight (chipEdit 3 0 0 0) false p x k = true) ∧
    (∃ p x k rest, (chipEdit 3 0 0 1).Starts 1 2 (fun k => bytesLe k.args 4 1 == 3) p x k rest ∧ editRight (chipEdit 3 0 0 1) true p x k = true) :=
  ⟨starts_of (by decide +kernel), starts_of (by decide +kernel), starts_of (by decide +kernel), starts_of (by decide +kernel),
    starts_of (by decide +kernel)⟩

def heldEdit : KvEdit := { seq := 0, kind := 3, args := edit 3 0 0, ticket := some { fn := 1 } }
def chipHeld (pin : Nat) : Chip := accepts ((chipKv (chipOn { edits := [heldEdit] })).write 0x200010 (leBytes 4 pin)) []

/-- The pending edit of sequence 0, whose pin is as said. -/
def heldRight (pin : Nat) (x : Part) : Bool :=
  takeFirst (fun e => ((chipHeld pin).editSeqs 0 x e).contains 0) x.edits == some (heldEdit, []) && decide ((chipHeld pin).seqPin 0 x 0 = pin)

theorem holds_pending : (∃ x, (chipHeld 0).part 0 = some x ∧ heldRight 0 x = true) ∧ (∃ x, (chipHeld 1).part 0 = some x ∧ heldRight 1 x = true) :=
  ⟨someAnd_of (by decide +kernel), someAnd_of (by decide +kernel)⟩

def servingOf (r : Request) : Serving := { record := bytesWith 128 [(1, 1, 2), (8, 4, 1)], requests := [(0, { r with gen := 1 })] }
def chipSwap (code : Nat) (r : Request) (l : List (Nat × List Byte)) : Chip :=
  accepts (chipBytes (chipKv (chipOn { serving := some (servingOf r) })) l) [cmd code (bytesWith 48 [(0, 4, 0x10000)]) []]

/-- What the statement asks of a swap: the request is as said, its sequences' edit passes, and nothing pins them. -/
def swapRight (c : Chip) (kind : Nat) (ok : Request → Bool) (p : Nat) (x : Part) (k : Cmd) : Bool :=
  p == 0 && !x.kvInit && someAnd x.serving (fun v => okAnd (v.entry (bytesLe k.args 0 4)) (fun n => n == 0 && ok (v.req n) && !c.reqHeld p n)) &&
  decide (c.editCheck p x false (swapEdit 0 kind) = .ok ∧ ∀ q ∈ c.editSeqs p x (swapEdit 0 kind), c.seqPin p x q = 0 ∧ c.seqApplying p x q = false)

def swapped : Request := { state := .preempted, swapped := true }

/-- Out, with a resident page and slots enough, and with too few slots; in, with a slot that reads well, and with no page free. -/
theorem holds_swaps :
    (∃ p x k rest, (chipSwap 0x26 { state := .decode } [(0x30000, leBytes 4 0)]).Starts 1 0x26 (fun _ => true) p x k rest ∧
      swapRight (chipSwap 0x26 { state := .decode } [(0x30000, leBytes 4 0)]) 4 (fun r => r.state == .decode && r.exporting.isNone) p x k = true) ∧
    (∃ p x k rest, (chipSwap 0x27 swapped []).Starts 1 0x27 (fun _ => true) p x k rest ∧
      swapRight (chipSwap 0x27 swapped []) 5 (fun r => r.state == .preempted && r.swapped) p x k = true) ∧
    (∃ p x k rest, (chipSwap 0x27 { state := .preempted } []).Starts 1 0x27 (fun _ => true) p x k rest ∧
      swapRight (chipSwap 0x27 { state := .preempted } []) 5 (fun r => r.state == .preempted && !r.swapped) p x k = true) :=
  ⟨starts_of (by decide +kernel), starts_of (by decide +kernel), starts_of (by decide +kernel)⟩


/-! Weights -/

/-- An image of one layer without tiles, at 0x400000. -/
def imageBytes : List (Nat × List Byte) :=
  [(0x400000, bytesWith 32 [(0, 4, 1), (4, 4, 1), (8, 4, 1), (16, 8, 8192), (24, 4, 4096), (28, 4, 4096)]),
   (0x401000, bytesWith 32 [(16, 2, 0xFFFF), (18, 2, 0xFFFF)])]

def imageDigest (m : Memory) : List Byte := sha256Of (m.read 0x400000 8192)
def imageHash : List Byte := imageDigest (chipBytes (chipOn {}) imageBytes).mem

def epochW (st : EpochState) (digest : List Byte) : Epoch := { num := 1, state := st, lo := 0x400000, size := 8192, digest := digest }

/-- The image region, and a command on a partition with an image. -/
def chipW (x : Part) (code : Nat) (record : List Byte) : Chip :=
  accepts { chipBytes (chipOn x) imageBytes with regs := [(rg .wgtImageBaseLo 0, 0x400000), (rg .wgtImageSize 0, 1)] } [cmd code (List.replicate 48 0) record]

def recBegin (n flags : Nat) : List Byte := bytesWith 64 [(0, 4, n), (4, 1, flags), (8, 8, 8192)]
def recData (kind src : Nat) : List Byte := bytesWith 64 [(0, 4, 1), (4, 1, kind), (16, 4, 64), (24, 8, src)]
def recEpoch : List Byte := bytesWith 64 [(0, 4, 1)]
def zeros32 : List Byte := List.replicate 32 0

/-- A new epoch behind nothing; a repair of a live one; data from the host and from HBM. -/
theorem holds_shards :
    (∃ p x k rest, (chipW {} 0x10 (recBegin 1 0)).Starts 1 0x10 (fun k => !(bytesLe k.record 4 1).testBit 0) p x k rest ∧
      (beginOk k.record && decide (x.lastEpoch < bytesLe k.record 0 4) && x.epochs.isEmpty &&
        (((chipW {} 0x10 (recBegin 1 0)).afterStart 1 []).freeRun p x (bytesLe k.record 8 8)).isSome) = true) ∧
    (∃ p x k rest, (chipW { epochs := [epochW .inForce zeros32] } 0x10 (recBegin 1 1)).Starts 1 0x10 (fun k => (bytesLe k.record 4 1).testBit 0) p x k rest ∧
      (beginOk k.record && x.build.isNone && someAnd (x.epochNo (bytesLe k.record 0 4)) (fun e =>
        decide (e.state = .inForce ∧ e.size = bytesLe k.record 8 8 ∧ e.digest = (k.record.drop 32).take 32))) = true) ∧
    (∃ p x k rest, (chipW { epochs := [epochW .building []] } 0x11 (recData 0 0x1000)).Starts 1 0x11 (fun _ => true) p x k rest ∧
      ((bytesZero k.record 5 7 && bytesZero k.record 20 23 && bytesZero k.record 32 63) && someAnd (x.epochNo (bytesLe k.record 0 4)) (fun e =>
        decide (e.state = .building ∧ bytesLe k.record 8 8 + 64 ≤ e.size)) &&
        okAnd ((chipW { epochs := [epochW .building []] } 0x11 (recData 0 0x1000)).hostRead (bytesLe k.record 24 8) 64) (fun _ => true)) = true) ∧
    (∃ p x k rest, (chipW { epochs := [epochW .building []] } 0x11 (recData 1 0x1000)).Starts 1 0x11 (fun _ => true) p x k rest ∧
      (x.range p (bytesLe k.record 24 8) 64 == some (0x1000, 2)) = true) ∧
    (chipW { epochs := [epochW .building []] } 0x11 (recData 0 0x1000)).epochCmdAhead 1 0x11 0x12 = false :=
  ⟨starts_of (by decide +kernel), starts_of (by decide +kernel), starts_of (by decide +kernel), starts_of (by decide +kernel), by decide +kernel⟩

def chipCommitW (e : Epoch) : Chip := chipW { epochs := [e] } 0x12 recEpoch

/-- What the statement asks of a SHARD_COMMIT beside the digest. -/
def commitRight (repair : Bool) (p : Nat) (x : Part) (k : Cmd) : Bool :=
  p == 0 && x.build.isNone && bytesZero k.record 4 63 && someAnd (x.epochNo (bytesLe k.record 0 4)) (fun e =>
    !e.committed && e.repair == repair && decide (repair = true ∨ e.state = .building))

theorem commit_digest : imageDigest (chipCommitW (epochW .building imageHash)).mem = imageHash := by
  rw [show (chipCommitW (epochW .building imageHash)).mem = (chipBytes (chipOn {}) imageBytes).mem by decide +kernel, imageHash]

/-- A new image, and one under repair; a digest that is right, and one that is not. -/
theorem holds_commits :
    (∃ p x k rest, (chipCommitW (epochW .building imageHash)).Starts 1 0x12 (fun _ => true) p x k rest ∧ commitRight false p x k = true) ∧
    imageDigest (chipCommitW (epochW .building imageHash)).mem = imageHash ∧
    (chipCommitW (epochW .building zeros32)).commitFault 0 { epochs := [epochW .building zeros32] } (epochW .building zeros32) = none ∧
    (chipCommitW (epochW .building imageHash)).epochCmdAhead 1 0x12 0x11 = false ∧
    (∃ p x k rest, (chipCommitW { epochW .inForce zeros32 with repair := true }).Starts 1 0x12 (fun _ => true) p x k rest ∧ commitRight true p x k = true) ∧
    sha256Of [] ≠ ({ epochW .building [] with size := 0 } : Epoch).digest :=
  ⟨starts_of (by decide +kernel), commit_digest, by decide +kernel, by decide +kernel, starts_of (by decide +kernel), by decide +kernel⟩

def tileW (array : Nat) : Tile := ⟨array, 0, 0, 0, 0x3F800000, 0, 0x410000, 1, 0, 0xFFFF⟩
def buildW : Build := { epoch := 1, ticket := { fn := 1 }, todo := [tileW 0, tileW 1] }
def partBuild : Part := { build := some buildW, epochs := [{ epochW .building [] with tiles := [tileW 0, tileW 1] }] }

/-- The first of two banks, with a column that failed, and with more columns than spares. -/
theorem holds_programming :
    (∃ x, (chipOn partBuild).part 0 = some x ∧ (someAnd x.build (fun b => b == buildW && someAnd (x.epochNo b.epoch) (fun e => !e.repair &&
        b.todo.all (fun u => decide (roundOf (e.tiles.filter (fun u => u.run == e.num)) (tileW 0) ≤ roundOf (e.tiles.filter (fun u => u.run == e.num)) u))) &&
      b.todo.find? (fun t => t.array == 0 && t.bank == 0) == some (tileW 0) && decide (b.todo.filter (· != tileW 0) ≠ []))) = true) ∧
    wordsIn (chipOn partBuild).ue (tileW 0).bytes = [] ∧ ((chipOn partBuild).buildRemap 0 ({} : Bank).merged [1023]).ok = true ∧
    ((chipOn partBuild).buildRemap 0 ({} : Bank).merged (List.range 17)).ok = false :=
  ⟨someAnd_of (by decide +kernel), by decide +kernel, by decide +kernel, by decide +kernel⟩

/-- Switches with a step running and with none, and a retirement asked for; an epoch nothing selects, and a deadline that is now. -/
theorem holds_epochs :
    (∃ p x k rest, (chipW { epochs := [epochW .ready []], run := some {} } 0x13 recEpoch).Starts 1 0x13 (fun _ => true) p x k rest ∧
      (bytesZero k.record 4 63 && someAnd (x.epochNo 1) (fun e => decide (e.state = .ready)) && (x.epochIn .retiring).isNone && x.run.isSome) = true) ∧
    (∃ p x k rest, (chipW { epochs := [epochW .ready []] } 0x13 recEpoch).Starts 1 0x13 (fun _ => true) p x k rest ∧
      (bytesZero k.record 4 63 && someAnd (x.epochNo 1) (fun e => decide (e.state = .ready)) && (x.epochIn .retiring).isNone && x.run.isNone &&
        x.switch.isEmpty) = true) ∧
    (∃ p x k rest, (chipW { epochs := [epochW .retiring []] } 0x14 recEpoch).Starts 1 0x14 (fun _ => true) p x k rest ∧
      (bytesZero k.record 4 7 && bytesZero k.record 16 63 && someAnd (x.epochNo 1) (fun e => decide (e.state = .retiring))) = true) ∧
    (∃ e, ({ epochs := [{ epochW .retiring [] with retireAsked := true }] } : Part).epochIn .retiring = some e ∧ e.retireAsked = true) ∧
    ({ epochs := [{ epochW .retiring [] with retireAsked := true }] } : Part).pinnedTo 1 = false ∧
    (chipOn { epochs := [{ epochW .retiring [] with retireAsked := true }] }).selects 0 { epochs := [{ epochW .retiring [] with retireAsked := true }] } 1 = false ∧
    (∃ d, ({ epochW .retiring [] with retireAsked := true, retireAt := some 0 } : Epoch).retireAt = some d ∧ decide (d ≤ (chipOn {}).now) = true) :=
  ⟨starts_of (by decide +kernel), starts_of (by decide +kernel), starts_of (by decide +kernel), someAnd_of (by decide +kernel), by decide +kernel,
    by decide +kernel, someAnd_of (by decide +kernel)⟩

/-- A live image whose check is due, its digest right or not; a bank in force; a refresh at its bank's head. -/
def chipCheckW : Chip :=
  { at_ (chipBytes (chipOn { epochs := [{ epochW .inForce imageHash with tiles := [tileW 0] }] }) imageBytes) (3600 * 10 ^ 9 * 24) with
    banks := [((0, 0), { layer := some 0, refreshing := [1043] })] }

theorem check_digest : imageDigest chipCheckW.mem = imageHash := by
  rw [imageHash, show chipCheckW.mem = (chipBytes (chipOn {}) imageBytes).mem by decide +kernel]

theorem holds_periodic :
    (∃ x, chipCheckW.part 0 = some x ∧ (someAnd (x.epochNo 1) (fun e => decide (e.state = .inForce) && x.runLive 1 &&
      decide (e.lastCheck + 3600 * 10 ^ 9 * chipCheckW.field (rg .wgtDigestCfg 0) 7 0 ≤ chipCheckW.liveTime))) = true) ∧
    imageDigest chipCheckW.mem = imageHash ∧ sha256Of [] ≠ zeros32 ∧ chipCheckW.power.state = .live ∧
    (∃ x, chipCheckW.part 0 = some x ∧ (x.bankHeld 0 0 && x.bankInForce 0 0) = true) ∧ [1030].filter (chipCheckW.bank 0 0).inUse = [] ∧
    [1043].filter (chipCheckW.bank 0 0).inUse ≠ [] ∧ chipCheckW.refreshRuns 0 = some (0, 1043) ∧ wordsIn chipCheckW.ue ((chipCheckW.bank 0 0).imageOf 1043) = [] :=
  ⟨someAnd_of (by decide +kernel), check_digest, by decide +kernel, by decide +kernel, someAnd_of (by decide +kernel), by decide +kernel, by decide +kernel,
    by decide +kernel, by decide +kernel⟩

/-! Serving -/

/-- A plan of a vocabulary of 16, without templates; a record of one request with a work area at 0x800000. -/
def planBytes : List Byte := bytesWith 64 [(0, 4, 1), (4, 4, 16)]
def recServe (flags : Nat) : List Byte :=
  bytesWith 128 [(0, 1, 1), (1, 1, 2), (3, 1, 16), (6, 1, 1), (7, 1, flags), (8, 4, 1), (12, 4, 1), (16, 4, 1), (20, 4, 64), (36, 2, 1), (38, 2, 1), (40, 2, 1), (42, 2, 1),
    (44, 4, 64), (48, 8, 0x1000), (56, 8, 0x800000), (64, 4, 0x11000000), (68, 1, 1), (72, 4, 4096)]

def partServe (reqs : Tbl Nat Request) : Part := { serving := some { record := recServe 0, requests := reqs } }
def chipServe (reqs : Tbl Nat Request) (ks : List Cmd) : Chip :=
  let c := accepts (chipKv (chipOn (partServe reqs))) ks
  { c with host := { mem := Memory.write [] 0x1000 planBytes } }.write 0x800000 planBytes

theorem holds_serve_cfg :
    (∃ p x k rest, (chipServe [] [cmd 0x20 (List.replicate 48 0) (recServe 1)]).Starts 1 0x20 (fun _ => true) p x k rest ∧
      ((bytesLe k.record 7 1).testBit 0 && decide (bytesLe k.record 2 1 ≤ bytesLe k.record 3 1 ∧ bytesLe k.record 3 1 ≤ 16) && x.serving.isSome) = true) ∧
    (∃ p x k rest, (chipServe [] [cmd 0x20 (List.replicate 48 0) (recServe 0)]).Starts 1 0x20 (fun _ => true) p x k rest ∧
      (!(bytesLe k.record 7 1).testBit 0 && okAnd ((chipServe [] []).hostRead (bytesLe k.record 48 8) (bytesLe k.record 44 4)) (fun pl =>
          servingOk k.record ((chipServe [] []).kvCfg p).tokens && planOk pl && profilesFit k.record pl) &&
        x.range p (recPlan k.record) (bytesLe k.record 64 4) == some (0x800000, 2) && someAnd x.serving (fun v => v.requests.isEmpty) &&
        decide (2 * bytesLe k.record 8 4 ≤ (chipServe [] []).kvSeqs p ∧ recLists k.record ≤ recEnd k.record)) = true) :=
  ⟨starts_of (by decide +kernel), starts_of (by decide +kernel)⟩

def recOpen (flags : Nat) : List Byte := bytesWith 64 [(0, 8, 0x2000), (8, 4, 1), (12, 4, 1), (24, 4, 1), (55, 1, flags)]
def handle1 (fs : List (Nat × Nat × Nat)) : List Byte := bytesWith 48 ((0, 4, 0x10000) :: fs)
def reqIn (st : ReqState) (flags : Nat) : Request := { state := st, gen := 1, record := recOpen flags, inputs := 1, limit := 1 }

/-- What the commands on a request ask: the handle names entry 0, and more holds of it. -/
def reqRight (c : Chip) (p : Nat) (x : Part) (k : Cmd) (more : Serving → Request → Bool) : Bool :=
  p == 0 && !x.kvInit && someAnd x.serving (fun v => okAnd (v.entry (bytesLe k.args 0 4)) (fun n => n == 0 && more v (v.req n) && !c.reqHeld p n))

theorem holds_requests :
    (∃ p x k rest, (chipServe [] [cmd 0x21 (List.replicate 48 0) (recOpen 0)]).Starts 1 0x21 (fun _ => true) p x k rest ∧
      (someAnd x.serving (fun v => requestOk v ((chipServe [] []).plan p x v) k.record && v.role == 2 &&
        (List.range v.maxReq).find? (fun n => decide ((v.req n).state = .closed)) == some 0) &&
        okAnd ((chipServe [] []).hostRead (bytesLe k.record 0 8) (4 * bytesLe k.record 8 4)) (fun _ => true)) = true) ∧
    (∃ p x k rest, (chipServe [(0, reqIn .decode 0)] [cmd 0x22 (handle1 [(8, 8, 0x2000), (16, 4, 1)]) []]).Starts 1 0x22 (fun _ => true) p x k rest ∧
      reqRight (chipServe [(0, reqIn .decode 0)] []) p x k (fun v r => v.role != 1 && r.appendOk k.args && r.exporting.isNone) = true) ∧
    (((chipServe [(0, reqIn .opened 0)] []).afterStart 1 []).appendAct 0 0 (handle1 [(8, 8, 0x2000), (16, 4, 1)])).2 = .ok ∧
    (∃ p x k rest, (chipServe [(0, reqIn .prefill 0)] [cmd 0x23 (handle1 []) []]).Starts 1 0x23 (fun _ => true) p x k rest ∧
      reqRight (chipServe [(0, reqIn .prefill 0)] []) p x k (fun v r => r.exporting.isNone && (v.importOf 0).isNone) = true) :=
  ⟨starts_of (by decide +kernel), starts_of (by decide +kernel), by decide +kernel, starts_of (by decide +kernel)⟩

def routed (c : Chip) : Chip := { c with regs := c.regs ++ collRegs }
def importAt (due : Nat) : Import := ⟨0, { fn := 1 }, some due⟩

/-- An export that nothing holds, an import into the free slot, and limits that have come and not. -/
theorem holds_transfers :
    (∃ p x k rest, (routed (chipServe [(0, reqIn .decode 0)] [cmd 0x24 (handle1 [(4, 2, 1), (8, 1, 7)]) []])).Starts 1 0x24 (fun _ => true) p x k rest ∧
      reqRight (routed (chipServe [(0, reqIn .decode 0)] [])) p x k (fun _ r => decide (bytesLe k.args 8 1 < 8) && r.state == .decode && r.exporting.isNone &&
        ((routed (chipServe [] [])).route (bytesLe k.args 4 2)).isSome) = true) ∧
    (∃ p x k rest, (routed (chipServe [(0, reqIn .opened 1)] [cmd 0x25 (handle1 [(4, 2, 1), (6, 2, 5)]) []])).Starts 1 0x25 (fun _ => true) p x k rest ∧
      reqRight (routed (chipServe [(0, reqIn .opened 1)] [])) p x k (fun v r => v.role != 0 && r.state == .opened && (r.get 55 1).testBit 0 &&
        (v.importOf 0).isNone && (routed (chipServe [] [])).keyGranted p (bytesLe k.args 6 2) &&
        (List.range (v.get 68 1)).find? (fun i => (Tbl.find? i v.imports).isNone) == some 0) = true) ∧
    Tbl.find? 0 [(0, importAt 0)] = some (importAt 0) ∧ (importAt 0).due = some 0 ∧ 0 ≤ (chipServe [] []).now ∧ (chipServe [] []).now < 1 :=
  ⟨starts_of (by decide +kernel), starts_of (by decide +kernel), by decide +kernel, by decide +kernel, by decide +kernel, by decide +kernel⟩

/-- A boundary with nothing built and one with a step to run; requests at their limit and 1 ns before it. -/
theorem holds_boundaries :
    (∃ x, (chipServe [(0, reqIn .opened 0)] []).part 0 = some x ∧ (x.run.isNone && someAnd x.serving (fun v => v.cur.isNone)) = true) ∧
    (∃ x, (chipServe [(0, reqIn .opened 0)] []).part 0 = some x ∧ (someAnd x.serving (fun v => (v.importOf 0).isNone && v.get 36 2 != 0 && v.get 38 2 != 0 &&
      v.get 40 2 != 0 && decide ((v.req 0).since + 1000000 * v.get 36 2 ≤ (at_ (chipServe [] []) 1000000).now ∧
        ¬ (v.req 0).since + 1000000 * v.get 36 2 ≤ (at_ (chipServe [] []) 999999).now))) = true) ∧
    (({ record := bytesWith 128 [(40, 2, 1)] } : Serving).role = 0) :=
  ⟨someAnd_of (by decide +kernel), someAnd_of (by decide +kernel), by decide +kernel⟩


/-! Rings and pages -/

/-- Rings 0 and 1 of function 1 with 16 entries each, polled; host memory as said. -/
def chipRings (f : Func) (l : List (Nat × List Byte)) : Chip :=
  { chipOn {} with
    regs := [(rg .ringCtrl 1, 1), (rg .ringDbBaseLo 1, 0x8000), (rg .ringSqCfg 1 0, 0x80000004), (rg .ringSqCfg 1 1, 0x80000004),
      (rg .ringCqCfg 1 0, 0x80000004), (rg .ringSqBaseLo 1 0, 0x9000), (rg .ringCqBaseLo 1 0, 0xA000), (rg .ringCqTail 1 0, 0x1000F),
      (rg .statCtrl 1, 1), (rg .statPageBaseLo 1, 0xB000)]
    funcs := [(1, { f with bme := true })]
    host := { mem := l.foldl (fun m e => m.write e.1 e.2) [] } }

/-- Tails of 15, the last index, and of 16, which ring 1 does not have; a head of 15. -/
def doorbells : List (Nat × List Byte) := [(0x8000, bytesWith 64 [(0, 2, 15), (4, 2, 16), (32, 2, 15)])]

theorem holds_doorbells :
    (∃ bs, (chipRings {} doorbells).hostRead 0x8000 64 = .ok bs ∧
      (decide (bytesLe bs 0 2 < (chipRings {} []).sqSize 1 0 ∧ (chipRings {} []).sqSize 1 1 ≤ bytesLe bs 4 2 ∧ bytesLe bs 32 2 < (chipRings {} []).cqSize 1 0 ∧
        ringDist 16 0 (bytesLe bs 32 2) ≤ ringDist 16 0 ((chipRings {} []).cqTail 1 0))) = true) ∧
    ((chipRings {} []).reg (rg .ringCtrl 1)).bit 0 = true ∧ (chipRings {} []).busMaster 1 = true ∧ (chipRings {} []).sqOn 1 1 = true ∧
    (chipRings {} []).cqOn 1 0 = true :=
  ⟨okAnd_of (by decide +kernel), by decide +kernel, by decide +kernel, by decide +kernel, by decide +kernel⟩

def readyFunc : Func := { tails := [(0, 1)], heads := [(0, 2)] }

/-- A descriptor that is accepted with its record (SHARD_COMMIT), and one that breaks a rule (opcode 0). -/
theorem holds_descriptors :
    (chipRings readyFunc []).sqReady 1 0 = true ∧ (chipRings readyFunc []).boundCq 1 0 = 0 ∧
    (∃ d, (chipRings readyFunc [(0x9000, bytesWith 64 [(0, 1, 0x12), (16, 8, 0xC000)])]).hostRead 0x9000 64 = .ok d ∧
      (decide (acceptCheck 1 d = none ∧ recordBytes (bytesLe d 0 1) = 64)) = true) ∧
    (∃ d, (chipRings readyFunc []).hostRead 0x9000 64 = .ok d ∧ (decide (acceptCheck 1 d = some .malformed)) = true) :=
  ⟨by decide +kernel, by decide +kernel, okAnd_of (by decide +kernel), okAnd_of (by decide +kernel)⟩

def doneCmd (reserved : Bool) : Completion :=
  { cq := 0, tag := 9, result := 0, cmdId := 7, sqHead := 0, status := .ok, sq := 0, more := false, opIndex := none, time := 0, reserved := reserved }

/-- A completion with its slot and one without, at the last entry of the ring. -/
theorem holds_completions :
    takeFirst (fun k : Completion => k.cq == 0) ((chipRings { waiting := [doneCmd true] } []).func 1).waiting = some (doneCmd true, []) ∧
    takeFirst (fun k : Completion => k.cq == 0) ((chipRings { waiting := [doneCmd false], heads := [(0, 2)] } []).func 1).waiting = some (doneCmd false, []) ∧
    (chipRings { waiting := [doneCmd false], heads := [(0, 2)] } []).cqRoom 1 0 = true ∧ (chipRings {} []).cqTail 1 0 + 1 = (chipRings {} []).cqSize 1 0 :=
  ⟨by decide +kernel, by decide +kernel, by decide +kernel, by decide +kernel⟩

theorem holds_pages : (chipRings { pageDue := true } []).statOn 1 = true ∧ ((chipRings { pageDue := true } []).func 1).pageDue = true ∧
    ((at_ (chipRings {} []) 1000000).func 1).lastPage + 1000 * (chipRings {} []).field (rg .statPeriodUs 1) 16 0 ≤ (at_ (chipRings {} []) 1000000).now :=
  ⟨by decide +kernel, by decide +kernel, by decide +kernel⟩

/-- Ring 2 turned on, as completion and as submission ring; a size out of range; a function that resets with a step running. -/
theorem holds_functions :
    (chipRings {} []).inert 1 = false ∧ (chipRings {} []).ringRefused 1 true 2 0x80000010 = false ∧ (chipRings {} []).ringRefused 1 false 2 0x80000004 = false ∧
    (chipRings {} []).ringRefused 1 true 2 0x80000011 = true ∧ (chipRings {} []).partOf 1 = some 0 ∧ (chipRings {} []).hostUp = true :=
  ⟨by decide +kernel, by decide +kernel, by decide +kernel, by decide +kernel, by decide +kernel, by decide +kernel⟩

/-- A command that waits, and a step whose program lies in host memory. -/
theorem holds_timeouts :
    takeFirst (fun k : Cmd => k.sq == 0 && k.cmdId == 7) ((accepts (chipOn {}) [cmd 0x31 [] []]).func 1).accepted = some (cmd 0x31 [] [], []) ∧
    (∃ r, (chipStep { req := { kind := 0 } }).running 0 = some r ∧ (decide (r.2.req.kind = 0)) = true) :=
  ⟨by decide +kernel, someAnd_of (by decide +kernel)⟩

theorem holds_queries (code : Nat) :
    takeFirst (fun k : Cmd => k.opcode == code) ((accepts (chipOn {}) [cmd code [] []]).func 1).accepted = some (cmd code [] [], []) := by
  simp [accepts, Chip.setFunc, Chip.func, Tbl.get, Tbl.set, chipOn, Tbl.find?, takeFirst, cmd]

/-! Registers -/

/-- A control processor of die 0, and the Warden's pair. -/
def cp : Agent := ⟨0, 0⟩
def pair0 : Agent := ⟨0, 2⟩

/-- Every kind of place: memory, the mailbox window, nothing, a register, one the agent may not write, and none at all. -/
theorem holds_places :
    (chipOn {}).spot (.phys cp 0) = .memory 0 ∧ (chipOn {}).spot (.phys cp (16 * hbmUnit - 1)) = .memory (16 * hbmUnit - 1) ∧
    (chipOn {}).spot (.bar0 0 0x500000) = .mailbox 0 ∧ (chipOn {}).spot (.bar0 1 0xFFFFFF) = .empty ∧
    (chipOn {}).spot (.bar0 1 0x2000) = .reg (rg .ringCtrl 1) ∧ (chipOn {}).mayWrite ⟨6, 0x30⟩ (rg .ringCtrl 1) = true ∧
    (chipOn {}).spot (.phys cp 0x30101000004) = .reg (rg .iltTorus) ∧ (chipOn {}).mayWrite cp (rg .iltTorus) = false ∧
    mapped (16 * hbmUnit) = false ∧ busErrorAt (.phys cp 0) = none := by
  decide +kernel

/-- A status register, an EVT_CLEAR register whose bit 0 selects a counter, and the pair of a status page's base. -/
theorem holds_clears :
    (chipOn {}).spot (.bar0 1 (0x100000 + RegName.engStatus.info.off)) = .reg (rg .engStatus 0) ∧ RegName.engStatus.info.w1c ≠ 0 ∧
    (chipOn {}).spot (.bar0 1 (0x100000 + RegName.engEvtClear.info.off)) = .reg (rg .engEvtClear 0) ∧
    evtBase .engEvtClear = some 0x20 ∧ RegName.engEvtClear.info.wo.testBit 0 = true ∧
    (regAt .eng 0 0x20).isSome = true ∧ (chipOn {}).governing 0 = 0 := by
  decide +kernel

theorem holds_pairs :
    (chipOn {}).spot (.bar0 1 (0x1000 + RegName.statPageBaseLo.info.off)) = .reg (rg .statPageBaseLo 1) ∧ pairHigh .statPageBaseLo = some .statPageBaseHi ∧
    (chipOn {}).spot (.bar0 1 (0x1000 + RegName.statPageBaseHi.info.off)) = .reg (rg .statPageBaseHi 1) ∧ pairLow .statPageBaseHi = some .statPageBaseLo ∧
    ({ chipOn {} with latch := [(rg .statPageBaseLo 1, 0x5000)] } : Chip).baseLocked (rg .statPageBaseHi 1) = none ∧
    Tbl.find? (rg .statPageBaseLo 1) [(rg .statPageBaseLo 1, (0x5000 : Word))] = some 0x5000 := by
  decide +kernel

/-! Handles, windows, partition registers -/

def chipHandle (base words : Nat) (key : Nat) : Chip :=
  { chipOn {} with regs := [(rg .scrHandleW0 0 0, BitVec.ofNat 32 base), (rg .scrHandleW2 0 0, BitVec.ofNat 32 words), (rg .scrWindowW0 0 0, BitVec.ofNat 32 base),
      (rg .scrWindowW2 0 0, BitVec.ofNat 32 words), (rg .scrWindowW4 0 0, BitVec.ofNat 32 key), (rg .iltKeys 0 1, 0x8000)] }

/-- A handle closed, one that names 64 bytes of HBM, one of region 3; a window closed, a legal one, and one whose key is not granted. -/
theorem holds_handles :
    ((0 : Word).field 2 1 ≠ 3 ∧ (0 : Word).bit 0 = false) ∧ ((5 : Word).field 2 1 = 2 ∧ (5 : Word).bit 0 = true) ∧ (7 : Word).field 2 1 = 3 ∧
    ((chipHandle 0x1000 1 5).plainWrite (rg .scrHandleW3 0 0) 5).reg (rg .scrHandleW3 0 0) = 5 ∧
    ({} : Part).buffer 0 0x1000 64 = some (0x1000, 2) ∧ ({} : Part).ownsHandle 0 = false ∧ ({} : Part).ownsWindow 0 = false ∧
    ((chipHandle 0x1000 1 5).plainWrite (rg .scrWindowW5 0 0) 1).reg (rg .scrWindowW5 0 0) = 1 ∧ (chipHandle 0x1000 1 5).keyGranted 0 5 = true ∧
    (chipHandle 0x1000 1 6).keyGranted 0 6 = false := by
  decide +kernel

/-- A cache without a VALID sequence and one with; an image region that fits and one that does not. -/
theorem holds_controls :
    (∃ r, regAt .kv 0 RegName.kvPoolPages.info.off = some r ∧ decide (r = rg .kvPoolPages 0) = true) ∧
    (∃ r, regAt .wgt 0 RegName.wgtImageSize.info.off = some r ∧ decide (r = rg .wgtImageSize 0) = true) ∧
    (chipOn {}).anyValid 0 {} = false ∧ ((chipOn {}).plainWrite (rg .kvPoolPages 0) 0).kvConfigOk 0 {} = true ∧
    ((chipOn {}).plainWrite (rg .kvPoolPages 0) 1).kvConfigOk 0 {} = false ∧ (chipKv (chipOn {})).anyValid 0 {} = true ∧
    ((chipOn {}).plainWrite (rg .wgtImageSize 0) 1).imageRegionOk 0 {} = true ∧ ((chipOn {}).plainWrite (rg .wgtImageSize 0) 0xFFFFFFFF).imageRegionOk 0 {} = false :=
  ⟨someAnd_of (by decide +kernel), someAnd_of (by decide +kernel), by decide +kernel, by decide +kernel, by decide +kernel, by decide +kernel, by decide +kernel, by decide +kernel⟩


/-! Partitions, keys, the Warden -/

def reqPf : MbxReq := ⟨.pf, 5⟩

/-- A part whose Warden is free, with one partition, keys 5 to 7 and 9 to 21 granted to it and a window with key 5. -/
def chipKeys : Chip :=
  { chipOn { windows := [(0, [0x1000, 0, 1, 0, 5, 1])] } with
    units := [(0, (.active, 0)), (1, (.failed, 0))],
    regs := (rg .iltKeys 0 1, 0x80808000) :: (List.range 3).map (fun i => (rg .iltKeys 0 (2 + i), 0x80808080)) }

theorem serves_keys : State.Serves { chip := chipKeys } reqPf := ⟨by decide, by decide, by decide⟩
theorem serves_none : State.Serves { chip := { chipOn {} with units := [], parts := [] } } reqPf := ⟨by decide, by decide, by decide⟩

/-- All 16 units, the last one; no mask and one with a gap; a unit that is not FREE and an open unlock; no partition; a scrub of units and of one. -/
theorem holds_partitions :
    (∀ v, v < 16 → (Chip.unit { chipOn {} with units := [], parts := [] } v).1 = .free) ∧
    ((0b101 : Nat).testBit 0 = true ∧ (0b101 : Nat).testBit 1 = false ∧ (0b101 : Nat).testBit 2 = true ∧ 0b101 < 2 ^ 16) ∧
    (chipKeys.unit 0).1 ≠ .free ∧ (chipKeys.unit 1).1 = .failed ∧ (chipKeys.unit 15).1 ≠ .failed ∧ (chipKeys.part 0).isSome = true ∧
    chipKeys.part 1 = none ∧
    Chip.scrubUnits { chipKeys with scrub := some (reqPf, 1, true) } 1 = [1] ∧
    Chip.scrubUnits { chipOn {} with units := [(3, (.scrubbing, 3)), (4, (.scrubbing, 3))], scrub := some (reqPf, 3, false) } 3 = [3, 4] := by
  decide +kernel

/-- Key 22, the next that may be granted; 0; 5, granted; partition 1, which is none; 16 keys held. -/
theorem holds_keys :
    chipKeys.keyValid 22 = false ∧ chipKeys.keyValid 5 = true ∧ chipKeys.keyValid 0xFFFF = false ∧ (chipKeys.keysOf 0).length = 15 ∧
    (Chip.keysOf { chipKeys with regs := (rg .iltKeys 0 5, 0x80) :: chipKeys.regs } 0).length = 16 ∧
    Chip.keyValid { chipKeys with regs := (rg .iltKeys 0 5, 0x80) :: chipKeys.regs } 21 = false ∧
    registerRange 0x30110000000 = false ∧ registerRange 0x30101000000 = true ∧ physSpot 0x30101000004 = .reg (rg .iltTorus) ∧
    pairLow .iltTorus = none ∧ physSpot 0x3F000010000 = .reg (rg .partUnit 0 0) ∧ RegName.partUnit.info.block ∉ [Block.link, .ilt] := by
  decide +kernel

def chipStandby (v : Word) : Chip := { at_ (chipOn {}) 1000000 with regs := [(rg .safeWStatus, v)] }

/-- A healthy standby and none; a checkpoint that is due; a processor that restarts and one that does not; settings that are due. -/
theorem holds_warden :
    (chipStandby 2).standby = true ∧ (chipStandby 0).standby = false ∧ (chipStandby 3).standby = false ∧
    State.wardenHalted { chip := chipStandby 2 } = false ∧ (chipStandby 2).powered = true ∧ ({} : Warden).lastCheckpoint + 1000000 ≤ (chipStandby 2).now ∧
    (⟨2, 3⟩ : Agent).num ≠ 2 ∧ (⟨7, 2⟩ : Agent).num = 2 ∧ (chipServe [] []).powered = true ∧ ((chipServe [] []).srv 0).isSome = true ∧
    (0 < 8 ∧ (0xFF : Nat) < 255 + 1 ∧ 8 ≤ (8 : Nat) ∧ (254 : Nat) < 255) := by
  decide +kernel


/-! Debug, update -/

/-- A public key: twice the base point. -/
def pubX : Nat := 0x8d999057ba3d2d969260045c55b97f089025959a6f434d651d207d19fb96e9e4fe0e86ebe0e64f85b96a9c75295df61
def pubY : Nat := 0x8e80f1fa5b1b3cedb7bfe8dffd6dba74b275d875bc6cc43e904e505f256ab4255ffd43e94d39e22d61501e700a940e80
def sigR : Nat := 0x77a41d4606ffa1464793c7e5fdc7d98cb9d3910202dcd06bea4f240d3566da6b408bbae5026580d02d7e5c70500c831
def pubBytes : List Byte := leBytes 48 pubX ++ leBytes 48 pubY

/-- A token of SCOPE 7 that expires after a second, signed for UID 0 and nonce 0. -/
def token : List Byte :=
  bytesWith 48 [(0, 1, 7), (8, 8, 1000000000)] ++
    leBytes 48 sigR ++ leBytes 48 0x9fe4eecc2807bc090efadfba364f5cb6f42ddd6471a050c33a10fa519e847b4e692d7078b94b35c46a0b762b66a6eca2 ++ pubBytes

def fusesTok : Fuses := { dbgKeys := [(0, sha384Of pubBytes)] }

theorem token_right : tokenOk fusesTok zeros32 token 999999999 = true := by decide +kernel

/-- Six images of one byte 0 each, of VERSION 3 and ROLLBACK 1. -/
def zeroHash : List Byte := beBytes 48 0xbec021b4f368e3069134e012c2b4307083d3a9bdd206e24e5f0d86e13d6636655933ec2b413465966817a9c208a11717
def manifestBytes : List Byte :=
  bytesWith 256 [(0, 4, 0x4E414D5A), (4, 1, 1), (6, 1, 6)] ++ pubBytes ++ List.replicate 160 0 ++
    (List.range 6).flatMap (fun i => bytesWith 16 [(0, 1, i + 1), (1, 1, 1), (4, 4, 3), (8, 4, 0x1000 * (i + 1)), (12, 4, 1)] ++ zeroHash) ++
    leBytes 48 sigR ++ leBytes 48 0x94810a1000930853ede5314d16f5646b32472f7b96f4c8075b55a082ea77ab5d296507b90343a27acc5545b53e7c270a

/-- Flash with slot B so written, and the key of the fuses' slot 0. -/
def flashB : Memory := Memory.write [] 0x2000000 manifestBytes
def fusesFw : Fuses := { fwKeys := [(0, sha384Of pubBytes)] }

theorem manifest_length : manifestBytes.length = 992 := by decide +kernel

theorem manifest_read : manifest flashB 1 = manifestBytes := by
  rw [manifest, ← manifest_length, flashB]
  exact Memory.read_write_same manifestBytes _ rfl

theorem manifest_entries : (entries manifestBytes).all (fun e =>
    decide (992 ≤ entryOffset e) && entryBytes e == 1 && e.drop 16 == zeroHash && entryVersion e == 3 && entryRollback e == 1) = true := by decide +kernel

theorem image_read (k : Nat) (h : 992 ≤ k) : flashB.read (slotBase 1 + k) 1 = [0] := by
  have hb : flashB.byte (slotBase 1 + k) = 0 := by
    rw [flashB, Memory.byte_write manifestBytes 0x2000000 _ rfl, manifest_length, if_neg (by simp [slotBase]; omega)]
    rfl
  simp [Memory.read, hb]

theorem manifest_layout : layoutOk manifestBytes = true := by decide +kernel
theorem manifest_key : keyOk fusesFw.fwKeys fusesFw.fwRevoked (bytesLe manifestBytes 12 1) ((manifestBytes.drop 256).take 96) = true := by decide +kernel
theorem manifest_signed : signed ((manifestBytes.drop 256).take 96) ((manifestBytes.drop 896).take 96) (manifestBytes.take 896) = true := by decide +kernel
theorem zero_digest : sha384Of [0] = zeroHash := by decide +kernel

theorem slot_right : slotFault flashB fusesFw 1 = none := by
  have he := manifest_entries
  simp only [List.all_eq_true, Bool.and_eq_true, decide_eq_true_eq, beq_iff_eq] at he
  have h1 : (entries manifestBytes).all (fun e => sha384Of (flashB.read (slotBase 1 + entryOffset e) (entryBytes e)) == e.drop 16) = true := by
    simp only [List.all_eq_true, beq_iff_eq]
    intro e hm
    obtain ⟨⟨⟨⟨ho, hn⟩, hd⟩, -⟩, -⟩ := he e hm
    rw [hn, image_read _ ho, hd, zero_digest]
  have h2 : (entries manifestBytes).all (fun e => decide (Tbl.get 0 (entryKind e) fusesFw.rollback ≤ entryRollback e)) = true := by
    simp [fusesFw, Tbl.get, Tbl.find?]
  rw [slotFault, manifest_read]
  simp only [manifest_layout, manifest_key, manifest_signed, h1, h2, Bool.not_true, Bool.false_eq_true, if_false]

/-- A server whose challenge is open, with nothing ACTIVE and with an ACTIVE unit. -/
def stateDbg (us : Tbl Nat (UnitState × Nat)) (d : Debug) : State :=
  { chip := { chipOn {} with units := us, parts := [] }, sys := { fw := { fuses := fusesTok }, dbg := d } }

/-- Seven attempts failed, and eight; a token that is right and one that is not; an unlock that ends. -/
theorem holds_debug :
    State.Serves (stateDbg [] { attempts := 7 }) reqPf ∧ ({ attempts := 7 } : Debug).attempts < 8 ∧ 8 ≤ ({ attempts := 8 } : Debug).attempts ∧
    State.Serves (stateDbg [(15, (.active, 15))] { challenge := some (zeros32, 0) }) reqPf ∧
    (∃ u ∈ (stateDbg [(15, (.active, 15))] {}).chip.units, u.2.1 = .active) ∧
    (stateDbg [] { challenge := some (zeros32, 0) }).sys.dbg.challenge = some (zeros32, 0) ∧ (¬ ∃ u ∈ (stateDbg [] {}).chip.units, u.2.1 = UnitState.active) ∧
    tokenOk fusesTok zeros32 token 999999999 = true ∧ tokenOk fusesTok zeros32 (token.set 0 1) 0 = false ∧
    (at_ (chipOn {}) 60000000000).now = 60000000000 ∧ ({ unlocked := true, expiry := 60000000000 } : Debug).unlocked = true :=
  ⟨⟨by decide, by decide, by decide⟩, by decide, by decide, ⟨by decide, by decide, by decide⟩, ⟨(15, (.active, 15)), by decide, rfl⟩, rfl, by decide, token_right,
    by decide +kernel, by decide +kernel, rfl⟩

/-- A running part whose flash holds slot B, with an update of it open or not, and images of a version in force. -/
def stateFwu (u : Option Update) (version : Nat) : State :=
  { chip := { chipOn {} with funcs := [(0, { bme := true })] }
    sys := { fw := { flash := flashB, fuses := fusesFw, update := u, images := [(1, (version, 1))] } } }

theorem fwu_flash (u : Option Update) (v : Nat) : (stateFwu u v).sys.fw.flash = flashB := by simp only [stateFwu]

theorem older_images (w : Firmware) (h : w.flash = flashB) : olderImage w 1 =
    ((entries manifestBytes).map (fun e => (entryKind e, entryVersion e, entryRollback e))).any (fun e => decide (e.2.1 < (Tbl.get (0, 0) e.1 w.images).1)) := by
  rw [olderImage, slotImages, h, manifest_read]

/-- An update that is verified, one that is not, one under trial and none; a slot that passes, one that fails, and one with older images; ranges. -/
theorem holds_updates :
    (stateFwu none 3).wardenServes = true ∧ fromProcessor reqPf = false ∧ (stateFwu none 3).sys.fw.flash.wf = true ∧
    (directory (stateFwu none 3).sys.fw.flash).2.1 + 1 < 2 ^ 32 ∧ pendingSlot (stateFwu none 3).sys.fw.flash = none ∧
    fwuRangeOk 0xF00000 0x100000 0x1000 = true ∧ fwuRangeOk 0xF01000 0x100000 0x1000 = false ∧ (stateFwu none 3).chip.busMaster 0 = true ∧
    (∃ bs, (stateFwu none 3).chip.hostRead 0x1000 0 = .ok bs ∧ (decide (bs = [])) = true) ∧
    slotFault flashB fusesFw 1 = none ∧ slotFault [] fusesFw 1 = some .malformed ∧ olderImage (stateFwu none 4).sys.fw 1 = true ∧
    olderImage (stateFwu none 3).sys.fw 1 = false := by
  have hw : flashB.wf = true := Memory.write_wf _ _ rfl
  refine ⟨by decide, by decide, by rw [fwu_flash]; exact hw, by decide +kernel, by decide +kernel, by decide, by decide, by decide, okAnd_of (by decide +kernel), slot_right,
    by decide +kernel, ?_, ?_⟩ <;> rw [older_images _ (fwu_flash _ _)] <;> decide +kernel


/-! Telemetry, temperature, power -/

/-- Converters A and B of die 0 before their channels a and b, with sensor 23 at a temperature. -/
def chipTelem (a b : Nat) (temp : Int) (sns : Sensor) : Chip :=
  { chipOn {} with telem := [((0, 0), { chan := a }), ((0, 1), { chan := b })], sensors := [((0, 23), { sns with temp := temp, valid := true })] }

/-- Channels 26 and 47 of B; sensor 23 of A, cool, hot once and hot twice; both codes at the edge of channel 0; urgent channels; readings of a capture. -/
theorem holds_sensors :
    (chipTelem 24 26 0 {}).powered = true ∧ ((chipTelem 24 26 0 {}).telemOf 0 1).chan = 26 ∧ ((chipTelem 24 47 0 {}).telemOf 0 1).chan = 47 ∧
    ((chipTelem 24 26 0 {}).telemOf 0 0).chan = 23 + 1 ∧ ((chipTelem 24 26 1700 {}).sensor 0 23).code ≠ 2600 ∧ ((chipTelem 24 26 0 {}).sensor 0 23).apart < 15 ∧
    (chipTelem 24 26 0 {}).tempOf 0 ((chipTelem 24 26 0 {}).telemOf 0 0) 2600 = 1723 ∧ (chipTelem 24 26 0 {}).tempOf 0 ((chipTelem 24 26 0 {}).telemOf 0 0) 2500 = 1489 ∧
    1680 ≤ ((chipTelem 24 26 1700 {}).sensor 0 23).temp ∧ ((chipTelem 0 26 0 {}).telemOf 0 0).chan = 0 ∧ ((1983 : Int) < 1984 ∧ 2112 < (2113 : Int)) ∧
    scans 0 false 25 = true ∧ scans 1 false 47 = true ∧ scans 0 true 47 = true ∧
    Tbl.find? 3 ({ chipOn {} with senseZero := [(3, 10)] } : Chip).senseZero = some 10 ∧ Tbl.find? 0 ({ chipOn {} with senseZero := [(3, 10)] } : Chip).senseZero = none ∧
    1000 ≤ rheInt (List.replicate 256 1010).sum 256 - 10 ∧ rheInt (List.replicate 256 1009).sum 256 - 10 < 1000 ∧
    (List.replicate 256 (1009 : Int)).length = 256 := by
  decide +kernel

def chipHeat (st : ThermState) (level : Nat) (pkg : Int) : Chip :=
  { at_ (chipOn {}) 1000000 with therm := { state := st, level := level, pkg := pkg, graceEnd := 1000000 } }

def chipPower (st : PowerState) (cfg : Word) (t : Nat) : Chip :=
  { at_ (chipOn {}) t with power := { (chipOn {}).power with state := st }, regs := [(rg .pwrCfg, cfg)] }

/-- A grace that ends; levels 7 and 1, hot, cool and between; average power at its limit, above, 5 % below; idle time that ends. -/
theorem holds_heat :
    (chipHeat .warned 0 1600).powered = true ∧ (chipHeat .warned 0 1600).therm.graceEnd ≤ (chipHeat .warned 0 1600).now ∧
    State.wardenHalted { chip := chipHeat .enforcing 7 1521 } = false ∧ (chipHeat .enforcing 7 1521).therm.lastTick + 1000000 ≤ (chipHeat .enforcing 7 1521).now ∧
    (0 < (chipHeat .enforcing 1 1407).therm.level ∧ (chipHeat .enforcing 1 1407).therm.pkg < 1408) ∧
    (chipHeat .normal 0 0).field (rg .pwrLimit) 10 0 = 1500 ∧ ((1500 : Nat) < 1501 ∧ (1501 : Nat) < 2048) ∧ (100 * 1425 ≤ 95 * 1500 ∧ 95 * 1500 < 100 * 1426) ∧
    (chipPower .live 0x80000001 1000).powered = true ∧ ((chipPower .live 0x80000001 1000).reg (rg .pwrCfg)).bit 31 = true ∧ (chipPower .live 0x80000001 1000).idle = true ∧
    (chipPower .live 0x80000001 1000).power.idleSince + 1000 * (chipPower .live 0x80000001 1000).field (rg .pwrCfg) 15 0 ≤ (chipPower .live 0x80000001 1000).now ∧
    (chipPower .eve 0x80010001 1000000).power.awayFrom + 1000000 * (chipPower .eve 0x80010001 1000000).field (rg .pwrCfg) 27 16 ≤
      (chipPower .eve 0x80010001 1000000).now := by
  decide +kernel

/-- Live and idle, Live and busy, Eve, Vigil, Solstice with and without a trip; the least and the greatest limits. -/
theorem holds_package :
    State.Serves { chip := chipPower .live 0 0 } reqPf ∧ (chipPower .live 0 0).idle = true ∧ (chipStep {}).idle = false ∧ State.Serves { chip := chipStep {} } reqPf ∧
    State.Serves { chip := chipPower .eve 0 0 } reqPf ∧ State.Serves { chip := chipPower .solstice 0 0 } reqPf ∧ ({} : Pins).thermtripN = true ∧
    ({ thermtripN := false } : Pins).thermtripN = false ∧ (0x10001 : Word).field 27 16 ≠ 0 ∧ (0x10001 : Word).field 15 0 ≠ 0 ∧ (0xF0000001 : Word).field 27 16 = 0 ∧
    (0x8FFF0000 : Word).field 15 0 = 0 ∧ (300 ≤ 1500 ∧ 299 < 300 ∧ 1500 < 1501 ∧ 65535 < 2 ^ 16) :=
  ⟨⟨by decide, by decide, by decide⟩, by decide, by decide, ⟨by decide, by decide, by decide⟩, ⟨by decide, by decide, by decide⟩,
    ⟨by decide, by decide, by decide⟩, by decide, by decide, by decide, by decide, by decide, by decide, by decide⟩

/-- A word of unit 1 is poisoned: a read of its last byte meets it, one of the next word does not. -/
theorem holds_poison : wordsIn [hbmUnit] [((hbmUnit + 7) / 8 * 8, hbmUnit + 7 + 1)] ≠ [] ∧
    wordsIn [hbmUnit] [((hbmUnit + 8) / 8 * 8, hbmUnit + 8 + 8)] = [] ∧ unitAt (hbmUnit + 7) = 1 ∧
    physSpot (hbmUnit + 7) = .memory (hbmUnit + 7) := by decide

/-- Before READY, after it, and unlocked; processors that SCOPE covers, halted or not; the last breakpoint; HBM and nothing at an address. -/
theorem holds_testport :
    ({ porstN := true } : Pins).porstN = true ∧ ({} : Debug).readySeen = false ∧ ({ readySeen := true, unlocked := true } : Debug).unlocked = true ∧
    (4 : Nat).testBit (if (⟨7, 2⟩ : Agent).num = 2 then 2 else if (⟨7, 2⟩ : Agent).num < 5 then 0 else 1) = true ∧
    (2 : Nat).testBit (if (⟨1, 0x11⟩ : Agent).num = 2 then 2 else if (⟨1, 0x11⟩ : Agent).num < 5 then 0 else 1) = true ∧
    cp ∉ ({} : Debug).halted ∧ cp ∈ ({ halted := [cp] } : Debug).halted ∧ (3 : Nat) < (if false then 2 else 4) ∧ (1 : Nat) < (if true then 2 else 4) ∧
    mapped (16 * hbmUnit) = false ∧ physSpot (16 * hbmUnit - 1) = .memory (16 * hbmUnit - 1) ∧ (chipOn {}).power.inReset = false := by
  decide +kernel

/-! Calibration, the in-field test -/

def bankW : Part := { epochs := [{ epochW .inForce [] with tiles := [tileW 0] }], commits := 5 }
def slotW (array : Nat) (source : CalSource) (codes : List (Nat × Int)) : CalSlot := ⟨array, 0, 0, 0, [], source, codes⟩

/-- The readings that an Accord of an engine whose banks hold no epoch needs. -/
def slotsW (e : Nat) : List CalSlot := [0, 1, 2, 3].flatMap (fun pos => List.replicate 256 (slotW (4 * e + pos) .zero []))

/-- A slot that reads 9 of column 5, or of converter 5 with the zero reference: the fourth bad one of the column. -/
def slotChip : Chip := { chipOn bankW with engines := [(0, { readings := [((0, 0, 5), 3)] })] }

/-- An engine of no bank that has its readings. -/
def readyChip : Chip := { chipOn {} with engines := [(511, { slots := slotsW 511 })] }

/-- The edge of a reading: 8 LSB of a column is right, 9 is too far; the zero reference 4 and 5 off; a partition with a step and without one;
an engine with the readings it needs and with none. -/
theorem holds_engines :
    (readyChip.takeSlots 511 []).accordDue 511 = true ∧ (readyChip.takeSlots 511 []).measuredEnough 511 = true ∧ (chipOn {}).warden = ⟨0, 2⟩ ∧
    (chipOn {}).measuredEnough 511 = false ∧ Chip.accordDue { chipOn {} with engines := [(0, { ready := some {}, readyAt := 0 })] } 0 = false ∧
    ((Chip.ownerOfUnit (chipStep {}) 0).bind (chipStep {}).part).any (fun x => x.run.isSome) = true ∧
    ((Chip.ownerOfUnit (chipOn {}) 0).bind (chipOn {}).part).any (fun x => x.run.isSome) = false ∧
    bankW.bankHeld 0 0 = true ∧ bankW.bankInForce 0 0 = true ∧ (chipOn bankW).powered = true ∧ (chipOn bankW).power.state = .live ∧
    slotChip.liveBanks 0 = [(0, 0)] ∧ slotChip.ownerOfUnit 0 = some 0 ∧
    ((0, 0, 5), true) ∈ slotChip.slotUnits (slotW 0 .columns [(5, 9)]) ∧ (slotChip.engine 0).detects (0, 0, 5) = true ∧
    (∀ u ∈ slotChip.slotUnits (slotW 0 .columns [(5, -8)]), u.2 = false) ∧
    ((0, 2, 5), true) ∈ slotChip.slotUnits (slotW 0 .zero [(5, 5)]) ∧ (∀ u ∈ slotChip.slotUnits (slotW 0 .zero [(5, -4)]), u.2 = false) ∧
    ({ iftRun := true } : Part).iftRun = true ∧ ({ iftSince := 4096 } : Part).iftDue = true ∧
    [TestFault.engine 511, .converter 2047 521, .row 0, .fixative 7, .stream 1].filter (fun f => decide (0 ≤ faultUnit f ∧ faultUnit f < 0 + 1)) ≠ [] ∧
    [TestFault.engine 512].filter (fun f => decide (0 ≤ faultUnit f ∧ faultUnit f < 0 + 1)) = [] ∧
    (at_ (chipOn {}) 1000000000).unownedTest + 1000000000 ≤ (at_ (chipOn {}) 1000000000).now ∧ (chipOn {}).ownerOfUnit 1 = none := by
  decide +kernel


/-! Ports, flows, packets -/

def be (n v : Nat) : List Byte := beBytes n v

/-- Chip 2 with port 0 up: send flow 3 to chip 1 and receive flow 4,096, that chip's flow 9; key 5 is granted, and a window at 0x10000 admits it. -/
def chipFab (x : Part) (sf rf : Flow) : Chip :=
  { chipOn { x with windows := [(0, [0x10000, 0, 64, 0xFFFF0000, 5, 7])] } with
    regs := [(rg .iltChip, 2), (rg .iltKeys 0 1, 0x8000)], fab := { ports := [(0, { up := true })], flows := [(3, sf), (4096, rf)] } }

def sendFlow : Flow := { peer := 1, id := 3, key := 5, opened := true }
def recvFlow : Flow := { peer := 1, id := 9, opened := true }

def pkt (typ : Nat) (flow : Nat) (more : Packet → Packet) : Packet := more { typ := typ, dst := 2, src := 1, flow := flow, key := 5 }
def frameOf (k : Packet) : Frame := ⟨0, true, 0, false, 0, 0, true, k.bytes⟩

/-- The port takes the frame of a packet for this chip. -/
def gets (c : Chip) (k : Packet) : Bool := (c.portRx (frameOf k)).2 && parsePacket (frameOf k).bytes == some k && k.dst == c.chipNumber

theorem gets_of {c : Chip} {k : Packet} (h : gets c k = true) : c.Gets (frameOf k) k := by
  simp only [gets, Bool.and_eq_true, beq_iff_eq] at h
  exact ⟨h.1.1, h.1.2, h.2⟩

/-- The packet is the next of receive flow 4,096. -/
def inTurn (c : Chip) (k : Packet) (x : Flow) : Bool :=
  gets c k && c.rxFlow k.src k.flow == some 4096 && c.flow 4096 == some x && k.psn == x.expect && decide (k.psn < 2 ^ 32) &&
  x.held.isEmpty && x.block.isEmpty && c.headerFits k && lengthField (frameOf k).bytes == k.data.length

theorem inTurn_of {c : Chip} {k : Packet} {x : Flow} (h : inTurn c k x = true) : c.InTurn (frameOf k) k 4096 x := by
  simp only [inTurn, Bool.and_eq_true, beq_iff_eq, List.isEmpty_iff, decide_eq_true_eq] at h
  obtain ⟨⟨⟨⟨⟨⟨⟨⟨h1, h2⟩, h3⟩, h4⟩, h5⟩, h6⟩, h7⟩, h8⟩, h9⟩ := h
  exact ⟨gets_of h1, h2, h3, h4, h5, ⟨h6, h7⟩, h8, h9⟩

/-- An OPEN with room, with the table full and while the chip drains; an OPEN_ACK; a CLOSE. -/
def openPkt := pkt 1 10 (fun k => { k with ext := be 4 0x6F ++ be 4 0 })
def ackPkt := pkt 2 3 (fun k => { k with ext := be 4 0x6F ++ be 4 0 })
def closedFlow : Flow := { sendFlow with opened := false, busy := true }

theorem holds_flows :
    (chipFab {} sendFlow recvFlow).Gets (frameOf openPkt) openPkt ∧ (chipFab {} sendFlow recvFlow).rxFlow 1 10 = none ∧
    ((chipFab {} sendFlow recvFlow).freeFlow 4096).isSome = true ∧ ((chipFab {} sendFlow recvFlow).reg (rg .iltChip)).bit 16 = false ∧
    ((0x10002 : Word).bit 16 = true ∧ (0x10002 : Word).field 15 0 = 2) ∧
    (chipFab {} closedFlow recvFlow).Gets (frameOf ackPkt) ackPkt ∧ (chipFab {} closedFlow recvFlow).ownFlow 1 3 = some 3 ∧
    (chipFab {} closedFlow recvFlow).flow 3 = some closedFlow ∧ closedFlow.waiting = [] ∧
    (chipFab {} sendFlow recvFlow).Gets (frameOf (pkt 9 9 id)) (pkt 9 9 id) ∧ (chipFab {} sendFlow recvFlow).rxFlow 1 9 = some 4096 :=
  ⟨gets_of (by decide +kernel), by decide +kernel, by decide +kernel, by decide +kernel, by decide +kernel, gets_of (by decide +kernel), by decide +kernel,
    by decide +kernel, rfl, gets_of (by decide +kernel), by decide +kernel⟩

/-- The last packet of op 1 of the running step, sent as PSN 2^32 - 1 and not acknowledged. -/
def sentW (tries : Nat) : Sent := ⟨pkt 3 3 (fun k => { k with psn := 0xFFFFFFFF, data := List.replicate 64 7 }), .stepOp 0 4 1, true, 0, tries, false⟩
def stepRemote : StepCtx := { no := 4, remotes := [⟨1, [], false, 0⟩], opCount := 2, next := 2 }
def chipSent (tries : Nat) : Chip :=
  at_ (chipFab { run := some stepRemote } { sendFlow with sent := [sentW tries], psn := 0 } { recvFlow with ackDue := some 1000000 }) 1000000

theorem holds_acks :
    (chipSent 1).Gets (frameOf (pkt 7 3 id)) (pkt 7 3 id) ∧ (chipSent 1).ackedFlow 1 3 = some 3 ∧ (∃ x st, (chipSent 1).running 0 = some (x, st) ∧
      (decide (st.no = 4) && st.remotes.any (fun r => r.op == 1)) = true) ∧ psnSub (pkt 7 3 id).ack (sentW 1).pkt.psn = 1 ∧
    (∀ c : Nat × Status, c ∈ [(6, Status.malformed), (1, .denied), (2, .denied)] → bytesLe ([BitVec.ofNat 8 c.1, 0, 0, 0] ++ be 4 0xFFFFFFFF) 0 1 = c.1 ∧
      beAt ([BitVec.ofNat 8 c.1, 0, 0, 0] ++ be 4 0xFFFFFFFF) 4 4 = (sentW 1).pkt.psn ∧
      gets (chipSent 1) (pkt 8 3 (fun k => { k with ext := [BitVec.ofNat 8 c.1, 0, 0, 0] ++ be 4 0xFFFFFFFF })) = true) ∧
    ((sentW 1).at_ + (chipSent 1).rto ≤ (chipSent 1).now ∧ (sentW 1).tries < (chipSent 1).maxTries) ∧ (chipSent 16).maxTries ≤ (sentW 16).tries ∧
    (closedFlow.openAt + (chipSent 1).rto ≤ (chipSent 1).now ∧ closedFlow.openTries < (chipSent 1).maxTries) ∧
    (∃ x, (chipSent 1).flow 4096 = some x ∧ (decide (x.ackDue = some 1000000)) = true) ∧
    sendFlow.used + 10000000 ≤ (at_ (chipSent 1) 10000000).now :=
  ⟨gets_of (by decide +kernel), by decide +kernel, by
    obtain ⟨r, h1, h2⟩ := someAnd_of (r := (chipSent 1).running 0) (more := fun r => decide (r.2.no = 4) && r.2.remotes.any (fun r => r.op == 1)) (by decide +kernel)
    exact ⟨r.1, r.2, h1, h2⟩, by decide +kernel, by decide +kernel, by decide +kernel, by decide +kernel, by decide +kernel, someAnd_of (by decide +kernel),
    by decide +kernel⟩

/-- A WRITE that arrives at counter 7, one at none, a READ_REQ, a COLL of group 77; a WRITE with a key of nobody; one of an unknown flow; a READ_RESP. -/
def writePkt (flow arrive key : Nat) := pkt 3 flow (fun k => { k with flags := 1, key := key, arg := be 1 arrive ++ be 1 0 ++ be 6 0x10000, data := List.replicate 64 7 })
def readPkt := pkt 4 9 (fun k => { k with arg := be 1 0xFF ++ be 1 0 ++ be 6 0x10FC0, ext := be 4 64 ++ be 4 0 })
def collPkt := pkt 6 9 (fun k => { k with flags := 1, arg := be 4 77 ++ be 4 0, ext := be 1 1 ++ be 1 0 ++ be 2 0 ++ be 4 64, data := List.replicate 64 7 })
def chipGroup : Chip :=
  chipBytes { chipFab {} sendFlow recvFlow with
    regs := [(rg .iltChip, 2), (rg .iltKeys 0 1, 0x8000), (rg .iltPCfg 0, 1), (rg .iltPGroupBaseLo 0, 0x20000)] }
    [(0x20000, bytesWith 128 [(0, 4, 77), (4, 2, 2), (8, 8, 0x30000), (16, 8, 0x1000), (64, 2, 2), (66, 2, 5), (68, 2, 1), (70, 2, 5)])]

theorem holds_packets :
    (chipFab {} sendFlow recvFlow).InTurn (frameOf (writePkt 9 7 5)) (writePkt 9 7 5) 4096 recvFlow ∧
    (chipFab {} sendFlow recvFlow).InTurn (frameOf (writePkt 9 0xFF 5)) (writePkt 9 0xFF 5) 4096 recvFlow ∧
    (∃ e, (chipFab {} sendFlow recvFlow).keyPart 5 = some e ∧ (decide (e.1 = 0)) = true) ∧ (chipFab {} sendFlow recvFlow).refusal (writePkt 9 7 5) = none ∧
    (writePkt 9 7 5).hasCrc = false ∧ (writePkt 9 7 5).isLast = true ∧ (writePkt 9 7 5).arrive = 7 ∧ 16 ≤ (writePkt 9 0xFF 5).arrive ∧
    (chipFab {} sendFlow recvFlow).InTurn (frameOf readPkt) readPkt 4096 recvFlow ∧ (chipFab {} sendFlow recvFlow).refusal readPkt = none ∧
    chipGroup.InTurn (frameOf collPkt) collPkt 4096 recvFlow ∧ chipGroup.refusal collPkt = none ∧
    (∃ e, chipGroup.keyPart 5 = some e ∧ someAnd (chipGroup.groupById e.1 e.2 77) (fun g => decide (g.1 = 0) && e.2.run.isNone) = true) ∧
    (chipFab {} sendFlow recvFlow).InTurn (frameOf (writePkt 9 7 6)) (writePkt 9 7 6) 4096 recvFlow ∧ (chipFab {} sendFlow recvFlow).refusal (writePkt 9 7 6) = some 1 ∧
    (chipFab {} sendFlow recvFlow).Gets (frameOf (writePkt 8 7 5)) (writePkt 8 7 5) ∧ (chipFab {} sendFlow recvFlow).rxFlow 1 8 = none ∧
    (chipFab {} sendFlow recvFlow).Gets (frameOf (pkt 5 3 (fun k => { k with data := List.replicate 64 7 }))) (pkt 5 3 (fun k => { k with data := List.replicate 64 7 })) ∧
    sendFlow.expect = 0 ∧ sendFlow.held = [] :=
  ⟨inTurn_of (by decide +kernel), inTurn_of (by decide +kernel), someAnd_of (by decide +kernel), by decide +kernel, by decide +kernel, by decide +kernel,
    by decide +kernel, by decide +kernel, inTurn_of (by decide +kernel), by decide +kernel, inTurn_of (by decide +kernel), by decide +kernel,
    someAnd_of (by decide +kernel), inTurn_of (by decide +kernel), by decide +kernel, gets_of (by decide +kernel), by decide +kernel,
    gets_of (by decide +kernel), rfl, rfl⟩

/-- Frames that a port drops, a HELLO, a TYPE that is not one, and a packet for chip 1, which link 1 reaches, or link 0, where it came from. -/
def chipPorts (rt : Word) (macsec : Word) : Chip :=
  { chipFab {} sendFlow recvFlow with
    regs := [(rg .iltChip, 2), (rg .iltRoute 0 1, rt), (rg .linkMacsecCtrl 0, macsec), (rg .linkPortCtrl 1, 1)], fab := { ports := [(0, { up := true }), (2, { up := true })] } }
def awayPkt := pkt 3 9 (fun k => { k with dst := 1, data := List.replicate 64 7 })

theorem holds_ports :
    ((chipPorts 0 0).port 0).up = true ∧ ((chipPorts 0 0).port 1).up = false ∧ (frameOf awayPkt).secured = false ∧ ((chipPorts 0 1).reg (rg .linkMacsecCtrl 0)).bit 0 = true ∧
    ((chipPorts 0 0).portRx (frameOf (pkt 0 0 id))).2 = true ∧ parsePacket (frameOf (pkt 0 0 id)).bytes = some (pkt 0 0 id) ∧
    parsePacket ({ frameOf (pkt 0 0 id) with bytes := [0x1A] ++ List.replicate 39 0 } : Frame).bytes = none ∧
    parsePacket ({ frameOf (pkt 0 0 id) with bytes := [0x20] ++ List.replicate 39 0 } : Frame).bytes = none ∧ parsePacket (frameOf awayPkt).bytes = some awayPkt ∧
    (chipPorts 0xC0001000 0).route 1 = some (1, some 0) ∧ ((chipPorts 0xC0001000 0).portOf 1).isSome = true ∧ (chipPorts 0xC0000000 0).route 1 = some (0, some 0) ∧
    (chipPorts 0 0).route 1 = none ∧ (1 < 12 ∧ ((chipPorts 0 0).reg (rg .linkPortCtrl 1)).bit 0 = true ∧ (chipPorts 0 0).field (rg .linkPortCtrl 1) 2 1 ≤ 0) ∧
    ((at_ (chipPorts 0 0) 1000000).port 0).lastHello + 1000000 ≤ (at_ (chipPorts 0 0) 1000000).now ∧
    List.find? (fun e : (Bool × Nat) × Sak => e.1.1 && ({ txAn := some 0 } : Port).txAn != some e.1.2) [((true, 0), {}), ((true, 3), { valid := true })] =
      some ((true, 3), { valid := true }) ∧
    List.find? (fun e : (Bool × Nat) × Sak => e.1.1 && ({ txAn := some 0 } : Port).txAn != some e.1.2) [((true, 0), {}), ((false, 3), {})] = none := by
  decide +kernel

/-! Interrupts, pins, the queue -/

/-- A VIC with two sources of priority 3 and one of priority 1 pending, group 0 with a hold-off. -/
def chipVic : Chip :=
  { at_ (chipOn {}) 100 with
    regs := [(rg .vicSrcCfg 0 0, 3), (rg .vicSrcCfg 0 2, 7), (rg .vicSrcCfg 0 247, 7), (rg .vicHoldoff 0 0, 5)]
    vics := [((0, 0), { pending := [0, 2, 247], holdoff := [(30, 100), (1, 101)] })] }

theorem holds_interrupts :
    vicOf cp = 0 ∧ vicWired 0 248 = false ∧ vicWired 0 63 = false ∧ vicWired 6 63 = true ∧ vicWired 0 0 = true ∧ vicWired 0 247 = true ∧
    chipVic.vicEligible 0 true 2 = true ∧ chipVic.vicWinner 0 true = some 2 ∧
    (∀ m, m < 256 → chipVic.vicEligible 0 true m = true → chipVic.vicPrio 0 m < chipVic.vicPrio 0 2 ∨ (chipVic.vicPrio 0 m = chipVic.vicPrio 0 2 ∧ 2 ≤ m)) ∧
    (∀ n, n < 256 → chipVic.vicEligible 0 false n = false) ∧ chipVic.field (rg .vicHoldoff 0 (2 / 8)) 15 0 ≠ 0 ∧
    Tbl.find? 30 (chipVic.vic 0).holdoff = some 100 ∧ 100 ≤ chipVic.timeOn 0 ∧ Tbl.find? 1 (chipVic.vic 0).holdoff = some 101 := by
  decide +kernel

/-- Die 7 behind, far ahead and without pulses; pins low and high in reset; clocks present. -/
theorem holds_pins :
    (chipOn {}).powered = true ∧ 7 < (chipOn {}).clocks.length ∧
    (Chip.clock { chipOn {} with clocks := (List.replicate 7 {}) ++ [{ now := 10001 }] } 7).lastPulse + 10000 < (Chip.clock { chipOn {} with clocks := (List.replicate 7 {}) ++ [{ now := 10001 }] } 7).now ∧
    ((chipOn {}).clock 7).now ≤ ((chipOn {}).clock 7).lastPulse + 10000 ∧ (5 + 4 < 10 ∧ ¬ (6 + 4 < 10)) ∧
    State.reset.sys.pins.porstN = false ∧ State.reset.sys.pins.pwrgd = false ∧ ({ pwrgd := true } : Pins).pwrgd = true ∧ State.reset.sys.fw.made = false ∧
    ({ made := true } : Firmware).made = true ∧ (chipOn {}).power.inReset = false ∧ State.reset.chip.power.inReset = true ∧ (chipOn {}).power.clockLost = false ∧
    State.reset.pending = [] ∧ ({ chip := chipOn {}, pending := [.pwrgdFall] } : State).pending = .pwrgdFall :: [] ∧ ((chipOn {}).clock 0).slew = 0 ∧ (chipOn {}).clocks ≠ [] := by
  decide +kernel


/-! Further conditions: what a repair, a bad word, a late request and an unfinished block need -/

/-- An image with a poisoned word and without one; a repair that programs two banks. -/
theorem holds_bad_images :
    (Chip.deviceRead { chipCommitW (epochW .building imageHash) with ue := [0x400000] } 0 [(0x400000, 0x400000 + 8192)]).2 = false ∧
    ((chipCommitW (epochW .building imageHash)).deviceRead 0 [(0x400000, 0x400000 + 8192)]).2 = true ∧
    wordsIn [0x401FF8] [(0x400000, 0x400000 + 8192)] ≠ [] ∧ wordsIn [0x402000] [(0x400000, 0x400000 + 8192)] = [] ∧
    (∃ x, (chipOn { partBuild with epochs := [{ epochW .inForce [] with tiles := [tileW 0, tileW 1], repair := true }] }).part 0 = some x ∧
      (someAnd x.build (fun b => someAnd (x.epochNo b.epoch) (fun e => e.repair) && decide (b.todo.filter (· != tileW 0) ≠ []))) = true) :=
  ⟨by decide +kernel, by decide +kernel, by decide +kernel, by decide +kernel, someAnd_of (by decide +kernel)⟩

/-- Functions: 1 exists, is not inert and its ring's turn has come; 2 is inert; without VFs 1 does not exist. -/
theorem holds_turns :
    (1, 0) ∉ (chipRings readyFunc []).served ∧ (chipRings readyFunc []).hasFunc 1 = true ∧ (chipOn {}).inert 2 = true ∧
    Chip.hasFunc { chipOn {} with numVfs := 0 } 1 = false := by decide +kernel

/-- A step that the request processor built, before its result and with it; a partition without a request. -/
theorem holds_rounds :
    ({ cur := some { draft := false, epoch := 0, entries := [], groups := [] } } : Serving).cur.isSome = true ∧ ({ fwResult := some (.ok, 0) } : Part).fwResult.isSome = true ∧
    (∃ x, (chipServe [] []).part 0 = some x ∧ (x.run.isNone && someAnd x.serving (fun v => v.cur.isNone && v.requests.isEmpty)) = true) :=
  ⟨by decide +kernel, by decide +kernel, someAnd_of (by decide +kernel)⟩

/-- A write to an empty offset of the Warden's range and one to a register, by a processor that may not. -/
theorem holds_denials :
    (chipOn {}).spot (.phys cp 0x3F000FFFFFC) = .empty ∧ (chipOn {}).denies (.phys cp 0x3F000FFFFFC) = true ∧
    (chipOn {}).denies (.phys pair0 0x3F000FFFFFC) = false ∧ (chipOn {}).denies (.phys cp 0x30101000004) = true ∧
    (chipOn {}).denies (.phys cp 0x30101000000) = true ∧ (chipOn {}).spot (.bar0 0 0xFFFFFC) = .empty ∧ (chipOn {}).spot (.bar0 0 0xFFFFF8) = .empty := by
  decide +kernel

/-- Three urgent requests and four. -/
theorem holds_urgent :
    ({ urgentWait := [0, 1, 2] } : Telem).urgentWait.length < 4 ∧ 4 ≤ ({ urgentWait := [0, 1, 2, 3] } : Telem).urgentWait.length ∧
    scans 0 ({ } : Telem).excluded 24 = true := by decide

/-- A receive flow that holds a WRITE of a block, and a packet whose block has failed its CRC once. -/
def blockFlow : Flow := { recvFlow with block := [writePkt 9 7 5], expect := 1 }

theorem holds_blocks :
    (chipFab {} sendFlow blockFlow).rxFlow 1 9 = some 4096 ∧ (chipFab {} sendFlow blockFlow).Gets (frameOf (pkt 9 9 id)) (pkt 9 9 id) ∧
    (chipFab {} sendFlow blockFlow).keyOwner 5 = some 0 ∧ ({} : Part).phys 0 0x10000 = some 0x10000 ∧ (writePkt 9 7 5).offset = 0x10000 ∧
    readPkt.offset < hbmUnit ∧ (chipFab {} sendFlow blockFlow).landing 0 [0x10000, 0, 64, 0xFFFF0000, 5, 7] = [(4096, 0)] ∧
    ({ sentW 1 with crcAgain := true } : Sent).crcAgain = true ∧
    (chipSent 1).Gets (frameOf (pkt 8 3 (fun k => { k with ext := [3, 0, 0, 0] ++ be 4 0xFFFFFFFF }))) (pkt 8 3 (fun k => { k with ext := [3, 0, 0, 0] ++ be 4 0xFFFFFFFF })) :=
  ⟨by decide +kernel, gets_of (by decide +kernel), by decide +kernel, by decide +kernel, by decide +kernel, by decide +kernel, by decide +kernel, rfl,
    gets_of (by decide +kernel)⟩

/-- A cap of 1 with partners of all modes, of mode 2 and of mode 0. -/
theorem test_training : trainedMode 1 7 = some 1 ∧ trainedMode 1 4 = some 2 ∧ trainedMode 1 1 = none := by decide

/-! The manual's worked examples -/

/-- The place in HBM after 01 R32. -/
theorem test_place : placeOf 0x9000001234 = some ⟨9, 6, 52⟩ ∧ placeOf (16 * hbmUnit) = none := by decide +kernel

/-- Narrow conversions (03 R91, after its table): 2.5, 5, 0.75 and 0.25 to E2M1; −9.3 to INT4, −200 to INT8, −∞ to both. -/
theorem test_narrow :
    [0x40200000, 0x40A00000, 0x3F400000, 0x3E800000].map (fun w => (ActFmt.e2m1.narrow (f32 w)).1) = [4, 6, 2, 0] ∧
    (ActFmt.int4.narrow (f32 0xC114CCCD)).1 = 8 ∧ (ActFmt.int8.narrow (f32 0xC3480000)).1 = 0x80 ∧
    (ActFmt.int4.narrow (f32 0xFF800000)).1 = 9 ∧ (ActFmt.int8.narrow (f32 0xFF800000)).1 = 0x81 := by
  decide +kernel

/-- The slice after 03 R106: its token scale and codes. -/
theorem test_quantise :
    (quantiseSlice [0x40533333, 0xBF99999A, 0x3F974000, 0x3DCCCCCD] .int4 []).scale = 0x3EF2 ∧
    (quantiseSlice [0x40533333, 0xBF99999A, 0x3F974000, 0x3DCCCCCD] .int4 []).codes = [7, 13, 2, 0] := by
  decide +kernel

/-- The pass of the worked examples of 03 and 04: column 17, rows 3, 100 and 300, outlier channel 600. -/
def passW : PassRec :=
  { op := 0, core := 0, engine := 0, layer := 0, arrange := 0, array := 0, range := 0, optimistic := false, quiet := false, afmt := 0, wide := false,
    group := 2, half := false, mode := 0, banks := [(0, 0)], slices := [[0, 0x50] ++ List.replicate 48 0 ++ [7] ++ List.replicate 99 0 ++ [0x0E]],
    sides := [bytesWith 64 [(0, 2, 0x3E00), (2, 1, 1), (8, 2, 0x4110)]], outs := [([600], 0x200000, 0x201000)] }
def chipPassW : Chip :=
  { chipOn {} with
    banks := [((0, 0), { layer := some 0, wfmt := 1, outCols := 1024, scale := 0x3DCCCCCD, payload := 0x100000, cells := [(17 * 1024 + 3, 9), (17 * 1024 + 100, -6), (17 * 1024 + 300, 11)] })]
    mem := [(0x102A81, 0x80), (0x102A82, 0x4), (0x102ABE, 0x60), (0x102ABF, 0x1), (0x102B3B, 0xB0), (0x1A0044, 0x38), (0x1A0045, 0x2C), (0x200011, 0xFD), (0x201003, 0x3C)] }

/-- Ideal conversions: plane 0 gives 3, plane 1 −6 and −11, plane 2 gives 3; plane 3 is skipped. -/
def codesW : Tbl Nat Int := [(68, 3), (4 * 4176 + 68, -6), (4 * 4176 + 69, -11), (8 * 4176 + 68, 3)]

theorem test_lanes : passW.lanes = [⟨0, 0, 0, [(3, false, 5), (100, false, 7), (300, true, 2)]⟩] := by decide +kernel

theorem test_pass_plan : passW.plan passW.lanes = { slots := 4, cost := 3, skipped := 1, subs := 0, driven := [(0, 0, 0), (1, 1, 0), (2, 2, 0)] } := by
  rw [test_lanes]; decide +kernel

theorem test_addend :
    passW.addend chipPassW codesW (passW.lanes.map (fun l => (l, passW.convs (passW.plan passW.lanes) l))) 17 = 0xBD866667 := by
  rw [test_lanes]; decide +kernel

theorem test_outlier_sum : passW.os chipPassW 17 = 0xBE580000 ∧ fadd 0xBD866667 (passW.os chipPassW 17) = 0xBE8D999A := by decide +kernel

theorem test_reference :
    (passW.rowTerms chipPassW ⟨0, 0, 0, []⟩ 17 0).foldl fadd 0 = 0x3D199990 ∧ (passW.rowTerms chipPassW ⟨0, 0, 0, []⟩ 17 1).foldl fadd 0 = 0xBDD33333 ∧
    fadd (fadd (fadd 0 0x3D199990) 0xBDD33333) 0xBE580000 = 0xBE8D999B := by
  decide +kernel

/-- The close of group 2 with a residual of 0.25. -/
theorem test_close_add : fadd 0xBE8D999A 0x3E800000 = 0xBCD999A0 ∧ fadd 0xBE8D999B 0x3E800000 = 0xBCD999B0 := by decide +kernel

/-- The trims after 05 R159: P 1,000, GT −20, OT +8 and a_sum 300 at r_eff 2 give D 1,916. -/
theorem test_trim : trimmed 2 2000 (-20) 8 300 = 1916 := by decide +kernel

/-- The monitor after 05 R173: 2.5 does not trip and moves MEAN to 2.03125; 9.0 trips. -/
theorem test_monitor :
    nmAfter [] ⟨0x40000000, 40, 0, 0⟩ 0x40200000 = ⟨0x40020000, 41, 0x40200000, 0⟩ ∧ nmTrips [] ⟨0x40020000, 41, 0x40200000, 0⟩ 0x41100000 = true := by
  decide +kernel

/-- DEGRADED after 05 R180: of 80 monitored layers 41 trip, or 40, at the reset ratio. -/
theorem test_degraded :
    (({} : Part).degrade { closedLayers := List.range 80, tripped := List.range 41 } (rg .fixPCfg 0).reset 1).2 = true ∧
    (({} : Part).degrade { closedLayers := List.range 80, tripped := List.range 40 } (rg .fixPCfg 0).reset 1).2 = false := by
  decide +kernel

/-- The handle of 07: position 1 of units 5 and 6 is core 41. -/
theorem test_view : ({ units := 2 } : Part).phys 5 0x20000800200 = some 0x20014800200 := by decide +kernel

/-- The page size of the cache of 06. -/
theorem test_page_bytes : (⟨64, 1, 1, 128, 1, 8, 4⟩ : KvCfg).pageBytes = 528384 := by decide +kernel

/-- Sense input 2 and sensor 7 of 11. -/
theorem test_sense :
    Chip.senseValue { chipOn {} with sense := [(2, (40, 10880, 12000))], chans := [((0, 39), 10200)] } 2 = 11247 ∧
    (chipOn {}).tempOf 0 { ng := 6 * 64, nb := 2041 * 64 } 2480 = 1465 := by
  decide +kernel

/-- The torus of 14: from (1, 2, 3) to (6, 0, 1) of 8 × 4 × 4 the packet leaves by link X−. -/
theorem test_route :
    Chip.route { chipOn {} with regs := [(rg .iltChip, 2), (rg .iltTorus, packWord [(1 + 64 * 2 + 2048 * 3, 0, 16), (7 + 64 * 3 + 2048 * 3, 16, 16)]),
      (rg .iltRoute 0 9, packWord [(6 + 2048, 0, 16), (1, 31, 1)])] } 9 = some (1, none) := by
  decide +kernel

/-- Values the standards give: CRC-32C of "123456789" and SHA-256 of nothing. -/
theorem test_digests :
    crc32c [0x31, 0x32, 0x33, 0x34, 0x35, 0x36, 0x37, 0x38, 0x39] = 0xE3069283 ∧
    beNat (sha256Of []) = 0xe3b0c44298fc1c149afbf4c8996fb92427ae41e4649b934ca495991b7852b855 := by
  decide +kernel

/-- The element of 06: page 3,000, layer 2, head 5, slot 7, dimension 100: its key, its value and its key scale; and the widenings. -/
def chipPage : Chip := { chipOn {} with regs := [(rg .kvCfg 0, packWord [(1, 0, 2), (1, 2, 2), (1, 4, 2), (1, 6, 2), (1, 8, 2), (7, 10, 6), (3, 16, 8)]), (rg .kvPoolBaseHi 0, 16), (rg .kvPoolPages 0, 4096)] }

theorem test_element :
    (chipPage.kvRegionAt 0 {} 3000 2 5 0) + 7 * 128 + 100 = 0x105E80C3E4 ∧ (chipPage.kvRegionAt 0 {} 3000 2 5 1) - chipPage.kvRegionAt 0 {} 3000 2 5 0 = 8192 ∧
    widenKv 1 0x4C 0x3C00 = 0x3D400000 ∧ widenKv 2 9 0x3DCD = 0xBF330000 := by
  decide +kernel

/-! Ill-formed operands, one for each check -/

theorem test_wf_refused :
    [Instr.stepRun 17, .stepBegin 16, .pass 0 128, .norm 0 32, .scrubRead 0 32768 0 0 [], .accordReady 8192 [], .descriptorAccept 0 8, .portDown 12,
     .devtimePulseMiss 8, .devtimePulseMiss 0, .devtimeAlignPulse 0, .regRead ⟨.proc ⟨0, 5⟩, 0⟩ 0, .cpWatchdogRestart ⟨8, 0⟩, .vicEoi ⟨0, 5⟩, .dbgHalt ⟨0, 5⟩,
     .dbgHalt ⟨0, 32⟩, .reqHoldTimeout 0 (2 ^ 32), .registerWrite (.bar0 17 0) 4 0, .registerWrite (.bar0 0 (2 ^ 24)) 4 0, .registerWrite (.phys cp (2 ^ 48)) 4 0,
     .registerWrite (.phys ⟨0, 256⟩ 0) 4 0, .registerWrite (.bar0 0 0) 3 0, .iltHello { frameOf openPkt with port := 12 }, .iltHello { frameOf openPkt with vlan := 4096 },
     .iltHello { frameOf openPkt with an := 4 }, .iltHello { frameOf openPkt with bytes := List.replicate 9601 0 }].all (fun i => !i.wellFormed) = true := by
  decide +kernel

theorem test_wf_bounds_refused :
    [Instr.passAdmit 0 0 [(0, 128)], .passAdmit 0 0 [(0, -129)], .groupClose 0 0 64 0, .groupClose 0 0 0 8, .attendFold 0 0 4096, .bankProgramDone 0 0 2 [],
     .bankProgramDone 0 0 0 [1044], .handleCommit 0 256 0, .windowCommit 0 32 0, .kvCfgWrite 0 0x1000 0, .imageRegionWrite 0 0x1000 0,
     .partCreate reqPf (2 ^ 16) false, .partRelease reqPf 256, .partScrubDone 0 [16], .partStrict reqPf 256 false, .unitScrub reqPf 256, .keyGrant reqPf (2 ^ 16) 0,
     .keyGrant reqPf 1 256, .keyRevoke reqPf (2 ^ 16), .regRead reqPf (2 ^ 64), .regWrite reqPf (2 ^ 64) 0, .snsCaptureZero 4, .snsCaptureFull 0 (2 ^ 16), .snsClear 4,
     .snsCaptureDone [], .fwuWrite reqPf 0 0 (2 ^ 64), .pwrLimit reqPf (2 ^ 32), .dbgUnlock reqPf (List.replicate 1017 0), .mctpSetEndpointId 4 0,
     .mctpSetEndpointId 0 256, .mctpGetVersionSupport 256, .dbgBreakpoint cp 4 false 0, .dbgBreakpoint cp 2 true 0, .dbgBreakpoint cp 0 false (2 ^ 64),
     .dbgMemoryAccess cp false (2 ^ 48) 4 0, .dbgMemoryAccess cp false 0 3 0, .calibrationSlot 0 { slotW 0 .zero [] with bank := 2 },
     .calibrationSlot 8192 (slotW 32768 .zero []), .calibrationSlot 1 (slotW 0 .zero []), .accordReady 1 [slotW 0 .zero []], .calibrationSlot 0 { slotW 0 .zero [] with seg := 4 }, .scrubRead 0 0 2 0 [], .scrubRead 0 0 0 1024 [],
     .scrubRead 0 0 0 0 [1044], .refreshDone 0 0 2 0 true, .refreshDone 0 0 0 1044 true, .telemConversion 0 2 0, .telemUrgent 0 0 48 cp, .wardenTakeover 3,
     .vicSourceEdge cp 256 true, .vicPendSet cp 8 0, .vicHoldoffExpiry cp 32, .portUp 0 8, .iltRtoExpiry 0 (2 ^ 32)].all (fun i => !i.wellFormed) = true := by
  decide +kernel

/-- Operands at their bounds are well-formed. -/
theorem test_wf_taken :
    [Instr.stepRun 16, .stepBegin 15, .pass 15 127, .norm 0 31, .scrubRead 0 32767 1 1023 [1043], .accordReady 8191 [], .descriptorAccept 16 7, .portDown 11,
     .devtimePulseMiss 7, .cpWatchdogRestart ⟨7, 4⟩, .dbgHalt ⟨7, 31⟩, .reqHoldTimeout 0 (2 ^ 32 - 1), .registerWrite (.bar0 16 (2 ^ 24 - 1)) 1 0,
     .registerWrite (.phys ⟨7, 255⟩ (2 ^ 48 - 1)) 8 0, .iltHello (frameOf openPkt), .passAdmit 0 0 [(0, 127), (1, -128)]].all Instr.wellFormed = true := by
  decide +kernel

end Sys2Proof.Tests
end

section
/-! PROOFS. Register accesses (00 R9, R11, R12, 01 R28): the outcome of an access, what a plain write stores, what the writes of status
registers, EVT_CLEAR registers and pair halves do, and the statements of scope settled from these. -/

namespace Sys2Proof.Machine

/-! The outcome of an access -/

theorem exec_registerWrite_access (t : Target) (n : Nat) (v : DWord) (s : State) :
    exec (.registerWrite t n v) s = s.onAccess t (fun s => s.withChip (s.chip.registerWrite t n v)) := rfl

theorem exec_statusBitClear_access (t : Target) (v : Word) (s : State) :
    exec (.statusBitClear t v) s = s.onAccess t (fun s => s.withChip (s.chip.writeKind t (fun n => n.info.w1c != 0) v)) := rfl

theorem exec_counterClear_access (t : Target) (v : Word) (s : State) :
    exec (.counterClear t v) s = s.onAccess t (fun s => s.withChip (s.chip.writeKind t (fun n => (evtBase n).isSome) v)) := rfl

theorem exec_pairHighWrite_access (t : Target) (v : Word) (s : State) :
    exec (.pairHighWrite t v) s = s.onAccess t (fun s => s.withChip (s.chip.writeKind t (fun n => (pairLow n).isSome) v)) := rfl

theorem exec_pairLowRead_access (t : Target) (s : State) : exec (.pairLowRead t) s = s.onAccess t (·.pairLowRead t) := rfl

/-- An access to an unmapped offset by a control processor is a bus error (01 R28). -/
theorem State.onAccess_busError {s : State} {t : Target} {a : Nat} (hup : s.chip.power.inReset = false) (hbus : busErrorAt t = some a)
    (f : State → State) : s.onAccess t f = .fault (.busError a) := by
  simp [State.onAccess, hup, hbus]

theorem State.onAccess_next {s : State} {t : Target} (hup : s.chip.power.inReset = false) (hbus : busErrorAt t = none)
    (f : State → State) : s.onAccess t f = .next (f s) := by
  simp [State.onAccess, hup, hbus]

/-- An access that is no bus error and changes nothing leaves the state as it is, in reset or out of it. -/
theorem State.onAccess_idle {s : State} {t : Target} (hbus : busErrorAt t = none) {f : State → State} (hf : f s = s) :
    s.onAccess t f = .next s := by
  simp [State.onAccess, hbus, hf]

theorem busErrorAt_processor {who : Agent} {a : Nat} (hmap : mapped a = false) (hwho : who.num < 5) :
    busErrorAt (.phys who a) = some a := by
  simp [busErrorAt, hmap, hwho]

/-! Empty offsets -/

theorem State.busRead_empty {s : State} {t : Target} (h : s.chip.spot t = .empty) : s.busRead t = (s, 0) := by
  simp [State.busRead, h]

theorem Chip.busWrite_empty {c : Chip} {t : Target} (h : c.spot t = .empty) (v : Word) : c.busWrite t v = c := by
  simp [Chip.busWrite, h]

/-- No write to an empty word of BAR0 is denied: the Warden's range lies outside BAR0. -/
theorem Chip.denies_bar0_empty {c : Chip} {fn off : Nat} (h : c.spot (.bar0 fn (off / 4 * 4)) = .empty) :
    c.denies (.bar0 fn off) = false := by
  have hword : c.spot (wordOf (.bar0 fn off)) = .empty := h
  simp [Chip.denies, hword]

/-- A write of any width is discarded where every word it meets is empty (00 R12). -/
theorem Chip.registerWrite_bar0_empty {c : Chip} {fn off n : Nat} (v : DWord) (h : c.spot (.bar0 fn off) = .empty)
    (hword : c.spot (.bar0 fn (off / 4 * 4)) = .empty)
    (hnext : n = 8 → c.spot (.bar0 fn (off + 4)) = .empty ∧ c.spot (.bar0 fn ((off + 4) / 4 * 4)) = .empty) :
    c.registerWrite (.bar0 fn off) n v = c := by
  have hplus : plusOf (.bar0 fn off) 4 = .bar0 fn (off + 4) := rfl
  by_cases h8 : n = 8
  · obtain ⟨hhigh, hhighWord⟩ := hnext h8
    simp [Chip.registerWrite, h, hplus, Chip.denies_bar0_empty hword, Chip.denies_bar0_empty hhighWord, Chip.busWrite_empty h,
      Chip.busWrite_empty hhigh]
  · simp [Chip.registerWrite, h, h8, Chip.denies_bar0_empty hword, Chip.busWrite_empty h]

/-! Plain writes (00 R9) -/

@[simp] theorem Chip.plainWrite_mem (c : Chip) (r : Reg) (v : Word) : (c.plainWrite r v).mem = c.mem := rfl
@[simp] theorem Chip.plainWrite_parts (c : Chip) (r : Reg) (v : Word) : (c.plainWrite r v).parts = c.parts := rfl

theorem Chip.reg_plainWrite_other (c : Chip) {r q : Reg} (v : Word) (h : q ≠ r) : (c.plainWrite r v).reg q = c.reg q :=
  Chip.reg_setReg_other c r q _ h

/-- A register without RW1C bits takes the value in its writable bits. -/
theorem Chip.reg_plainWrite_rw (c : Chip) {r : Reg} (v : Word) (h : r.name.info.w1c = 0) :
    (c.plainWrite r v).reg r = (c.reg r &&& ~~~(BitVec.ofNat 32 r.name.info.rw)) ||| (v &&& BitVec.ofNat 32 r.name.info.rw) := by
  simp only [Chip.plainWrite, Chip.reg_setReg_same, h, BitVec.and_zero, BitVec.not_zero, BitVec.and_allOnes]

/-- A register without writable bits loses the RW1C bits that are written as 1. -/
theorem Chip.reg_plainWrite_w1c (c : Chip) {r : Reg} (v : Word) (h : r.name.info.rw = 0) :
    (c.plainWrite r v).reg r = c.reg r &&& ~~~(v &&& BitVec.ofNat 32 r.name.info.w1c) := by
  simp only [Chip.plainWrite, Chip.reg_setReg_same, h, BitVec.and_zero, BitVec.not_zero, BitVec.and_allOnes,
    BitVec.or_zero]

/-! Writes over the bus -/

/-- A write reaches its register: the agent may write it, its block governs itself, and it is no THERM or TELEM register through the PF. -/
structure Chip.Reaches (c : Chip) (t : Target) (r : Reg) : Prop where
  lands : c.spot t = .reg r
  allowed : c.mayWrite (agentOf t) r = true
  governs : governedBlock r.name.info.block = true → c.governing r.blk = r.blk
  notReadOnly : ∀ off, t = .bar0 0 off → r.name.info.block ≠ .therm ∧ r.name.info.block ≠ .telem

theorem Chip.agentWrite_reaches {c : Chip} {t : Target} {r : Reg} (h : c.Reaches t r) (v : Word) : c.agentWrite t r v = c.writeReg r v := by
  have hgov : (governedBlock r.name.info.block && c.governing r.blk != r.blk) = false := by
    by_cases hb : governedBlock r.name.info.block = true
    · simp [h.governs hb]
    · simp [hb]
  simp only [Chip.agentWrite, h.allowed, hgov, Bool.not_true, Bool.false_eq_true, if_false]
  split
  · next off =>
    obtain ⟨htherm, htelem⟩ := h.notReadOnly off rfl
    simp [htherm, htelem]
  · rfl

theorem Chip.writeKind_reaches {c : Chip} {t : Target} {r : Reg} (h : c.Reaches t r) {kind : RegName → Bool} (hk : kind r.name = true)
    (v : Word) : c.writeKind t kind v = c.writeReg r v := by
  simp only [Chip.writeKind, h.lands, hk, if_true, Chip.agentWrite_reaches h]

/-! Status registers (00 R9) -/

/-- The registers that hold RW1C bits in the register table; VIC.PENDING, whose bits the controller holds, is none of them. -/
def statusRegs : List RegName :=
  [.safeIntStatus, .hostifStatus, .statStatus, .ringStatus, .engStatus, .accStatus, .fixStatus, .attStatus, .kvStatus, .scrStatus, .seqStatus,
   .wgtStatus, .calStatus, .telemStatus, .telemSnsStat, .thermStatus, .fwuStatus]

theorem mem_statusRegs_of_w1c {n : RegName} (hw : n.info.w1c ≠ 0) (hv : n ≠ .vicPending) : n ∈ statusRegs := by
  revert hw hv
  cases n <;> decide

theorem rw_of_mem_statusRegs {n : RegName} (h : n ∈ statusRegs) : n.info.rw = 0 := by
  revert n
  decide

/-- A write of a status register is a plain write, after which SAFE.INT_STATUS may owe a status page. -/
theorem Chip.writeReg_status (c : Chip) {r : Reg} (v : Word) (h : r.name ∈ statusRegs) :
    c.writeReg r v = c.plainWrite r v ∨ c.writeReg r v = (c.plainWrite r v).pageDue (r.blk + 1) := by
  obtain ⟨n, k, i⟩ := r
  rcases List.mem_cons.mp h with rfl | h
  · by_cases hdue : ((c.reg ⟨.safeIntStatus, k, i⟩).bit 6 && v.bit 6) = true
    · exact .inr (if_pos hdue)
    · exact .inl (if_neg hdue)
  · left
    simp only [List.mem_cons, List.not_mem_nil, or_false] at h
    rcases h with rfl | rfl | rfl | rfl | rfl | rfl | rfl | rfl | rfl | rfl | rfl | rfl | rfl | rfl | rfl | rfl <;> rfl

/-! Event counters (00 R12) -/

/-- Zero some registers. -/
def Chip.zeroRegs (c : Chip) (ks : List Reg) : Chip := ks.foldl (fun c k => c.setReg k 0) c

@[simp] theorem Chip.zeroRegs_nil (c : Chip) : c.zeroRegs [] = c := rfl
@[simp] theorem Chip.zeroRegs_cons (c : Chip) (k : Reg) (ks : List Reg) : c.zeroRegs (k :: ks) = (c.setReg k 0).zeroRegs ks := rfl

@[simp] theorem Chip.zeroRegs_mem (c : Chip) (ks : List Reg) : (c.zeroRegs ks).mem = c.mem := by
  induction ks generalizing c with
  | nil => rfl
  | cons k ks ih => simp [ih]

@[simp] theorem Chip.zeroRegs_parts (c : Chip) (ks : List Reg) : (c.zeroRegs ks).parts = c.parts := by
  induction ks generalizing c with
  | nil => rfl
  | cons k ks ih => simp [ih]

theorem Chip.reg_zeroRegs_of_zero {c : Chip} {q : Reg} (ks : List Reg) (h : c.reg q = 0) : (c.zeroRegs ks).reg q = 0 := by
  induction ks generalizing c with
  | nil => exact h
  | cons k ks ih => exact ih (by rw [Chip.reg_setReg]; split <;> simp [h])

theorem Chip.reg_zeroRegs_of_mem (c : Chip) {q : Reg} {ks : List Reg} (h : q ∈ ks) : (c.zeroRegs ks).reg q = 0 := by
  induction ks generalizing c with
  | nil => simp at h
  | cons k ks ih =>
    rcases List.mem_cons.mp h with rfl | h
    · exact Chip.reg_zeroRegs_of_zero ks (by simp)
    · exact ih _ h

theorem Chip.reg_zeroRegs_of_not_mem (c : Chip) {q : Reg} {ks : List Reg} (h : q ∉ ks) : (c.zeroRegs ks).reg q = c.reg q := by
  induction ks generalizing c with
  | nil => rfl
  | cons k ks ih =>
    simp only [List.mem_cons, not_or] at h
    obtain ⟨hk, hks⟩ := h
    rw [Chip.zeroRegs_cons, ih _ hks, Chip.reg_setReg_other _ _ _ _ hk]

/-- The counters that the bits of an EVT_CLEAR write select, by the offset of the block's first counter. -/
def clearedRegs (r : Reg) (base : Nat) (v : Word) : List Reg :=
  ((List.range 32).filter (fun b => r.name.info.wo.testBit b && v.bit b)).filterMap
    (fun b => (regAt r.name.info.block r.blk (base + 4 * b)).filter (fun k => k.name != r.name))

theorem mem_clearedRegs {r q : Reg} {base : Nat} {v : Word} : q ∈ clearedRegs r base v ↔
    ∃ b < 32, r.name.info.wo.testBit b = true ∧ v.bit b = true ∧ regAt r.name.info.block r.blk (base + 4 * b) = some q ∧
      q.name ≠ r.name := by
  simp [clearedRegs, List.mem_filterMap, Option.filter_eq_some_iff, and_assoc]

theorem Chip.clearCounters_eq (c : Chip) {r : Reg} {base : Nat} (v : Word) (h : evtBase r.name = some base) :
    c.clearCounters r v = c.zeroRegs (clearedRegs r base v) := by
  simp only [Chip.clearCounters, h, Chip.zeroRegs, clearedRegs, List.foldl_filterMap]
  congr 1
  funext d b
  cases hk : regAt r.name.info.block r.blk (base + 4 * b) with
  | none => rfl
  | some k => by_cases hn : k.name = r.name <;> simp [Option.filter, hn]

theorem kvFamily_of_evtBase {n : RegName} {base : Nat} (h : evtBase n = some base) : kvFamily n = false := by
  revert h
  cases n <;> simp [evtBase, kvFamily]

theorem Chip.writeReg_evtClear (c : Chip) {r : Reg} {base : Nat} (v : Word) (h : evtBase r.name = some base) :
    c.writeReg r v = c.zeroRegs (clearedRegs r base v) := by
  simp only [Chip.writeReg, kvFamily_of_evtBase h, h, Option.isSome_some, Bool.false_eq_true, if_false, if_true, Chip.clearCounters_eq c v h]

/-! Pairs (00 R11) -/

/-- The two halves of a pair are different registers without RW1C bits, and no THERM or TELEM register is a high half. -/
theorem pairLow_table {n l : RegName} (h : pairLow n = some l) :
    l ≠ n ∧ n.info.w1c = 0 ∧ l.info.w1c = 0 ∧ n.info.block ≠ .therm ∧ n.info.block ≠ .telem := by
  revert h
  cases n <;> simp [pairLow] <;> rintro rfl <;> decide

/-- A read of a low half gives its value and latches the high half of the governing register's pair. -/
theorem State.regRead_pairLow (s : State) {r : Reg} {h : RegName} (hp : pairHigh r.name = some h) :
    s.regRead r = ({ s with chip := { s.chip with
      latch := Tbl.set { s.chip.governs r with name := h } (s.sysReg { s.chip.governs r with name := h }) s.chip.latch } },
      s.sysReg (s.chip.governs r)) := by
  have hname : (s.chip.governs r).name = r.name := by unfold Chip.governs; split <;> rfl
  simp [State.regRead, hname, hp]

/-- High halves whose pairs follow no further rule of their own (06 R238, 10 R381): their write goes through the pair. -/
theorem Chip.writeReg_pairHigh (c : Chip) {r : Reg} {l : RegName} (v : Word) (h : pairLow r.name = some l)
    (hkv : kvFamily r.name = false) (himage : r.name ≠ .wgtImageBaseHi) : c.writeReg r v = c.pairWrite r v := by
  obtain ⟨n, k, i⟩ := r
  revert h hkv himage
  cases n <;> simp [pairLow, kvFamily] <;> intros <;> rfl

/-- The low half as it was last written is stored first, and the high half after it. -/
theorem Chip.pairWrite_stored {c : Chip} {r : Reg} {l : RegName} {w : Word} (v : Word) (h : pairLow r.name = some l)
    (hfree : c.baseLocked r = none) (hlow : Tbl.find? { r with name := l } c.latch = some w) :
    c.pairWrite r v = { (c.plainWrite { r with name := l } w).plainWrite r v with latch := Tbl.del { r with name := l } c.latch } := by
  simp only [Chip.pairWrite, hfree, h, hlow, Option.getD_some]
  rfl

/-! The statements -/

/-- Settles O37: an empty word of BAR0 denies nothing and takes nothing, and an access that is a bus error never reaches its effect. -/
theorem accessesWhereNothingLies : Obligations.AccessesWhereNothingLies := by
  refine ⟨fun s fn off h => ⟨State.busRead_empty h, fun n v hword hnext => ?_⟩, fun s who a hup hmap hwho => ?_⟩
  · rw [exec_registerWrite_access]
    exact State.onAccess_idle rfl (congrArg s.withChip (Chip.registerWrite_bar0_empty v h hword hnext))
  · simp only [exec_registerWrite_access, exec_statusBitClear_access, exec_counterClear_access, exec_pairLowRead_access,
      exec_pairHighWrite_access, State.onAccess_busError hup (busErrorAt_processor hmap hwho), implies_true, and_self]

/-- Settles O38: a status register has no writable bit, so its plain write only clears, and an EVT_CLEAR write zeroes exactly the
registers its bits select. -/
theorem statusBitsAndCountersClear : Obligations.StatusBitsAndCountersClear := by
  intro s t v r hup hbus hspot hmay hgov hpf
  have hreach : s.chip.Reaches t r := ⟨hspot, hmay, hgov, hpf⟩
  refine ⟨fun hw1c hvic => ?_, fun base hbase => ?_⟩
  · refine ⟨_, (exec_statusBitClear_access t v s).trans (State.onAccess_next hup hbus _), ?_⟩
    have hstatus := mem_statusRegs_of_w1c hw1c hvic
    have hreg := Chip.reg_plainWrite_w1c s.chip v (rw_of_mem_statusRegs hstatus)
    have hother : ∀ q, q ≠ r → (s.chip.plainWrite r v).reg q = s.chip.reg q := fun q hq => Chip.reg_plainWrite_other s.chip v hq
    rw [Chip.writeKind_reaches hreach (by simpa using hw1c)]
    rcases Chip.writeReg_status s.chip v hstatus with hw | hw <;> rw [hw] <;> exact ⟨hreg, rfl, rfl, hother⟩
  · refine ⟨_, (exec_counterClear_access t v s).trans (State.onAccess_next hup hbus _), ?_⟩
    rw [Chip.writeKind_reaches hreach (by simp [hbase]), Chip.writeReg_evtClear s.chip v hbase]
    refine ⟨Chip.zeroRegs_mem _ _, Chip.zeroRegs_parts _ _, fun b k hb hwo hv hk hne => ?_, fun q hq => ?_⟩
    · exact Chip.reg_zeroRegs_of_mem _ (mem_clearedRegs.mpr ⟨b, hb, hwo, hv, hk, hne⟩)
    · refine Chip.reg_zeroRegs_of_not_mem _ fun hmem => ?_
      obtain ⟨b, hb, hwo, hv, hk, -⟩ := mem_clearedRegs.mp hmem
      exact hq b hb hwo hv hk

/-- Settles O39: a read of a low half latches the high half, and a write of an unlocked high half is two plain writes of different
registers. -/
theorem pairsAreReadAndWrittenWhole : Obligations.PairsAreReadAndWrittenWhole := by
  refine ⟨fun s t r h hup hbus hspot hpair => ?_, fun s t v w r l hup hbus hspot hmay hgov hpair hmem hfree hlow => ?_⟩
  · rw [exec_pairLowRead_access, State.onAccess_next hup hbus]
    simp [State.pairLowRead, State.busRead, hspot, hpair, State.regRead_pairLow s hpair, State.withChip]
  · obtain ⟨hne, hhighW1c, hlowW1c, htherm, htelem⟩ := pairLow_table hpair
    have hplain : ∀ n ∈ [RegName.statPageBaseHi, .ringDbBaseHi, .ringSqBaseHi, .ringCqBaseHi, .iltPGroupBaseHi, .vicVbaseHi],
        kvFamily n = false ∧ n ≠ .wgtImageBaseHi := by decide
    obtain ⟨hkv, himage⟩ := hplain r.name hmem
    let lr : Reg := { r with name := l }
    have hdiffer : r ≠ lr := fun e => hne (congrArg Reg.name e).symm
    have hhigh := Chip.reg_plainWrite_rw (s.chip.plainWrite lr w) v hhighW1c
    rw [Chip.reg_plainWrite_other s.chip w hdiffer] at hhigh
    have hothers : ∀ q, q ≠ r → ((s.chip.plainWrite lr w).plainWrite r v).reg q = (s.chip.plainWrite lr w).reg q :=
      fun q hq => Chip.reg_plainWrite_other _ v hq
    refine ⟨_, (exec_pairHighWrite_access t v s).trans (State.onAccess_next hup hbus _), ?_⟩
    rw [Chip.writeKind_reaches ⟨hspot, hmay, hgov, fun _ _ => ⟨htherm, htelem⟩⟩ (by simp [hpair]),
      Chip.writeReg_pairHigh s.chip v hpair hkv himage, Chip.pairWrite_stored v hpair hfree hlow]
    exact ⟨rfl, rfl, hhigh, (hothers lr hdiffer.symm).trans (Chip.reg_plainWrite_rw s.chip w hlowW1c),
      fun q hq hql => (hothers q hq).trans (Chip.reg_plainWrite_other s.chip w hql)⟩

end Sys2Proof.Machine
end

section
/-! PROOFS. The issue budget (02 R67-R69, 05 R165): what the Fixative queue and the conversion of a pass leave unchanged, how the
oldest pass that is not admitted is admitted or held back, and the statement settled from these. -/

namespace Sys2Proof.Machine

/-! The cores and the passes of a step -/

theorem Chip.core_of_cores {c d : Chip} (h : c.cores = d.cores) (k : Nat) : c.core k = d.core k := by simp [Chip.core, h]

theorem Chip.core_setCore_other (c : Chip) (n k : Nat) (x : Core) (h : k ≠ n) : (c.setCore n x).core k = c.core k := by
  simp [Chip.core, Tbl.get_set_other ({} : Core) n k x c.cores h]

theorem PassRec.cost_of_mode {r : PassRec} (h : r.mode ≠ 1) :
    r.cost = (if r.arrange = 0 then 1 else 4) * (r.plan r.lanes).cost := by
  simp [PassRec.cost, h]

theorem PassRec.overBudget_iff {r : PassRec} (h : r.mode ≠ 1) (b : Int) : r.overBudget b = true ↔ b < r.cost ∧ b ≠ 128 := by
  simp [PassRec.overBudget, h]

theorem StepCtx.mem_setPass {st : StepCtx} {r q : PassRec} (hr : r ∈ st.passes) (hq : q.op = r.op) : q ∈ (st.setPass q).passes :=
  List.mem_map.mpr ⟨r, hr, if_pos hq.symm⟩

/-! The Fixative queue takes columns of a pass (05 R149) -/

/-- Columns that go to the Fixative queue change that queue alone, and no memory, register, partition or balance. -/
theorem Chip.enqueue_frame (c : Chip) (p : Nat) (st : StepCtx) (r : PassRec) (cols : List Nat) :
    (c.enqueue p st r cols).1.mem = c.mem ∧ (c.enqueue p st r cols).1.regs = c.regs ∧ (c.enqueue p st r cols).1.parts = c.parts ∧
      ∀ k, ((c.enqueue p st r cols).1.core k).balance = (c.core k).balance := by
  simp only [Chip.enqueue]
  split
  · exact ⟨rfl, rfl, rfl, fun _ => rfl⟩
  · refine ⟨rfl, rfl, rfl, fun k => ?_⟩
    by_cases hk : k = r.core
    · simp [hk]
    · rw [Chip.core_setCore_other _ _ _ _ hk]

theorem Chip.enqueue_pass (c : Chip) (p : Nat) (st : StepCtx) (r : PassRec) (cols : List Nat) :
    (c.enqueue p st r cols).2.op = r.op ∧ (c.enqueue p st r cols).2.phase = r.phase ∧ (c.enqueue p st r cols).2.todo = cols := by
  simp only [Chip.enqueue]
  split <;> exact ⟨rfl, rfl, rfl⟩

/-- The end of every admission: the pass's columns go to the Fixative queue, and the step records the pass. -/
def Chip.recordPass (c : Chip) (p : Nat) (st : StepCtx) (q : PassRec) (cols : List Nat) : Chip :=
  (c.enqueue p st q cols).1.setStep p (st.setPass (c.enqueue p st q cols).2)

theorem Chip.recordPass_frame (c : Chip) (p : Nat) (st : StepCtx) (q : PassRec) (cols : List Nat) :
    (c.recordPass p st q cols).mem = c.mem ∧ (∀ g, (c.recordPass p st q cols).reg g = c.reg g) ∧
      ∀ k, ((c.recordPass p st q cols).core k).balance = (c.core k).balance := by
  obtain ⟨hmem, hregs, -, hbalance⟩ := c.enqueue_frame p st q cols
  refine ⟨(Chip.setStep_mem ..).trans hmem, Chip.reg_of_regs ((Chip.setStep_regs ..).trans hregs), fun k => ?_⟩
  rw [Chip.recordPass, Chip.core_of_cores (Chip.setStep_cores ..), hbalance]

theorem Chip.recordPass_running {c : Chip} {p : Nat} {x : Part} {st : StepCtx} {r q : PassRec} (cols : List Nat)
    (hpart : c.part p = some x) (hr : r ∈ st.passes) (hop : q.op = r.op) :
    ∃ y w, (c.recordPass p st q cols).running p = some (y, w) ∧
      ∃ e ∈ w.passes, e.op = r.op ∧ e.phase = q.phase ∧ e.todo = cols := by
  obtain ⟨-, -, hparts, -⟩ := c.enqueue_frame p st q cols
  obtain ⟨hop', hphase, htodo⟩ := c.enqueue_pass p st q cols
  exact ⟨_, _, Chip.running_setStep ((Chip.part_of_parts hparts p).trans hpart) _,
    _, StepCtx.mem_setPass hr (hop'.trans hop), hop'.trans hop, hphase, htodo⟩

/-- The conversion of a pass counts events, sets status bits and records readings of its engine, all of which leave memory,
partitions and cores as they were; then it hands columns to the Fixative queue. -/
theorem PassRec.convert_enqueues (r : PassRec) (c : Chip) (p : Nat) (st : StepCtx) (pl : PassPlan) (codes : Tbl Nat Int) :
    ∃ (d : Chip) (q : PassRec) (cols : List Nat), r.convert c p st pl codes = d.enqueue p st q cols ∧
      d.mem = c.mem ∧ d.parts = c.parts ∧ d.cores = c.cores ∧ q.op = r.op ∧ q.phase = .admitted := by
  refine ⟨_, _, _, rfl, ?_, ?_, ?_, rfl, rfl⟩
  · simp [apply_ite Chip.mem]
  · simp [apply_ite Chip.parts]
  · simp [apply_ite Chip.cores]

/-! Admission of a core's oldest pass that is not admitted (02 R69) -/

section
variable {c : Chip} {p k : Nat} {x : Part} {st : StepCtx} {r : PassRec} (hrun : c.running p = some (x, st))
  (hr : st.passes.find? (fun r => r.core == k && r.phase == .issued) = some r)
include hrun hr

theorem Chip.passAdmit_reference (codes : List (Nat × Int)) (hmode : r.mode = 1) :
    c.passAdmit p k codes = (c.count (rg .fixEvtRefpass k)).recordPass p st { r with phase := .admitted } r.allCols := by
  simp only [Chip.passAdmit, hrun, hr, if_pos hmode, Chip.recordPass]

/-- A pass within the budget is recorded on a part that differs, of memory, partitions and the core, in the balance alone. -/
theorem Chip.passAdmit_charged (codes : List (Nat × Int)) (hmode : r.mode ≠ 1) (hfits : r.overBudget (c.core k).balance = false) :
    ∃ (d : Chip) (q : PassRec) (cols : List Nat), c.passAdmit p k codes = d.recordPass p st q cols ∧ d.mem = c.mem ∧
      d.parts = c.parts ∧ d.core k = { c.core k with balance := (c.core k).balance - r.cost } ∧ q.op = r.op ∧
      q.phase = .admitted := by
  obtain ⟨d, q, cols, heq, hmem, hparts, hcores, hop, hphase⟩ := r.convert_enqueues
    (c.setCore k { c.core k with balance := (c.core k).balance - r.cost }) p st (r.plan r.lanes) codes
  refine ⟨d, q, cols, ?_, hmem, hparts, ?_, hop, hphase⟩
  · simp [Chip.passAdmit, hrun, hr, hmode, hfits, heq, Chip.recordPass]
  · rw [Chip.core_of_cores hcores, Chip.core_setCore_same]

theorem Chip.passAdmit_waits (codes : List (Nat × Int)) (hmode : r.mode ≠ 1) (hover : r.overBudget (c.core k).balance = true) :
    c.passAdmit p k codes = c := by
  simp only [Chip.passAdmit, hrun, hr, if_neg hmode, if_pos hover]

end

theorem exec_passAdmit_powered {s : State} (hup : s.chip.powered = true) (p k : Nat) (codes : List (Nat × Int)) :
    exec (.passAdmit p k codes) s = .next (s.withChip (s.chip.passAdmit p k codes)) :=
  State.onChip_powered hup (·.passAdmit p k codes)

/-! The refill of a balance (02 R68) -/

theorem exec_budgetRefill_powered {s : State} (hup : s.chip.powered = true) (k : Nat) :
    exec (.budgetRefill k) s = .next (s.withChip (s.chip.budgetRefill k)) :=
  State.onChip_powered hup (·.budgetRefill k)

theorem Chip.budgetRefill_due {c : Chip} {k : Nat} (hdue : (c.core k).refilled < c.timeOn (k / 16) / 1000) :
    c.budgetRefill k = c.setCore k { c.core k with
      balance := 128 + min (c.core k).balance 0, refilled := c.timeOn (k / 16) / 1000 } :=
  if_neg (Nat.not_le.mpr hdue)

/-! The statement -/

/-- Settles O5: a pass that is due for admission is in reference mode, within the budget or over it, and a refill that is due is made. -/
theorem issueBudgetAdmitsPasses : Obligations.IssueBudgetAdmitsPasses := by
  refine ⟨fun s p k codes x st r hup hrun hr => ?_, fun s k hup hdue => ?_⟩
  · obtain ⟨hpart, -⟩ := Chip.part_of_running hrun
    have hlisted := List.mem_of_find?_eq_some hr
    refine ⟨fun hmode => ⟨_, exec_passAdmit_powered hup p k codes, ?_⟩, fun hmode hbudget =>
      ⟨_, exec_passAdmit_powered hup p k codes, ?_⟩, fun hmode hlow hfull => ?_⟩
    · rw [Chip.passAdmit_reference hrun hr codes hmode]
      obtain ⟨hmem, hreg, hbalance⟩ := (s.chip.count (rg .fixEvtRefpass k)).recordPass_frame p st { r with phase := .admitted } r.allCols
      exact ⟨hbalance k, hmem, hreg _, Chip.recordPass_running r.allCols hpart hlisted rfl⟩
    · rw [← PassRec.cost_of_mode hmode] at hbudget ⊢
      have hfits : r.overBudget (s.chip.core k).balance = false := by
        rw [← Bool.not_eq_true, PassRec.overBudget_iff hmode]; omega
      obtain ⟨d, q, cols, heq, hdmem, hparts, hcore, hop, hphase⟩ := Chip.passAdmit_charged hrun hr codes hmode hfits
      obtain ⟨hmem, -, hbalance⟩ := d.recordPass_frame p st q cols
      obtain ⟨y, w, hw, e, he, heop, hephase, -⟩ :=
        Chip.recordPass_running cols ((Chip.part_of_parts hparts p).trans hpart) hlisted hop
      rw [heq]
      exact ⟨(hbalance k).trans (by rw [hcore]), hmem.trans hdmem, y, w, hw, e, he, heop, hephase.trans hphase⟩
    · rw [← PassRec.cost_of_mode hmode] at hlow
      rw [exec_passAdmit_powered hup,
        Chip.passAdmit_waits hrun hr codes hmode ((PassRec.overBudget_iff hmode _).mpr ⟨hlow, hfull⟩)]
      rfl
  · rw [exec_budgetRefill_powered hup, Chip.budgetRefill_due hdue]

end Sys2Proof.Machine
end

section
/-! PROOFS. Accumulation groups (04 R118-R128): what the promotion of a pass does to its groups and leaves alone, what the close of a
group writes and frees, and the statements settled from these. -/

namespace Sys2Proof.Machine

/-! Groups -/

theorem Chip.group_setGroup_other (c : Chip) (e g : Nat) (x : Group) {e' g' : Nat} (h : e' ≠ e ∨ g' ≠ g) :
    (c.setGroup e g x).group e' g' = c.group e' g' := by
  have hkey : (e', g') ≠ (e, g) := fun heq => by
    obtain ⟨rfl, rfl⟩ := Prod.mk.inj heq
    simp at h
  simp [Chip.group, Tbl.get_set_other ({} : Group) _ _ x c.groups hkey]

theorem Chip.group_of_groups {c d : Chip} (h : d.groups = c.groups) (e g : Nat) : d.group e g = c.group e g := by simp [Chip.group, h]

/-! What a pass adds to a group (04 R118, R122) -/

/-- Two parts with the same memory, partitions, cores and banks. -/
structure Chip.SameStores (c d : Chip) : Prop where
  mem : d.mem = c.mem
  parts : d.parts = c.parts
  cores : d.cores = c.cores
  banks : d.banks = c.banks

theorem Chip.SameStores.refl (c : Chip) : c.SameStores c := ⟨rfl, rfl, rfl, rfl⟩
theorem Chip.SameStores.trans {c d e : Chip} (h : c.SameStores d) (k : d.SameStores e) : c.SameStores e :=
  ⟨k.mem.trans h.mem, k.parts.trans h.parts, k.cores.trans h.cores, k.banks.trans h.banks⟩

/-- The addend of a column is read from the pass and from memory alone: its outlier products lie in memory. -/
theorem PassRec.value_of_mem {c d : Chip} (h : d.mem = c.mem) (r : PassRec) : r.value d = r.value c := by
  funext j
  simp only [PassRec.value, PassRec.os, PassRec.outlierTerms, Chip.le, Chip.word, h]

/-- The columns of a pass whose addends enter the lanes of its group i: a column without an addend of its own is passed over. -/
def PassRec.addedCols (r : PassRec) (i : Nat) : List Nat :=
  let all := r.allCols.filter (fun j => j / r.cols == i)
  if r.mode = 1 || r.outs.any (fun o => !o.1.isEmpty) then all
  else all.filter (fun j => r.sub.contains j || (Tbl.find? j r.av).isSome)

/-- Group i of a pass has taken the pass's addends, which a part c gives, rows and membership, and has kept its state. -/
structure PassRec.Joins (r : PassRec) (c : Chip) (i : Nat) (g g' : Group) : Prop where
  lanes : g'.lanes = addLanes g.lanes ((r.addedCols i).map (fun j => (r.laneOf j, r.value c j)))
  rows : g'.rows = min 0xFFFFFFFF (g.rows + arrRows r.arrange)
  members : g'.members = g.members ++ [r.op]
  state : g'.state = g.state

theorem Chip.promoteGroup_sameStores (c : Chip) (r : PassRec) (i : Nat) : c.SameStores (c.promoteGroup r i) := by
  simp only [Chip.promoteGroup]
  split <;> exact ⟨rfl, rfl, rfl, rfl⟩

theorem Chip.promoteGroup_group_same (c : Chip) (r : PassRec) (i : Nat) :
    r.Joins c i (c.group r.engine (r.group + i)) ((c.promoteGroup r i).group r.engine (r.group + i)) := by
  simp only [Chip.promoteGroup, apply_ite (Chip.group · r.engine (r.group + i)), Chip.group_of_groups (Chip.count_groups ..),
    Chip.group_of_groups (Chip.setBits_groups ..), Chip.group_setGroup_same, ite_self]
  exact ⟨rfl, rfl, rfl, rfl⟩

theorem Chip.promoteGroup_group_other (c : Chip) (r : PassRec) (i : Nat) {e g : Nat} (h : e ≠ r.engine ∨ g ≠ r.group + i) :
    (c.promoteGroup r i).group e g = c.group e g := by
  simp only [Chip.promoteGroup, apply_ite (Chip.group · e g), Chip.group_of_groups (Chip.count_groups ..),
    Chip.group_of_groups (Chip.setBits_groups ..), Chip.group_setGroup_other _ _ _ _ h, ite_self]

/-- The first n groups of a pass take its addends. -/
def Chip.promoteGroups (c : Chip) (r : PassRec) (n : Nat) : Chip := (List.range n).foldl (fun c i => c.promoteGroup r i) c

theorem Chip.promoteGroups_succ (c : Chip) (r : PassRec) (n : Nat) :
    c.promoteGroups r (n + 1) = (c.promoteGroups r n).promoteGroup r n := by
  simp [Chip.promoteGroups, List.range_succ]

theorem Chip.promoteGroups_sameStores (c : Chip) (r : PassRec) (n : Nat) : c.SameStores (c.promoteGroups r n) := by
  induction n with
  | zero => exact .refl c
  | succ n ih =>
    rw [Chip.promoteGroups_succ]
    exact ih.trans (Chip.promoteGroup_sameStores ..)

theorem Chip.promoteGroups_group_other (c : Chip) (r : PassRec) (n : Nat) {e g : Nat}
    (h : e ≠ r.engine ∨ g < r.group ∨ r.group + n ≤ g) : (c.promoteGroups r n).group e g = c.group e g := by
  induction n with
  | zero => rfl
  | succ n ih => rw [Chip.promoteGroups_succ, Chip.promoteGroup_group_other _ _ _ (by omega), ih (by omega)]

/-- Each group of a pass takes its addends once: the promotions before it leave it and memory as they were, and those after it
leave it alone. -/
theorem Chip.promoteGroups_group_same (c : Chip) (r : PassRec) {i n : Nat} (h : i < n) :
    r.Joins c i (c.group r.engine (r.group + i)) ((c.promoteGroups r n).group r.engine (r.group + i)) := by
  induction n with
  | zero => omega
  | succ n ih =>
    rw [Chip.promoteGroups_succ]
    by_cases hi : i = n
    · subst hi
      obtain ⟨hlanes, hrows, hmembers, hstate⟩ := (c.promoteGroups r i).promoteGroup_group_same r i
      rw [Chip.promoteGroups_group_other c r i (by omega)] at hlanes hrows hmembers hstate
      rw [PassRec.value_of_mem (c.promoteGroups_sameStores r i).mem] at hlanes
      exact ⟨hlanes, hrows, hmembers, hstate⟩
    · rw [Chip.promoteGroup_group_other _ _ _ (by omega)]
      exact ih (by omega)

/-! Promotion (04 R119, R123) -/

theorem exec_passPromote_powered {s : State} (hup : s.chip.powered = true) (p k : Nat) :
    exec (.passPromote p k) s = .next (s.withChip (s.chip.passPromote p k)) :=
  State.onChip_powered hup (·.passPromote p k)

/-- The ready pass adds to its groups and may count its substitutions; the step records it as promoted and no longer issued. -/
theorem Chip.passPromote_ready {c : Chip} {p k : Nat} {x : Part} {st : StepCtx} {r : PassRec} (hrun : c.running p = some (x, st))
    (hr : st.passes.find? (fun r => r.core == k && r.ready st) = some r) :
    ∃ (d : Chip) (w : StepCtx), c.passPromote p k = d.setStep p w ∧ c.SameStores d ∧
      d.groups = (c.promoteGroups r (arrGroups r.arrange)).groups ∧
      w.issued = st.issued.filter (fun i => i.idx != r.op) ∧ w.passes = (st.setPass { r with phase := .promoted }).passes := by
  simp only [Chip.passPromote, hrun, hr]
  refine ⟨_, _, rfl, (c.promoteGroups_sameStores r (arrGroups r.arrange)).trans ?_, ?_, rfl, rfl⟩
  · split
    · exact .refl _
    · exact ⟨Chip.count_mem .., Chip.count_parts .., Chip.count_cores .., Chip.count_banks ..⟩
  · simp only [apply_ite Chip.groups, Chip.count_groups, ite_self]
    rfl

theorem Chip.passPromote_none {c : Chip} {p k : Nat} {x : Part} {st : StepCtx} (hrun : c.running p = some (x, st))
    (hr : st.passes.find? (fun r => r.core == k && r.ready st) = none) : c.passPromote p k = c := by
  simp only [Chip.passPromote, hrun, hr]

/-- Settles O6: the groups take the addends one after the other, and neither memory nor another group moves meanwhile. -/
theorem passPromoteAddsItsColumns : Obligations.PassPromoteAddsItsColumns := by
  refine ⟨fun s p k x st r hup hrun hr => ?_, fun s p k x st hup hrun hr => ?_⟩
  · obtain ⟨hpart, -⟩ := Chip.part_of_running hrun
    obtain ⟨d, w, heq, hsame, hgroups, hissued, hpasses⟩ := Chip.passPromote_ready hrun hr
    have hgroup : ∀ e g, (d.setStep p w).group e g = (s.chip.promoteGroups r (arrGroups r.arrange)).group e g :=
      Chip.group_of_groups ((Chip.setStep_groups ..).trans hgroups)
    have hlisted : { r with phase := .promoted } ∈ w.passes := by
      rw [hpasses]
      exact StepCtx.mem_setPass (List.mem_of_find?_eq_some hr) rfl
    refine ⟨_, exec_passPromote_powered hup p k, rfl, rfl, ?_⟩
    simp only [State.withChip, heq, hgroup]
    exact ⟨(Chip.setStep_mem ..).trans hsame.mem, (Chip.setStep_cores ..).trans hsame.cores, (Chip.setStep_banks ..).trans hsame.banks,
      fun i hi => have h := s.chip.promoteGroups_group_same r hi; ⟨h.lanes, h.rows, h.members, h.state⟩,
      fun e g h => Chip.promoteGroups_group_other s.chip r _ h,
      _, w, Chip.running_setStep ((Chip.part_of_parts hsame.parts p).trans hpart) w, hissued, _, hlisted, rfl, rfl⟩
  · rw [exec_passPromote_powered hup, Chip.passPromote_none hrun hr]
    rfl

/-! What the records and outputs of a close leave alone (04 R126, R128, R135, 05 R166) -/

theorem Chip.compareRecord_parts (c : Chip) (st : StepCtx) (core layer : Nat) (e : List Byte) (g : Group) :
    (c.compareRecord st core layer e g).parts = c.parts := by
  unfold Chip.compareRecord
  split
  · extract_lets n off
    split
    · rfl
    · exact Chip.write_parts ..
  · rfl

theorem Chip.compareRecord_off (c : Chip) (st : StepCtx) (core layer : Nat) {e : List Byte} (g : Group) (h : layerMode e ≠ 2) :
    c.compareRecord st core layer e g = c := if_neg h

theorem Chip.closeRed_parts (c : Chip) (st : StepCtx) (o : Op) (core : Nat) (out : List Word) :
    (c.closeRed st o core out).parts = c.parts := by
  simp only [Chip.closeRed]
  split
  · rfl
  · split
    · rfl
    · split <;> rfl

theorem Chip.closeRed_off (c : Chip) (st : StepCtx) {o : Op} (core : Nat) (out : List Word) (h : bitsOf (o.get 10 1) 5 4 = 0) :
    c.closeRed st o core out = c := if_pos h

/-- Outputs are written by writes of memory only. -/
theorem Chip.writeOut_same (c : Chip) (f : Nat) (out : List Word) (dst side : Nat) (olist : List Nat) :
    c.SameSide (c.writeOut f out dst side olist).1 := by
  simp only [Chip.writeOut]
  split
  · refine List.foldlRecOn (motive := fun (r : Chip × Nat) => c.SameSide r.1) _ _ (.refl c) fun r hr x _ => ?_
    exact hr.trans ((Chip.write_same ..).trans (Chip.write_same ..))
  · split <;> exact Chip.write_same ..

@[simp] theorem Chip.accNarrow_mem (c : Chip) (core n : Nat) : (c.accNarrow core n).mem = c.mem := by
  simp only [Chip.accNarrow]
  split <;> rfl

@[simp] theorem Chip.accNarrow_parts (c : Chip) (core n : Nat) : (c.accNarrow core n).parts = c.parts := by
  simp only [Chip.accNarrow]
  split <;> rfl

/-! The close of a group (04 R124, R126) -/

theorem exec_groupClose_powered {s : State} (hup : s.chip.powered = true) (p core engine group : Nat) :
    exec (.groupClose p core engine group) s = .next (s.withChip (s.chip.groupClose p core engine group)) :=
  State.onChip_powered hup (·.groupClose p core engine group)

theorem Chip.groupClose_due {c : Chip} {p core engine group : Nat} {x : Part} {st : StepCtx} {k : CloseRec}
    (hrun : c.running p = some (x, st))
    (hk : st.closes.find? (fun k => k.engine == core * 64 + engine && k.group == group && !k.closed) = some k)
    (hpasses : st.passes.any (fun r => decide (r.op < k.op) && r.phase != .promoted && r.uses (core * 64 + engine) group) = false)
    (hcloses : st.closes.any (fun q => decide (q.op < k.op) && q.core == k.core && !q.closed && q.layer == k.layer) = false) :
    c.groupClose p core engine group = c.closeGroup p st k := by
  simp [Chip.groupClose, hrun, hk, hpasses, hcloses]

/-- A close writes its records and its outputs, makes its group FREE and empty, and is done, with the group's lanes as its totals. -/
theorem Chip.closeGroup_frees (c : Chip) (p : Nat) {st : StepCtx} {k : CloseRec} (hk : k ∈ st.closes) :
    ∃ (d : Chip) (w : StepCtx), c.closeGroup p st k = (d.setGroup k.engine k.group {}).setStep p w ∧ d.parts = c.parts ∧
      (∃ q ∈ w.closes, q.op = k.op ∧ q.closed = true ∧ q.totals = (c.group k.engine k.group).lanes) ∧
      w.issued = st.issued.filter (fun i => i.idx != k.op) ∧
      (layerMode ((st.layerEntry k.core k.layer).getD []) ≠ 2 → bitsOf ((⟨k.op, k.desc⟩ : Op).get 10 1) 5 4 = 0 →
        let o : Op := ⟨k.op, k.desc⟩
        let fmt := closeFmt st k.core o
        d.mem = (c.writeOut fmt (c.closeOut st o (c.group k.engine k.group)) (o.at st 24) (o.at st 28)
          (if fmt < 3 ∧ o.get 14 2 ≠ 0xFFFF then (c.listOf st k.core (o.get 14 2)).getD [] else [])).1.mem) := by
  refine ⟨_, _, rfl, ?_, ⟨_, List.mem_map.mpr ⟨k, hk, if_pos rfl⟩, rfl, rfl, rfl⟩, rfl, fun hmode hred => ?_⟩
  · simp [apply_ite Chip.parts, (Chip.writeOut_same ..).parts, Chip.closeRed_parts, Chip.compareRecord_parts]
  · have hrecord := c.compareRecord_off st k.core k.layer (c.group k.engine k.group) hmode
    have hnone := c.closeRed_off st k.core (c.closeOut st ⟨k.op, k.desc⟩ (c.group k.engine k.group)) hred
    simp only [CloseRec.layer] at hrecord
    simp only [hrecord, hnone, apply_ite Chip.mem, Chip.count_mem, Chip.setBits_mem, ite_self, Chip.accNarrow_mem]
    rfl

/-- Settles O8: a close that is due runs, and its records change no byte where neither compare mode nor a reduction is asked for. -/
theorem groupCloseWritesAndFrees : Obligations.GroupCloseWritesAndFrees := by
  intro s p core engine group x st k hup hrun hk hpasses hcloses
  obtain ⟨hpart, -⟩ := Chip.part_of_running hrun
  obtain ⟨⟨hengine, rfl⟩, -⟩ : (k.engine = core * 64 + engine ∧ k.group = group) ∧ k.closed = false := by
    simpa using List.find?_some hk
  obtain ⟨d, w, heq, hparts, hdone, hissued, hmem⟩ := s.chip.closeGroup_frees p (List.mem_of_find?_eq_some hk)
  refine ⟨_, exec_groupClose_powered hup p core engine _, ?_⟩
  simp only [Chip.groupClose_due hrun hk hpasses hcloses, heq, State.withChip, ← hengine]
  have hpart' : (d.setGroup k.engine k.group {}).part p = some x :=
    (Chip.part_of_parts ((Chip.setGroup_parts ..).trans hparts) p).trans hpart
  refine ⟨?_, ⟨_, w, Chip.running_setStep hpart' w, hdone, hissued⟩, fun hmode hred => ?_⟩
  · exact (Chip.group_of_groups (Chip.setStep_groups ..) _ _).trans (Chip.group_setGroup_same ..)
  · exact (Chip.setStep_mem ..).trans (hmem hmode hred)

end Sys2Proof.Machine
end

section
/-! PROOFS. The Fixative path (05 R160-R164, 12 R435, R436): what the recomputation of a column records, what the mending of wrong
columns leaves alone, and the statement settled from these. -/

namespace Sys2Proof.Machine

/-! The passes of a step -/

theorem StepCtx.mem_setPass_other {st : StepCtx} {r q : PassRec} (hq : q ∈ st.passes) (hop : q.op ≠ r.op) : q ∈ (st.setPass r).passes :=
  List.mem_map.mpr ⟨q, hq, if_neg hop⟩

theorem StepCtx.eq_of_mem_setPass {st : StepCtx} {r q : PassRec} (hq : q ∈ (st.setPass r).passes) (hop : q.op = r.op) : q = r := by
  obtain ⟨e, -, rfl⟩ := List.mem_map.mp hq
  by_cases he : e.op = r.op
  · exact if_pos he
  · exact absurd (by simpa only [if_neg he] using hop) he

/-! Reads of an image without a bad word (12 R425) -/

theorem wordsIn_nil_of_subset {ws : List Nat} {rs qs : List (Nat × Nat)} (hsub : qs ⊆ rs) (h : wordsIn ws rs = []) : wordsIn ws qs = [] := by
  simp only [wordsIn, List.filter_eq_nil_iff, List.any_eq_true, not_exists, not_and] at h ⊢
  exact fun a ha q hq => h a ha q (hsub hq)

/-- Corrected errors change their marks and a counter alone. -/
theorem Chip.correct_sameStores (c : Chip) (p : Nat) (rs : List (Nat × Nat)) : c.SameStores (c.correct p rs) := by
  simp only [Chip.correct]
  split <;> exact ⟨rfl, rfl, rfl, rfl⟩

theorem Chip.correct_groups (c : Chip) (p : Nat) (rs : List (Nat × Nat)) : (c.correct p rs).groups = c.groups := by
  simp only [Chip.correct]
  split <;> rfl

theorem Chip.readCheck_sound {c : Chip} {parity : Bool} {rs : List (Nat × Nat)} (p : Nat) (hue : wordsIn c.ue rs = [])
    (hparity : parity = false ∨ wordsIn c.damaged rs = []) : c.readCheck p parity rs = (c.correct p rs, true) := by
  have hbroken : (parity && !(wordsIn c.damaged rs).isEmpty) = false := by
    obtain h | h := hparity <;> simp [h]
  simp [Chip.readCheck, hue, hbroken]

/-- Where no word of a column's images is bad, none of the images is marked invalid. -/
theorem PassRec.imageCheck_sound {r : PassRec} {c : Chip} {parity : Bool} {j : Nat} (p : Nat) (hue : wordsIn c.ue (r.imageRanges c j) = [])
    (hparity : parity = false ∨ wordsIn c.damaged (r.imageRanges c j) = []) :
    r.imageCheck c p parity j = (c.correct p (r.imageRanges c j), true) := by
  have hlane : ∀ l ∈ r.feeds r.lanes j, wordsIn c.ue (r.laneImage c j l) = [] := fun l hl =>
    wordsIn_nil_of_subset (fun _ hq => List.mem_flatMap_of_mem hl hq) hue
  simp only [PassRec.imageCheck, Chip.readCheck_sound p hue hparity]
  refine congrArg (·, true) (List.foldlRecOn (motive := (· = c.correct p (r.imageRanges c j))) _ _ rfl fun d hd l hl => ?_)
  rw [hd, hlane l hl]
  rfl

/-! A column's reference value (03 R109, 05 R163) -/

theorem Chip.imageCode_of_mem {c d : Chip} (h : d.mem = c.mem) : d.imageCode = c.imageCode := by
  funext payload f col row
  simp only [Chip.imageCode, Chip.le, h]

theorem Chip.blockScale_of_stores {c d : Chip} (h : c.SameStores d) : d.blockScale = c.blockScale := by
  funext l n seg
  simp only [Chip.blockScale, Chip.bank, Chip.le, h.mem, h.banks]

theorem PassRec.rowTerms_of_stores {c d : Chip} (h : c.SameStores d) (r : PassRec) : r.rowTerms d = r.rowTerms c := by
  funext l j seg
  have hbank : d.bank = c.bank := by funext a b; simp only [Chip.bank, h.banks]
  unfold PassRec.rowTerms
  rw [hbank, Chip.blockScale_of_stores h, Chip.imageCode_of_mem h.mem]

theorem PassRec.os_of_mem {c d : Chip} (h : d.mem = c.mem) (r : PassRec) : r.os d = r.os c := by
  funext j
  simp only [PassRec.os, PassRec.outlierTerms, Chip.le, Chip.word, h]

/-- A reference value is computed from memory and the banks alone. -/
theorem PassRec.refValue_of_stores {c d : Chip} (h : c.SameStores d) (r : PassRec) : r.refValue d = r.refValue c := by
  funext j
  simp only [PassRec.refValue, PassRec.rowTerms_of_stores h, PassRec.os_of_mem h.mem]

/-- A pass with a reference value recorded for one of its columns. -/
def PassRec.recordRef (r : PassRec) (j : Nat) (v : Word) : PassRec :=
  { r with todo := r.todo.filter (· != j), vals := Tbl.set j v r.vals }

theorem PassRec.recordRef_vals (r : PassRec) (j : Nat) (v : Word) : Tbl.find? j (r.recordRef j v).vals = some v := Tbl.find?_set_same ..

theorem PassRec.not_mem_recordRef_todo (r : PassRec) (j : Nat) (v : Word) : j ∉ (r.recordRef j v).todo := by simp [PassRec.recordRef]

/-! Waiting passes move into the Fixative queue (05 R149) -/

theorem Chip.enqueue_groups (c : Chip) (p : Nat) (st : StepCtx) (r : PassRec) (cols : List Nat) :
    (c.enqueue p st r cols).1.groups = c.groups := by
  simp only [Chip.enqueue]
  split <;> rfl

theorem Chip.admitWaiting_frame (c : Chip) (p k : Nat) (st : StepCtx) :
    (c.admitWaiting p k st).1.mem = c.mem ∧ (c.admitWaiting p k st).1.groups = c.groups ∧ (c.admitWaiting p k st).1.parts = c.parts := by
  refine List.foldlRecOn (motive := fun a : Chip × StepCtx => a.1.mem = c.mem ∧ a.1.groups = c.groups ∧ a.1.parts = c.parts)
    _ _ ⟨rfl, rfl, rfl⟩ fun a ha r _ => ?_
  obtain ⟨hmem, hgroups, hparts⟩ := ha
  obtain ⟨hmem', -, hparts', -⟩ := a.1.enqueue_frame p { a.2 with passes := a.2.passes.filter (fun q => decide (q.op < r.op)) } r r.wait
  exact ⟨hmem'.trans hmem, (Chip.enqueue_groups ..).trans hgroups, hparts'.trans hparts⟩

/-- A pass that is the only one of its op keeps its values and its columns to compute: only what waits of it can change. -/
theorem Chip.admitWaiting_keeps_pass (c : Chip) (p k : Nat) {st : StepCtx} {q : PassRec} (hq : q ∈ st.passes)
    (honly : ∀ e ∈ st.passes, e.op = q.op → e = q) :
    ∃ e ∈ (c.admitWaiting p k st).2.passes, e.op = q.op ∧ e.vals = q.vals ∧ e.todo = q.todo := by
  refine List.foldlRecOn (motive := fun a : Chip × StepCtx => ∃ e ∈ a.2.passes, e.op = q.op ∧ e.vals = q.vals ∧ e.todo = q.todo)
    _ _ ⟨q, hq, rfl, rfl, rfl⟩ fun a ⟨e, he, hop, hvals, htodo⟩ r hr => ?_
  by_cases hrq : r.op = q.op
  · obtain rfl := honly r (List.mem_filter.mp hr).1 hrq
    exact ⟨_, StepCtx.mem_setPass he hop.symm, rfl, rfl, rfl⟩
  · exact ⟨e, StepCtx.mem_setPass_other he (fun h => hrq (h.symm.trans hop)), hop, hvals, htodo⟩

/-! The recomputation of a column (05 R160-R164) -/

theorem exec_fixRecomputeDone_powered {s : State} (hup : s.chip.powered = true) (p k : Nat) :
    exec (.fixRecomputeDone p k) s = .next (s.withChip (s.chip.fixRecompute p k)) :=
  State.onChip_powered hup (·.fixRecompute p k)

/-- A column with sound images is recorded with its reference value, and waiting passes move into the queue it left. -/
theorem Chip.fixRecompute_sound {c : Chip} {p k : Nat} {x : Part} {st : StepCtx} {f : FixEntry} {rest : List FixEntry} {r : PassRec}
    (hrun : c.running p = some (x, st)) (hqueue : (c.core k).fixq = f :: rest) (hown : f.p = p)
    (hr : st.passes.find? (fun r => r.op == f.op) = some r) (hue : wordsIn c.ue (r.imageRanges c f.col) = [])
    (hparity : st.parity = false ∨ wordsIn c.damaged (r.imageRanges c f.col) = []) (himage : r.imageBad c f.col = false) :
    ∃ d : Chip, d.mem = c.mem ∧ d.groups = c.groups ∧ d.parts = c.parts ∧
      let a := d.admitWaiting p k (st.setPass (r.recordRef f.col (r.refValue c f.col)))
      c.fixRecompute p k = a.1.setStep p a.2 := by
  have hsound := PassRec.imageCheck_sound p hue hparity
  have hgroups := c.correct_groups p (r.imageRanges c f.col)
  have hstores := c.correct_sameStores p (r.imageRanges c f.col)
  generalize c.correct p (r.imageRanges c f.col) = d at hsound hgroups hstores
  obtain ⟨e, he, hmem, hgroups', hparts, hvalue⟩ : ∃ e,
      (if r.mode ≠ 1 && r.sub.contains f.col then d.count (rg .fixEvtRecomp k) else d) = e ∧
        e.mem = c.mem ∧ e.groups = c.groups ∧ e.parts = c.parts ∧ r.refValue e = r.refValue c := by
    split
    · exact ⟨_, rfl, hstores.mem, hgroups, hstores.parts, PassRec.refValue_of_stores (hstores.trans ⟨rfl, rfl, rfl, rfl⟩) r⟩
    · exact ⟨_, rfl, hstores.mem, hgroups, hstores.parts, PassRec.refValue_of_stores hstores r⟩
  refine ⟨e.setCore k { e.core k with fixq := rest }, hmem, hgroups', hparts, ?_⟩
  simp only [Chip.fixRecompute, hrun, hqueue, hown, hr, himage, hsound, ne_self_iff_false, if_false, Bool.false_eq_true, Bool.not_true, he,
    hvalue]
  rfl

/-! What the mending of columns leaves alone (12 R435, R436) -/

/-- Two parts with the same memory, registers and partitions. -/
structure Chip.SameRecords (c d : Chip) : Prop where
  mem : d.mem = c.mem
  regs : d.regs = c.regs
  parts : d.parts = c.parts

theorem Chip.SameRecords.refl (c : Chip) : c.SameRecords c := ⟨rfl, rfl, rfl⟩
theorem Chip.SameRecords.trans {c d e : Chip} (h : c.SameRecords d) (k : d.SameRecords e) : c.SameRecords e :=
  ⟨k.mem.trans h.mem, k.regs.trans h.regs, k.parts.trans h.parts⟩

theorem Chip.keepTurn_sameRecords (c : Chip) (array : Nat) : c.SameRecords (c.keepTurn array) := by
  simp only [Chip.keepTurn]
  split <;> exact ⟨rfl, rfl, rfl⟩

theorem Chip.setBank_sameRecords (c : Chip) (a b : Nat) (x : Bank) : c.SameRecords (c.setBank a b x) := ⟨rfl, rfl, rfl⟩

theorem Chip.refresh_sameRecords (c : Chip) (a b : Nat) (cols : List Nat) : c.SameRecords (c.refresh a b cols) :=
  (c.keepTurn_sameRecords a).trans (Chip.setBank_sameRecords ..)

theorem Chip.checksumWrong_sameRecords (c : Chip) (p array bank : Nat) : c.SameRecords (c.checksumWrong p array bank) :=
  (Chip.setBank_sameRecords ..).trans (Chip.refresh_sameRecords ..)

theorem Chip.referenceWrong_sameRecords (c : Chip) (array bank : Nat) : c.SameRecords (c.referenceWrong array bank) :=
  (c.refresh_sameRecords array bank [1041, 1042, 1043]).trans ⟨rfl, rfl, rfl⟩

theorem Chip.SameRecords.foldl {α : Type} (l : List α) (f : Chip → α → Chip) (h : ∀ (c : Chip) a, c.SameRecords (f c a)) (c : Chip) :
    c.SameRecords (l.foldl f c) :=
  List.foldlRecOn (motive := c.SameRecords) l f (.refl c) fun d hd a _ => hd.trans (h d a)

/-- One part follows another with the same memory and running steps, and takes back no bit of INT_STATUS. -/
structure Chip.Mends (c d : Chip) : Prop where
  mem : d.mem = c.mem
  bits : ∀ p i, (c.reg (rg .safeIntStatus p)).bit i = true → (d.reg (rg .safeIntStatus p)).bit i = true
  runs : ∀ p, (d.part p).map Part.run = (c.part p).map Part.run

theorem Chip.Mends.refl (c : Chip) : c.Mends c := ⟨rfl, fun _ _ h => h, fun _ => rfl⟩
theorem Chip.Mends.trans {c d e : Chip} (h : c.Mends d) (k : d.Mends e) : c.Mends e :=
  ⟨k.mem.trans h.mem, fun p i hi => k.bits p i (h.bits p i hi), fun p => (k.runs p).trans (h.runs p)⟩

theorem Chip.Mends.foldl {α : Type} (l : List α) (f : Chip → α → Chip) (h : ∀ (c : Chip) a, c.Mends (f c a)) (c : Chip) :
    c.Mends (l.foldl f c) :=
  List.foldlRecOn (motive := c.Mends) l f (.refl c) fun d hd a _ => hd.trans (h d a)

theorem Chip.SameRecords.mends {c d : Chip} (h : c.SameRecords d) : c.Mends d :=
  ⟨h.mem, fun _ _ hi => by rwa [Chip.reg_of_regs h.regs], fun p => by rw [Chip.part_of_parts h.parts]⟩

theorem Chip.Mends.setBits (c : Chip) (r : Reg) (m : Nat) : c.Mends (c.setBits r m) := by
  refine ⟨rfl, fun p i hi => ?_, fun _ => rfl⟩
  rw [Chip.setBits, Chip.reg_setReg]
  split
  · rename_i h
    rw [Word.bit_or, ← h, hi, Bool.true_or]
  · exact hi

theorem Chip.Mends.count (c : Chip) {r : Reg} (h : r.name ≠ .safeIntStatus) (n : Nat) : c.Mends (c.count r n) :=
  ⟨rfl, fun p i hi => by rwa [Chip.count, Chip.reg_setReg_other _ _ _ _ (fun e => h (congrArg Reg.name e).symm)], fun _ => rfl⟩

theorem Chip.Mends.updPart (c : Chip) (p : Nat) (f : Part → Part) (h : ∀ x, (f x).run = x.run) : c.Mends (c.updPart p f) :=
  ⟨Chip.updPart_mem .., fun _ _ hi => by rwa [Chip.reg_of_regs (Chip.updPart_regs ..)], (Chip.Keeps.updPart c p f h).runs⟩

theorem Chip.Mends.correct (c : Chip) (p : Nat) (rs : List (Nat × Nat)) : c.Mends (c.correct p rs) := by
  simp only [Chip.correct]
  split
  · exact .refl c
  · exact .trans (d := { c with ce := c.ce.filter (fun a => !(wordsIn c.ce rs).contains a) }) ⟨rfl, fun _ _ h => h, fun _ => rfl⟩
      (.count _ (by simp [rg]) _)

theorem Chip.Mends.noteUe (c : Chip) (p n : Nat) : c.Mends (c.noteUe p n) :=
  ((Chip.Mends.setBits c _ 1).trans (.count _ (by simp [rg]) n)).trans (.updPart _ p _ fun _ => rfl)

theorem Chip.Mends.noteParity (c : Chip) (p : Nat) : c.Mends (c.noteParity p) :=
  (Chip.Mends.setBits c _ 2).trans (.count _ (by simp [rg]) 1)

theorem Chip.Mends.deviceRead (c : Chip) (p : Nat) (rs : List (Nat × Nat)) : c.Mends (c.deviceRead p rs).1 := by
  unfold Chip.deviceRead
  extract_lets broken d ue
  have hd : c.Mends d := by
    simp only [d]
    split
    · exact (Chip.Mends.noteParity c p).trans (.correct _ p rs)
    · exact .correct c p rs
  split
  · exact hd
  · exact hd.trans (.noteUe d p ue)

theorem Chip.Mends.imageRead (c : Chip) (p run : Nat) (rs : List (Nat × Nat)) : c.Mends (c.imageRead p run rs).1 := by
  simp only [Chip.imageRead]
  split
  · exact .deviceRead c p rs
  · exact (Chip.Mends.deviceRead c p rs).trans (.updPart _ p _ fun _ => rfl)

theorem Chip.Mends.remapLogical (c : Chip) (p array bank col : Nat) : c.Mends (c.remapLogical p array bank col) := by
  have hset : ∀ (d : Chip) (x : Bank), d.Mends (d.setBank array bank x) := fun d x => (d.setBank_sameRecords array bank x).mends
  simp only [Chip.remapLogical]
  split
  · exact .refl c
  · split
    · exact hset c _
    · split
      · exact ((hset c _).trans (.setBits _ _ 8)).trans (.count _ (by simp [rg]) 1)
      · have hread := Chip.Mends.imageRead c p (c.bank array bank).run ((c.bank array bank).imageOf ((c.bank array bank).merged.effective col))
        split
        · exact hread.trans (hset _ _)
        · exact (hread.trans (hset _ _)).trans (.count _ (by simp [rg]) 1)

theorem Chip.Mends.remapColumn (c : Chip) (p array bank phys : Nat) : c.Mends (c.remapColumn p array bank phys) := by
  simp only [Chip.remapColumn]
  split
  · exact .refl c
  · exact .remapLogical c p array bank _

/-- A column found wrong is refreshed or remapped, neither of which touches memory or a running step. -/
theorem Chip.Mends.mendColumn (c : Chip) (p array bank phys : Nat) : c.Mends (c.mendColumn p array bank phys) := by
  have hrefresh : ∀ x : Bank, c.Mends ((c.setBank array bank x).refresh array bank [phys]) := fun x =>
    ((c.setBank_sameRecords array bank x).trans (Chip.refresh_sameRecords ..)).mends
  simp only [Chip.mendColumn]
  split
  · split
    · exact (c.setBank_sameRecords array bank _).mends.trans (.remapColumn _ p array bank phys)
    · exact hrefresh _
  · exact hrefresh _

theorem Chip.Mends.running {c d : Chip} (h : c.Mends d) {p : Nat} {x : Part} {st : StepCtx} (hrun : c.running p = some (x, st)) :
    ∃ y, d.running p = some (y, st) := by
  obtain ⟨hpart, hst⟩ := Chip.part_of_running hrun
  obtain ⟨y, hy, hyst⟩ : ∃ y, d.part p = some y ∧ y.run = some st := by simpa [hpart, hst] using h.runs p
  exact ⟨y, by simp [Chip.running, hy, hyst]⟩

/-! Arbitration of a suspect pass (12 R435, R436) -/

theorem exec_arbitrationDone_powered {s : State} (hup : s.chip.powered = true) (p k : Nat) :
    exec (.arbitrationDone p k) s = .next (s.withChip (s.chip.arbitrationDone p k)) :=
  State.onChip_powered hup (·.arbitrationDone p k)

theorem Chip.arbitrationDone_due {c : Chip} {p k : Nat} {x : Part} {st : StepCtx} {r : PassRec} (hrun : c.running p = some (x, st))
    (hr : st.passes.find? (fun r => r.core == k && r.phase == .admitted && r.isSuspect && !r.arbitrated) = some r) (htodo : r.todo = []) :
    c.arbitrationDone p k = c.arbitrate p st r := by
  simp [Chip.arbitrationDone, hrun, hr, htodo]

/-- Where every implicated column agrees, the checker was wrong: it is counted, and its columns are refreshed. -/
theorem Chip.arbitrate_agree {c : Chip} {r : PassRec} (p : Nat) (st : StepCtx) (hagree : ∀ j ∈ r.implicated, r.agrees c j = true) :
    ∃ d, (c.count (rg .safeEvtCheckerWrong p)).SameRecords d ∧
      c.arbitrate p st r = d.setStep p (st.setPass { r with arbitrated := true }) := by
  have hnone : r.implicated.filter (fun j => !r.agrees c j) = [] := List.filter_eq_nil_iff.mpr fun j hj => by simp [hagree j hj]
  simp only [Chip.arbitrate, hnone, List.isEmpty_nil, if_true]
  exact ⟨_, (Chip.SameRecords.foldl _ _ (fun d a => d.checksumWrong_sameRecords p a _) _).trans
    (.foldl _ _ (fun d a => d.referenceWrong_sameRecords a _) _), rfl⟩

/-- A step in which all implicated columns of a pass are substituted. -/
def StepCtx.substitute (st : StepCtx) (r : PassRec) : StepCtx :=
  { st.setPass { r with arbitrated := true, sub := r.ordered (r.sub ++ r.implicated) } with corrected := true }

/-- Where an implicated column disagrees, CORRECTED is set, wrong columns are mended, and the partition enters recovery with the pass's
implicated columns substituted. -/
theorem Chip.arbitrate_disagree {c : Chip} {r : PassRec} (p : Nat) (st : StepCtx) {j : Nat} (hj : j ∈ r.implicated)
    (hwrong : r.agrees c j = false) :
    ∃ d, (c.setBits (rg .safeIntStatus p) 16).Mends d ∧ c.arbitrate p st r = (d.enterRecovery p).updStep p (·.substitute r) := by
  have hsome : (r.implicated.filter (fun j => !r.agrees c j)).isEmpty = false :=
    List.isEmpty_eq_false_iff_exists_mem.mpr ⟨j, List.mem_filter.mpr ⟨hj, by simp [hwrong]⟩⟩
  have hrefresh : ∀ (l cols : List Nat) (d : Chip), d.Mends (l.foldl (fun d a => d.refresh a (r.bankOf a) cols) d) := fun l cols d =>
    (Chip.SameRecords.foldl l _ (fun d a => d.refresh_sameRecords a _ cols) d).mends
  unfold Chip.arbitrate
  extract_lets js wrong _ _ _ counted mended refreshed
  rw [if_neg (by simp [wrong, js, hsome])]
  have hmended : (c.setBits (rg .safeIntStatus p) 16).Mends mended :=
    .trans (d := counted) (.count _ (by simp [rg]) _) (.foldl _ _ (fun d j => .foldl _ _ (fun d k => .mendColumn d p _ _ _) d) _)
  refine ⟨refreshed, ?_, rfl⟩
  simp only [refreshed]
  split
  · exact hmended
  · exact hmended.trans ((hrefresh _ _ _).trans (hrefresh _ _ _))

theorem PassRec.mem_ordered {r : PassRec} {js : List Nat} {j : Nat} : j ∈ r.ordered js ↔ j ∈ r.allCols ∧ j ∈ js := by
  cases js <;> simp [PassRec.ordered]

theorem PassRec.implicated_subset_ordered (r : PassRec) : ∀ j ∈ r.implicated, j ∈ r.ordered (r.sub ++ r.implicated) := by
  intro j hj
  exact PassRec.mem_ordered.mpr ⟨(PassRec.mem_ordered.mp hj).1, List.mem_append_right _ hj⟩

theorem Chip.running_enterRecovery {c : Chip} {p : Nat} {x : Part} {st : StepCtx} (h : c.running p = some (x, st)) :
    (c.enterRecovery p).running p = some ({ x with recovery := true, clean := x.rounds }, st) := by
  obtain ⟨hpart, hst⟩ := Chip.part_of_running h
  simp [Chip.enterRecovery, Chip.updPart_eq hpart, Chip.running, hst]

theorem Chip.running_updStep {c : Chip} {p : Nat} {x : Part} {st : StepCtx} (h : c.running p = some (x, st)) (f : StepCtx → StepCtx) :
    (c.updStep p f).running p = some ({ x with run := some (f st) }, f st) := by
  obtain ⟨hpart, hst⟩ := Chip.part_of_running h
  simp [Chip.updStep, Chip.updPart_eq hpart, Chip.running, hst]

/-! The statement -/

/-- Settles O7: a sound image gives the column's reference value, and arbitration turns on whether some implicated column disagrees. -/
theorem suspectPassesAreRecomputedAndJudged : Obligations.SuspectPassesAreRecomputedAndJudged := by
  refine ⟨fun s p k x st f rest r hup hrun hqueue hown hr hue hparity himage => ?_,
    fun s p k x st r hup hrun hr htodo => ⟨fun hagree => ?_, fun ⟨j, hj, hwrong⟩ => ?_⟩⟩
  · obtain ⟨hpart, -⟩ := Chip.part_of_running hrun
    have hop : r.op = f.op := by simpa using List.find?_some hr
    obtain ⟨d, hmem, hgroups, hparts, heq⟩ := Chip.fixRecompute_sound hrun hqueue hown hr hue hparity himage
    obtain ⟨hmem', hgroups', hparts'⟩ := d.admitWaiting_frame p k (st.setPass (r.recordRef f.col (r.refValue s.chip f.col)))
    obtain ⟨q, hq, hqop, hvals, hdone⟩ := d.admitWaiting_keeps_pass p k
      (StepCtx.mem_setPass (q := r.recordRef f.col (r.refValue s.chip f.col)) (List.mem_of_find?_eq_some hr) rfl)
      fun e he => StepCtx.eq_of_mem_setPass he
    refine ⟨_, exec_fixRecomputeDone_powered hup p k, ?_⟩
    simp only [State.withChip, heq]
    exact ⟨(Chip.setStep_mem ..).trans (hmem'.trans hmem), (Chip.setStep_groups ..).trans (hgroups'.trans hgroups),
      _, _, Chip.running_setStep ((Chip.part_of_parts (hparts'.trans hparts) p).trans hpart) _, q, hq, hqop.trans hop,
      by rw [hvals, PassRec.recordRef_vals], by rw [hdone]; exact r.not_mem_recordRef_todo f.col _⟩
  · obtain ⟨hpart, -⟩ := Chip.part_of_running hrun
    obtain ⟨d, hsame, heq⟩ := s.chip.arbitrate_agree p st hagree
    refine ⟨_, exec_arbitrationDone_powered hup p k, ?_⟩
    simp only [State.withChip, Chip.arbitrationDone_due hrun hr htodo, heq]
    exact ⟨(Chip.setStep_mem ..).trans hsame.mem, Chip.reg_of_regs ((Chip.setStep_regs ..).trans hsame.regs) _,
      _, _, Chip.running_setStep ((Chip.part_of_parts hsame.parts p).trans hpart) _, rfl,
      _, StepCtx.mem_setPass (List.mem_of_find?_eq_some hr) rfl, rfl, rfl, rfl⟩
  · obtain ⟨d, hmends, heq⟩ := s.chip.arbitrate_disagree p st hj hwrong
    obtain ⟨y, hy⟩ := hmends.running (hrun : (s.chip.setBits (rg .safeIntStatus p) 16).running p = _)
    refine ⟨_, exec_arbitrationDone_powered hup p k, ?_⟩
    simp only [State.withChip, Chip.arbitrationDone_due hrun hr htodo, heq]
    refine ⟨(Chip.updStep_mem ..).trans ((Chip.updPart_mem ..).trans hmends.mem), ?_,
      _, _, Chip.running_updStep (Chip.running_enterRecovery hy) _, rfl, rfl,
      _, StepCtx.mem_setPass (List.mem_of_find?_eq_some hr) rfl, rfl, rfl, r.implicated_subset_ordered⟩
    have hregs : ((d.enterRecovery p).updStep p (·.substitute r)).regs = d.regs := (Chip.updStep_regs ..).trans (Chip.updPart_regs ..)
    rw [Chip.reg_of_regs hregs]
    refine hmends.bits p 4 ?_
    have hset : Word.bit (BitVec.ofNat 32 16) 4 = true := by decide
    rw [Chip.setBits, Chip.reg_setReg_same, Word.bit_or, hset, Bool.or_true]

end Sys2Proof.Machine
end

section
/-! PROOFS. Handle and window entries (07 R258, R265, R268, R277, R278, 09 R320): when the commit of a written entry takes it, closes it
or refuses it, what the write of its last word leaves unchanged, and the statement settled from these. -/

namespace Sys2Proof.Machine

/-! The write of a last word -/

/-- A bit set in a register reads back as 1. -/
theorem Chip.setBits_bit (c : Chip) (r : Reg) {m i : Nat} (h : Word.bit (BitVec.ofNat 32 m) i = true) :
    ((c.setBits r m).reg r).bit i = true := by
  rw [Chip.setBits, Chip.reg_setReg_same, Word.bit_or, h, Bool.or_true]

@[simp] theorem Chip.part_plainWrite (c : Chip) (r : Reg) (v : Word) (p : Nat) : (c.plainWrite r v).part p = c.part p :=
  Chip.part_of_parts (c.plainWrite_parts r v) p

/-- The owner of a key is read from ILT.KEYS alone (14 R518). -/
theorem Chip.keyOwner_plainWrite (c : Chip) {r : Reg} (v : Word) (h : r.name ≠ .iltKeys) (key : Nat) :
    (c.plainWrite r v).keyOwner key = c.keyOwner key := by
  have hreg : rg .iltKeys 0 (key / 4) ≠ r := fun e => h (congrArg Reg.name e).symm
  simp only [Chip.keyOwner, Chip.reg_plainWrite_other c v hreg]

theorem Chip.keyGranted_plainWrite (c : Chip) {r : Reg} (v : Word) (h : r.name ≠ .iltKeys) (p key : Nat) :
    (c.plainWrite r v).keyGranted p key = c.keyGranted p key := by
  rw [Chip.keyGranted, Chip.keyGranted, c.keyOwner_plainWrite v h]

/-- What a window has admitted and not yet landed is read from the flows and the owners of their keys (07 R268). -/
theorem Chip.landing_plainWrite (c : Chip) {r : Reg} (v : Word) (h : r.name ≠ .iltKeys) (p : Nat) (w : List Word) :
    (c.plainWrite r v).landing p w = c.landing p w := by
  have hfab : (c.plainWrite r v).fab = c.fab := rfl
  simp only [Chip.landing, hfab, c.keyOwner_plainWrite v h]

/-! Handles (07 R258, R277) -/

/-- BASE of a handle entry as its words stand. -/
def Chip.handleBase (c : Chip) (p n : Nat) : Nat :=
  (c.reg (rg .scrHandleW0 p n)).toNat + 2 ^ 32 * (c.reg (rg .scrHandleW1 p n)).toNat

/-- SIZE of a handle entry as its words stand, in bytes. -/
def Chip.handleBytes (c : Chip) (p n : Nat) : Nat := 64 * (c.reg (rg .scrHandleW2 p n)).field 21 0

/-- The words of an entry name a buffer at a physical base: wholly in the region that word 3 gives, and of a legal SIZE. -/
structure Chip.HandleNames (c : Chip) (p n : Nat) (x : Part) (a : Nat) : Prop where
  inRegion : x.buffer p (c.handleBase p n) (c.handleBytes p n) = some (a, (c.reg (rg .scrHandleW3 p n)).field 2 1)
  notEmpty : 0 < c.handleBytes p n
  notLarge : c.handleBytes p n ≤ 2 ^ 27

section Commit

variable {c : Chip} {p n : Nat} {x : Part} (hx : c.part p = some x)
include hx

theorem Chip.handleCommit_software (howns : x.ownsHandle n = false) (v : Word) :
    c.handleCommit p n v = (c.plainWrite (rg .scrHandleW3 p n) v).commitHandle p n := by
  simp [Chip.handleCommit, hx, howns]

theorem Chip.commitHandle_closes (hregion : (c.reg (rg .scrHandleW3 p n)).field 2 1 ≠ 3)
    (hvalid : (c.reg (rg .scrHandleW3 p n)).bit 0 = false) :
    c.commitHandle p n = c.setPart p { x with handles := Tbl.del n x.handles } := by
  simp [Chip.commitHandle, hx, hregion, hvalid]

theorem Chip.commitHandle_enters {a : Nat} (hregion : (c.reg (rg .scrHandleW3 p n)).field 2 1 ≠ 3)
    (hvalid : (c.reg (rg .scrHandleW3 p n)).bit 0 = true) (hnames : c.HandleNames p n x a) :
    c.commitHandle p n = c.setPart p { x with
      handles := Tbl.set n ⟨a, c.handleBytes p n, (c.reg (rg .scrHandleW3 p n)).field 2 1, (c.reg (rg .scrHandleW3 p n)).bit 3⟩ x.handles } := by
  obtain ⟨hbuf, hpos, hmax⟩ := hnames
  simp only [Chip.handleBase, Chip.handleBytes] at hbuf hpos hmax
  simp only [Chip.commitHandle, hx, hregion, hvalid, hbuf, Bool.not_true, Bool.false_eq_true, if_false]
  exact if_neg (by omega)

/-- An entry with VALID set whose words name no buffer is refused, for its base, its region or its SIZE. -/
theorem Chip.commitHandle_refuses (h : (c.reg (rg .scrHandleW3 p n)).field 2 1 = 3 ∨
      ((c.reg (rg .scrHandleW3 p n)).bit 0 = true ∧ ∀ a, ¬ c.HandleNames p n x a)) :
    c.commitHandle p n = c.setBits (rg .scrStatus p) 2 := by
  by_cases hregion : (c.reg (rg .scrHandleW3 p n)).field 2 1 = 3
  · simp [Chip.commitHandle, hx, hregion]
  obtain ⟨hvalid, hnames⟩ := h.resolve_left hregion
  simp only [Chip.commitHandle, hx, hregion, hvalid, Bool.not_true, Bool.false_eq_true, if_false]
  split
  · next a k hbuf =>
    refine if_pos (Decidable.byContradiction fun hfits => hnames a ?_)
    obtain ⟨hsame, hsize⟩ := not_or.mp hfits
    obtain ⟨hempty, hlarge⟩ := not_or.mp hsize
    obtain rfl := Decidable.not_not.mp hsame
    exact ⟨hbuf, Nat.mul_pos (by decide) (Nat.pos_of_ne_zero hempty), Nat.mul_le_mul_left 64 (Nat.not_lt.mp hlarge)⟩
  · rfl

end Commit

theorem Chip.handleBase_plainWrite_w3 (c : Chip) (p n : Nat) (v : Word) :
    (c.plainWrite (rg .scrHandleW3 p n) v).handleBase p n = c.handleBase p n := by
  simp [Chip.handleBase, Chip.reg_plainWrite_other, rg]

theorem Chip.handleBytes_plainWrite_w3 (c : Chip) (p n : Nat) (v : Word) :
    (c.plainWrite (rg .scrHandleW3 p n) v).handleBytes p n = c.handleBytes p n := by
  simp [Chip.handleBytes, Chip.reg_plainWrite_other, rg]

/-! Windows (07 R265, R268, R278) -/

/-- The words of a window entry as they stand. -/
def Chip.windowWords (c : Chip) (p n : Nat) : List Word := windowRegs.map (fun k => c.reg (rg k p n))

/-- Words of a window that name a buffer, a key granted to the partition and a range of sources. -/
def Chip.WindowLegal (c : Chip) (p : Nat) (x : Part) (ws : List Word) : Prop :=
  0 < (ws.getD 2 0).field 25 0 ∧
  (x.buffer p ((ws.getD 0 0).toNat + 2 ^ 32 * (ws.getD 1 0).toNat) (64 * (ws.getD 2 0).field 25 0)).isSome = true ∧
  c.keyGranted p ((ws.getD 4 0).field 15 0) = true ∧ (ws.getD 3 0).field 15 0 ≤ (ws.getD 3 0).field 31 16

theorem Chip.windowLegal_plainWrite (c : Chip) {r : Reg} (v : Word) (h : r.name ≠ .iltKeys) (p : Nat) (x : Part) (ws : List Word) :
    (c.plainWrite r v).WindowLegal p x ws ↔ c.WindowLegal p x ws := by
  rw [Chip.WindowLegal, Chip.WindowLegal, c.keyGranted_plainWrite v h]

/-- Words are not legal where one of the four checks at a commit fails: SIZE, region, key, sources. -/
theorem Chip.not_windowLegal_iff (c : Chip) (p : Nat) (x : Part) (ws : List Word) :
    ¬ c.WindowLegal p x ws ↔ ((ws.getD 2 0).field 25 0 = 0 ∨
      (x.buffer p ((ws.getD 0 0).toNat + 2 ^ 32 * (ws.getD 1 0).toNat) (64 * (ws.getD 2 0).field 25 0)).isNone = true ∨
      (!c.keyGranted p ((ws.getD 4 0).field 15 0)) = true ∨ (ws.getD 3 0).field 31 16 < (ws.getD 3 0).field 15 0) := by
  simp only [Chip.WindowLegal, Classical.not_and_iff_not_or_not, Nat.not_lt, Nat.le_zero, Nat.not_le, Bool.not_eq_true',
    Bool.not_eq_true, Option.isSome_eq_false_iff]

section Commit

variable {c : Chip} {p n : Nat} {x : Part} (hx : c.part p = some x)
include hx

theorem Chip.windowCommit_software (howns : x.ownsWindow n = false) (v : Word) :
    c.windowCommit p n v = (c.plainWrite (rg .scrWindowW5 p n) v).commitWindow p n := by
  simp [Chip.windowCommit, hx, howns]

theorem Chip.commitWindow_commits
    (h : ((c.windowWords p n).getD 5 0).bit 0 = false ∨ c.WindowLegal p x (c.windowWords p n)) :
    c.commitWindow p n = c.setWindow p n (c.windowWords p n) := by
  simp only [Chip.commitWindow, hx]
  by_cases hvalid : ((c.windowWords p n).getD 5 0).bit 0 = false
  · exact if_pos (by rw [← Chip.windowWords, hvalid]; rfl)
  · have hlegal := h.resolve_left hvalid
    refine (if_neg (by simpa [Chip.windowWords] using hvalid)).trans (if_neg fun hbad => ?_)
    exact (c.not_windowLegal_iff p x _).mpr hbad hlegal

theorem Chip.commitWindow_refuses (hvalid : ((c.windowWords p n).getD 5 0).bit 0 = true)
    (hlegal : ¬ c.WindowLegal p x (c.windowWords p n)) : c.commitWindow p n = c.setBits (rg .scrStatus p) 4 := by
  simp only [Chip.commitWindow, hx]
  refine (if_neg ?_).trans (if_pos ((c.not_windowLegal_iff p x _).mp hlegal))
  simpa [Chip.windowWords] using hvalid

end Commit

/-- A window entry comes into force as its words stand; one with VALID 0 also keeps what the window still has in flight (07 R268). -/
theorem Chip.setWindow_plainWrite {c : Chip} {p n : Nat} {x : Part} (hx : c.part p = some x) {r : Reg} (v : Word) (h : r.name ≠ .iltKeys)
    (ws : List Word) :
    (c.plainWrite r v).setWindow p n ws = (c.plainWrite r v).setPart p { x with
      windows := Tbl.set n ws x.windows
      closing := if (ws.getD 5 0).bit 0 then x.closing
        else Tbl.set n (Tbl.get [] n x.closing ++ c.landing p (Tbl.get [] n x.windows)) x.closing } := by
  rw [Chip.setWindow, Chip.updPart_eq ((c.part_plainWrite r v p).trans hx), c.landing_plainWrite v h]

/-! The statement -/

theorem exec_handleCommit_powered {s : State} (hup : s.chip.powered = true) (p n : Nat) (v : Word) :
    exec (.handleCommit p n v) s = .next (s.withChip (s.chip.handleCommit p n v)) :=
  State.onChip_powered hup (·.handleCommit p n v)

theorem exec_windowCommit_powered {s : State} (hup : s.chip.powered = true) (p n : Nat) (v : Word) :
    exec (.windowCommit p n v) s = .next (s.withChip (s.chip.windowCommit p n v)) :=
  State.onChip_powered hup (·.windowCommit p n v)

/-- A refused entry leaves the partitions alone and sets its bit of SCR.STATUS. -/
theorem Chip.plainWrite_refused (c : Chip) (r : Reg) (v : Word) (p : Nat) {m i : Nat} (h : Word.bit (BitVec.ofNat 32 m) i = true) :
    ((c.plainWrite r v).setBits (rg .scrStatus p) m).parts = c.parts ∧
      (((c.plainWrite r v).setBits (rg .scrStatus p) m).reg (rg .scrStatus p)).bit i = true :=
  ⟨rfl, Chip.setBits_bit _ _ h⟩

/-- Settles O40: the write of a last word changes no other word, no partition and no key, and the commit of the words then takes, closes
or refuses the entry. -/
theorem handlesAndWindowsCommit : Obligations.HandlesAndWindowsCommit := by
  refine ⟨fun s p n v x hup hpart howns => ?_, fun s p n v x hup hpart howns => ?_⟩
  · intro w3 base bytes
    have hx := (s.chip.part_plainWrite (rg .scrHandleW3 p n) v p).trans hpart
    have hbase := s.chip.handleBase_plainWrite_w3 p n v
    have hbytes := s.chip.handleBytes_plainWrite_w3 p n v
    have hexec := exec_handleCommit_powered hup p n v
    rw [Chip.handleCommit_software hpart howns] at hexec
    refine ⟨fun hregion hvalid => ⟨_, hexec, ?_⟩, fun a hregion hvalid hbuf hpos hmax => ⟨_, hexec, ?_⟩, fun hbad => ⟨_, hexec, ?_⟩⟩
    · rw [Chip.commitHandle_closes hx hregion hvalid]
      exact ⟨Chip.part_setPart_same .., rfl⟩
    · have hnames : (s.chip.plainWrite (rg .scrHandleW3 p n) v).HandleNames p n x a :=
        ⟨by rwa [hbase, hbytes], by rwa [hbytes], by rwa [hbytes]⟩
      rw [Chip.commitHandle_enters hx hregion hvalid hnames, hbytes]
      exact ⟨rfl, Chip.part_setPart_same ..⟩
    · have hnone : x.buffer p base bytes = none → ∀ a, ¬ (s.chip.plainWrite (rg .scrHandleW3 p n) v).HandleNames p n x a := by
        intro hbuf a hnames
        have hin := hnames.inRegion
        rw [hbase, hbytes] at hin
        exact absurd (hbuf.symm.trans hin) (by simp)
      rw [Chip.commitHandle_refuses hx (hbad.imp_right fun h => ⟨h.1, hnone h.2⟩)]
      exact s.chip.plainWrite_refused _ v p (by decide)
  · intro c ws legal
    have hx := (s.chip.part_plainWrite (rg .scrWindowW5 p n) v p).trans hpart
    have hkeys : (rg .scrWindowW5 p n).name ≠ .iltKeys := by simp [rg]
    have hlegal : c.WindowLegal p x ws ↔ legal := s.chip.windowLegal_plainWrite v hkeys p x ws
    have hexec := exec_windowCommit_powered hup p n v
    rw [Chip.windowCommit_software hpart howns] at hexec
    refine ⟨fun hok => ⟨_, hexec, ?_⟩, fun hvalid hbad => ⟨_, hexec, ?_⟩⟩
    · rw [Chip.commitWindow_commits hx (hok.imp_right hlegal.mpr), Chip.setWindow_plainWrite hpart v hkeys]
      exact ⟨rfl, Chip.part_setPart_same ..⟩
    · rw [Chip.commitWindow_refuses hx hvalid (mt hlegal.mp hbad)]
      exact s.chip.plainWrite_refused _ v p (by decide)

end Sys2Proof.Machine
end

section
/-! PROOFS. Ops that issue (07 R259-R261, 08 R285): what an op that leaves its queue finds and leaves alone, what the ops of movers,
stream units and cores write at issue, and the statements settled from these. -/

namespace Sys2Proof.Machine

/-! The part once an op has left its queue -/

theorem Chip.le_of_mem {c d : Chip} (h : d.mem = c.mem) : d.le = c.le := by
  funext a n
  simp only [Chip.le, h]

theorem Chip.read_of_mem {c d : Chip} (h : d.mem = c.mem) : d.read = c.read := by
  funext a n
  simp only [Chip.read, h]

/-- One part follows another with only marks of corrected words, registers and partitions changed. -/
def Chip.SameOutside (c d : Chip) : Prop := ∃ ce regs parts, d = { c with ce := ce, regs := regs, parts := parts }

theorem Chip.SameOutside.trans {c d e : Chip} (h : c.SameOutside d) (k : d.SameOutside e) : c.SameOutside e := by
  obtain ⟨_, _, _, rfl⟩ := h
  obtain ⟨_, _, _, rfl⟩ := k
  exact ⟨_, _, _, rfl⟩

theorem Chip.SameOutside.groups {c d : Chip} (h : c.SameOutside d) : d.groups = c.groups := by obtain ⟨_, _, _, rfl⟩ := h; rfl
theorem Chip.SameOutside.banks {c d : Chip} (h : c.SameOutside d) : d.banks = c.banks := by obtain ⟨_, _, _, rfl⟩ := h; rfl
theorem Chip.SameOutside.clocks {c d : Chip} (h : c.SameOutside d) : d.clocks = c.clocks := by obtain ⟨_, _, _, rfl⟩ := h; rfl

theorem Chip.updPart_sameOutside (c : Chip) (p : Nat) (f : Part → Part) : c.SameOutside (c.updPart p f) := by
  simp only [Chip.updPart]
  split
  · exact ⟨_, _, _, rfl⟩
  · exact ⟨c.ce, c.regs, c.parts, rfl⟩

section
variable {c : Chip} {p : Nat} {q : Queue} {n : Nat} {x : Part} {st : StepCtx} {o : Op} {rest : List Op} (h : c.Issues p q n x st o rest)
include h

/-- An op that leaves its queue counts corrected words, records its Almanac, and changes the running step. -/
theorem Chip.afterIssue_sameOutside : c.SameOutside (c.afterIssue p q x st o rest) := by
  have hread : c.SameOutside (c.readCheck p st.parity (c.opUses p x st o)).1 := by
    obtain ⟨ce, regs, hread⟩ := Chip.readCheck_frame h.healthy
    exact ⟨ce, regs, c.parts, hread⟩
  have hstep := hread.trans (Chip.updPart_sameOutside _ p (fun x => { x with run := some (st.left q rest) }))
  simp only [Chip.afterIssue]
  split
  · exact hstep.trans (.trans ⟨_, _, _, rfl⟩ (Chip.updPart_sameOutside ..))
  · exact hstep

/-- An op that issues has its effect on the part in which it has left its queue, whatever that effect is. -/
theorem Chip.issue_runs : ∃ y, (c.afterIssue p q x st o rest).running p = some (y, st.left q rest) ∧
    y = { x with run := some (st.left q rest), almClasses := y.almClasses } ∧
    ∀ run, c.issue p q n run = run (c.afterIssue p q x st o rest) y (st.left q rest) o := by
  obtain ⟨y, hrun, hy, -⟩ := Chip.issue_eq h (fun c _ _ _ => c)
  refine ⟨y, hrun, hy, fun run => ?_⟩
  obtain ⟨z, hz, -, heq⟩ := Chip.issue_eq h run
  obtain ⟨rfl, -⟩ := Prod.mk.inj (Option.some.inj (hrun.symm.trans hz))
  exact heq

end

/-- An op that has left its queue finds its operands where they were. -/
@[simp] theorem Op.at_left (o : Op) (st : StepCtx) (q : Queue) (rest : List Op) (lo : Nat) : o.at (st.left q rest) lo = o.at st lo := rfl
@[simp] theorem StepCtx.left_block (st : StepCtx) (q : Queue) (rest : List Op) : (st.left q rest).block = st.block := rfl

/-! Movers (08 R300, R301, 12 R429) -/

theorem exec_copy_powered {s : State} (hup : s.chip.powered = true) (p m : Nat) :
    exec (.copy p m) s = .next (s.withChip (s.chip.copy p m)) :=
  State.onChip_powered hup (·.copy p m)

theorem exec_gather_powered {s : State} (hup : s.chip.powered = true) (p m : Nat) :
    exec (.gather p m) s = .next (s.withChip (s.chip.gather p m)) :=
  State.onChip_powered hup (·.gather p m)

theorem exec_scatter_powered {s : State} (hup : s.chip.powered = true) (p m : Nat) :
    exec (.scatter p m) s = .next (s.withChip (s.chip.scatter p m)) :=
  State.onChip_powered hup (·.scatter p m)

/-- Where no block has a bad CRC, and wherever blocks are not checked, a transfer reads all of its bytes. -/
theorem Chip.blockRead_sound {c : Chip} {on : Bool} (h : on = false ∨ c.blockBad = []) (p a n : Nat) : c.blockRead p on a n = (c, n) := by
  have hhit : (if on && n != 0 then
      c.blockBad.filter (fun e => decide (a / 4096 ≤ e.1 ∧ e.1 ≤ (a + n - 1) / 4096 ∧ e.2 ≠ 0)) else []) = [] := by
    obtain rfl | hbad := h
    · rfl
    · simp [hbad]
  simp only [Chip.blockRead, hhit]
  rfl

theorem Chip.moveBytes_sound {c : Chip} {on : Bool} (h : on = false ∨ c.blockBad = []) (p src dst n : Nat) :
    c.moveBytes p on src dst n = (c.write dst (c.read src n), true) := by
  simp [Chip.moveBytes, Chip.blockRead_sound h]

/-- Rows move one after the other: a write marks no block. -/
theorem Chip.moveRows_sound {c : Chip} {on : Bool} (h : on = false ∨ c.blockBad = []) (p : Nat) (o : Op) (pl : Plan) (n : Nat)
    (rows : List (Nat × Nat)) :
    c.moveRows p o pl n on rows = rows.foldl (fun c e => c.write e.2 (c.read e.1 n)) c := by
  have hrows : rows.foldl (fun r e => if r.2 then r.1.moveBytes p on e.1 e.2 n else r) (c, true) =
      (rows.foldl (fun c e => c.write e.2 (c.read e.1 n)) c, true) := by
    induction rows generalizing c with
    | nil => rfl
    | cons e rows ih => simpa [Chip.moveBytes_sound h] using ih (c := c.write e.2 (c.read e.1 n)) h
  simp only [Chip.moveRows, hrows, if_true]

/-- Settles O1: the part in which the op has left its queue holds the same bytes and the same bad blocks, and its rows move one by one. -/
theorem moverOpsMoveTheirBytes : Obligations.MoverOpsMoveTheirBytes := by
  refine ⟨fun s p m x st o rest hup h hlocal hblock => ?_, fun s p m x st o rest hup h hblock => ?_, fun s p m x st o rest hup h hblock => ?_⟩
  all_goals
    rw [← Chip.afterIssue_blockBad h] at hblock
    have hmem := Chip.afterIssue_mem h
    obtain ⟨y, -, -, hissue⟩ := Chip.issue_runs h
  · simp only [exec_copy_powered hup, Chip.copy, hissue, hlocal, StepCtx.left_block, Op.at_left, Chip.moveBytes_sound hblock,
      Chip.read_of_mem hmem, Bool.false_eq_true, if_false, if_true]
  · simp only [exec_gather_powered hup, Chip.gather, hissue, StepCtx.left_block, Op.at_left, Chip.moveRows_sound hblock, List.foldl_map,
      Chip.le_of_mem hmem]
  · simp only [exec_scatter_powered hup, Chip.scatter, hissue, StepCtx.left_block, Op.at_left, Chip.moveRows_sound hblock,
      List.foldl_filterMap, List.foldl_filter, Chip.le_of_mem hmem]
    congr 3
    funext c i
    by_cases hv : s.chip.le (o.at st 12 + 4 * i) 4 = 0xFFFFFFFF <;> simp [hv]

/-! Stream units (08 R293-R299) -/

theorem Chip.streamOp_issues {c : Chip} {p su n : Nat} {x : Part} {st : StepCtx} {o : Op} {rest : List Op}
    (h : c.Issues p (streamQueue p su) n x st o rest) (run : Chip → StepCtx → Op → Chip) :
    c.streamOp p su n run = run (c.afterIssue p (streamQueue p su) x st o rest) (st.left (streamQueue p su) rest) o := by
  obtain ⟨y, -, -, hissue⟩ := Chip.issue_runs h
  exact hissue (fun c _ st o => run c st o)

theorem exec_norm_powered {s : State} (hup : s.chip.powered = true) (p su : Nat) :
    exec (.norm p su) s = .next (s.withChip (s.chip.norm p su)) :=
  State.onChip_powered hup (·.norm p su)

theorem exec_rotate_powered {s : State} (hup : s.chip.powered = true) (p su : Nat) :
    exec (.rotate p su) s = .next (s.withChip (s.chip.rotate p su)) :=
  State.onChip_powered hup (·.rotate p su)

theorem exec_elem_powered {s : State} (hup : s.chip.powered = true) (p su : Nat) :
    exec (.elem p su) s = .next (s.withChip (s.chip.elem p su)) :=
  State.onChip_powered hup (·.elem p su)

theorem exec_reduce_powered {s : State} (hup : s.chip.powered = true) (p su : Nat) :
    exec (.reduce p su) s = .next (s.withChip (s.chip.reduce p su)) :=
  State.onChip_powered hup (·.reduce p su)

theorem exec_route_powered {s : State} (hup : s.chip.powered = true) (p su : Nat) :
    exec (.route p su) s = .next (s.withChip (s.chip.routeOp p su)) :=
  State.onChip_powered hup (·.routeOp p su)

theorem exec_sample_powered {s : State} (hup : s.chip.powered = true) (p su : Nat) :
    exec (.sample p su) s = .next (s.withChip (s.chip.sample p su)) :=
  State.onChip_powered hup (·.sample p su)

/-- Settles O2: each op runs on the part in which it has left its queue, with operands that its leaving has not moved. -/
theorem streamVectorOpsWriteTheirRows : Obligations.StreamVectorOpsWriteTheirRows := by
  refine ⟨?_, ?_, ?_⟩
  all_goals
    intro s p su x st o rest hup h d
  · rw [exec_norm_powered hup, Chip.norm, Chip.streamOp_issues h]
    rfl
  · rw [exec_rotate_powered hup, Chip.rotate, Chip.streamOp_issues h]
    rfl
  · rw [exec_elem_powered hup, Chip.elem, Chip.streamOp_issues h]
    rfl

/-- A unit that has reduced n rows of NaNs alone tells so and counts them (04 R134). -/
def Chip.noteNanRows (c : Chip) (su n : Nat) : Chip :=
  if n = 0 then c else (c.setBits (rg .attStatus su) 4).count (rg .attEvtNanRed su) n

@[simp] theorem Chip.noteNanRows_mem (c : Chip) (su n : Nat) : (c.noteNanRows su n).mem = c.mem := by
  simp only [Chip.noteNanRows]
  split <;> rfl

@[simp] theorem Chip.noteNanRows_parts (c : Chip) (su n : Nat) : (c.noteNanRows su n).parts = c.parts := by
  simp only [Chip.noteNanRows]
  split <;> rfl

theorem Chip.noteNanRows_status (c : Chip) (su : Nat) {n : Nat} (h : n ≠ 0) :
    (c.noteNanRows su n).reg (rg .attStatus su) = c.reg (rg .attStatus su) ||| 4 := by
  rw [Chip.noteNanRows, if_neg h, Chip.count, Chip.reg_setReg_other _ _ _ _ (by simp [rg]), Chip.setBits, Chip.reg_setReg_same]
  rfl

/-- Settles O3: each op runs on the part in which it has left its queue; what REDUCE counts moves no byte and no partition. -/
theorem streamSelectionOpsWriteTheirRecords : Obligations.StreamSelectionOpsWriteTheirRecords := by
  refine ⟨?_, ?_, ?_⟩
  all_goals
    intro s p su x st o rest hup h d
  · intro rs
    have heq : s.chip.reduce p su = (d.write (o.at st 12) (rs.flatMap Prod.fst)).noteNanRows su (rs.filter Prod.snd).length := by
      rw [Chip.reduce, Chip.streamOp_issues h]
      rfl
    refine ⟨_, exec_reduce_powered hup p su, ?_⟩
    rw [heq]
    refine ⟨?_, Chip.noteNanRows_parts .., fun hnan => Chip.noteNanRows_status _ su hnan⟩
    rw [← Chip.afterIssue_mem h]
    exact Chip.noteNanRows_mem ..
  · rw [exec_route_powered hup, Chip.routeOp, Chip.streamOp_issues h]
    rfl
  · rw [exec_sample_powered hup, Chip.sample, Chip.streamOp_issues h]
    rfl

/-! Cores (08 R289, 04 R121, R124) -/

theorem exec_pass_powered {s : State} (hup : s.chip.powered = true) (p k : Nat) :
    exec (.pass p k) s = .next (s.withChip (s.chip.pass p k)) :=
  State.onChip_powered hup (·.pass p k)

theorem exec_accOpen_powered {s : State} (hup : s.chip.powered = true) (p k : Nat) :
    exec (.accOpen p k) s = .next (s.withChip (s.chip.accOpen p k)) :=
  State.onChip_powered hup (·.accOpen p k)

theorem exec_accClose_powered {s : State} (hup : s.chip.powered = true) (p k : Nat) :
    exec (.accClose p k) s = .next (s.withChip (s.chip.accClose p k)) :=
  State.onChip_powered hup (·.accClose p k)

/-- Of the first n groups of an engine, those of a mask become OPEN and empty. -/
def Chip.openGroups (c : Chip) (e mask n : Nat) : Chip :=
  (List.range n).foldl (fun c g => if mask.testBit g then c.setGroup e g { state := .opened } else c) c

theorem Chip.openGroups_succ (c : Chip) (e mask n : Nat) : c.openGroups e mask (n + 1) =
    if mask.testBit n then (c.openGroups e mask n).setGroup e n { state := .opened } else c.openGroups e mask n := by
  simp [Chip.openGroups, List.range_succ]

theorem Chip.openGroups_sameStores (c : Chip) (e mask n : Nat) : c.SameStores (c.openGroups e mask n) := by
  induction n with
  | zero => exact .refl c
  | succ n ih =>
    rw [Chip.openGroups_succ]
    split
    · exact ih.trans ⟨rfl, rfl, rfl, rfl⟩
    · exact ih

theorem Chip.openGroups_group (c : Chip) (e mask n e' g : Nat) :
    (c.openGroups e mask n).group e' g = if e' = e ∧ g < n ∧ mask.testBit g then { state := .opened } else c.group e' g := by
  induction n with
  | zero => simp [Chip.openGroups]
  | succ n ih =>
    rw [Chip.openGroups_succ, apply_ite (Chip.group · e' g)]
    by_cases hthis : e' = e ∧ g = n
    · obtain ⟨rfl, rfl⟩ := hthis
      simp [ih]
    · have hbelow : e' = e ∧ g < n + 1 ∧ mask.testBit g = true ↔ e' = e ∧ g < n ∧ mask.testBit g = true :=
        and_congr_right fun he => and_congr_left' (by omega)
      rw [Chip.group_setGroup_other _ _ _ _ (by omega), ite_self, ih, ite_congr (propext hbelow) (fun _ => rfl) fun _ => rfl]

/-- Settles O4: the op's record joins its step, and of the groups only those that it names change. -/
theorem coreOpsIssue : Obligations.CoreOpsIssue := by
  refine ⟨fun s p k x st o rest hup h => ?_, fun s p k x st o rest hup h => ?_, fun s p k x st o rest hup h => ?_⟩
  all_goals
    obtain ⟨y, hrun, -, hissue⟩ := Chip.issue_runs h
    obtain ⟨hpart, -⟩ := Chip.part_of_running hrun
    have hmem := Chip.afterIssue_mem h
    have hsame := Chip.afterIssue_sameOutside h
    have hgroup := Chip.group_of_groups hsame.groups
  · refine ⟨_, exec_pass_powered hup p k, ?_⟩
    rw [Chip.pass, hissue]
    refine ⟨(Chip.setStep_mem ..).trans hmem, (Chip.setStep_groups ..).trans hsame.groups, (Chip.setStep_banks ..).trans hsame.banks,
      _, _, _, Chip.running_setStep hpart _, rfl, rfl, rfl, rfl, rfl, rfl, rfl, rfl, rfl, rfl, rfl, ?_, ?_⟩
    · simp only [passOf, Chip.read_of_mem hmem]
      rfl
    · simp only [passOf, Chip.read_of_mem hmem]
      rfl
  · have hopens : s.chip.accOpen p k =
        (s.chip.afterIssue p (coreQueue p k) x st o rest).openGroups (k * 64 + o.get 8 1) (o.get 9 1) 8 := by
      rw [Chip.accOpen, hissue]
      rfl
    obtain ⟨hmem', hparts, -, -⟩ := Chip.openGroups_sameStores
      (s.chip.afterIssue p (coreQueue p k) x st o rest) (k * 64 + o.get 8 1) (o.get 9 1) 8
    refine ⟨_, exec_accOpen_powered hup p k, ?_⟩
    rw [hopens]
    refine ⟨hmem'.trans hmem, hparts, fun e g => ?_⟩
    rw [← hgroup]
    exact Chip.openGroups_group ..
  · refine ⟨_, exec_accClose_powered hup p k, ?_⟩
    rw [Chip.accClose, hissue]
    refine ⟨(Chip.setStep_mem ..).trans hmem, fun e g => ?_, _, _, Chip.running_setStep (c := Chip.setGroup _ _ _ _) hpart _, rfl, rfl, rfl⟩
    rw [← hgroup]
    refine (Chip.group_of_groups (Chip.setStep_groups ..) e g).trans ?_
    split
    · next hthis =>
      obtain ⟨rfl, rfl⟩ := hthis
      exact Chip.group_setGroup_same ..
    · next hother => exact Chip.group_setGroup_other _ _ _ _ (by omega)

end Sys2Proof.Machine
end

section
/-! PROOFS. Control ops and the limits of a step (08 R303, R305, R309, 07 R262, 14 R511): when a waiting op completes, what the end of a
step leaves, and the statements settled from these. -/

namespace Sys2Proof.Machine

/-! FENCE and CHECK (08 R303, R305) -/

theorem exec_fence_powered {s : State} (hup : s.chip.powered = true) (p : Nat) :
    exec (.fence p) s = .next (s.withChip (s.chip.fence p)) :=
  State.onChip_powered hup (·.fence p)

theorem exec_check_powered {s : State} (hup : s.chip.powered = true) (p : Nat) :
    exec (.check p) s = .next (s.withChip (s.chip.check p)) :=
  State.onChip_powered hup (·.check p)

theorem exec_fenceSatisfied_powered {s : State} (hup : s.chip.powered = true) (p : Nat) :
    exec (.fenceSatisfied p) s = .next (s.withChip (s.chip.fenceSatisfied p)) :=
  State.onChip_powered hup (·.fenceSatisfied p)

theorem exec_checkSatisfied_powered {s : State} (hup : s.chip.powered = true) (p : Nat) :
    exec (.checkSatisfied p) s = .next (s.withChip (s.chip.checkSatisfied p)) :=
  State.onChip_powered hup (·.checkSatisfied p)

/-- A control op that issues waits from the present time on. -/
theorem Chip.controlWait_issued {c : Chip} {p n : Nat} {x : Part} {st : StepCtx} {o : Op} {rest : List Op}
    (h : c.Issues p .control n x st o rest) :
    (c.afterIssue p .control x st o rest).controlWait p (st.left .control rest) o =
      (c.afterIssue p .control x st o rest).setStep p { st.left .control rest with control := some ⟨o, c.now⟩ } := by
  rw [Chip.controlWait, Chip.now_of_clocks (Chip.afterIssue_sameOutside h).clocks]

/-- A FENCE names its four classes by number. -/
theorem all_classes_iff (f : Nat → Bool) : [0, 1, 2, 3].all f = true ↔ ∀ k, k < 4 → f k = true := by
  rw [show [0, 1, 2, 3] = List.range 4 from rfl, List.all_eq_true]
  simp only [List.mem_range]

theorem Chip.fenceHolds_iff {c : Chip} {p : Nat} {st : StepCtx} {o : Op} : c.fenceHolds p st o = true ↔
    (∀ k, k < 4 → (o.get 8 1).testBit k = true → st.classDone k o.idx = true) ∧
      (o.get 9 1 = 0xFF ∨ o.get 12 4 ≤ (c.reg (rg .seqArrive p (o.get 9 1))).toNat) := by
  simp only [Chip.fenceHolds, Bool.and_eq_true, all_classes_iff, Bool.or_eq_true, Bool.not_eq_true', ← Bool.not_eq_true, Decidable.imp_iff_not_or,
    beq_iff_eq, decide_eq_true_eq]

theorem Chip.fenceSatisfied_holds {c : Chip} {p : Nat} {x : Part} {st : StepCtx} {r : ControlRec} (hrun : c.running p = some (x, st))
    (hwait : st.waiting 0x30 = some r) (hholds : c.fenceHolds p st r.op = true) :
    c.fenceSatisfied p =
      (if (r.op.get 10 1).testBit 0 && r.op.get 9 1 != 0xFF then c.setReg (rg .seqArrive p (r.op.get 9 1))
        (c.reg (rg .seqArrive p (r.op.get 9 1)) - BitVec.ofNat 32 (r.op.get 12 4)) else c).setStep p { st with control := none } := by
  simp only [Chip.fenceSatisfied, hrun, hwait, hholds, Bool.not_true, Bool.false_eq_true, if_false]

/-- Every verdict that a CHECK waits for is final. -/
structure StepCtx.Checked (st : StepCtx) (idx : Nat) : Prop where
  issued : ∀ q ∈ st.queues, queueClass q.1 = 0 → ∀ o ∈ q.2, idx ≤ o.idx
  judged : ∀ e ∈ st.passes, e.op < idx → e.phase ≠ .issued ∧ (e.suspect = [] ∨ e.arbitrated = true)
  closed : ∀ k ∈ st.closes, k.op < idx → k.closed = true

theorem Chip.checkSatisfied_checked {c : Chip} {p : Nat} {x : Part} {st : StepCtx} {r : ControlRec} (hrun : c.running p = some (x, st))
    (hwait : st.waiting 0x31 = some r)
    (hgoes : (r.op.get 8 1).testBit 0 = false ∨ ((∀ e ∈ st.passes, e.op < r.op.idx → e.suspect = []) ∧
      ∀ k ∈ st.closes, k.op < r.op.idx → k.tripped = false))
    (hdone : st.Checked r.op.idx) : c.checkSatisfied p = c.setStep p { st with control := none } := by
  obtain ⟨hissued, hjudged, hclosed⟩ := hdone
  simp only [Chip.checkSatisfied, hrun, hwait]
  rw [if_neg, if_neg]
  · simp only [Bool.or_eq_true, not_or, List.any_eq_true, List.mem_filter, Bool.and_eq_true, beq_iff_eq, decide_eq_true_eq,
      Bool.not_eq_true', not_exists]
    refine ⟨⟨fun q ⟨hq, hclass, o, ho, hlt⟩ => ?_, fun e ⟨⟨he, hlt⟩, hopen⟩ => ?_⟩, fun k ⟨⟨hk, hlt⟩, hopen⟩ => ?_⟩
    · exact absurd (hissued q hq hclass o ho) (by omega)
    · obtain ⟨hphase, hverdict⟩ := hjudged e he hlt
      obtain hissue | ⟨hsuspect, hpending⟩ := hopen
      · exact hphase hissue
      · simp [PassRec.isSuspect] at hsuspect
        simp [hsuspect, hpending] at hverdict
    · simp [hclosed k hk hlt] at hopen
  · obtain hfree | ⟨hsound, huntripped⟩ := hgoes
    · simp [hfree]
    · simp only [Bool.and_eq_true, Bool.or_eq_true, not_and, not_or, List.any_eq_true, List.mem_filter, decide_eq_true_eq,
        Bool.not_eq_true', List.isEmpty_eq_false_iff_exists_mem, not_exists]
      refine fun _ => ⟨fun e ⟨he, hlt⟩ hsuspect => ?_, fun k ⟨hk, hlt⟩ htripped => ?_⟩
      · simp [PassRec.isSuspect, hsound e he hlt] at hsuspect
      · simp [huntripped k hk hlt] at htripped

/-- Settles O11: a control op leaves its queue and waits; it completes by the rule of its own condition. -/
theorem controlOpsWaitForTheirConditions : Obligations.ControlOpsWaitForTheirConditions := by
  refine ⟨fun s p x st o rest hup h hok => ?_, fun s p x st o rest hup h => ?_, fun s p x st r hup hrun hwait hclasses harrived => ?_,
    fun s p x st r hup hrun hwait hgoes hissued hjudged hclosed => ?_⟩
  · obtain ⟨y, -, -, hissue⟩ := Chip.issue_runs h
    rw [exec_fence_powered hup, Chip.fence, hissue, if_pos hok, Chip.controlWait_issued h]
  · obtain ⟨y, -, -, hissue⟩ := Chip.issue_runs h
    rw [exec_check_powered hup, Chip.check, hissue, Chip.controlWait_issued h]
  · intro a d
    rw [exec_fenceSatisfied_powered hup, Chip.fenceSatisfied_holds hrun hwait (Chip.fenceHolds_iff.mpr ⟨hclasses, harrived⟩)]
    simp [d, a]
  · rw [exec_checkSatisfied_powered hup, Chip.checkSatisfied_checked hrun hwait hgoes ⟨hissued, hjudged, hclosed⟩]

/-! The ends of a step at its limits -/

theorem exec_stepDeadlineExpiry_powered {s : State} (hup : s.chip.powered = true) (p : Nat) :
    exec (.stepDeadlineExpiry p) s = .next (s.withChip (s.chip.stepDeadline p)) :=
  State.onChip_powered hup (·.stepDeadline p)

theorem exec_scoreboardTimeout_powered {s : State} (hup : s.chip.powered = true) (p : Nat) (q : Queue) :
    exec (.scoreboardTimeout p q) s = .next (s.withChip (s.chip.sbTimeout p q)) :=
  State.onChip_powered hup (·.sbTimeout p q)

theorem exec_fenceTimeout_powered {s : State} (hup : s.chip.powered = true) (p : Nat) :
    exec (.fenceTimeout p) s = .next (s.withChip (s.chip.fenceTimeout p)) :=
  State.onChip_powered hup (·.fenceTimeout p)

theorem exec_collTimeout_powered {s : State} (hup : s.chip.powered = true) (p op : Nat) :
    exec (.collTimeout p op) s = .next (s.withChip (s.chip.collTimeout p op)) :=
  State.onChip_powered hup (·.collTimeout p op)

/-- Registers that the end of a step writes, but for SEQ.STATUS, in which it takes back no bit. -/
def endRegs : List RegName := [.seqLastFail, .seqEvtAbort, .safeEvtIftInsert]

theorem Chip.endStep_bit {c : Chip} {p : Nat} {x : Part} {st : StepCtx} (hrun : c.running p = some (x, st)) (status : Status) (idx : Nat)
    {r : Reg} (hr : r.name ∉ endRegs) {i : Nat} (h : (c.reg r).bit i = true) : ((c.endStep p status idx).reg r).bit i = true := by
  obtain ⟨-, -, hstatus, hothers, -⟩ := Chip.endStep_facts hrun status idx
  simp only [endRegs, List.mem_cons, List.not_mem_nil, or_false, not_or] at hr
  obtain ⟨hlast, habort, hinsert⟩ := hr
  by_cases hseq : r = rg .seqStatus p
  · subst hseq
    rw [hstatus, Word.bit_or, h, Bool.true_or]
  · rw [hothers r (fun e => hlast (congrArg Reg.name e)) hseq (fun e => habort (congrArg Reg.name e)) hinsert]
    exact h

/-- A step that ends without commit has failed, whatever flags and counters were written just before. -/
theorem Chip.failed_endStep {c d : Chip} {p : Nat} {x : Part} {st : StepCtx} (hrun : c.running p = some (x, st)) (hparts : d.parts = c.parts)
    (hfuncs : d.funcs = c.funcs) {status : Status} (hstatus : status ≠ .ok) (idx : Nat) :
    c.Failed (d.endStep p status idx) p x st status idx := by
  obtain ⟨hended, hlast, haborted, -, hgroups, hcompletion⟩ :=
    Chip.endStep_facts ((Chip.running_of_parts hparts p).trans hrun) status idx
  refine ⟨hended, hlast, ?_, hgroups, fun t ht hera => ?_⟩
  · have hset : Word.bit 2 1 = true := by decide
    rw [haborted, Word.bit_or, hset, Bool.or_true]
  · obtain ⟨k, hk, hcmd, hop, htag, hks, -⟩ := hcompletion t ht (by rw [Chip.func_of_funcs hfuncs, hera])
    exact ⟨k, hk, hcmd, hop, htag, hks hstatus⟩

/-- A flag that was set just before a step ended without commit stands. -/
theorem Chip.failed_flagged {c d : Chip} {p : Nat} {x : Part} {st : StepCtx} (hrun : c.running p = some (x, st)) (hparts : d.parts = c.parts)
    (hfuncs : d.funcs = c.funcs) {r : Reg} (hr : r.name ∉ endRegs) {i : Nat} (hflag : (d.reg r).bit i = true) {status : Status}
    (hstatus : status ≠ .ok) (idx : Nat) :
    c.Failed (d.endStep p status idx) p x st status idx ∧ ((d.endStep p status idx).reg r).bit i = true :=
  ⟨Chip.failed_endStep hrun hparts hfuncs hstatus idx, Chip.endStep_bit ((Chip.running_of_parts hparts p).trans hrun) status idx hr hflag⟩

/-- The same for a flag whose event is counted too. -/
theorem Chip.failed_counted {c : Chip} {p : Nat} {x : Part} {st : StepCtx} (hrun : c.running p = some (x, st)) {r e : Reg}
    (hr : r.name ∉ endRegs) (hne : r.name ≠ e.name) {m i : Nat} (hset : Word.bit (BitVec.ofNat 32 m) i = true) {status : Status}
    (hstatus : status ≠ .ok) (idx : Nat) :
    c.Failed (((c.setBits r m).count e).endStep p status idx) p x st status idx ∧
      (((((c.setBits r m).count e).endStep p status idx).reg r).bit i = true) := by
  refine Chip.failed_flagged (d := (c.setBits r m).count e) hrun rfl rfl hr ?_ hstatus idx
  rw [Chip.count, Chip.reg_setReg_other _ _ _ _ (fun heq => hne (congrArg Reg.name heq))]
  exact Chip.setBits_bit _ _ hset

section
variable {c : Chip} {p : Nat} {x : Part} {st : StepCtx} (hrun : c.running p = some (x, st))
include hrun

theorem Chip.stepDeadline_due {d : Nat} (hd : st.deadline = some d) (hdue : d ≤ c.now) :
    c.stepDeadline p = (c.setBits (rg .seqStatus p) 8).endStep p .timeout st.lowestOpen := by
  simp only [Chip.stepDeadline, hrun, hd, if_neg (Nat.not_lt.mpr hdue)]

theorem Chip.stepDeadline_early {d : Nat} (hd : st.deadline = some d) (hearly : c.now < d) : c.stepDeadline p = c := by
  simp only [Chip.stepDeadline, hrun, hd, if_pos hearly]

theorem Chip.sbTimeout_due {q : Queue} {t0 : Nat} {o : Op} {rest : List Op} (hstall : Tbl.find? q st.stalls = some t0)
    (hqueue : Tbl.get [] q st.queues = o :: rest) (hdue : t0 + 1000 * st.watchdog ≤ c.timeOn (queueDie p q)) :
    c.sbTimeout p q = ((c.setBits (rg .scrStatus p) 1).count (rg .scrEvtTimeout p)).endStep p .scoreboardTimeout o.idx := by
  simp only [Chip.sbTimeout, hrun, hstall, hqueue, if_neg (Nat.not_lt.mpr hdue)]

theorem Chip.sbTimeout_early {q : Queue} {t0 : Nat} {o : Op} {rest : List Op} (hstall : Tbl.find? q st.stalls = some t0)
    (hqueue : Tbl.get [] q st.queues = o :: rest) (hearly : c.timeOn (queueDie p q) < t0 + 1000 * st.watchdog) : c.sbTimeout p q = c := by
  simp only [Chip.sbTimeout, hrun, hstall, hqueue, if_pos hearly]

theorem Chip.fenceTimeout_due {r : ControlRec} (hwait : st.waiting 0x30 = some r)
    (hdue : r.since + 1000 * (if r.op.get 16 4 = 0 then st.watchdog else r.op.get 16 4) ≤ c.now) :
    c.fenceTimeout p = ((c.setBits (rg .seqStatus p) 16).count (rg .seqEvtFenceTimeout p)).endStep p .timeout r.op.idx := by
  simp only [Chip.fenceTimeout, hrun, hwait, if_neg (Nat.not_lt.mpr hdue)]

theorem Chip.fenceTimeout_early {r : ControlRec} (hwait : st.waiting 0x30 = some r)
    (hearly : c.now < r.since + 1000 * (if r.op.get 16 4 = 0 then st.watchdog else r.op.get 16 4)) : c.fenceTimeout p = c := by
  simp only [Chip.fenceTimeout, hrun, hwait, if_pos hearly]

theorem Chip.collTimeout_due {op : Nat} {r : RemoteRec} (hremote : st.remotes.find? (fun r => r.op == op && r.coll) = some r)
    (hdue : r.due ≤ c.now) : c.collTimeout p op = c.endStep p .timeout op := by
  simp only [Chip.collTimeout, hrun, hremote, if_neg (Nat.not_lt.mpr hdue)]

theorem Chip.collTimeout_early {op : Nat} {r : RemoteRec} (hremote : st.remotes.find? (fun r => r.op == op && r.coll) = some r)
    (hearly : c.now < r.due) : c.collTimeout p op = c := by
  simp only [Chip.collTimeout, hrun, hremote, if_pos hearly]

end

/-- Settles O10: at its time each event writes its flag and ends the step without commit; before it there is nothing to do. -/
theorem stepsEndAtTheirLimits : Obligations.StepsEndAtTheirLimits := by
  refine ⟨fun s p x st d hup hrun hdeadline => ⟨fun hdue => ⟨_, exec_stepDeadlineExpiry_powered hup p, ?_⟩, fun hearly => ?_⟩,
    fun s p q x st t0 o rest hup hrun hstall hqueue => ⟨fun hdue => ⟨_, exec_scoreboardTimeout_powered hup p q, ?_⟩, fun hearly => ?_⟩,
    fun s p x st r hup hrun hwait => ⟨fun hdue => ⟨_, exec_fenceTimeout_powered hup p, ?_⟩, fun hearly => ?_⟩,
    fun s p op x st r hup hrun hremote => ⟨fun hdue => ⟨_, exec_collTimeout_powered hup p op, ?_⟩, fun hearly => ?_⟩⟩
  · rw [Chip.stepDeadline_due hrun hdeadline hdue]
    exact Chip.failed_flagged hrun (Chip.setBits_parts ..) (Chip.setBits_funcs ..) (by simp [endRegs, rg]) (Chip.setBits_bit _ _ (by decide))
      (by decide) _
  · rw [exec_stepDeadlineExpiry_powered hup, Chip.stepDeadline_early hrun hdeadline hearly]
    rfl
  · rw [Chip.sbTimeout_due hrun hstall hqueue hdue]
    exact Chip.failed_counted hrun (by simp [endRegs, rg]) (by simp [rg]) (by decide) (by decide) o.idx
  · rw [exec_scoreboardTimeout_powered hup, Chip.sbTimeout_early hrun hstall hqueue hearly]
    rfl
  · rw [Chip.fenceTimeout_due hrun hwait hdue]
    exact Chip.failed_counted hrun (by simp [endRegs, rg]) (by simp [rg]) (by decide) (by decide) r.op.idx
  · rw [exec_fenceTimeout_powered hup, Chip.fenceTimeout_early hrun hwait hearly]
    rfl
  · rw [Chip.collTimeout_due hrun hremote hdue]
    exact Chip.failed_endStep hrun rfl rfl (by decide) op
  · rw [exec_collTimeout_powered hup, Chip.collTimeout_early hrun hremote hearly]
    rfl

end Sys2Proof.Machine
end

section
/-! PROOFS. Step programs (08 R279-R284, 12 R426, R428): how a program is queued, how a step begins, how its ops are dispatched, and the
statement settled from these. -/

namespace Sys2Proof.Machine

/-! STEP_RUN (08 R279) -/

theorem exec_stepRun_powered {s : State} (hup : s.chip.powered = true) (fn : Nat) :
    exec (.stepRun fn) s = .next (s.withChip (s.chip.stepRun fn)) :=
  State.onChip_powered hup (·.stepRun fn)

theorem Chip.stepRun_starts {c : Chip} {fn p : Nat} {x : Part} {k : Cmd} {rest : List Cmd} (h : c.Starts fn 0x01 (fun _ => true) p x k rest) :
    c.stepRun fn = (c.afterStart fn rest).setPart p { x with queued := x.queued ++ [k.stepReq (k.ticket fn (c.func fn).era)] } :=
  Chip.start_eq h _

/-! The beginning of a step (08 R280-R282) -/

theorem exec_stepBegin_powered {s : State} (hup : s.chip.powered = true) (p : Nat) :
    exec (.stepBegin p) s = .next (s.withChip (s.chip.stepBegin p)) :=
  State.onChip_powered hup (·.stepBegin p)

theorem Chip.seqBegin_regs (c : Chip) (p tag : Nat) : (c.seqBegin p tag).reg (rg .seqDispatch p) = 0 ∧
    (c.seqBegin p tag).reg (rg .seqTagLo p) = BitVec.ofNat 32 tag ∧
    (c.seqBegin p tag).reg (rg .seqTagHi p) = BitVec.ofNat 32 (tag / 2 ^ 32) := by
  simp only [Chip.seqBegin, Chip.setPair]
  refine ⟨?_, ?_, Chip.reg_setReg_same ..⟩
  · rw [Chip.reg_setReg_other _ _ _ _ (by simp [rg]), Chip.reg_setReg_other _ _ _ _ (by simp [rg]), Chip.reg_setReg_same]
  · rw [Chip.reg_setReg_other _ _ _ _ (by simp [rg]), Chip.reg_setReg_same]

theorem Chip.running_setPart (c : Chip) (p : Nat) {x : Part} {st : StepCtx} (h : x.run = some st) :
    (c.setPart p x).running p = some (x, st) := by
  simp [Chip.running, h]

/-- Two parts that differ in the registers of one block alone. -/
structure Chip.SameButCal (c d : Chip) : Prop where
  mem : d.mem = c.mem
  funcs : d.funcs = c.funcs
  groups : d.groups = c.groups
  parts : d.parts = c.parts
  regs : ∀ r : Reg, r.name ≠ .calStatus → r.name ≠ .calEvtStale → d.reg r = c.reg r

/-- Stale Accords are told in the registers of calibration alone (11 R394). -/
theorem Chip.noteStale_sameButCal (c : Chip) (x : Part) (epoch : Nat) : c.SameButCal (c.noteStale x epoch) := by
  refine List.foldlRecOn (motive := c.SameButCal) _ _ ⟨rfl, rfl, rfl, rfl, fun _ _ _ => rfl⟩ fun d hd e _ => ?_
  obtain ⟨hmem, hfuncs, hgroups, hparts, hregs⟩ := hd
  refine ⟨hmem, hfuncs, hgroups, hparts, fun r hstatus hevt => ?_⟩
  rw [Chip.count, Chip.reg_setReg_other _ _ _ _ (fun h => hevt (congrArg Reg.name h)), Chip.setBits,
    Chip.reg_setReg_other _ _ _ _ (fun h => hstatus (congrArg Reg.name h)), hregs r hstatus hevt]

/-- The first queued program of an idle partition begins where it passes its checks. -/
theorem Chip.stepBegin_begins {c : Chip} {p : Nat} {x : Part} {q : StepReq} {rest : List StepReq} {h : List Byte} {ep : Nat}
    (hpart : c.part p = some x) (hidle : x.run = none) (hqueued : x.queued = q :: rest) (hlive : c.power.state = .live)
    (hcal : x.calibrated c = true) (htest : x.iftRun = false) (hbus : q.kind = 0 → c.busMaster (p + 1) = true)
    (hwords : (c.progWords p x q ((0, 64) :: (List.range (c.progOps p x q)).map (fun i => (64 + 64 * i, 1)))).2 = true)
    (hcheck : c.progCheck p x q = .ok (h, ep)) :
    ∃ ce regs, let d : Chip := { c with ce := ce, regs := regs }
      let y : Part := { x with queued := rest, stepNo := x.stepNo + 1 }
      c.stepBegin p = ((d.seqBegin p (d.newStep p y q h ep).tag).setPart p { y with
        run := some (d.newStep p y q h ep), stale := (d.newStep p y q h ep).stale }).noteStale y ep := by
  obtain ⟨ce, regs, hframe⟩ := Chip.progWords_frame hwords
  have hcheck' : ({ c with ce := ce, regs := regs } : Chip).progCheck p x q = .ok (h, ep) := by
    rw [Chip.progCheck_of (c := c) (x := x), hcheck] <;> rfl
  have hready : ¬ (c.power.state ≠ .live ∨ (!x.calibrated c) = true ∨ x.iftRun = true ∨ (q.kind = 0 ∧ (!c.busMaster (p + 1)) = true)) := by
    simpa [hlive, hcal, htest] using hbus
  refine ⟨ce, regs, ?_⟩
  simp only [Chip.stepBegin, hpart, hidle, hqueued, if_neg hready, hwords, hframe, hcheck', Bool.not_true, Bool.false_eq_true, if_false]

/-! OP_DISPATCH (08 R281, R284) -/

theorem exec_opDispatch_powered {s : State} (hup : s.chip.powered = true) (p : Nat) :
    exec (.opDispatch p) s = .next (s.withChip (s.chip.opDispatch p)) :=
  State.onChip_powered hup (·.opDispatch p)

/-- The next descriptor is appended to its queue where nothing stands in its way. -/
theorem Chip.opDispatch_appends {c : Chip} {p : Nat} {x : Part} {st : StepCtx} {d : List Byte} {q : Queue}
    (hrun : c.running p = some (x, st)) (hleft : st.next < st.opCount) (hcontrol : st.control = none)
    (hempty : Tbl.get [] .control st.queues = []) (hbus : st.req.kind = 0 → c.busMaster (p + 1) = true)
    (hread : c.progRead p x st.req (64 + 64 * st.next) 64 = .ok d)
    (hcrc : st.next + 1 = st.opCount → (crcFeed st.crc d ^^^ 0xFFFFFFFF) = st.opsCrc) (hok : (⟨st.next, d⟩ : Op).dispatchOk x = true)
    (hqueue : (⟨st.next, d⟩ : Op).queue = some q) (hroom : (Tbl.get [] q st.queues).length < 64)
    (hwords : (c.progWords p x st.req [(64 + 64 * st.next, 64)]).2 = true) :
    c.opDispatch p = ((c.progWords p x st.req [(64 + 64 * st.next, 64)]).1.setReg (rg .seqDispatch p) (BitVec.ofNat 32 (st.next + 1))).setStep p
      { st with next := st.next + 1, crc := crcFeed st.crc d, queues := Tbl.set q (Tbl.get [] q st.queues ++ [⟨st.next, d⟩]) st.queues } := by
  obtain ⟨ce, regs, hframe⟩ := Chip.progWords_frame hwords
  have hread' : (c.progWords p x st.req [(64 + 64 * st.next, 64)]).1.progRead p x st.req (64 + 64 * st.next) 64 = .ok d := by
    rw [hframe, Chip.progRead_of (c := c) (x := x), hread] <;> rfl
  have hready : ¬ (st.opCount ≤ st.next ∨ st.control.isSome = true ∨ Tbl.get [] .control st.queues ≠ [] ∨
      (st.req.kind = 0 ∧ (!c.busMaster (p + 1)) = true)) := by
    simp only [hcontrol, hempty, Option.isSome_none, Bool.false_eq_true, ne_eq, not_true_eq_false, false_or, Bool.not_eq_true', not_or, not_and,
      Bool.not_eq_false]
    exact ⟨by omega, hbus⟩
  have hmatches : (decide (st.next + 1 = st.opCount) && (crcFeed st.crc d ^^^ 0xFFFFFFFF) != st.opsCrc) = false := by
    by_cases hlast : st.next + 1 = st.opCount
    · simp [hcrc hlast]
    · simp [hlast]
  simp only [Chip.opDispatch, hrun, if_neg hready, hwords, hread', hmatches, hok, hqueue, if_neg (Nat.not_le.mpr hroom), Bool.not_true,
    Bool.false_eq_true, if_false]

/-- Settles O9: each of the three events meets the guards of its own rule and runs to its end. -/
theorem stepsAreQueuedBegunAndDispatched : Obligations.StepsAreQueuedBegunAndDispatched := by
  refine ⟨fun s fn p x k rest hup h => ?_,
    fun s p x q rest h ep hup hpart hidle hqueued hlive hcal htest hbus hwords hcheck => ⟨_, exec_stepBegin_powered hup p, ?_⟩,
    fun s p x st d q hup hrun hleft hcontrol hempty hbus hread hcrc hok hqueue hroom hwords => ?_⟩
  · rw [exec_stepRun_powered hup, Chip.stepRun_starts h]
    rfl
  · obtain ⟨ce, regs, hbegins⟩ := Chip.stepBegin_begins hpart hidle hqueued hlive hcal htest hbus hwords hcheck
    obtain ⟨hdispatch, hlo, hhi⟩ := Chip.seqBegin_regs { s.chip with ce := ce, regs := regs } p (bytesLe h 16 8)
    rw [hbegins]
    obtain ⟨hmem, hfuncs, hgroups, hparts, hregs⟩ := Chip.noteStale_sameButCal (Chip.setPart _ _ _) _ ep
    refine ⟨hmem, hfuncs, hgroups, (hregs _ (by simp [rg]) (by simp [rg])).trans hdispatch, (hregs _ (by simp [rg]) (by simp [rg])).trans hlo,
      (hregs _ (by simp [rg]) (by simp [rg])).trans hhi, _, _, (Chip.running_of_parts hparts p).trans (Chip.running_setPart _ _ rfl),
      rfl, rfl, rfl, rfl, rfl, rfl, rfl, rfl, rfl, rfl, rfl, rfl⟩
  · rw [exec_opDispatch_powered hup, Chip.opDispatch_appends hrun hleft hcontrol hempty hbus hread hcrc hok hqueue hroom hwords]

end Sys2Proof.Machine
end

section
/-! PROOFS. Collectives at issue (08 R300, 14 R509-R513): what a COLLECTIVE sends and records when it issues, and the statement settled
from this. -/

namespace Sys2Proof.Machine

/-! Ops without an Almanac -/

/-- An op that names no Almanac leaves of its partition all but the running step as it was. -/
theorem Chip.issue_runs_noAlmanac {c : Chip} {p : Nat} {q : Queue} {n : Nat} {x : Part} {st : StepCtx} {o : Op} {rest : List Op}
    (h : c.Issues p q n x st o rest) (halm : (planOf c p x st o).alm = none)
    (run : Chip → Part → StepCtx → Op → Chip) :
    c.issue p q n run = run (c.afterIssue p q x st o rest) { x with run := some (st.left q rest) } (st.left q rest) o := by
  obtain ⟨y, hrun, -, hissue⟩ := Chip.issue_runs h
  have hpart : (c.readCheck p st.parity (c.opUses p x st o)).1.part p = some x :=
    (Chip.part_of_parts (Chip.readCheck_parts h.healthy) p).trans (Chip.part_of_running h.running).1
  have hstep : (c.afterIssue p q x st o rest).running p = some ({ x with run := some (st.left q rest) }, st.left q rest) := by
    simp only [Chip.afterIssue, halm]
    exact Chip.running_setStep hpart _
  obtain ⟨rfl, -⟩ := Prod.mk.inj (Option.some.inj (hrun.symm.trans hstep))
  exact hissue run

theorem planOf_collective {o : Op} (h : o.opcode = 0x28) (c : Chip) (p : Nat) (x : Part) (st : StepCtx) :
    planOf c p x st o = planCollective c p x st o := by
  simp only [planOf, h]

theorem planCollective_alm (c : Chip) (p : Nat) (x : Part) (st : StepCtx) (o : Op) : (planCollective c p x st o).alm = none := by
  simp only [planCollective]
  split <;> rfl

/-! COLLECTIVE (14 R509-R513) -/

theorem exec_collective_powered {s : State} (hup : s.chip.powered = true) (p m : Nat) :
    exec (.collective p m) s = .next (s.withChip (s.chip.collective p m)) :=
  State.onChip_powered hup (·.collective p m)

theorem Chip.chipNumber_of_regs {c d : Chip} (h : d.regs = c.regs) : d.chipNumber = c.chipNumber := by
  simp only [Chip.chipNumber, Chip.field, Chip.reg_of_regs h]

/-- A COLLECTIVE reads all of its bytes where no block is bad; a barrier reads none. -/
theorem Chip.collRead_sound {c : Chip} {on : Bool} (h : on = false ∨ c.blockBad = []) (p kind a n : Nat) :
    (if kind = 4 then (c, 0) else c.blockRead p on a n) = (c, if kind = 4 then 0 else n) := by
  rw [Chip.blockRead_sound h]
  split <;> rfl

/-- Settles O16: the sends leave memory, registers and clocks alone, so that every packet carries what stood there at issue. -/
theorem collectiveSendsItsParts : Obligations.CollectiveSendsItsParts := by
  intro s p m x st o rest g own hup h hblock
  dsimp only
  intro hgroup hrank hroutes hmatched
  have halm : (planOf s.chip p x st o).alm = none := by rw [planOf_collective h.names, planCollective_alm]
  have hnow := Chip.now_of_clocks (Chip.afterIssue_sameOutside h).clocks
  have hread := Chip.read_of_mem (Chip.afterIssue_mem h)
  rw [← Chip.afterIssue_blockBad h] at hblock
  rw [exec_collective_powered hup, Chip.collective, Chip.issue_runs_noAlmanac h halm]
  generalize s.chip.afterIssue p (moverQueue p m) x st o rest = d at *
  have hroute : ((g.chips.zipIdx.filter (fun e => e.2 != own)).any (fun e => (d.route e.1.1).isNone)) = false := by
    simp only [List.any_eq_false, List.mem_filter, bne_iff_ne, Option.isNone_iff_eq_none]
    rintro e ⟨he, hother⟩ hnone
    simpa [hnone] using hroutes e he hother
  have hmatched' : Part.mismatched { x with run := some (st.left (moverQueue p m) rest) } o = [] := hmatched
  simp only [hgroup, hrank, Option.getD_some, Chip.collRead_sound (on := (st.left (moverQueue p m) rest).block) hblock, hmatched',
    List.isEmpty_nil, Bool.not_true, Bool.false_eq_true, if_false, hroute, hnow]
  rw [if_neg fun ⟨hkind, hshort⟩ => hshort (if_neg hkind)]
  simp only [Chip.chipNumber_of_regs (Chip.setStep_regs ..), Chip.read_of_mem (Chip.setStep_mem ..), hread]
  rfl

end Sys2Proof.Machine
end

section
/-! PROOFS. What a commit and the boundary after it keep (08 R307, 06 R225, 05 R172-R180): the count of commits and the units of every
partition, the age of every function, and, where no cache edit waits, host memory. -/

namespace Sys2Proof.Machine

/-! Changes of memory alone -/

/-- One part follows another with only memory changed. -/
def Chip.SameButMem (c d : Chip) : Prop := ∃ m, d = { c with mem := m }

theorem Chip.SameButMem.refl (c : Chip) : c.SameButMem c := ⟨c.mem, rfl⟩
theorem Chip.SameButMem.trans {c d e : Chip} (h : c.SameButMem d) (k : d.SameButMem e) : c.SameButMem e := by
  obtain ⟨_, rfl⟩ := h
  obtain ⟨m, rfl⟩ := k
  exact ⟨m, rfl⟩

theorem Chip.SameButMem.foldl {α : Type} (l : List α) (f : Chip → α → Chip) (h : ∀ (c : Chip) a, c.SameButMem (f c a)) (c : Chip) :
    c.SameButMem (l.foldl f c) :=
  List.foldlRecOn (motive := c.SameButMem) l f (.refl c) fun d hd a _ => hd.trans (h d a)

theorem Chip.write_sameButMem (c : Chip) (a : Nat) (bs : List Byte) : c.SameButMem (c.write a bs) := ⟨_, rfl⟩
theorem Chip.zero_sameButMem (c : Chip) (a n : Nat) : c.SameButMem (c.zero a n) := ⟨_, rfl⟩
theorem Chip.setSeq_sameButMem (c : Chip) (p : Nat) (x : Part) (q off n v : Nat) : c.SameButMem (c.setSeq p x q off n v) := ⟨_, rfl⟩

theorem Chip.setEntry_sameButMem (c : Chip) (p : Nat) (x : Part) (q i v : Nat) : c.SameButMem (c.setEntry p x q i v) := by
  unfold Chip.setEntry
  cases c.entryAt p x q i with
  | none => exact .refl c
  | some a => exact c.write_sameButMem a _

theorem Chip.setPageState_sameButMem (c : Chip) (p : Nat) (x : Part) (n v : Nat) : c.SameButMem (c.setPageState p x n v) := by
  simp only [Chip.setPageState]
  split
  · exact Chip.write_sameButMem ..
  · exact .refl c

theorem Chip.setSlotState_sameButMem (c : Chip) (p : Nat) (x : Part) (n v : Nat) : c.SameButMem (c.setSlotState p x n v) := by
  simp only [Chip.setSlotState]
  split
  · exact Chip.write_sameButMem ..
  · exact .refl c

theorem Chip.freePage_sameButMem (c : Chip) (p : Nat) (x : Part) (q n : Nat) : c.SameButMem (c.freePage p x q n) :=
  (c.setPageState_sameButMem p x n emptyEntry).trans (Chip.setSeq_sameButMem ..)

theorem Chip.freeSlot_sameButMem (c : Chip) (p : Nat) (x : Part) (q n : Nat) : c.SameButMem (c.freeSlot p x q n) :=
  (c.setSlotState_sameButMem p x n emptyEntry).trans (Chip.setSeq_sameButMem ..)

theorem Chip.dropEntry_sameButMem (c : Chip) (p : Nat) (x : Part) (q i : Nat) : c.SameButMem (c.dropEntry p x q i) := by
  simp only [Chip.dropEntry]
  split
  · exact .refl c
  · split
    · exact (Chip.freePage_sameButMem ..).trans (Chip.setEntry_sameButMem ..)
    · exact (Chip.freeSlot_sameButMem ..).trans (Chip.setEntry_sameButMem ..)

theorem Chip.dropFrom_sameButMem (c : Chip) (p : Nat) (x : Part) (q i0 : Nat) : c.SameButMem (c.dropFrom p x q i0) :=
  .foldl _ (fun c i => c.dropEntry p x q i) (fun c i => c.dropEntry_sameButMem p x q i) c

theorem Chip.fixSwapped_sameButMem (c : Chip) (p : Nat) (x : Part) (q : Nat) : c.SameButMem (c.fixSwapped p x q) := ⟨_, rfl⟩
theorem Chip.seqFlag_sameButMem (c : Chip) (p : Nat) (x : Part) (q bit : Nat) (on : Bool) : c.SameButMem (c.seqFlag p x q bit on) := ⟨_, rfl⟩

theorem Chip.allocPage_sameButMem {c d : Chip} {p : Nat} {x : Part} {q n : Nat} {tentative : Bool}
    (h : c.allocPage p x q tentative = some (n, d)) : c.SameButMem d := by
  simp only [Chip.allocPage] at h
  split at h
  · cases h
  · obtain ⟨rfl, rfl⟩ := Prod.mk.inj (Option.some.inj h)
    refine .trans ?_ (Chip.setSeq_sameButMem ..)
    split
    · exact (Chip.setPageState_sameButMem ..).trans (Chip.zero_sameButMem ..)
    · exact Chip.setPageState_sameButMem ..

/-- The cache actions of a commit write memory only (06 R225 actions 1 to 4). -/
theorem Chip.kvCommit_sameButMem (c : Chip) (p : Nat) (x : Part) (uses : List SeqUse) : c.SameButMem (c.kvCommit p x uses) := by
  refine .foldl _ _ (fun c u => ?_) c
  refine .trans ?_ (Chip.setSeq_sameButMem ..)
  split
  · exact .refl c
  · exact ((c.setSeq_sameButMem ..).trans (.foldl _ _ (fun c i => Chip.setPageState_sameButMem ..) _)).trans (Chip.dropFrom_sameButMem ..)

/-! What stays through a commit and a boundary -/

/-- One part follows another with as many commits counted and as many units in every partition, and no function reset. Where it is
quiet, host memory and the waiting cache edits stay too. -/
structure Chip.Steady (quiet : Prop) (c d : Chip) : Prop where
  tallies : ∀ q, (d.part q).map (fun x => (x.commits, x.units)) = (c.part q).map (fun x => (x.commits, x.units))
  eras : ∀ fn, (d.func fn).era = (c.func fn).era
  host : quiet → d.host = c.host
  edits : quiet → ∀ q, (d.part q).map Part.edits = (c.part q).map Part.edits

/-- A change of a partition that what stays allows. -/
structure Part.Steady (quiet : Prop) (x y : Part) : Prop where
  commits : y.commits = x.commits
  units : y.units = x.units
  edits : quiet → y.edits = x.edits

section
variable {quiet : Prop}

theorem Chip.Steady.refl (c : Chip) : c.Steady quiet c := ⟨fun _ => rfl, fun _ => rfl, fun _ => rfl, fun _ _ => rfl⟩

theorem Chip.Steady.trans {c d e : Chip} (h : c.Steady quiet d) (k : d.Steady quiet e) : c.Steady quiet e :=
  ⟨fun q => (k.tallies q).trans (h.tallies q), fun fn => (k.eras fn).trans (h.eras fn), fun hq => (k.host hq).trans (h.host hq),
    fun hq q => (k.edits hq q).trans (h.edits hq q)⟩

theorem Chip.Steady.foldl {α : Type} (l : List α) (f : Chip → α → Chip) (h : ∀ (c : Chip) a, c.Steady quiet (f c a)) (c : Chip) :
    c.Steady quiet (l.foldl f c) :=
  List.foldlRecOn (motive := c.Steady quiet) l f (.refl c) fun d hd a _ => hd.trans (h d a)

theorem Chip.Steady.of_eq {c d : Chip} (hparts : d.parts = c.parts) (hfuncs : d.funcs = c.funcs) (hhost : d.host = c.host) :
    c.Steady quiet d :=
  ⟨fun q => by rw [Chip.part_of_parts hparts], fun fn => by rw [Chip.func_of_funcs hfuncs], fun _ => hhost,
    fun _ q => by rw [Chip.part_of_parts hparts]⟩

theorem Chip.SameButMem.steady {c d : Chip} (h : c.SameButMem d) : c.Steady quiet d := by
  obtain ⟨_, rfl⟩ := h
  exact .of_eq rfl rfl rfl

theorem Chip.Steady.count (c : Chip) (r : Reg) (n : Nat) : c.Steady quiet (c.count r n) := .of_eq rfl rfl rfl
theorem Chip.Steady.setBits (c : Chip) (r : Reg) (m : Nat) : c.Steady quiet (c.setBits r m) := .of_eq rfl rfl rfl

theorem Chip.Steady.setPart {c : Chip} {p : Nat} {x y : Part} (hx : c.part p = some x) (h : x.Steady quiet y) :
    c.Steady quiet (c.setPart p y) := by
  obtain ⟨hcommits, hunits, hedits⟩ := h
  refine ⟨fun q => ?_, fun _ => rfl, fun _ => rfl, fun hquiet q => ?_⟩
  all_goals
    by_cases hq : q = p
    · subst hq
      simp [*]
    · rw [Chip.part_setPart_other _ _ _ _ hq]

theorem Chip.Steady.updPart (c : Chip) (p : Nat) (f : Part → Part) (h : ∀ x, Part.Steady quiet x (f x)) :
    c.Steady quiet (c.updPart p f) := by
  simp only [Chip.updPart]
  split
  · next x hx => exact .setPart hx (h x)
  · exact .refl c

theorem Chip.Steady.updFunc (c : Chip) (fn : Nat) (f : Func → Func) (h : (f (c.func fn)).era = (c.func fn).era) :
    c.Steady quiet (c.updFunc fn f) := by
  refine ⟨fun _ => rfl, fun g => ?_, fun _ => rfl, fun _ _ => rfl⟩
  by_cases hg : g = fn
  · subst hg
    rw [Chip.func_updFunc_same, h]
  · rw [Chip.func_updFunc_other _ _ _ _ hg]

theorem Chip.Steady.complete (c : Chip) (t : Ticket) (st : Status) (r : Nat) (m : Bool) (i g : Option Nat) :
    c.Steady quiet (c.complete t st r m i g) := .updFunc c t.fn _ (by split <;> rfl)

theorem Chip.Steady.hostWrite (c : Chip) (fn a : Nat) (bs : List Byte) : c.Steady False (c.hostWrite fn a bs) := by
  simp only [Chip.hostWrite]
  split
  · exact ⟨fun _ => rfl, fun _ => rfl, False.elim, False.elim⟩
  · exact .updFunc c fn (fun f => { f with writes := f.writes ++ [(a, bs)] }) rfl

/-! The boundary (08 R307 action 7) -/

theorem Chip.Steady.endRecovery (c : Chip) (p : Nat) : c.Steady quiet (c.endRecovery p) := by
  simp only [Chip.endRecovery]
  split
  · exact .refl c
  · next x hx =>
    split
    · exact .setPart hx ⟨rfl, rfl, fun _ => rfl⟩
    · exact .refl c

theorem Chip.Steady.noteMends (c : Chip) (p : Nat) : c.Steady quiet (c.noteMends p) := by
  simp only [Chip.noteMends]
  split
  · exact .refl c
  · next x hx =>
    split
    · exact .setPart hx ⟨rfl, rfl, fun _ => rfl⟩
    · exact .refl c

theorem Chip.Steady.roundStep (c : Chip) (p e : Nat) : c.Steady quiet (c.roundStep p e) := by
  refine .updPart c p _ fun x => ?_
  dsimp only
  split
  · exact ⟨rfl, rfl, fun _ => rfl⟩
  · split <;> exact ⟨rfl, rfl, fun _ => rfl⟩

theorem Chip.Steady.accordInForce (c : Chip) (e : Nat) : c.Steady quiet (c.accordInForce e) := by
  simp only [Chip.accordInForce]
  split
  · exact .refl c
  · have hbanks : ∀ (g : Chip → Nat × Nat → Bank) (l : List (Nat × Nat)) (d : Chip),
        d.Steady quiet (l.foldl (fun d k => d.setBank k.1 k.2 (g d k)) d) := fun g l d =>
      .foldl l (fun d k => d.setBank k.1 k.2 (g d k)) (fun _ _ => .of_eq rfl rfl rfl) d
    have hengine : ∀ x, c.Steady quiet (c.setEngine e x) := fun _ => .of_eq rfl rfl rfl
    split
    · exact (((hengine _).trans (hbanks _ _ _)).trans (.roundStep _ _ _)).trans (.endRecovery _ _)
    · exact (hengine _).trans (hbanks _ _ _)

theorem Chip.Steady.resetMonitors (c : Chip) (p : Nat) (x : Part) : c.Steady quiet (c.resetMonitors p x) :=
  .foldl _ _ (fun c _ => .foldl _ _ (fun c _ => (c.zero_sameButMem _ _).steady) c) c

theorem Part.unbuild_steady (x : Part) : x.Steady quiet x.unbuild := by
  simp only [Part.unbuild]
  split <;> exact ⟨rfl, rfl, fun _ => rfl⟩

theorem Chip.Steady.switchEpoch (c : Chip) (p : Nat) : c.Steady quiet (c.switchEpoch p) := by
  simp only [Chip.switchEpoch]
  split
  · exact .refl c
  · next x hx =>
    split
    · exact .refl c
    · obtain ⟨hcommits, hunits, hedits⟩ := Part.unbuild_steady (quiet := quiet) x
      exact ((Chip.Steady.setPart (y := _) hx (by exact ⟨hcommits, hunits, hedits⟩)).trans (.resetMonitors _ p _)).trans
        (.foldl _ _ (fun c t => .complete c t .ok 0 false none none) _)

theorem Chip.Steady.retire (c : Chip) (p : Nat) : c.Steady quiet (c.retire p) := by
  simp only [Chip.retire]
  split
  · exact .refl c
  · next x hx =>
    split
    · exact .refl c
    · split
      · exact .refl c
      · exact .setPart hx ⟨rfl, rfl, fun _ => rfl⟩

theorem Chip.Steady.iftBoundary (c : Chip) (p : Nat) : c.Steady quiet (c.iftBoundary p) := by
  simp only [Chip.iftBoundary]
  split
  · exact .refl c
  · next x hx =>
    have hset : ∀ y : Part, x.Steady quiet y → c.Steady quiet (c.setPart p y) := fun _ h => .setPart hx h
    split
    · exact .refl c
    · split
      · exact hset _ ⟨rfl, rfl, fun _ => rfl⟩
      · split
        · exact hset _ ⟨rfl, rfl, fun _ => rfl⟩
        · exact (hset { x with iftRun := true } ⟨rfl, rfl, fun _ => rfl⟩).trans (.count _ _ _)

theorem Chip.Steady.takeSafeCfg (c : Chip) (p : Nat) : c.Steady quiet (c.takeSafeCfg p) :=
  .updPart c p _ (by exact fun _ => ⟨rfl, rfl, fun _ => rfl⟩)

theorem Chip.Steady.boundary (c : Chip) (p : Nat) : c.Steady quiet (c.boundary p) := by
  simp only [Chip.boundary]
  split
  · exact .refl c
  · next x hx =>
    have haccords : c.Steady quiet (((c.readyEngines p x).foldl Chip.accordInForce c).noteMends p) :=
      (Chip.Steady.foldl _ _ Chip.Steady.accordInForce c).trans (.noteMends _ p)
    have hbanks : c.Steady quiet ((((c.readyEngines p x).foldl Chip.accordInForce c).noteMends p).banksAtBoundary p x) :=
      haccords.trans (.of_eq rfl rfl rfl)
    have hepochs := (hbanks.trans (.switchEpoch _ p)).trans (.retire _ p)
    have htests := ((hepochs.trans (.endRecovery _ p)).trans (.takeSafeCfg _ p)).trans (.iftBoundary _ p)
    exact htests.trans (.updPart _ p _ (by exact fun _ => ⟨rfl, rfl, fun _ => rfl⟩))

/-! The durable layer state of a commit (05 R172-R180) -/

theorem Chip.layerCommit_sameButMem (c : Chip) (st : StepCtx) (l k : Nat) : c.SameButMem (c.layerCommit st l k) := by
  simp only [Chip.layerCommit]
  split
  · exact .refl c
  · split <;> exact (Chip.write_sameButMem ..).trans (Chip.write_sameButMem ..)

theorem Chip.Steady.clearFallback (c : Chip) (p : Nat) (x : Part) (st : StepCtx) (l : Nat) : c.Steady quiet (c.clearFallback p x st l) := by
  unfold Chip.clearFallback
  extract_lets ats set at_ cleared
  split
  · exact .refl c
  · have hcleared : c.SameButMem cleared := .foldl _ _ (fun c _ => c.write_sameButMem _ _) c
    exact hcleared.steady.trans (.updPart cleared p (fun x => { x with fallbackAt := Tbl.del l x.fallbackAt }) fun _ => ⟨rfl, rfl, fun _ => rfl⟩)

theorem Part.degrade_steady (x : Part) (st : StepCtx) (cfg : Word) (n : Nat) : x.Steady quiet (x.degrade st cfg n).1 := by
  unfold Part.degrade
  extract_lets enter y seen stable
  split
  · exact ⟨rfl, rfl, fun _ => rfl⟩
  · split
    · exact ⟨rfl, rfl, fun _ => rfl⟩
    · split <;> exact ⟨rfl, rfl, fun _ => rfl⟩

theorem Chip.Steady.commitLayers (c : Chip) (p : Nat) (st : StepCtx) : c.Steady quiet (c.commitLayers p st) := by
  unfold Chip.commitLayers
  split
  · exact .refl c
  · next x hx =>
    extract_lets n written layers noted cleared
    have hwritten : c.SameButMem written := .foldl _ _ (fun c _ => ⟨_, rfl⟩) c
    have hlayers : written.SameButMem layers := .foldl _ _ (fun c l => .foldl _ _ (fun c i => c.layerCommit_sameButMem st l _) c) _
    have hnoted : layers.Steady quiet noted := .updPart layers p _ (by exact fun _ => ⟨rfl, rfl, fun _ => rfl⟩)
    have hcleared : c.Steady quiet cleared := by
      refine ((hwritten.trans hlayers).steady.trans hnoted).trans (.foldl _ _ (fun c l => ?_) noted)
      split
      · exact .clearFallback c p _ st l
      · exact .refl c
    split
    · exact hcleared
    · next y hy =>
      extract_lets d set paged
      have hset : cleared.Steady quiet set := .setPart hy (Part.degrade_steady ..)
      have hpaged : set.Steady quiet paged := by
        simp only [paged]
        split
        · exact .refl _
        · exact .updFunc _ _ _ rfl
      refine hcleared.trans (hset.trans (hpaged.trans ?_))
      split
      · exact .count ..
      · exact .refl _

end

end Sys2Proof.Machine
end

section
/-! PROOFS. What the cache edits that a commit applies keep (06 R221-R231, 09 R333): they may write host memory, but they count no commit,
change no partition's units and reset no function; and where no edit waits they change memory alone. -/

namespace Sys2Proof.Machine

/-! Swaps -/

theorem Chip.Steady.swapOutSeq (c : Chip) (p : Nat) (x : Part) (q : Nat) : c.Steady False (c.swapOutSeq p x q) := by
  unfold Chip.swapOutSeq
  extract_lets idx free n copied
  refine .trans (.foldl _ _ (fun c e => ?_) c) (copied.fixSwapped_sameButMem p x q).steady
  dsimp only
  refine .trans ?_ (.count ..)
  refine .trans ?_ ((Chip.freePage_sameButMem ..).trans (Chip.setEntry_sameButMem ..)).steady
  refine .trans ?_ ((Chip.setSlotState_sameButMem ..).trans (Chip.setSeq_sameButMem ..)).steady
  exact (Chip.Steady.hostWrite ..).trans (.hostWrite ..)

theorem Chip.Steady.swapOut (c : Chip) (p : Nat) (x : Part) (qs : List Nat) : c.Steady False (c.swapOut p x qs).1 := by
  unfold Chip.swapOut
  split
  · exact .refl c
  · exact .foldl _ _ (fun c q => .swapOutSeq c p x q) c

theorem Chip.fillSeq_sameButMem (c : Chip) (p : Nat) (x : Part) (q : Nat) (done : List Refill) : c.SameButMem (c.fillSeq p x q done).1 := by
  refine List.foldlRecOn (motive := fun r : Chip × List Refill × Option (Status × Bool) => c.SameButMem r.1) _ _ (.refl c) fun r hr i _ => ?_
  dsimp only
  split
  · exact hr
  · split
    · exact hr
    · split
      · exact hr
      · next halloc => exact (hr.trans (Chip.allocPage_sameButMem halloc)).trans (Chip.write_sameButMem ..)

theorem Chip.Steady.swapIn (c : Chip) (p : Nat) (x : Part) (qs : List Nat) : c.Steady False (c.swapIn p x qs).1 := by
  unfold Chip.swapIn
  split
  · exact .refl c
  · extract_lets r freed entered
    have hfilled : c.SameButMem r.1 := by
      refine List.foldlRecOn (motive := fun r : Chip × List Refill × Option (Status × Bool) => c.SameButMem r.1) _ _ (.refl c) fun r hr q _ => ?_
      split
      · exact hr
      · exact hr.trans (Chip.fillSeq_sameButMem ..)
    split
    · have hfreed : r.1.SameButMem freed := .foldl _ _ (fun c _ => Chip.freePage_sameButMem ..) _
      split
      · exact (hfilled.trans hfreed).steady.trans (.setBits ..)
      · exact (hfilled.trans hfreed).steady
    · have hentered : r.1.Steady False entered := .foldl _ _ (fun c f =>
        ((Chip.freeSlot_sameButMem ..).trans (Chip.setEntry_sameButMem ..)).steady.trans (.count ..)) _
      exact (hfilled.steady.trans hentered).trans (Chip.SameButMem.foldl _ _ (fun c q => c.fixSwapped_sameButMem p x q) _).steady

/-! The application of an edit -/

theorem Chip.Steady.editApply (c : Chip) (p : Nat) (x : Part) (e : KvEdit) : c.Steady False (c.editApply p x e).1 := by
  unfold Chip.editApply
  extract_lets q k ptr cap arg
  split
  · split
    · exact .refl c
    · exact (((((c.zero_sameButMem ..).trans (Chip.setSeq_sameButMem ..)).trans (Chip.setSeq_sameButMem ..)).trans
        (Chip.setSeq_sameButMem ..)).trans (Chip.write_sameButMem ..)).steady
  · split
    · exact .refl c
    · split
      · exact .refl c
      · exact ((((c.dropFrom_sameButMem ..).trans (Chip.write_sameButMem ..)).trans (Chip.setSeq_sameButMem ..)).trans
          (Chip.setSeq_sameButMem ..)).steady
  · split
    · exact .refl c
    · split
      · exact .refl c
      · exact (((c.dropFrom_sameButMem ..).trans (Chip.setSeq_sameButMem ..)).trans (Chip.fixSwapped_sameButMem ..)).steady
  · split
    · exact .refl c
    · exact ((c.dropFrom_sameButMem ..).trans (Chip.setSeq_sameButMem ..)).steady
  · split
    · exact .refl c
    · exact .swapOut ..
  · split
    · exact .refl c
    · exact .swapIn ..

theorem Chip.Steady.updSrv (c : Chip) (p : Nat) (f : Serving → Serving) : c.Steady False (c.updSrv p f) :=
  .updPart c p _ (by exact fun _ => ⟨rfl, rfl, False.elim⟩)

theorem Chip.Steady.updReq (c : Chip) (p n : Nat) (f : Request → Request) : c.Steady False (c.updReq p n f) := .updSrv ..

theorem Chip.Steady.trimWork (c : Chip) (p n : Nat) : c.Steady False (c.trimWork p n) := by
  unfold Chip.trimWork
  split
  · exact .refl c
  · exact .updSrv ..

theorem Chip.Steady.outHeader (c : Chip) (p n : Nat) : c.Steady False (c.outHeader p n) := by
  unfold Chip.outHeader
  split
  · exact .refl c
  · exact .hostWrite ..

theorem Chip.Steady.admitReq (c : Chip) (p n : Nat) : c.Steady False (c.admitReq p n) := by
  unfold Chip.admitReq
  split
  · exact .refl c
  · exact (Chip.Steady.updReq ..).trans (.updSrv ..)

theorem Chip.Steady.editDone (c : Chip) (p : Nat) (e : KvEdit) (st : Status) : c.Steady False (c.editDone p e st) := by
  unfold Chip.editDone
  split
  · exact .refl c
  · split
    · exact .refl c
    · split
      · exact .trimWork ..
      · split
        · exact (Chip.Steady.updReq ..).trans (.outHeader ..)
        · exact .admitReq ..

theorem Chip.Steady.applyPending (c : Chip) (p q : Nat) :
    c.Steady False (c.applyPending p q fun c e st => c.editDone p e st) := by
  unfold Chip.applyPending
  split
  · exact .refl c
  · next x hx =>
    split
    · exact .refl c
    · next e rest _ =>
      split
      · exact .refl c
      · extract_lets cleared taken applied told
        have hcleared : c.SameButMem cleared := .foldl _ _ (fun c q => c.seqFlag_sameButMem p x q 1 false) c
        have hpart : cleared.part p = some x := by
          obtain ⟨m, hm⟩ := hcleared
          rw [hm]
          exact hx
        have htaken : cleared.Steady False taken := .setPart hpart (by exact ⟨rfl, rfl, False.elim⟩)
        have happlied : c.Steady False applied.1 := (hcleared.steady.trans htaken).trans (.editApply ..)
        have htold : applied.1.Steady False told := by
          unfold told
          split
          · exact .complete ..
          · exact .refl _
        exact (happlied.trans htold).trans (.editDone ..)

/-- Where no edit waits there is none to apply. -/
theorem Chip.applyPending_of_no_edits {c : Chip} {p : Nat} (h : (c.part p).map Part.edits = some []) (q : Nat)
    (f : Chip → KvEdit → Status → Chip) : c.applyPending p q f = c := by
  obtain ⟨x, hx, hedits⟩ := Option.map_eq_some_iff.mp h
  simp [Chip.applyPending, hx, hedits, takeFirst]

/-! The cache actions of a commit -/

theorem Chip.Steady.commitCache (c : Chip) (p : Nat) (st : StepCtx) :
    c.Steady ((c.part p).map Part.edits = some []) (c.commitCache p st) := by
  unfold Chip.commitCache
  split
  · exact .refl c
  · next x hx =>
    extract_lets d
    have hd : c.SameButMem d := c.kvCommit_sameButMem p x st.uses
    by_cases hquiet : (c.part p).map Part.edits = some []
    · have hidle : (d.part p).map Part.edits = some [] := by
        obtain ⟨m, hm⟩ := hd
        rw [hm]
        exact hquiet
      have hsame : st.uses.foldl (fun c u => c.applyPending p u.seq fun c e s => c.editDone p e s) d = d :=
        List.foldlRecOn (motive := (· = d)) _ _ rfl fun _ h u _ => h ▸ Chip.applyPending_of_no_edits hidle ..
      rw [hsame]
      exact hd.steady
    · obtain ⟨htallies, heras, -, -⟩ := hd.steady.trans (.foldl st.uses _ (fun c u => .applyPending c p u.seq) d)
      exact ⟨htallies, heras, fun h => absurd h hquiet, fun h => absurd h hquiet⟩

end Sys2Proof.Machine
end

section
/-! PROOFS. COMMIT (08 R306, R307, 04 R120): its checks, what it publishes, how it ends the step, and the statement settled from these. -/

namespace Sys2Proof.Machine

/-! The checks -/

theorem exec_commit_powered {s : State} (hup : s.chip.powered = true) (p : Nat) :
    exec (.commit p) s = .next (s.withChip (s.chip.commit p)) :=
  State.onChip_powered hup (·.commit p)

theorem StepCtx.tripLanes_untripped {st : StepCtx} {k : CloseRec} (h : k.tripped = false) : st.tripLanes k = [] := by
  simp [StepCtx.tripLanes, h]

/-- Where no close tripped, no column is computed again. -/
theorem StepCtx.replay_untripped {st : StepCtx} (h : ∀ k ∈ st.closes, k.tripped = false) (r : PassRec) : st.replay r = [] := by
  have hlanes : (st.closes.filter (fun k => k.members.contains r.op && k.engine == r.engine)).flatMap (fun k =>
      (st.tripLanes k).filterMap (r.feedsLane k.group)) = [] := by
    refine List.flatMap_eq_nil_iff.mpr fun k hk => ?_
    rw [StepCtx.tripLanes_untripped (h k (List.mem_filter.mp hk).1)]
    rfl
  rw [StepCtx.replay, hlanes]
  rfl

/-- Where no close tripped, the trip check finds no fault. -/
theorem Chip.tripCheck_untripped {st : StepCtx} (h : ∀ k ∈ st.closes, k.tripped = false) (c : Chip) (p : Nat) :
    c.tripCheck p st = (c, true) := by
  refine List.foldlRecOn (motive := (· = (c, true))) st.closes _ rfl fun r hr k hk => ?_
  simp [hr, Chip.faultLanes, StepCtx.tripLanes_untripped (h k hk)]

/-- A waiting COMMIT whose checks pass takes its actions. -/
theorem Chip.commit_goes {c : Chip} {p : Nat} {x : Part} {st : StepCtx} {r : ControlRec} (hrun : c.running p = some (x, st))
    (hwait : st.waiting 0x3F = some r) (hearly : ∀ d, st.deadline = some d → c.now < d) (hdone : st.allDone r.op.idx = true)
    (hgroups : c.openGroupCores p x = []) (happends : c.appendShort p st = false) (huntripped : ∀ k ∈ st.closes, k.tripped = false)
    (hbus : pubEntries st r.op ≠ [] → c.busMaster (p + 1) = true) :
    c.commit p = c.commitStep p st r.op := by
  have hissued : (c.running p).any (fun r => (r.2.waiting 0x3F).isSome) = true := by simp [hrun, hwait]
  have hstarts : c.commit p = c.commitTry p := by simp only [Chip.commit, hissued, if_true]
  have hintime : st.deadline.any (fun d => decide (d ≤ c.now)) = false := by
    cases hd : st.deadline with
    | none => rfl
    | some d => simpa using hearly d hd
  have hstill : st.passes.any (fun r => !(st.replay r).isEmpty) = false := by simp [StepCtx.replay_untripped huntripped]
  have hreach : (true && !(pubEntries st r.op).isEmpty && !c.busMaster (p + 1)) = false := by
    by_cases hnone : pubEntries st r.op = []
    · simp [hnone]
    · simp [hbus hnone]
  simp only [hstarts, Chip.commitTry, hrun, hwait, hintime, hdone, hgroups, happends, hstill, Chip.tripCheck_untripped huntripped, hreach,
    List.isEmpty_nil, Bool.not_true, Bool.false_eq_true, if_false]

/-! Publishing (08 R306) -/

/-- One part follows another by checked reads alone: what they corrected, counted and used up of bad blocks has changed. -/
def Chip.SameButChecks (c d : Chip) : Prop := ∃ ce regs bad, d = { c with ce := ce, regs := regs, blockBad := bad }

theorem Chip.SameButChecks.trans {c d e : Chip} (h : c.SameButChecks d) (k : d.SameButChecks e) : c.SameButChecks e := by
  obtain ⟨_, _, _, rfl⟩ := h
  obtain ⟨ce, regs, bad, rfl⟩ := k
  exact ⟨ce, regs, bad, rfl⟩

theorem Chip.blockRead_sameButChecks (c : Chip) (p : Nat) (on : Bool) (a n : Nat) : c.SameButChecks (c.blockRead p on a n).1 := by
  unfold Chip.blockRead
  extract_lets hit bad stop used d
  split
  · exact ⟨c.ce, c.regs, used, rfl⟩
  · exact ⟨c.ce, _, used, rfl⟩

/-- The writes of a publish, with Bus Master Enable: each puts its bytes into host memory. -/
theorem Chip.hostWrites_eq {fn : Nat} (es : List (RefRes × Nat × Nat)) {c : Chip} (hbus : es ≠ [] → c.busMaster fn = true) :
    es.foldl (fun c e => c.hostWrite fn e.2.2 (c.read e.1.at e.2.1)) c =
      { c with host := { c.host with mem := es.foldl (fun m e => m.write e.2.2 (c.read e.1.at e.2.1)) c.host.mem } } := by
  induction es generalizing c with
  | nil => rfl
  | cons e es ih =>
    have hup := hbus (List.cons_ne_nil e es)
    rw [List.foldl_cons, Chip.hostWrite, if_pos hup]
    exact ih (c := { c with host := { c.host with mem := c.host.mem.write e.2.2 (c.read e.1.at e.2.1) } }) fun _ => hup

/-- A publish whose reads are sound puts the bytes into host memory, and changes nothing else but what its checks count. -/
theorem Chip.publish_sound {c : Chip} {p : Nat} {st : StepCtx} {o : Op} (hsound : (c.publish p st o).2 = true)
    (hbus : pubEntries st o ≠ [] → c.busMaster (p + 1) = true) :
    ∃ ce regs bad, (c.publish p st o).1 = { c with ce := ce, regs := regs, blockBad := bad, host := { c.host with
      mem := (pubEntries st o).foldl (fun m e => m.write e.2.2 (c.read e.1.at e.2.1)) c.host.mem } } := by
  revert hsound
  unfold Chip.publish
  extract_lets es checked r
  intro hsound
  have hread : r.2 = true → checked.2 = true ∧ checked.1.SameButChecks r.1 := by
    refine List.foldlRecOn (motive := fun r : Chip × Bool => r.2 = true → checked.2 = true ∧ checked.1.SameButChecks r.1) _ _
      (fun h => ⟨h, _, _, _, rfl⟩) fun r hr e _ => ?_
    dsimp only
    split
    · exact hr
    · next hgood =>
      obtain ⟨hchecked, hframe⟩ := hr (by simpa using hgood)
      exact fun _ => ⟨hchecked, hframe.trans (Chip.blockRead_sameButChecks ..)⟩
  split at hsound
  · next hbad => simp [hsound] at hbad
  · next hgood =>
    obtain ⟨hchecked, hframe⟩ := hread (by simpa using hgood)
    obtain ⟨ce, regs, hcorrected⟩ := Chip.readCheck_frame hchecked
    obtain ⟨ce', regs', bad, hr⟩ := hframe
    have hr' : r.1 = { c with ce := ce', regs := regs', blockBad := bad } := by rw [hr, hcorrected]
    rw [if_neg hgood]
    refine ⟨ce', regs', bad, ?_⟩
    rw [Chip.hostWrites_eq es (by rw [hr']; exact hbus), hr']
    rfl

/-! The end of the step -/

/-- A committed step ends: its groups are FREE, nothing runs, and its command completes. -/
def Chip.endCommit (c : Chip) (p : Nat) (x : Part) (st : StepCtx) : Chip :=
  let c := c.clearStep p x
  let status := c.statusFor (p + 1) (if st.corrected then .corrected else .ok)
  let c := c.setPart p { x with
    run := none
    trippedLast := !st.tripped.isEmpty
    fwResult := if st.serving then some (status, c.now - st.began) else x.fwResult }
  let c := if st.corrected then c.count (rg .seqEvtCorrected p) else c
  match st.req.ticket with
  | some t => c.complete t status 0 false none (some st.tag)
  | none => c

/-- What a committed step leaves before its boundary. -/
structure Chip.Committed (c d : Chip) (p : Nat) (x : Part) (st : StepCtx) : Prop where
  groups : d.groups = c.groups.filter (fun g => !decide (firstEngine p ≤ g.1.1 ∧ g.1.1 < firstEngine p + 512 * x.units))
  run : (d.part p).map Part.run = some none
  commits : (d.part p).map Part.commits = some x.commits
  host : d.host = c.host
  completion : ∀ k, st.req.ticket = some k → (c.func k.fn).era = k.era → ∃ y ∈ (d.func k.fn).waiting,
    y.cmdId = k.cmdId ∧ y.opIndex = none ∧ y.tag = st.tag ∧
    (st.corrected = true → y.status = .corrected) ∧ (st.corrected = false → y.status = .ok ∨ y.status = .degraded)

theorem Chip.statusFor_corrected (c : Chip) (fn : Nat) : c.statusFor fn .corrected = .corrected := rfl

theorem Chip.statusFor_degraded (c : Chip) (fn : Nat) : c.statusFor fn .degraded = .degraded := rfl

theorem Chip.statusFor_ok (c : Chip) (fn : Nat) : c.statusFor fn .ok = .ok ∨ c.statusFor fn .ok = .degraded := by
  unfold Chip.statusFor
  split
  · exact .inr rfl
  · exact .inl rfl

/-- A completion generated with a status that is OK but for DEGRADED tells OK or DEGRADED. -/
theorem Chip.statusFor_twice (c d : Chip) (fn gn : Nat) :
    d.statusFor gn (c.statusFor fn .ok) = .ok ∨ d.statusFor gn (c.statusFor fn .ok) = .degraded := by
  obtain h | h := c.statusFor_ok fn
  · rw [h]
    exact d.statusFor_ok gn
  · rw [h]
    exact .inr (d.statusFor_degraded gn)

theorem Chip.endCommit_committed (c : Chip) (p : Nat) (x : Part) (st : StepCtx) : c.Committed (c.endCommit p x st) p x st := by
  unfold Chip.endCommit
  extract_lets cleared status ended counted
  have hgroups : counted.groups = c.groups.filter (fun g => !decide (firstEngine p ≤ g.1.1 ∧ g.1.1 < firstEngine p + 512 * x.units)) := by
    unfold counted
    split <;> rfl
  have hparts : counted.parts = ended.parts := by
    unfold counted
    split <;> rfl
  have hfuncs : counted.funcs = c.funcs := by
    unfold counted
    split <;> rfl
  have hhost : counted.host = c.host := by
    unfold counted
    split <;> rfl
  have hrun : (counted.part p).map Part.run = some none := by simp [Chip.part_of_parts hparts, ended]
  have hcommits : (counted.part p).map Part.commits = some x.commits := by simp [Chip.part_of_parts hparts, ended]
  cases hticket : st.req.ticket with
  | none => exact ⟨hgroups, hrun, hcommits, hhost, fun k hk => by simp [hticket] at hk⟩
  | some t =>
    refine ⟨hgroups, hrun, hcommits, hhost, fun k hk hera => ?_⟩
    obtain rfl : t = k := Option.some.inj (hticket.symm.trans hk)
    rw [← Chip.func_of_funcs hfuncs] at hera
    simp only [Chip.complete, Chip.func_updFunc_same, hera, if_true]
    refine ⟨_, List.mem_append_right _ (List.mem_singleton.mpr rfl), rfl, rfl, rfl, fun hcorrected => ?_, fun hclean => ?_⟩
    · simp [status, hcorrected, Chip.statusFor_corrected]
    · simp only [status, hclean, Bool.false_eq_true, if_false]
      exact Chip.statusFor_twice ..

/-! The boundary and the round that begins there -/

theorem Part.beginRound_run (x : Part) : x.beginRound.run = x.run := by
  unfold Part.beginRound
  extract_lets es
  split
  · rfl
  · split <;> rfl

theorem Part.beginRound_steady {quiet : Prop} (x : Part) : x.Steady quiet x.beginRound := by
  unfold Part.beginRound
  extract_lets es
  split
  · exact ⟨rfl, rfl, fun _ => rfl⟩
  · split <;> exact ⟨rfl, rfl, fun _ => rfl⟩

/-- The boundary keeps what a committed step left. -/
theorem Chip.Committed.closed {c d : Chip} {p : Nat} {x : Part} {st : StepCtx} (h : c.Committed d p x st) :
    c.Committed ((d.boundary p).updPart p Part.beginRound) p x st := by
  obtain ⟨hgroups, hrun, hcommits, hhost, hcompletion⟩ := h
  obtain ⟨-, hkept, -, -, hruns, hadds, -⟩ := (d.boundary_keeps p).trans (.updPart _ p _ Part.beginRound_run)
  obtain ⟨htallies, -, hsame, -⟩ := (Chip.Steady.boundary (quiet := True) d p).trans (.updPart _ p _ Part.beginRound_steady)
  refine ⟨hkept.trans hgroups, (hruns p).trans hrun, ?_, (hsame trivial).trans hhost, fun k hk hera => ?_⟩
  · have hfst := congrArg (Option.map Prod.fst) (htallies p)
    simp only [Option.map_map, Function.comp_def] at hfst
    exact hfst.trans hcommits
  · obtain ⟨y, hy, hentry⟩ := hcompletion k hk hera
    exact ⟨y, (hadds k.fn).subset hy, hentry⟩

theorem Chip.running_none_of_run {c : Chip} {p : Nat} (h : (c.part p).map Part.run = some none) : c.running p = none := by
  obtain ⟨x, hx, hidle⟩ := Option.map_eq_some_iff.mp h
  simp [Chip.running, hx, hidle]

/-- The groups that a committed step held are FREE. -/
theorem Chip.Committed.free {c d : Chip} {p : Nat} {x : Part} {st : StepCtx} (h : c.Committed d p x st) {e g : Nat}
    (hlow : firstEngine p ≤ e) (hhigh : e < firstEngine p + 512 * x.units) : d.group e g = {} := by
  have hnone := Tbl.find?_filter_none (fun k : Nat × Nat => !decide (firstEngine p ≤ k.1 ∧ k.1 < firstEngine p + 512 * x.units)) (e, g)
    c.groups (by simp [hlow, hhigh])
  simp only [Chip.group, h.groups, Tbl.get, hnone, Option.getD_none]

/-! The commit -/

/-- Once its bytes are published a COMMIT counts, makes the layers and the cache durable, and ends the step. -/
theorem Chip.commitStep_committed {c : Chip} {p : Nat} {x : Part} {st : StepCtx} {o : Op} (hpart : c.part p = some x)
    (hsound : (c.publish p st o).2 = true) (hbus : pubEntries st o ≠ [] → c.busMaster (p + 1) = true) :
    ∃ (d : Chip) (y : Part), d.Committed (c.commitStep p st o) p y st ∧ y.commits = x.commits + 1 ∧ y.units = x.units ∧
      (∀ fn, (d.func fn).era = (c.func fn).era) ∧
      (x.edits = [] → d.host.mem = (pubEntries st o).foldl (fun m e => m.write e.2.2 (c.read e.1.at e.2.1)) c.host.mem) := by
  obtain ⟨ce, regs, bad, hpub⟩ := Chip.publish_sound hsound hbus
  have hpart' : (c.publish p st o).1.part p = some x := by rw [hpub]; exact hpart
  have hera' : ∀ fn, ((c.publish p st o).1.func fn).era = (c.func fn).era := fun fn => by rw [hpub]; rfl
  have hmem' : (c.publish p st o).1.host.mem = (pubEntries st o).foldl (fun m e => m.write e.2.2 (c.read e.1.at e.2.1)) c.host.mem := by
    rw [hpub]
  unfold Chip.commitStep
  simp only [hsound, Bool.not_true, Bool.false_eq_true, if_false]
  generalize (c.publish p st o).1 = published at hpart' hera' hmem'
  have hcounted : published.updPart p (fun x => { x with commits := x.commits + 1, iftSince := x.iftSince + 1 }) =
      published.setPart p { x with commits := x.commits + 1, iftSince := x.iftSince + 1 } := by
    rw [Chip.updPart, hpart']
  rw [hcounted]
  have hlayers := Chip.Steady.commitLayers (quiet := True)
    (published.setPart p { x with commits := x.commits + 1, iftSince := x.iftSince + 1 }) p st
  generalize Chip.commitLayers _ p st = layers at hlayers ⊢
  have hcache := Chip.Steady.commitCache layers p st
  generalize layers.commitCache p st = durable at hcache ⊢
  obtain ⟨y, hy, htally⟩ := Option.map_eq_some_iff.mp (((hcache.tallies p).trans (hlayers.tallies p)).trans (by rw [Chip.part_setPart_same]; rfl))
  obtain ⟨hcommits, hunits⟩ := Prod.mk.inj htally
  rw [hy]
  refine ⟨durable, y, (durable.endCommit_committed p y st).closed, hcommits, hunits, fun fn => ?_, fun hedits => ?_⟩
  · exact ((hcache.eras fn).trans (hlayers.eras fn)).trans (hera' fn)
  · have hquiet : (layers.part p).map Part.edits = some [] := by
      rw [hlayers.edits trivial p, Chip.part_setPart_same]
      exact congrArg some hedits
    rw [hcache.host hquiet, hlayers.host trivial]
    exact hmem'

/-- Settles O12: the checks pass, so the step ends as committed, and the boundary keeps what that left. -/
theorem commitEndsTheStep : Obligations.CommitEndsTheStep := by
  intro s p x st r hup hrun hwait hearly hdone hgroups happends huntripped hbus hsound
  refine ⟨_, exec_commit_powered hup p, ?_⟩
  rw [Chip.commit_goes hrun hwait hearly hdone hgroups happends huntripped hbus]
  obtain ⟨hpart, -⟩ := Chip.part_of_running hrun
  obtain ⟨d, y, hcommitted, hcommits, hunits, heras, hmem⟩ := Chip.commitStep_committed hpart hsound hbus
  refine ⟨Chip.running_none_of_run hcommitted.run, hcommits ▸ hcommitted.commits, fun e g hlow hhigh => ?_,
    fun hedits => (congrArg _ hcommitted.host).trans (hmem hedits), fun k hk hera => ?_⟩
  · exact hcommitted.free hlow (hunits ▸ hhigh)
  · exact hcommitted.completion k hk ((heras k.fn).trans hera)

end Sys2Proof.Machine
end

section
/-! PROOFS. Requests of a serving partition (09 R330-R333): how the request table is read and changed, how a command on a request starts,
what leaves every request alone, and what the drain of a request does to it. -/

namespace Sys2Proof

theorem Tbl.get_upd {κ ν : Type} [DecidableEq κ] (d : ν) (k j : κ) (f : ν → ν) (t : Tbl κ ν) :
    Tbl.get d j (Tbl.upd d k f t) = if j = k then f (Tbl.get d k t) else Tbl.get d j t := Tbl.get_set ..

end Sys2Proof

namespace Sys2Proof.Machine

/-! The request table -/

/-- The requests of a partition, where it is a serving one. -/
def Chip.requests (c : Chip) (p : Nat) : Option (Tbl Nat Request) := (c.part p).bind (fun x => x.serving.map Serving.requests)

theorem Chip.requests_eq {c : Chip} {p : Nat} {x : Part} {v : Serving} (hx : c.part p = some x) (hv : x.serving = some v) :
    c.requests p = some v.requests := by simp [Chip.requests, hx, hv]

theorem Chip.requests_some {c : Chip} {p : Nat} {rs : Tbl Nat Request} (h : c.requests p = some rs) :
    ∃ y w, c.part p = some y ∧ y.serving = some w ∧ w.requests = rs := by
  obtain ⟨y, hy, hmap⟩ := Option.bind_eq_some_iff.mp h
  obtain ⟨w, hw, hrs⟩ := Option.map_eq_some_iff.mp hmap
  exact ⟨y, w, hy, hw, hrs⟩

section
variable {c : Chip} {p : Nat} {x : Part} {v : Serving} (hx : c.part p = some x) (hv : x.serving = some v)
include hx hv

theorem Chip.srv_eq : c.srv p = some (x, v) := by simp [Chip.srv, hx, hv]

theorem Chip.updSrv_eq (f : Serving → Serving) : c.updSrv p f = c.setPart p { x with serving := some (f v) } := by
  simp [Chip.updSrv, Chip.updPart_eq hx, hv]

theorem Chip.updReq_eq (n : Nat) (f : Request → Request) :
    c.updReq p n f = c.setPart p { x with serving := some { v with requests := Tbl.upd {} n f v.requests } } := Chip.updSrv_eq hx hv _

theorem Chip.requests_updReq (n : Nat) (f : Request → Request) : (c.updReq p n f).requests p = some (Tbl.upd {} n f v.requests) := by
  simp [Chip.updReq_eq hx hv, Chip.requests]

/-- A change of a request leaves its partition a serving one, and every other request as it was. -/
theorem Chip.updReq_serves (n : Nat) (f : Request → Request) : ∃ y w, (c.updReq p n f).part p = some y ∧ y.serving = some w ∧
    w.requests = Tbl.upd {} n f v.requests ∧ w.req n = f (v.req n) ∧ ∀ m, m ≠ n → w.req m = v.req m := by
  rw [Chip.updReq_eq hx hv]
  exact ⟨_, _, Chip.part_setPart_same .., rfl, rfl, by simp [Serving.req, Tbl.get_upd], fun m hm => by simp [Serving.req, Tbl.get_upd, hm]⟩

/-- A change of a request leaves the steps that hold requests. -/
theorem Chip.reqHeld_updReq (n m : Nat) (f : Request → Request) : (c.updReq p n f).reqHeld p m = c.reqHeld p m := by
  simp [Chip.updReq_eq hx hv, Chip.reqHeld, hx, hv]

end

theorem Chip.updReq_func (c : Chip) (p n : Nat) (f : Request → Request) (fn : Nat) : (c.updReq p n f).func fn = c.func fn :=
  Chip.func_of_funcs (Chip.updPart_funcs ..) fn

/-! The start of a command on a request (09 R330) -/

@[simp] theorem Chip.afterStart_part (c : Chip) (fn : Nat) (rest : List Cmd) (p : Nat) : (c.afterStart fn rest).part p = c.part p := rfl

@[simp] theorem Chip.afterStart_era (c : Chip) (fn : Nat) (rest : List Cmd) (g : Nat) :
    ((c.afterStart fn rest).func g).era = (c.func g).era := by
  by_cases hg : g = fn
  · subst hg
    rw [Chip.afterStart, Chip.func_updFunc_same]
  · rw [Chip.afterStart, Chip.func_updFunc_other _ _ _ _ hg]

@[simp] theorem Chip.afterStart_waiting (c : Chip) (fn : Nat) (rest : List Cmd) :
    ((c.afterStart fn rest).func fn).waiting = (c.func fn).waiting := by rw [Chip.afterStart, Chip.func_updFunc_same]

/-- Where no initialisation of the cache is due none happens. -/
theorem Chip.kvEnsure_done {c : Chip} {p : Nat} {x : Part} (hx : c.part p = some x) (h : x.kvInit = false) : c.kvEnsure p = c := by
  simp [Chip.kvEnsure, hx, h]

/-- A command whose handle names a request and that breaks no rule acts on that request. -/
theorem Chip.startReq_eq {c : Chip} {fn opcode p n : Nat} {x : Part} {v : Serving} {k : Cmd} {rest : List Cmd}
    (h : c.Starts fn opcode (fun _ => true) p x k rest) (hv : x.serving = some v) (hentry : v.entry (bytesLe k.args 0 4) = .ok n)
    (hinit : opcode < 0x25 ∨ x.kvInit = false) {bad : Serving → Option Nat → Cmd → Bool} {denied : Chip → Nat → Serving → Cmd → Bool}
    (hbad : bad v (some n) k = false) (hdenied : denied (c.afterStart fn rest) p v k = false)
    (f : Chip → Nat → Serving → Nat → Ticket → Cmd → Chip) :
    c.startReq fn opcode bad denied f = f (c.afterStart fn rest) p v n (k.ticket fn (c.func fn).era) k := by
  have hready : (if 0x25 ≤ opcode then (c.afterStart fn rest).kvEnsure p else c.afterStart fn rest) = c.afterStart fn rest := by
    split
    · exact Chip.kvEnsure_done h.part (hinit.resolve_left (by omega))
    · rfl
  simp [Chip.startReq, Chip.start_eq h, hv, hentry, hready, hbad, hdenied]

/-! Completions -/

theorem Chip.statusFor_of_ne_ok {st : Status} (h : st ≠ .ok) (c : Chip) (fn : Nat) : c.statusFor fn st = st := by
  simp [Chip.statusFor, h]

/-- The completion of a ticket of its function's age waits with the ticket's command and the status it gets. -/
theorem Chip.mem_waiting_complete {c : Chip} {t : Ticket} (h : (c.func t.fn).era = t.era) (st : Status) (r : Nat) (m : Bool) :
    ∃ e ∈ ((c.complete t st r m).func t.fn).waiting, e.status = c.statusFor t.fn st ∧ e.cmdId = t.cmdId := by
  rw [Chip.complete_waiting h]
  exact ⟨_, List.mem_append_right _ (List.mem_singleton.mpr rfl), rfl, rfl⟩

/-! What leaves every request alone -/

/-- One part follows another with the same requests as well as what a boundary keeps. -/
structure Chip.KeepsRequests (c d : Chip) : Prop extends Chip.Keeps c d where
  requests : ∀ q, d.requests q = c.requests q

theorem Chip.KeepsRequests.refl (c : Chip) : c.KeepsRequests c := ⟨.refl c, fun _ => rfl⟩

theorem Chip.KeepsRequests.trans {c d e : Chip} (h : c.KeepsRequests d) (k : d.KeepsRequests e) : c.KeepsRequests e :=
  ⟨h.toKeeps.trans k.toKeeps, fun q => (k.requests q).trans (h.requests q)⟩

theorem Chip.KeepsRequests.foldl {α : Type} (l : List α) (f : Chip → α → Chip) (h : ∀ (c : Chip) a, c.KeepsRequests (f c a)) (c : Chip) :
    c.KeepsRequests (l.foldl f c) :=
  List.foldlRecOn (motive := c.KeepsRequests) l f (.refl c) fun d hd a _ => hd.trans (h d a)

theorem Chip.requests_of_parts {c d : Chip} (h : d.parts = c.parts) (q : Nat) : d.requests q = c.requests q := by
  rw [Chip.requests, Chip.part_of_parts h, Chip.requests]

theorem Chip.SameButMem.keepsRequests {c d : Chip} (h : c.SameButMem d) : c.KeepsRequests d := by
  obtain ⟨_, rfl⟩ := h
  exact ⟨.of_eq rfl rfl rfl rfl rfl rfl, Chip.requests_of_parts rfl⟩

theorem Chip.KeepsRequests.complete (c : Chip) (t : Ticket) (st : Status) (r : Nat) (m : Bool) : c.KeepsRequests (c.complete t st r m) :=
  ⟨.complete .., Chip.requests_of_parts rfl⟩

theorem Chip.KeepsRequests.setPart {c : Chip} {p : Nat} {x y : Part} (hx : c.part p = some x) (hrun : y.run = x.run)
    (hsame : y.serving.map Serving.requests = x.serving.map Serving.requests) : c.KeepsRequests (c.setPart p y) := by
  refine ⟨.setPart hx hrun, fun q => ?_⟩
  by_cases hq : q = p
  · subst hq
    simp [Chip.requests, hx, hsame]
  · rw [Chip.requests, Chip.part_setPart_other _ _ _ _ hq, Chip.requests]

theorem Chip.KeepsRequests.updSrv (c : Chip) (p : Nat) (f : Serving → Serving) (h : ∀ v, (f v).requests = v.requests) :
    c.KeepsRequests (c.updSrv p f) := by
  simp only [Chip.updSrv, Chip.updPart]
  split
  · next x hx => exact .setPart hx rfl (by simp [Function.comp_def, h])
  · exact .refl c

theorem Chip.KeepsRequests.hostWrite (c : Chip) (fn a : Nat) (bs : List Byte) : c.KeepsRequests (c.hostWrite fn a bs) := by
  simp only [Chip.hostWrite]
  split
  · exact ⟨.of_eq rfl rfl rfl rfl rfl rfl, Chip.requests_of_parts rfl⟩
  · have hsame (g : Nat) : ((c.setFunc fn { c.func fn with writes := (c.func fn).writes ++ [(a, bs)] }).func g).waiting = (c.func g).waiting ∧
        ((c.setFunc fn { c.func fn with writes := (c.func fn).writes ++ [(a, bs)] }).func g).era = (c.func g).era := by
      by_cases hg : g = fn
      · subst hg
        rw [Chip.func_setFunc_same]
        exact ⟨rfl, rfl⟩
      · rw [Chip.func_setFunc_other _ _ _ _ hg]
        exact ⟨rfl, rfl⟩
    exact ⟨⟨fun _ _ => rfl, rfl, rfl, rfl, fun _ => rfl, fun g => (hsame g).1 ▸ List.prefix_refl _, fun g => (hsame g).2⟩,
      Chip.requests_of_parts rfl⟩

theorem Chip.KeepsRequests.outHeader (c : Chip) (p n : Nat) : c.KeepsRequests (c.outHeader p n) := by
  unfold Chip.outHeader
  split
  · exact .refl c
  · exact .hostWrite ..

/-- An OPEN, RELIST, TRIM or FREE edit writes memory only (06 R223). -/
theorem Chip.editApply_sameButMem {e : KvEdit} (h : e.kind < 4) (c : Chip) (p : Nat) (x : Part) : c.SameButMem (c.editApply p x e).1 := by
  unfold Chip.editApply
  extract_lets q k ptr cap arg
  split
  · split
    · exact .refl c
    · exact ((((c.zero_sameButMem ..).trans (Chip.setSeq_sameButMem ..)).trans (Chip.setSeq_sameButMem ..)).trans
        (Chip.setSeq_sameButMem ..)).trans (Chip.write_sameButMem ..)
  · split
    · exact .refl c
    · split
      · exact .refl c
      · exact (((c.dropFrom_sameButMem ..).trans (Chip.write_sameButMem ..)).trans (Chip.setSeq_sameButMem ..)).trans
          (Chip.setSeq_sameButMem ..)
  · split
    · exact .refl c
    · split
      · exact .refl c
      · exact ((c.dropFrom_sameButMem ..).trans (Chip.setSeq_sameButMem ..)).trans (Chip.fixSwapped_sameButMem ..)
  · split
    · exact .refl c
    · exact (c.dropFrom_sameButMem ..).trans (Chip.setSeq_sameButMem ..)
  · omega
  · next h0 h1 h2 h3 _ =>
    have hlate : e.kind ≠ 0 ∧ e.kind ≠ 1 ∧ e.kind ≠ 2 ∧ e.kind ≠ 3 := ⟨h0, h1, h2, h3⟩
    omega

theorem Chip.KeepsRequests.freeReq (c : Chip) (p n : Nat) : c.KeepsRequests (c.freeReq p n) := by
  unfold Chip.freeReq
  split
  · exact .refl c
  · next x hx =>
    extract_lets told freed
    have htold : c.KeepsRequests told := by
      refine .trans (.setPart (y := { x with edits := x.edits.filter (fun e => e.seq / 2 != n) }) hx rfl rfl) (.foldl _ _ (fun c e => ?_) _)
      cases e.ticket with
      | none => exact .refl c
      | some t => exact .complete ..
    have hfreed : told.KeepsRequests freed := by
      refine .foldl _ _ (fun c q => ?_) told
      split
      · exact (Chip.editApply_sameButMem (e := fwEdit q 3 0 0 0) (Nat.lt_succ_self 3) c p x).keepsRequests
      · exact .refl c
    exact (htold.trans hfreed).trans (.updSrv _ p _ fun _ => rfl)

/-! Draining and closing (09 R332, R333) -/

/-- A request as its closing leaves it. -/
def Request.close (r : Request) : Request := { r with state := .closed, waits := [], epoch := none, drafts := [] }

/-- The completions that the closing of a request brings: its final one, and those of the commands that wait on it. -/
def Chip.tellClosed (c : Chip) (r : Request) (handle : Nat) : Chip :=
  r.waits.foldl (fun c w => c.complete w.ticket (if w.opcode = 0x23 then .ok else .state))
    (r.ticket.elim c fun t => c.complete t (r.final.getD .ok) handle)

theorem Chip.tellFinal_keepsRequests (c : Chip) (r : Request) (handle : Nat) :
    c.KeepsRequests (r.ticket.elim c fun t => c.complete t (r.final.getD .ok) handle) := by
  cases r.ticket with
  | none => exact .refl c
  | some t => exact .complete ..

theorem Chip.tellWaits_keepsRequests (c : Chip) (ws : List ReqCmd) :
    c.KeepsRequests (ws.foldl (fun c w => c.complete w.ticket (if w.opcode = 0x23 then .ok else .state)) c) :=
  .foldl ws _ (fun _ _ => .complete ..) c

theorem Chip.tellClosed_keepsRequests (c : Chip) (r : Request) (handle : Nat) : c.KeepsRequests (c.tellClosed r handle) :=
  (c.tellFinal_keepsRequests r handle).trans (Chip.tellWaits_keepsRequests ..)

/-- The final completion of a request tells its final status. -/
theorem Chip.tellClosed_final {c : Chip} {r : Request} {t : Ticket} {st : Status} (ht : r.ticket = some t) (hera : (c.func t.fn).era = t.era)
    (hst : r.final = some st) (hok : st ≠ .ok) (handle : Nat) :
    ∃ e ∈ ((c.tellClosed r handle).func t.fn).waiting, e.status = st ∧ e.cmdId = t.cmdId := by
  obtain ⟨e, he, hstatus, hid⟩ := Chip.mem_waiting_complete hera st handle false
  rw [Chip.statusFor_of_ne_ok hok] at hstatus
  simp only [Chip.tellClosed, ht, hst, Option.elim_some, Option.getD_some]
  exact ⟨e, ((Chip.tellWaits_keepsRequests ..).adds t.fn).subset he, hstatus, hid⟩

/-- A REQ_CANCEL that waits on a request ends well when the request closes. -/
theorem Chip.tellClosed_cancel {c : Chip} {r : Request} {w : ReqCmd} {before : List ReqCmd} (hw : r.waits = before ++ [w])
    (hcode : w.opcode = 0x23) (hera : (c.func w.ticket.fn).era = w.ticket.era) (handle : Nat) :
    ∃ e ∈ ((c.tellClosed r handle).func w.ticket.fn).waiting, (e.status = .ok ∨ e.status = .degraded) ∧ e.cmdId = w.ticket.cmdId := by
  simp only [Chip.tellClosed, hw, List.foldl_append, List.foldl_cons, List.foldl_nil, hcode, if_true]
  have hbefore := (c.tellFinal_keepsRequests r handle).trans (Chip.tellWaits_keepsRequests _ before)
  obtain ⟨e, he, hstatus, hid⟩ := Chip.mem_waiting_complete ((hbefore.eras w.ticket.fn).trans hera) .ok 0 false
  exact ⟨e, he, hstatus ▸ Chip.statusFor_ok .., hid⟩

/-- The part on which the completions of a request that closes are written: its sequences are freed and its header tells CLOSED. -/
def Chip.shutReq (c : Chip) (p n : Nat) : Chip := ((c.freeReq p n).updReq p n Request.close).outHeader p n

theorem Chip.shutReq_eras (c : Chip) (p n fn : Nat) : ((c.shutReq p n).func fn).era = (c.func fn).era := by
  rw [Chip.shutReq, (Chip.KeepsRequests.outHeader ..).eras fn, Chip.updReq_func]
  exact (Chip.KeepsRequests.freeReq c p n).eras fn

section
variable {c : Chip} {p n : Nat} {x : Part} {v : Serving} (hx : c.part p = some x) (hv : x.serving = some v)
include hx hv

/-- Freeing the sequences of a request keeps its partition a serving one, with the requests it had. -/
theorem Chip.freeReq_serves : ∃ y w, (c.freeReq p n).part p = some y ∧ y.serving = some w ∧ w.requests = v.requests :=
  Chip.requests_some (((Chip.KeepsRequests.freeReq c p n).requests p).trans (Chip.requests_eq hx hv))

theorem Chip.requests_shutReq : (c.shutReq p n).requests p = some (Tbl.upd {} n Request.close v.requests) := by
  obtain ⟨y, w, hy, hw, hrs⟩ := Chip.freeReq_serves (n := n) hx hv
  rw [Chip.shutReq, (Chip.KeepsRequests.outHeader ..).requests p, Chip.requests_updReq hy hw, hrs]

/-- A DRAINING request that a step or a KV_EXPORT holds does not close yet. -/
theorem Chip.closeReq_held (h : c.reqHeld p n = true ∨ (v.req n).exporting.isSome = true) : c.closeReq p n = c := by
  simp only [Chip.closeReq, Chip.srv_eq hx hv]
  exact if_pos (.inr h)

/-- A DRAINING request that nothing holds closes. -/
theorem Chip.closeReq_free (hstate : (v.req n).state = .draining) (h : ¬ (c.reqHeld p n = true ∨ (v.req n).exporting.isSome = true)) :
    c.closeReq p n = (c.shutReq p n).tellClosed (v.req n) (v.handleOf n) := by
  simp only [Chip.closeReq, Chip.srv_eq hx hv]
  rw [if_neg (by simpa [hstate] using h)]
  simp only [Chip.tellClosed, Chip.shutReq]
  cases (v.req n).ticket <;> rfl

end

/-- A request that is open in some way, and not draining yet. -/
def Request.Live (r : Request) : Prop := r.state ≠ .closed ∧ r.state ≠ .draining

theorem Request.drain_live {r : Request} (h : r.Live) (st : Status) : r.drain st = { r with state := .draining, final := some st } := by
  simp [Request.drain, h.1, h.2]

/-- A request entry of one serving state is drained in another: its final status is set, it is DRAINING or, where nothing holds it, CLOSED,
and every other entry is as it was. -/
def Serving.Drained (v w : Serving) (n : Nat) (st : Status) (held : Prop) [Decidable held] : Prop :=
  (w.req n).final = some st ∧ (∀ m, m ≠ n → w.req m = v.req m) ∧ (w.req n).state = if held then .draining else .closed

section
variable {c : Chip} {p n : Nat} {x : Part} {v : Serving} (hx : c.part p = some x) (hv : x.serving = some v) (hlive : (v.req n).Live)
include hx hv

include hlive

/-- A live request that nothing holds is drained and closed at once, with the completions that brings. -/
theorem Chip.drainReq_free (h : ¬ (c.reqHeld p n = true ∨ (v.req n).exporting.isSome = true)) (st : Status) :
    ∃ (d : Chip) (handle : Nat), c.drainReq p n st = d.tellClosed ((v.req n).drain st) handle ∧
      (∀ fn, (d.func fn).era = (c.func fn).era) ∧
      d.requests p = some (Tbl.upd {} n Request.close (Tbl.upd {} n (·.drain st) v.requests)) := by
  obtain ⟨y, w, hy, hw, hrs, hreq, -⟩ := Chip.updReq_serves hx hv n (·.drain st)
  have hdrained := Request.drain_live hlive st
  refine ⟨(c.updReq p n (·.drain st)).shutReq p n, w.handleOf n, ?_, fun fn => ?_, ?_⟩
  · rw [Chip.drainReq, Chip.closeReq_free hy hw, hreq]
    · rw [hreq, hdrained]
    · rw [Chip.reqHeld_updReq hx hv, hreq, hdrained]
      exact h
  · rw [Chip.shutReq_eras, Chip.updReq_func]
  · rw [Chip.requests_shutReq hy hw, hrs]

/-- A live request drains: it closes at once where nothing holds it. -/
theorem Chip.drainReq_drains (st : Status) : ∃ y w, (c.drainReq p n st).part p = some y ∧ y.serving = some w ∧
    v.Drained w n st (c.reqHeld p n = true ∨ (v.req n).exporting.isSome = true) := by
  have hdrained := Request.drain_live hlive st
  by_cases h : c.reqHeld p n = true ∨ (v.req n).exporting.isSome = true
  · obtain ⟨y, w, hy, hw, -, hreq, hothers⟩ := Chip.updReq_serves hx hv n (·.drain st)
    have hstays : c.drainReq p n st = c.updReq p n (·.drain st) := by
      rw [Chip.drainReq, Chip.closeReq_held hy hw]
      rw [Chip.reqHeld_updReq hx hv, hreq, hdrained]
      exact h
    refine ⟨y, w, hstays ▸ hy, hw, by rw [hreq, hdrained], hothers, by rw [hreq, hdrained, if_pos h]⟩
  · obtain ⟨d, handle, hd, -, hrs⟩ := Chip.drainReq_free hx hv hlive h st
    obtain ⟨y, w, hy, hw, hw'⟩ := Chip.requests_some (((d.tellClosed_keepsRequests ((v.req n).drain st) handle).requests p).trans hrs)
    have hreq : w.req n = ((v.req n).drain st).close := by
      rw [Serving.req, hw', Tbl.get_upd, if_pos rfl, Tbl.get_upd, if_pos rfl, Serving.req]
    refine ⟨y, w, hd ▸ hy, hw, by rw [hreq, hdrained, Request.close], fun m hm => ?_, by rw [hreq, if_neg h, Request.close]⟩
    rw [Serving.req, hw', Tbl.get_upd, if_neg hm, Tbl.get_upd, if_neg hm, Serving.req]

end

end Sys2Proof.Machine
end

section
/-! PROOFS. The limits of a request's stay in a state (09 R332, R337), and the statement settled from these. -/

namespace Sys2Proof.Machine

theorem exec_reqQueueTimeout_powered {s : State} (hup : s.chip.powered = true) (p h : Nat) :
    exec (.reqQueueTimeout p h) s =
      .next (s.withChip (s.chip.reqLimit p (h % 65536) 36 (fun _ r => decide (r.state = .opened)) .timeout)) :=
  State.onChip_powered hup (·.reqLimit p (h % 65536) 36 (fun _ r => decide (r.state = .opened)) .timeout)

theorem exec_reqPreemptTimeout_powered {s : State} (hup : s.chip.powered = true) (p h : Nat) :
    exec (.reqPreemptTimeout p h) s =
      .next (s.withChip (s.chip.reqLimit p (h % 65536) 38 (fun _ r => decide (r.state = .preempted)) .preempted)) :=
  State.onChip_powered hup (·.reqLimit p (h % 65536) 38 (fun _ r => decide (r.state = .preempted)) .preempted)

theorem exec_reqHoldTimeout_powered {s : State} (hup : s.chip.powered = true) (p h : Nat) :
    exec (.reqHoldTimeout p h) s = .next (s.withChip (s.chip.reqLimit p (h % 65536) 40
      (fun v r => v.role == 0 && decide (r.state = .decode) && r.exporting.isNone) .timeout)) :=
  State.onChip_powered hup (·.reqLimit p (h % 65536) 40 (fun v r => v.role == 0 && decide (r.state = .decode) && r.exporting.isNone) .timeout)

section
variable {c : Chip} {p n : Nat} {x : Part} {v : Serving} (hx : c.part p = some x) (hv : x.serving = some v) {field : Nat}
  {limited : Serving → Request → Bool}
include hx hv

/-- A request without an import drains once it has been in its state for the limit of the record. -/
theorem Chip.reqLimit_due (himport : v.importOf n = none) (hstate : limited v (v.req n) = true) (hset : v.get field 2 ≠ 0)
    (hpast : (v.req n).since + 1000000 * v.get field 2 ≤ c.now) (st : Status) :
    c.reqLimit p n field limited st = c.drainReq p n st := by
  simp [Chip.reqLimit, Chip.srv_eq hx hv, himport, hstate, hset, hpast]

/-- Before the limit, or with a limit of 0, nothing happens. -/
theorem Chip.reqLimit_early (h : ¬ (v.get field 2 ≠ 0 ∧ (v.req n).since + 1000000 * v.get field 2 ≤ c.now)) (st : Status) :
    c.reqLimit p n field limited st = c := by
  simp only [Chip.reqLimit, Chip.srv_eq hx hv]
  refine if_neg fun hdue => h ?_
  simp only [Bool.and_eq_true, bne_iff_ne, decide_eq_true_eq] at hdue
  exact ⟨hdue.1.2, hdue.2⟩

end

/-- A command that is a limit of a live request drains it once the limit is reached, and does nothing before. -/
theorem limit_drains {i : Instr} {s : State} {p n field : Nat} {limited : Serving → Request → Bool} {st : Status} {x : Part} {v : Serving}
    (hexec : exec i s = .next (s.withChip (s.chip.reqLimit p n field limited st))) (hx : s.chip.part p = some x) (hv : x.serving = some v)
    (himport : v.importOf n = none) (hlive : (v.req n).Live) (hstate : limited v (v.req n) = true) :
    (v.get field 2 ≠ 0 ∧ (v.req n).since + 1000000 * v.get field 2 ≤ s.chip.now →
      Completes i s (fun u => ∃ y w, u.chip.part p = some y ∧ y.serving = some w ∧
        v.Drained w n st (s.chip.reqHeld p n = true ∨ (v.req n).exporting.isSome = true))) ∧
    (¬ (v.get field 2 ≠ 0 ∧ (v.req n).since + 1000000 * v.get field 2 ≤ s.chip.now) → exec i s = .next s) := by
  refine ⟨fun ⟨hset, hpast⟩ => ⟨_, hexec, ?_⟩, fun hearly => ?_⟩
  · rw [Chip.reqLimit_due hx hv himport hstate hset hpast]
    exact Chip.drainReq_drains hx hv hlive st
  · rw [hexec, Chip.reqLimit_early hx hv hearly, State.withChip]

/-- Settles O28: each of the three limits is the drain of a live request, or nothing. -/
theorem requestsDrainAtTheirLimits : Obligations.RequestsDrainAtTheirLimits := by
  intro s p h x v hup hx hv himport r drained due
  refine ⟨fun hstate => ?_, fun hstate => ?_, fun hstate hrole hexport => ?_⟩
  · have hlive : r.Live := by simp [Request.Live, hstate]
    exact limit_drains (exec_reqQueueTimeout_powered hup p h) hx hv himport hlive (decide_eq_true hstate)
  · have hlive : r.Live := by simp [Request.Live, hstate]
    exact limit_drains (exec_reqPreemptTimeout_powered hup p h) hx hv himport hlive (decide_eq_true hstate)
  · have hlive : r.Live := by simp [Request.Live, hstate]
    have hlimited : (v.role == 0 && decide (r.state = .decode) && r.exporting.isNone) = true := by simp [hrole, hstate, hexport]
    exact limit_drains (exec_reqHoldTimeout_powered hup p h) hx hv himport hlive hlimited

end Sys2Proof.Machine
end

section
/-! PROOFS. REQ_OPEN, REQ_APPEND and REQ_CANCEL (09 R328-R334): the request that each leaves, the lists that an append may move, and the
statement settled from these. -/

namespace Sys2Proof.Machine

/-! The completion that a ticket gets -/

/-- A completion is the one that its ticket would have got earlier, where the head of its ring, the time and what its status becomes are
the same. -/
theorem Chip.complete_newest {c d : Chip} {t : Ticket} {st : Status} (hera : (d.func t.fn).era = t.era)
    (hwaiting : (d.func t.fn).waiting = (c.func t.fn).waiting)
    (hhead : d.reg (rg .ringSqHead t.fn t.sq) = c.reg (rg .ringSqHead t.fn t.sq)) (hclocks : d.clocks = c.clocks)
    (hstatus : d.statusFor t.fn st = c.statusFor t.fn st) (r : Nat) (m : Bool) :
    ((d.complete t st r m).func t.fn).waiting = (c.func t.fn).waiting ++ [c.entryFor t st r m] := by
  rw [Chip.complete_waiting hera, hwaiting]
  simp only [Chip.entryFor, Chip.field, hhead, Chip.now_of_clocks hclocks, hstatus]

/-- A change of a partition that is as DEGRADED as before changes no status. -/
theorem Chip.statusFor_setPart {c : Chip} {p : Nat} {x y : Part} (hx : c.part p = some x) (hsame : y.degraded = x.degraded) (fn : Nat)
    (st : Status) : (c.setPart p y).statusFor fn st = c.statusFor fn st := by
  have hpart (q : Nat) : ((c.setPart p y).part q).isSome = (c.part q).isSome ∧
      ((c.setPart p y).part q).any (fun x => x.degraded) = (c.part q).any (fun x => x.degraded) := by
    by_cases hq : q = p
    · subst hq
      simp [hx, hsame]
    · rw [Chip.part_setPart_other _ _ _ _ hq]
      exact ⟨rfl, rfl⟩
  have howner : (c.setPart p y).partOf fn = c.partOf fn := by
    simp only [Chip.partOf, (hpart (fn - 1)).1]
    rfl
  have hdegraded : (((c.setPart p y).partOf fn).bind (c.setPart p y).part).any (fun x => x.degraded) =
      ((c.partOf fn).bind c.part).any (fun x => x.degraded) := by
    rw [howner]
    cases c.partOf fn with
    | none => rfl
    | some q => exact (hpart q).2
  simp only [Chip.statusFor, hdegraded]

/-! REQ_OPEN (09 R328, R329, R334) -/

theorem exec_reqOpen_powered {s : State} (hup : s.chip.powered = true) (fn : Nat) :
    exec (.reqOpen fn) s = .next (s.withChip (s.chip.reqOpen fn)) :=
  State.onChip_powered hup (·.reqOpen fn)

/-- The request that a REQ_OPEN makes of an entry: from its record and its input tokens, at a time. -/
def Serving.newRequest (v : Serving) (n : Nat) (r : List Byte) (t : Ticket) (toks : List Byte) (now : Nat) : Request :=
  { state := .opened, gen := ((v.req n).gen + 1) % 65536, record := r, ticket := some { t with first := false },
    hist := words32 toks (bytesLe r 8 4), inputs := bytesLe r 8 4, limit := bytesLe r 12 4, order := v.order, since := now }

/-- The serving state once a request has been entered. -/
def Serving.enter (v : Serving) (n : Nat) (q : Request) : Serving := { v with requests := Tbl.set n q v.requests, order := v.order + 1 }

theorem Serving.req_enter_same (v : Serving) (n : Nat) (q : Request) : (v.enter n q).req n = q := Tbl.get_set_same ..

theorem Serving.req_enter_other (v : Serving) {n m : Nat} (h : m ≠ n) (q : Request) : (v.enter n q).req m = v.req m :=
  Tbl.get_set_other _ _ _ _ _ h

/-- A legal REQ_OPEN enters its request into the lowest free entry. -/
theorem Chip.reqOpen_opens {c : Chip} {fn p n : Nat} {x : Part} {v : Serving} {k : Cmd} {rest : List Cmd} {bs : List Byte}
    (h : c.Starts fn 0x21 (fun _ => true) p x k rest) (hv : x.serving = some v) (hlegal : requestOk v (c.plan p x v) k.record = true)
    (hprefill : v.role = 0 → (bytesLe k.record 55 1).testBit 0 = false) (hdecode : v.role = 1 → (bytesLe k.record 55 1).testBit 0 = true)
    (hfree : (List.range v.maxReq).find? (fun n => decide ((v.req n).state = .closed)) = some n)
    (hread : c.hostRead (bytesLe k.record 0 8) (4 * bytesLe k.record 8 4) = .ok bs) :
    let t := { k.ticket fn (c.func fn).era with tag := bytesLe k.record 56 8 }
    c.reqOpen fn = ((c.afterStart fn rest).setPart p
      { x with serving := some (v.enter n (v.newRequest n k.record t bs c.now)) }).complete t .ok
        (n + 65536 * (((v.req n).gen + 1) % 65536)) true := by
  have hrole : ¬ ((v.role = 0 ∧ (bytesLe k.record 55 1).testBit 0 = true) ∨ (v.role = 1 ∧ (!(bytesLe k.record 55 1).testBit 0) = true)) := by
    rintro (⟨hr, hb⟩ | ⟨hr, hb⟩)
    · exact absurd hb (by rw [hprefill hr]; decide)
    · exact absurd hb (by rw [hdecode hr]; decide)
  have hplan : (c.afterStart fn rest).plan p x v = c.plan p x v := rfl
  have hhost (a m : Nat) : (c.afterStart fn rest).hostRead a m = c.hostRead a m := rfl
  have hserving := Chip.updSrv_eq (c := c.afterStart fn rest) h.part hv
  simp only [Chip.reqOpen, Chip.start_eq h, hv, hplan, hlegal, if_neg hrole, hhost, hfree, hread, hserving, Bool.not_true,
    Bool.false_eq_true, if_false]
  rfl

/-! REQ_APPEND (09 R333, R336) -/

theorem exec_reqAppend_powered {s : State} (hup : s.chip.powered = true) (fn : Nat) :
    exec (.reqAppend fn) s = .next (s.withChip (s.chip.reqAppend fn)) :=
  State.onChip_powered hup (·.reqAppend fn)

theorem Chip.KeepsRequests.trimWork (c : Chip) (p n : Nat) : c.KeepsRequests (c.trimWork p n) := by
  unfold Chip.trimWork
  split
  · exact .refl c
  · exact .updSrv c p _ fun _ => rfl

theorem Chip.KeepsRequests.editWait {c : Chip} {p : Nat} {x : Part} (hx : c.part p = some x) (e : KvEdit) :
    c.KeepsRequests (c.editWait p x e) := by
  unfold Chip.editWait
  extract_lets marked
  have hmarked : c.SameButMem marked := .foldl _ _ (fun c q => c.seqFlag_sameButMem p x q 1 true) c
  have hpart : marked.part p = some x := by
    obtain ⟨m, hm⟩ := hmarked
    rw [hm]
    exact hx
  exact hmarked.keepsRequests.trans (.setPart hpart rfl rfl)

theorem Chip.relistSeq_keepsRequests {c d : Chip} {p n q : Nat} (h : c.relistSeq p n q = some d) : c.KeepsRequests d := by
  unfold Chip.relistSeq at h
  split at h
  · cases h
    exact .refl c
  · next x v _ =>
    extract_lets cap at h
    split at h
    · cases h
      exact .refl c
    · split at h
      · cases h
      · obtain ⟨ptr, -, rfl⟩ := Option.map_eq_some_iff.mp h
        extract_lets listed src e
        have hlisted : c.KeepsRequests listed := .updSrv c p _ fun _ => rfl
        refine hlisted.trans ?_
        split
        · exact .refl _
        · next y hy =>
          split
          · exact (Chip.editApply_sameButMem (e := e) (show 1 < 4 by decide) listed p y).keepsRequests.trans (.trimWork ..)
          · exact .editWait hy e

theorem Chip.relistReq_keepsRequests {c d : Chip} {p n : Nat} (h : c.relistReq p n = some d) : c.KeepsRequests d := by
  obtain ⟨e, hmain, hdraft⟩ := Option.bind_eq_some_iff.mp h
  exact (Chip.relistSeq_keepsRequests hmain).trans (Chip.relistSeq_keepsRequests hdraft)

/-- A request once tokens have followed its input. -/
def Request.append (r : Request) (args bs : List Byte) : Request :=
  { r with
    hist := r.hist ++ words32 bs (bytesLe args 16 4), inputs := r.inputs + bytesLe args 16 4, limit := r.limit + bytesLe args 20 4,
    recompute := false, state := if r.state = .decode then .prefill else r.state, decoding := false, drafts := [] }

/-- An append that succeeds leaves the request with its tokens, whether or not its lists moved. -/
theorem Chip.appendAct_ok {c : Chip} {p n : Nat} {x : Part} {v : Serving} {args bs : List Byte} (hx : c.part p = some x)
    (hv : x.serving = some v) (hread : c.hostRead (bytesLe args 8 8) (4 * bytesLe args 16 4) = .ok bs)
    (hok : (c.appendAct p n args).2 = .ok) :
    ∃ y w, (c.appendAct p n args).1.part p = some y ∧ y.serving = some w ∧ w.req n = (v.req n).append args bs := by
  have hact : c.appendAct p n args = match (c.updReq p n (·.append args bs)).relistReq p n with
      | none => (c, .noResource)
      | some c' => (c', .ok) := by
    simp only [Chip.appendAct, hread]
    rfl
  rw [hact] at hok ⊢
  split at hok
  · cases hok
  · next d hd =>
    have hrequests := (Chip.relistReq_keepsRequests hd).requests p
    rw [Chip.requests_updReq hx hv] at hrequests
    obtain ⟨y, w, hy, hw, hrs⟩ := Chip.requests_some hrequests
    exact ⟨y, w, hy, hw, by rw [Serving.req, hrs, Tbl.get_upd, if_pos rfl, Serving.req]⟩

/-- A REQ_APPEND to a request that is OPEN, PREFILL or PREEMPTED, or decodes while nothing holds it, acts at once. -/
theorem Chip.reqAppend_acts {c : Chip} {fn p n : Nat} {x : Part} {v : Serving} {k : Cmd} {rest : List Cmd}
    (h : c.Starts fn 0x22 (fun _ => true) p x k rest) (hv : x.serving = some v) (hentry : v.entry (bytesLe k.args 0 4) = .ok n)
    (hrole : v.role ≠ 1) (hfits : (v.req n).appendOk k.args = true)
    (hstate : (v.req n).state = .opened ∨ (v.req n).state = .prefill ∨ (v.req n).state = .preempted ∨
      ((v.req n).state = .decode ∧ (v.req n).exporting = none ∧ c.reqHeld p n = false)) :
    let a := (c.afterStart fn rest).appendAct p n k.args
    c.reqAppend fn = a.1.complete (k.ticket fn (c.func fn).era) a.2 := by
  have hheld : (c.afterStart fn rest).reqHeld p n = c.reqHeld p n := rfl
  rw [Chip.reqAppend, Chip.startReq_eq h hv hentry (.inl (by decide)) (by simp [hfits]) (by simp [hrole])]
  obtain hopen | hprefill | hpreempted | ⟨hdecode, hexport, hfree⟩ := hstate
  · simp only [hopen]
  · simp only [hprefill]
  · simp only [hpreempted]
  · simp [hdecode, hexport, hheld, hfree]

/-! REQ_CANCEL (09 R333, R347) -/

theorem exec_reqCancel_powered {s : State} (hup : s.chip.powered = true) (fn : Nat) :
    exec (.reqCancel fn) s = .next (s.withChip (s.chip.reqCancel fn)) :=
  State.onChip_powered hup (·.reqCancel fn)

/-- A REQ_CANCEL of a live request that nothing holds and that awaits no import acts at once. -/
theorem Chip.reqCancel_acts {c : Chip} {fn p n : Nat} {x : Part} {v : Serving} {k : Cmd} {rest : List Cmd}
    (h : c.Starts fn 0x23 (fun _ => true) p x k rest) (hv : x.serving = some v) (hentry : v.entry (bytesLe k.args 0 4) = .ok n)
    (hstate : (v.req n).state = .opened ∨ (v.req n).state = .prefill ∨ (v.req n).state = .preempted ∨ (v.req n).state = .decode)
    (hexport : (v.req n).exporting = none) (hfirst : (v.req n).cancelling = false) (hfree : c.reqHeld p n = false)
    (himport : v.importOf n = none) :
    c.reqCancel fn = (c.afterStart fn rest).cancelNow p n (k.ticket fn (c.func fn).era) := by
  have hheld : (c.afterStart fn rest).reqHeld p n = false := hfree
  rw [Chip.reqCancel, Chip.startReq_eq h hv hentry (.inl (by decide)) rfl rfl]
  obtain hopen | hprefill | hpreempted | hdecode := hstate
  · simp [hfirst, hopen, himport]
  · simp [hfirst, hprefill, hheld]
  · simp [hfirst, hpreempted]
  · simp [hfirst, hdecode, hheld, hexport]

/-- A request on which a REQ_CANCEL waits. -/
def Request.awaitCancel (r : Request) (t : Ticket) : Request := { r with waits := r.waits ++ [⟨0x23, t, []⟩] }

/-- A live request that nothing holds and that is cancelled closes with CANCELLED; the command ends well, and the request's own final
completion tells CANCELLED. -/
theorem Chip.cancelNow_closes {c : Chip} {p n : Nat} {x : Part} {v : Serving} {t : Ticket} (hx : c.part p = some x)
    (hv : x.serving = some v) (hlive : (v.req n).Live) (hexport : (v.req n).exporting = none) (hfree : c.reqHeld p n = false)
    (hera : (c.func t.fn).era = t.era) :
    (∃ y w, (c.cancelNow p n t).part p = some y ∧ y.serving = some w ∧ (w.req n).state = .closed ∧
      (w.req n).final = some .cancelled ∧ ∀ m, m ≠ n → w.req m = v.req m) ∧
    (∃ e ∈ ((c.cancelNow p n t).func t.fn).waiting, (e.status = .ok ∨ e.status = .degraded) ∧ e.cmdId = t.cmdId) ∧
    (∀ u, (v.req n).ticket = some u → (c.func u.fn).era = u.era →
      ∃ e ∈ ((c.cancelNow p n t).func u.fn).waiting, e.status = .cancelled ∧ e.cmdId = u.cmdId) := by
  obtain ⟨y, w, hy, hw, -, hreq, hothers⟩ := Chip.updReq_serves hx hv n (·.awaitCancel t)
  have hlive' : (w.req n).Live := by
    rw [hreq]
    exact hlive
  have hexport' : (w.req n).exporting = none := by
    rw [hreq]
    exact hexport
  have hnone : ¬ ((c.updReq p n (·.awaitCancel t)).reqHeld p n = true ∨
      (w.req n).exporting.isSome = true) := by
    simp [Chip.reqHeld_updReq hx hv, hfree, hexport']
  have hdrained : (w.req n).drain .cancelled = { (v.req n).awaitCancel t with state := .draining, final := some .cancelled } :=
    (Request.drain_live hlive' .cancelled).trans (by rw [hreq])
  obtain ⟨d, handle, hd, heras, -⟩ := Chip.drainReq_free hy hw hlive' hnone .cancelled
  have hnow : c.cancelNow p n t = (c.updReq p n (·.awaitCancel t)).drainReq p n .cancelled := rfl
  have hera' (fn : Nat) : (d.func fn).era = (c.func fn).era := by rw [heras, Chip.updReq_func]
  refine ⟨?_, ?_, fun u hu hage => ?_⟩
  · obtain ⟨y', w', hy', hw', hfinal, hkept, hstate⟩ := Chip.drainReq_drains hy hw hlive' .cancelled
    exact ⟨y', w', hy', hw', hstate.trans (if_neg hnone), hfinal, fun m hm => (hkept m hm).trans (hothers m hm)⟩
  · rw [hnow, hd, hdrained]
    exact Chip.tellClosed_cancel (w := ⟨0x23, t, []⟩) rfl rfl ((hera' t.fn).trans hera) handle
  · rw [hnow, hd, hdrained]
    refine Chip.tellClosed_final ?_ ((hera' u.fn).trans hage) rfl (by decide) handle
    exact hu

/-! The statement -/

/-- Settles O25: REQ_OPEN enters one request, REQ_APPEND adds to one, and REQ_CANCEL is the drain of one that nothing holds. -/
theorem requestsOpenAppendAndCancel : Obligations.RequestsOpenAppendAndCancel := by
  refine ⟨fun s fn p n x v k rest bs hup hstarts hv hlegal hprefill hdecode hfree hread => ?_,
    fun s fn p n x v k rest hup hstarts hv hentry hrole hfits hstate => ?_,
    fun s fn p n x v k rest hup hstarts hv hentry hstate hexport hfirst hfree himport => ?_⟩
  · intro t
    refine ⟨_, exec_reqOpen_powered hup fn, ?_⟩
    rw [Chip.reqOpen_opens hstarts hv hlegal hprefill hdecode hfree hread]
    refine ⟨rfl, ?_, _, Chip.part_setPart_same .., ?_⟩
    · refine Chip.complete_newest (t := t) ?_ ?_ (by rfl) (by rfl) ?_ _ _
      · exact Chip.afterStart_era ..
      · exact Chip.afterStart_waiting ..
      · exact Chip.statusFor_setPart (c := s.chip.afterStart fn rest) hstarts.part (by rfl) fn .ok
    · rw [Serving.req_enter_same]
      exact ⟨rfl, rfl, rfl, rfl, rfl, rfl, rfl, fun m hm => v.req_enter_other hm _⟩
  · intro a t
    refine ⟨?_, fun bs hread hok => ?_⟩
    · rw [exec_reqAppend_powered hup, Chip.reqAppend_acts hstarts hv hentry hrole hfits hstate]
    · obtain ⟨y, w, hy, hw, hreq⟩ := Chip.appendAct_ok (c := s.chip.afterStart fn rest) hstarts.part hv hread hok
      exact ⟨y, w, hy, hw, by rw [hreq, Request.append], by rw [hreq, Request.append], by rw [hreq, Request.append]⟩
  · have hlive : (v.req n).Live := by rcases hstate with h | h | h | h <;> simp [Request.Live, h]
    refine ⟨_, exec_reqCancel_powered hup fn, ?_⟩
    rw [Chip.reqCancel_acts hstarts hv hentry hstate hexport hfirst hfree himport]
    obtain ⟨hclosed, hended, htold⟩ := Chip.cancelNow_closes (c := s.chip.afterStart fn rest) (t := k.ticket fn (s.chip.func fn).era)
      hstarts.part hv hlive hexport hfree (Chip.afterStart_era ..)
    exact ⟨hclosed, hended, fun u hu hage => htold u hu ((Chip.afterStart_era ..).trans hage)⟩

end Sys2Proof.Machine
end

section
/-! PROOFS. KV_EXPORT, KV_IMPORT and the limit of an import (09 R344-R346, 07 R278): what the window of an import changes, how exports and
imports start, how an import ends without its header, and the statement settled from these. -/

namespace Sys2Proof.Machine

/-! The window of an import (07 R265, R278) -/

/-- Firmware writes the words of a window entry. -/
def Chip.storeWindow (c : Chip) (p n : Nat) (ws : List Word) : Chip := (windowRegs.zip ws).foldl (fun c e => c.setReg (rg e.1 p n) e.2) c

theorem Chip.putWindow_eq (c : Chip) (p n : Nat) (ws : List Word) : c.putWindow p n ws = (c.storeWindow p n ws).setWindow p n ws := rfl

/-- The words of a window entry are registers of their own. -/
theorem Chip.storeWindow_frame (c : Chip) (p n : Nat) (ws : List Word) :
    ∃ regs, c.storeWindow p n ws = { c with regs := regs } ∧ ∀ r : Reg, r.name ∉ windowRegs → (c.storeWindow p n ws).reg r = c.reg r := by
  refine List.foldlRecOn (motive := fun d : Chip => ∃ regs, d = { c with regs := regs } ∧
    ∀ r : Reg, r.name ∉ windowRegs → d.reg r = c.reg r) _ _ ⟨c.regs, rfl, fun _ _ => rfl⟩ fun d hd e he => ?_
  obtain ⟨regs, hframe, hsame⟩ := hd
  refine ⟨_, by rw [hframe]; rfl, fun r hr => ?_⟩
  have hother : r ≠ rg e.1 p n := by
    rintro rfl
    exact hr (List.of_mem_zip he).1
  rw [Chip.reg_setReg_other _ _ _ _ hother, hsame r hr]

/-- The window of an import changes together with the imports. -/
def Chip.changeImport (c : Chip) (p n : Nat) (ws : List Word) (f : Tbl Nat Import → Tbl Nat Import) : Chip :=
  (c.putWindow p n ws).updSrv p (fun v => { v with imports := f v.imports })

section
variable (c : Chip) (p n : Nat) (ws : List Word) (f : Tbl Nat Import → Tbl Nat Import)

/-- A change of imports reaches registers and partitions only. -/
theorem Chip.changeImport_sameOutside : c.SameOutside (c.changeImport p n ws f) := by
  obtain ⟨regs, hframe, -⟩ := c.storeWindow_frame p n ws
  have hstored : c.SameOutside (c.storeWindow p n ws) := ⟨c.ce, regs, c.parts, hframe⟩
  exact (hstored.trans (Chip.updPart_sameOutside ..)).trans (Chip.updPart_sameOutside ..)

theorem Chip.changeImport_mem : (c.changeImport p n ws f).mem = c.mem := by
  obtain ⟨_, _, _, heq⟩ := c.changeImport_sameOutside p n ws f
  rw [heq]

theorem Chip.changeImport_func (fn : Nat) : (c.changeImport p n ws f).func fn = c.func fn := by
  obtain ⟨_, _, _, heq⟩ := c.changeImport_sameOutside p n ws f
  rw [heq]
  rfl

theorem Chip.changeImport_regs : (c.changeImport p n ws f).regs = (c.storeWindow p n ws).regs := by
  rw [Chip.changeImport, Chip.updSrv, Chip.updPart_regs, Chip.putWindow_eq, Chip.setWindow, Chip.updPart_regs]

theorem Chip.reg_changeImport_other {r : Reg} (h : r.name ∉ windowRegs) : (c.changeImport p n ws f).reg r = c.reg r := by
  obtain ⟨-, -, hsame⟩ := c.storeWindow_frame p n ws
  rw [Chip.reg_of_regs (c.changeImport_regs p n ws f), hsame r h]

/-- The window of an import reads as the words it was given, once a ticket is told of the change. -/
theorem Chip.reg_changeImport_words {ws : List Word} (h : ws.length = 6) (t : Ticket) (st : Status) (r : Nat) (m : Bool) :
    let d := (c.changeImport p n ws f).complete t st r m
    d.reg (rg .scrWindowW0 p n) = ws.getD 0 0 ∧ d.reg (rg .scrWindowW2 p n) = ws.getD 2 0 ∧
      d.reg (rg .scrWindowW4 p n) = ws.getD 4 0 ∧ d.reg (rg .scrWindowW5 p n) = ws.getD 5 0 := by
  have hregs : ((c.changeImport p n ws f).complete t st r m).regs = (c.storeWindow p n ws).regs := c.changeImport_regs p n ws f
  match ws, h with
  | [w0, w1, w2, w3, w4, w5], _ => simp [Chip.reg_of_regs hregs, Chip.storeWindow, windowRegs, Chip.reg_setReg, rg]

variable {c p}

theorem Chip.changeImport_serves {x : Part} {v : Serving} (hx : c.part p = some x) (hv : x.serving = some v) :
    ∃ y w, (c.changeImport p n ws f).part p = some y ∧ y.serving = some w ∧ w.requests = v.requests ∧ w.imports = f v.imports := by
  obtain ⟨regs, hframe, -⟩ := c.storeWindow_frame p n ws
  have hstored : (c.storeWindow p n ws).part p = some x := by
    rw [hframe]
    exact hx
  have hput : ∃ y, (c.putWindow p n ws).part p = some y ∧ y.serving = some v := by
    rw [Chip.putWindow_eq, Chip.setWindow, Chip.updPart_eq hstored]
    exact ⟨_, Chip.part_setPart_same .., hv⟩
  obtain ⟨y, hy, hyv⟩ := hput
  rw [Chip.changeImport, Chip.updSrv_eq hy hyv]
  exact ⟨_, _, Chip.part_setPart_same .., rfl, rfl, rfl⟩

/-- A ticket that is told of a change of imports gets the completion it would have got before. -/
theorem Chip.changeImport_tells {t : Ticket} (hera : (c.func t.fn).era = t.era) {st : Status} (hst : st ≠ .ok) (r : Nat) (m : Bool) :
    (((c.changeImport p n ws f).complete t st r m).func t.fn).waiting = (c.func t.fn).waiting ++ [c.entryFor t st r m] := by
  have hfunc := c.changeImport_func p n ws f t.fn
  refine Chip.complete_newest (hfunc ▸ hera) (by rw [hfunc]) (c.reg_changeImport_other p n ws f (by simp [rg, windowRegs]))
    (c.changeImport_sameOutside p n ws f).clocks ?_ r m
  rw [Chip.statusFor_of_ne_ok hst, Chip.statusFor_of_ne_ok hst]

end

/-! KV_EXPORT (09 R345) -/

theorem exec_kvExport_powered {s : State} (hup : s.chip.powered = true) (fn : Nat) :
    exec (.kvExport fn) s = .next (s.withChip (s.chip.kvExport fn)) :=
  State.onChip_powered hup (·.kvExport fn)

/-- A KV_EXPORT of a request that decodes, to a chip that is routed, starts, or waits for the step that holds its request. -/
theorem Chip.kvExport_starts {c : Chip} {fn p n : Nat} {x : Part} {v : Serving} {k : Cmd} {rest : List Cmd}
    (h : c.Starts fn 0x24 (fun _ => true) p x k rest) (hv : x.serving = some v) (hentry : v.entry (bytesLe k.args 0 4) = .ok n)
    (hslot : bytesLe k.args 8 1 < 8) (hstate : (v.req n).state = .decode) (hexport : (v.req n).exporting = none)
    (hroute : (c.route (bytesLe k.args 4 2)).isSome = true) :
    let d := c.afterStart fn rest
    let t := k.ticket fn (c.func fn).era
    c.kvExport fn = if c.reqHeld p n then d.waitReq p n 0x24 t k.args else d.exportStart p n t k.args := by
  have hdenied : ((c.afterStart fn rest).route (bytesLe k.args 4 2)).isNone = false := by
    rw [← Option.not_isSome, show (c.afterStart fn rest).route = c.route from rfl, hroute]
    rfl
  have hstays : ¬ ((v.req n).state ≠ .decode ∨ (v.req n).exporting.isSome = true) := by simp [hstate, hexport]
  rw [Chip.kvExport, Chip.startReq_eq h hv hentry (.inl (by decide)) (decide_eq_false (Nat.not_le.mpr hslot)) hdenied]
  exact if_neg hstays

/-! KV_IMPORT (09 R344, R346) -/

theorem exec_kvImport_powered {s : State} (hup : s.chip.powered = true) (fn : Nat) :
    exec (.kvImport fn) s = .next (s.withChip (s.chip.kvImport fn)) :=
  State.onChip_powered hup (·.kvImport fn)

/-- The words of the window on an import slot: its base and size, the source chip and the key (07 R278). -/
def Serving.importWindow (v : Serving) (slot chip key : Nat) : List Word :=
  [BitVec.ofNat 32 (v.slotAt slot), BitVec.ofNat 32 (v.slotAt slot / 2 ^ 32), BitVec.ofNat 32 (v.get 72 4 / 64),
    BitVec.ofNat 32 (chip * 65536 + chip), BitVec.ofNat 32 key, 3]

/-- An import of an OPEN request that awaits one, under a granted key, takes the lowest free slot and is PENDING. -/
theorem Chip.kvImport_takes {c : Chip} {fn p n slot : Nat} {x : Part} {v : Serving} {k : Cmd} {rest : List Cmd}
    (h : c.Starts fn 0x25 (fun _ => true) p x k rest) (hinit : x.kvInit = false) (hv : x.serving = some v)
    (hentry : v.entry (bytesLe k.args 0 4) = .ok n) (hrole : v.role ≠ 0) (hstate : (v.req n).state = .opened)
    (hawaits : ((v.req n).get 55 1).testBit 0 = true) (himport : v.importOf n = none)
    (hkey : c.keyGranted p (bytesLe k.args 6 2) = true)
    (hslot : (List.range (v.get 68 1)).find? (fun i => (Tbl.find? i v.imports).isNone) = some slot) :
    let t := k.ticket fn (c.func fn).era
    c.kvImport fn = ((c.afterStart fn rest).changeImport p (24 + slot) (v.importWindow slot (bytesLe k.args 4 2) (bytesLe k.args 6 2))
      (Tbl.set slot ⟨n, t, if v.get 42 2 = 0 then none else some (c.now + 1000000 * v.get 42 2)⟩)).complete t .pending slot true := by
  have hdenied : (v.role == 0 || !(c.afterStart fn rest).keyGranted p (bytesLe k.args 6 2)) = false := by
    rw [show (c.afterStart fn rest).keyGranted = c.keyGranted from rfl, hkey]
    simp [hrole]
  have hlegal : ¬ ((v.req n).state ≠ .opened ∨ (!((v.req n).get 55 1).testBit 0) = true ∨ (v.importOf n).isSome = true) := by
    rw [hstate, hawaits, himport]
    decide
  rw [Chip.kvImport, Chip.startReq_eq h hv hentry (.inr hinit) rfl hdenied]
  refine (if_neg hlegal).trans ?_
  rw [hslot]
  rfl

/-! The limit of an import (09 R346) -/

theorem exec_importTimeout_powered {s : State} (hup : s.chip.powered = true) (p slot : Nat) :
    exec (.importTimeout p slot) s = .next (s.withChip (s.chip.importTimeout p slot)) :=
  State.onChip_powered hup (·.importTimeout p slot)

section
variable {c : Chip} {p slot d : Nat} {x : Part} {v : Serving} {i : Import} (hx : c.part p = some x) (hv : x.serving = some v)
  (hi : Tbl.find? slot v.imports = some i)
include hx hv hi

/-- An import that ends early closes its window, frees its slot and tells its ticket. -/
theorem Chip.importEnd_ends (st : Status) : c.importEnd p slot st =
    (c.changeImport p (24 + slot) (List.replicate 6 0) (Tbl.del slot)).complete { i.ticket with first := false } st slot := by
  simp only [Chip.importEnd, Chip.srv_eq hx hv, hi]
  rfl

variable (hd : i.due = some d)
include hd

theorem Chip.importTimeout_due (hpast : d ≤ c.now) : c.importTimeout p slot = c.importEnd p slot .timeout := by
  have hdue : i.due.any (fun d => decide (d ≤ c.now)) = true := by
    rw [hd]
    exact decide_eq_true hpast
  simp only [Chip.importTimeout, Chip.srv_eq hx hv, Option.bind_some, hi, hdue, if_true]

theorem Chip.importTimeout_early (hearly : c.now < d) : c.importTimeout p slot = c := by
  have hdue : i.due.any (fun d => decide (d ≤ c.now)) = false := by
    rw [hd]
    exact decide_eq_false (Nat.not_le.mpr hearly)
  simp only [Chip.importTimeout, Chip.srv_eq hx hv, Option.bind_some, hi, hdue, Bool.false_eq_true, if_false]

end

/-! The statement -/

/-- Settles O26: a KV_EXPORT starts or waits, an import opens the window on its slot, and its limit closes that window again. -/
theorem cachesAreExportedAndImported : Obligations.CachesAreExportedAndImported := by
  refine ⟨fun s fn p n x v k rest hup hstarts hv hentry hslot hstate hexport hroute => ?_,
    fun s fn p n slot x v k rest hup hstarts hinit hv hentry hrole hstate hawaits himport hkey hslot => ?_,
    fun s p slot d x v i hup hx hv hi hd => ⟨fun hpast => ?_, fun hearly => ?_⟩⟩
  · intro d t
    rw [exec_kvExport_powered hup, Chip.kvExport_starts hstarts hv hentry hslot hstate hexport hroute]
  · intro t
    refine ⟨_, exec_kvImport_powered hup fn, ?_⟩
    rw [Chip.kvImport_takes hstarts hinit hv hentry hrole hstate hawaits himport hkey hslot]
    obtain ⟨hbase, hsize, hkeyWord, hperm⟩ := Chip.reg_changeImport_words (s.chip.afterStart fn rest) p (24 + slot) (Tbl.set slot
      ⟨n, t, if v.get 42 2 = 0 then none else some (s.chip.now + 1000000 * v.get 42 2)⟩)
      (ws := v.importWindow slot (bytesLe k.args 4 2) (bytesLe k.args 6 2)) rfl t .pending slot true
    refine ⟨Chip.changeImport_mem .., ?_, hbase, hsize, hkeyWord, hperm, Chip.changeImport_serves _ _ _ hstarts.part hv⟩
    refine (Chip.changeImport_tells (c := s.chip.afterStart fn rest) (t := t) _ _ _ (Chip.afterStart_era ..) (by decide) slot true).trans ?_
    exact congrArg (· ++ _) (Chip.afterStart_waiting ..)
  · refine ⟨_, exec_importTimeout_powered hup p slot, ?_⟩
    rw [Chip.importTimeout_due hx hv hi hd hpast, Chip.importEnd_ends hx hv hi]
    obtain ⟨-, -, -, hclosed⟩ := Chip.reg_changeImport_words s.chip p (24 + slot) (Tbl.del slot) (ws := List.replicate 6 0) rfl
      { i.ticket with first := false } .timeout slot false
    refine ⟨Chip.changeImport_mem .., hclosed, Chip.changeImport_serves _ _ _ hx hv, fun hera => ?_⟩
    exact Chip.changeImport_tells (t := { i.ticket with first := false }) _ _ _ hera (by decide) slot false
  · rw [exec_importTimeout_powered hup, Chip.importTimeout_early hx hv hi hd hearly, State.withChip]

end Sys2Proof.Machine
end

section
/-! PROOFS. SERVE_CFG (09 R321-R325, R340): what the initialisation of the cache leaves alone, the two forms of the command, and the
statement settled from these. -/

namespace Sys2Proof.Machine

/-! The initialisation of the cache (06 R238) -/

/-- The initialisation of the cache reaches memory and partitions only. -/
theorem Chip.kvEnsure_frame (c : Chip) (p : Nat) : ∃ mem parts, c.kvEnsure p = { c with mem := mem, parts := parts } := by
  unfold Chip.kvEnsure
  split
  · exact ⟨c.mem, c.parts, rfl⟩
  · split
    · exact ⟨c.mem, c.parts, rfl⟩
    · exact ⟨_, _, rfl⟩

@[simp] theorem Chip.kvEnsure_regs (c : Chip) (p : Nat) : (c.kvEnsure p).regs = c.regs := by
  obtain ⟨_, _, h⟩ := c.kvEnsure_frame p
  rw [h]

@[simp] theorem Chip.kvEnsure_host (c : Chip) (p : Nat) : (c.kvEnsure p).host = c.host := by
  obtain ⟨_, _, h⟩ := c.kvEnsure_frame p
  rw [h]

@[simp] theorem Chip.kvEnsure_funcs (c : Chip) (p : Nat) : (c.kvEnsure p).funcs = c.funcs := by
  obtain ⟨_, _, h⟩ := c.kvEnsure_frame p
  rw [h]

/-! SERVE_CFG -/

theorem exec_serveCfg_powered {s : State} (hup : s.chip.powered = true) (fn : Nat) :
    exec (.serveCfg fn) s = .next (s.withChip (s.chip.serveCfg fn)) :=
  State.onChip_powered hup (·.serveCfg fn)

/-- The part on which a SERVE_CFG works: the command has left its list, and the cache is initialised. -/
def Chip.beforeServe (c : Chip) (fn p : Nat) (rest : List Cmd) : Chip := (c.afterStart fn rest).kvEnsure p

/-- A serving record in force, over what an earlier one leaves: its blend ratio and bounds are its role's, no import, list or step of the
earlier one remains, and its steps count from the commits so far. -/
def Serving.begun (old : Option Serving) (r : List Byte) (commits : Nat) : Serving :=
  { old.getD {} with
    record := r, blend := firstBlend r, lo := bytesLe r 2 1, hi := bytesLe r 3 1, next := none, sinceBlend := 0, imports := [], work := [],
    cur := none, failedOnce := none, seen := commits }

section
variable {c : Chip} {fn p : Nat} {x y : Part} {k : Cmd} {rest : List Cmd} (h : c.Starts fn 0x20 (fun _ => true) p x k rest)
  (hy : (c.beforeServe fn p rest).part p = some y)
include h hy

/-- A SERVE_CFG with BOUNDS_ONLY and bounds in their range gives a serving partition its next bounds. -/
theorem Chip.serveCfg_bounds {v : Serving} (hflag : (bytesLe k.record 7 1).testBit 0 = true)
    (hbounds : bytesLe k.record 2 1 ≤ bytesLe k.record 3 1 ∧ bytesLe k.record 3 1 ≤ 16) (hv : y.serving = some v) :
    c.serveCfg fn = ((c.beforeServe fn p rest).setPart p
      { y with serving := some { v with next := some (bytesLe k.record 2 1, bytesLe k.record 3 1) } }).complete
        (k.ticket fn (c.func fn).era) .ok := by
  have hset := Chip.updSrv_eq hy hv (fun v => { v with next := some (bytesLe k.record 2 1, bytesLe k.record 3 1) })
  rw [Chip.beforeServe] at hy hset ⊢
  simp only [Chip.serveCfg, Chip.start_eq h, hy, hflag, decide_eq_true hbounds, hv, hset, Option.isNone_some, Bool.not_true,
    Bool.false_eq_true, if_true, if_false]

/-- A SERVE_CFG whose record and plan are legal, with no open request and room enough, puts its record in force. -/
theorem Chip.serveCfg_serves {pl : List Byte} {a : Nat} (hflag : (bytesLe k.record 7 1).testBit 0 = false)
    (hread : c.hostRead (bytesLe k.record 48 8) (bytesLe k.record 44 4) = .ok pl)
    (hrecord : servingOk k.record (c.kvCfg p).tokens = true) (hplan : planOk pl = true) (hfit : profilesFit k.record pl = true)
    (hplace : y.range p (recPlan k.record) (bytesLe k.record 64 4) = some (a, 2))
    (hclosed : ∀ v, y.serving = some v → ∀ e ∈ v.requests, e.2.state = .closed)
    (hseqs : 2 * bytesLe k.record 8 4 ≤ c.kvSeqs p) (hroom : recLists k.record ≤ recEnd k.record) :
    c.serveCfg fn = (((c.beforeServe fn p rest).write (physOr y p (recPlan k.record)) pl).setPart p
      { y with serving := some (.begun y.serving k.record y.commits), fwResult := none }).complete (k.ticket fn (c.func fn).era) .ok := by
  have hregs (r : Reg) : (c.beforeServe fn p rest).reg r = c.reg r := Chip.reg_of_regs (Chip.kvEnsure_regs ..) r
  have hread' : (c.beforeServe fn p rest).hostRead (bytesLe k.record 48 8) (bytesLe k.record 44 4) = .ok pl := by
    simp only [Chip.hostRead, Chip.beforeServe, Chip.kvEnsure_host] at hread ⊢
    exact hread
  have hcfg : (c.beforeServe fn p rest).kvCfg p = c.kvCfg p := by rw [Chip.kvCfg, hregs, Chip.kvCfg]
  have hseqs' : (c.beforeServe fn p rest).kvSeqs p = c.kvSeqs p := by rw [Chip.kvSeqs, Chip.field, hregs, Chip.kvSeqs, Chip.field]
  have hopen : (y.serving.map (fun v => v.requests.any (fun e => decide (e.2.state ≠ .closed)))).getD false = false := by
    cases hv : y.serving with
    | none => rfl
    | some v => simpa using hclosed v hv
  have hbig : ¬ (c.kvSeqs p < 2 * bytesLe k.record 8 4 ∨ recEnd k.record < recLists k.record) := by omega
  rw [Chip.beforeServe] at hy hread' hcfg hseqs' ⊢
  simp only [Chip.serveCfg, Chip.start_eq h, hy, hflag, hread', hrecord, hplan, hfit, hplace, hopen, hcfg, hseqs', if_neg hbig,
    Option.any_some, Option.isNone_some, bne_self_eq_false, Bool.not_true, Bool.or_self, Bool.false_eq_true, if_false]
  rfl

end

/-- Settles O24: both forms of the command act on the part with its cache initialised, which has the completions and the age of the
function as they were. -/
theorem serveCfgMakesAServingPartition : Obligations.ServeCfgMakesAServingPartition := by
  intro s fn p x y k rest hup hstarts hy d t r
  refine ⟨fun v hflag hlow hhigh hv => ?_, fun pl a hflag hread hrecord hplan hfit hplace hclosed hseqs hroom => ?_⟩
  · rw [exec_serveCfg_powered hup, Chip.serveCfg_bounds hstarts hy hflag ⟨hlow, hhigh⟩ hv, Chip.beforeServe]
  · refine ⟨_, exec_serveCfg_powered hup fn, ?_⟩
    rw [Chip.serveCfg_serves hstarts hy hflag hread hrecord hplan hfit hplace hclosed hseqs hroom]
    refine ⟨rfl, ⟨_, Chip.part_setPart_same .., rfl, rfl, rfl, rfl, rfl, rfl, rfl, rfl⟩, ?_⟩
    have hfunc : d.func fn = (s.chip.afterStart fn rest).func fn := Chip.func_of_funcs (Chip.kvEnsure_funcs ..) fn
    refine ⟨_, (Chip.complete_waiting (t := t) ?_ ..).trans (congrArg (· ++ _) ?_), Chip.statusFor_ok .., rfl⟩
    · exact (congrArg Func.era hfunc).trans (Chip.afterStart_era ..)
    · exact (congrArg Func.waiting hfunc).trans (Chip.afterStart_waiting ..)

end Sys2Proof.Machine
end

section
/-! PROOFS. The epochs of a partition (10 R369, R373-R375): the switch to a READY epoch, the request for retirement and retirement, and the
statement settled from these. -/

namespace Sys2Proof.Machine

/-! EPOCH_SWITCH (10 R373) -/

theorem exec_epochSwitch_powered {s : State} (hup : s.chip.powered = true) (fn : Nat) :
    exec (.epochSwitch fn) s = .next (s.withChip (s.chip.epochSwitch fn)) :=
  State.onChip_powered hup (·.epochSwitch fn)

/-- An EPOCH_SWITCH to a READY epoch, with none RETIRING, joins the requested switches, and is made where no step runs. -/
theorem Chip.epochSwitch_asks {c : Chip} {fn p : Nat} {x : Part} {k : Cmd} {rest : List Cmd} {e : Epoch}
    (h : c.Starts fn 0x13 (fun _ => true) p x k rest) (hzero : bytesZero k.record 4 63 = true)
    (he : x.epochNo (bytesLe k.record 0 4) = some e) (hready : e.state = .ready) (hnone : x.epochIn .retiring = none) :
    c.epochSwitch fn =
      let d := (c.afterStart fn rest).setPart p { x with switch := x.switch ++ [(e.num, k.ticket fn (c.func fn).era)] }
      if x.run.isSome then d else d.switchEpoch p := by
  simp [Chip.epochSwitch, Chip.start_eq h, hzero, he, hready, hnone]

/-- Resetting the norm monitors touches memory alone. -/
theorem Chip.resetMonitors_sameButMem (c : Chip) (p : Nat) (x : Part) : c.SameButMem (c.resetMonitors p x) :=
  .foldl _ _ (fun _ _ => .foldl _ _ (fun _ _ => Chip.zero_sameButMem ..) _) _

/-- The epochs of a partition once the switch to one of them is made. -/
def Part.switchedTo (x : Part) (n : Nat) : List Epoch :=
  x.epochs.map (fun f => if f.num = n then { f with state := .inForce } else if f.state = .inForce then { f with state := .retiring } else f)

/-- A switch that one command asked for is made: its partition's epochs change state, and its completion is generated. -/
theorem Chip.switchEpoch_one {c : Chip} {p n : Nat} {t : Ticket} {x : Part} (hx : c.part p = some x) (hswitch : x.switch = [(n, t)]) :
    ∃ (d : Chip) (y : Part), c.switchEpoch p = d.complete t .ok ∧ d.funcs = c.funcs ∧ d.part p = some y ∧ y.switch = [] ∧
      y.epochs = x.switchedTo n := by
  let y : Part := { x.unbuild with switch := [], epochs := x.switchedTo n }
  obtain ⟨m, hm⟩ := (c.setPart p y).resetMonitors_sameButMem p y
  refine ⟨(c.setPart p y).resetMonitors p y, y, ?_, by rw [hm]; rfl, ?_, rfl, rfl⟩
  · simp only [Chip.switchEpoch, hx, hswitch]
    rfl
  · rw [hm]
    exact Chip.part_setPart_same c p y

/-! EPOCH_RETIRE (10 R375) -/

theorem exec_epochRetire_powered {s : State} (hup : s.chip.powered = true) (fn : Nat) :
    exec (.epochRetire fn) s = .next (s.withChip (s.chip.epochRetire fn)) :=
  State.onChip_powered hup (·.epochRetire fn)

/-- An EPOCH_RETIRE of a RETIRING epoch asks for its retirement with its deadline; the epoch retires at once where that is due and no
step runs. -/
theorem Chip.epochRetire_asks {c : Chip} {fn p : Nat} {x : Part} {k : Cmd} {rest : List Cmd} {e : Epoch}
    (h : c.Starts fn 0x14 (fun _ => true) p x k rest) (hzero : (bytesZero k.record 4 7 && bytesZero k.record 16 63) = true)
    (he : x.epochNo (bytesLe k.record 0 4) = some e) (hretiring : e.state = .retiring) :
    c.epochRetire fn =
      let d := ((c.afterStart fn rest).setPart p
        (x.setEpoch { e with retireAsked := true, retireAt := some (bytesLe k.record 8 8) })).complete (k.ticket fn (c.func fn).era) .ok
      if x.run.isSome then d else d.retire p := by
  simp only [Chip.epochRetire, Chip.start_eq h, hzero, he, hretiring, Bool.not_true, Bool.false_eq_true, ne_eq, not_true_eq_false, if_false]

theorem exec_epochRetireDeadline_powered {s : State} (hup : s.chip.powered = true) (p : Nat) :
    exec (.epochRetireDeadline p) s = .next (s.withChip (s.chip.epochRetireDeadline p)) :=
  State.onChip_powered hup (·.epochRetireDeadline p)

/-- A RETIRING epoch whose retirement was asked for, and that nothing selects or pins or whose deadline has passed, becomes RETIRED and
holds no tile. -/
theorem Chip.retire_due {c : Chip} {p : Nat} {x : Part} {e : Epoch} (hx : c.part p = some x) (he : x.epochIn .retiring = some e)
    (hasked : e.retireAsked = true)
    (hdue : (x.pinnedTo e.num = false ∧ c.selects p x e.num = false) ∨ ∃ d, e.retireAt = some d ∧ d ≤ c.now) :
    ∃ y, c.retire p = c.setPart p y ∧ y.epochs = (x.setEpoch { e with state := .retired, tiles := [], layers := [] }).epochs := by
  have hretires : (e.retireAsked && ((!x.pinnedTo e.num && !c.selects p x e.num) || e.retireAt.any (fun d => decide (d ≤ c.now)))) = true := by
    obtain ⟨hpin, hselect⟩ | ⟨d, hd, hpast⟩ := hdue
    · simp [hasked, hpin, hselect]
    · simp [hasked, hd, hpast]
  simp only [Chip.retire, hx, he, hretires, Bool.not_true, Bool.false_eq_true, if_false]
  exact ⟨_, rfl, rfl⟩

/-! The statement -/

/-- Settles O22: a switch waits for the boundary of the step that runs or is made within the command, and a RETIRING epoch retires as soon
as no step runs and a condition of its retirement holds. -/
theorem epochsSwitchAndRetire : Obligations.EpochsSwitchAndRetire := by
  refine ⟨?_, ?_, ?_⟩
  · intro s fn p x k rest e hup hstarts hzero he hready hnone t
    have hasks := Chip.epochSwitch_asks hstarts hzero he hready hnone
    refine ⟨fun hrun => ?_, fun hrun hswitch => ?_⟩
    · rw [exec_epochSwitch_powered hup, hasks.trans (if_pos hrun)]
    · obtain ⟨d, y, hmade, hfuncs, hy, hyswitch, hyepochs⟩ := Chip.switchEpoch_one (n := e.num) (t := t)
        (Chip.part_setPart_same (s.chip.afterStart fn rest) p { x with switch := x.switch ++ [(e.num, t)] }) (by rw [hswitch]; rfl)
      have hchip : s.chip.epochSwitch fn = d.complete t .ok := (hasks.trans (if_neg (by simp [hrun]))).trans hmade
      have hfunc : d.func fn = (s.chip.afterStart fn rest).func fn := Chip.func_of_funcs hfuncs fn
      refine ⟨_, exec_epochSwitch_powered hup fn, ?_⟩
      rw [hchip]
      refine ⟨⟨y, hy, hyswitch, hyepochs⟩, _, (Chip.complete_waiting (t := t) ?_ ..).trans (congrArg (· ++ _) ?_), Chip.statusFor_ok .., rfl⟩
      · exact (congrArg Func.era hfunc).trans (Chip.afterStart_era ..)
      · exact (congrArg Func.waiting hfunc).trans (Chip.afterStart_waiting ..)
  · intro s fn p x k rest e hup hstarts hzero he hretiring d
    rw [exec_epochRetire_powered hup, Chip.epochRetire_asks hstarts hzero he hretiring]
  · intro s p x e hup hpart hrun he hasked hdue
    obtain ⟨y, hretire, hepochs⟩ := Chip.retire_due hpart he hasked hdue
    have hchip : s.chip.epochRetireDeadline p = s.chip.setPart p y := by simp [Chip.epochRetireDeadline, hpart, hrun, hretire]
    refine ⟨_, exec_epochRetireDeadline_powered hup p, ?_⟩
    rw [hchip]
    exact ⟨rfl, rfl, y, Chip.part_setPart_same .., hepochs⟩

end Sys2Proof.Machine
end

section
/-! PROOFS. Shard images (10 R354-R356, R359, 12 R426, R429): the opening of an epoch and of a repair, the bytes that SHARD_DATA moves, and the
statement settled from these. -/

namespace Sys2Proof.Machine

/-! SHARD_BEGIN and its repair form (10 R354, R355, R359) -/

theorem exec_shardBegin_powered {s : State} (hup : s.chip.powered = true) (fn : Nat) :
    exec (.shardBegin fn) s = .next (s.withChip (s.chip.shardBegin fn)) :=
  State.onChip_powered hup (·.shardBegin fn)

theorem exec_shardRepair_powered {s : State} (hup : s.chip.powered = true) (fn : Nat) :
    exec (.shardRepair fn) s = .next (s.withChip (s.chip.shardRepair fn)) :=
  State.onChip_powered hup (·.shardRepair fn)

/-- A new epoch as a SHARD_BEGIN record gives it, on an image run (10 R354). -/
def openedEpoch (r : List Byte) (lo : Nat) : Epoch :=
  { num := bytesLe r 0 4, state := .building, lo := lo, size := bytesLe r 8 8, digest := (r.drop 32).take 32 }

/-- A legal SHARD_BEGIN with no epoch BUILDING or READY opens its epoch on the lowest free run, zeroed. -/
theorem Chip.shardBegin_opens {c : Chip} {fn p lo : Nat} {x : Part} {k : Cmd} {rest : List Cmd}
    (h : c.Starts fn 0x10 (fun k => !(bytesLe k.record 4 1).testBit 0) p x k rest) (hok : beginOk k.record = true)
    (hnone : ∀ e ∈ x.epochs, e.state ≠ .building ∧ e.state ≠ .ready) (hnew : x.lastEpoch < bytesLe k.record 0 4)
    (hrun : (c.afterStart fn rest).freeRun p x (bytesLe k.record 8 8) = some lo) :
    c.shardBegin fn = (((c.afterStart fn rest).zero (physOr x p lo) (bytesLe k.record 8 8)).setPart p
      { x with epochs := x.epochs ++ [openedEpoch k.record lo], lastEpoch := bytesLe k.record 0 4 }).complete
        (k.ticket fn (c.func fn).era) .ok := by
  have hidle : x.epochs.any (fun e => decide (e.state = .building ∨ e.state = .ready)) = false := by simpa using hnone
  simp only [Chip.shardBegin, Chip.start_eq h, hok, hidle, hrun, if_neg (Nat.not_le.mpr hnew), Bool.not_true, Bool.false_eq_true, if_false]
  rfl

/-- A SHARD_BEGIN with REPAIR opens the image of a live epoch that is not being built or checked, with the size and digest it has. -/
theorem Chip.shardRepair_opens {c : Chip} {fn p : Nat} {x : Part} {k : Cmd} {rest : List Cmd} {e : Epoch}
    (h : c.Starts fn 0x10 (fun k => (bytesLe k.record 4 1).testBit 0) p x k rest) (hok : beginOk k.record = true)
    (he : x.epochNo (bytesLe k.record 0 4) = some e) (hlive : e.state ≠ .retired) (hbuilt : e.state ≠ .building)
    (hsize : e.size = bytesLe k.record 8 8) (hdigest : e.digest = (k.record.drop 32).take 32)
    (hidle : ∀ b, x.build = some b → b.epoch ≠ e.num) :
    c.shardRepair fn = ((c.afterStart fn rest).setPart p (x.setEpoch { e with repair := true, committed := false })).complete
      (k.ticket fn (c.func fn).era) .ok := by
  have hfree : x.build.any (fun b => b.epoch == e.num) = false := by
    rw [Option.any_eq_false]
    simpa using hidle
  have hgood : ¬ (!beginOk k.record ∨ !e.live ∨ e.state = .building ∨ e.size ≠ bytesLe k.record 8 8 ∨
      e.digest ≠ (k.record.drop 32).take 32) := by
    simp [hok, Epoch.live, hlive, hbuilt, hsize, hdigest]
  simp only [Chip.shardRepair, Chip.start_eq h, he, if_neg hgood, hfree, Bool.false_eq_true, if_false]

/-! SHARD_DATA (10 R356) -/

theorem exec_shardData_powered {s : State} (hup : s.chip.powered = true) (fn : Nat) :
    exec (.shardData fn) s = .next (s.withChip (s.chip.shardData fn)) :=
  State.onChip_powered hup (·.shardData fn)

/-- A move whose words and blocks were all good has written the bytes and nothing else to memory (12 R426, R429). -/
theorem Chip.dataMove_mem {c : Chip} {p a dst n : Nat} (h : (c.dataMove p a dst n).2 = true) :
    (c.dataMove p a dst n).1.mem = c.mem.write dst (c.read a n) := by
  simp only [Chip.dataMove] at h ⊢
  split at h
  · next hbad => simp [h] at hbad
  · next hgood =>
    obtain ⟨_, _, _, hblocks⟩ := Chip.blockRead_sameButChecks (c.deviceRead p [(a / 8 * 8, a + n)]).1 p
      (((c.part p).map (fun x => x.blockNow)).getD false) a n
    rw [if_neg hgood, Chip.write_mem, beq_iff_eq.mp h, hblocks]
    exact congrArg (Memory.write · dst (c.read a n)) (Chip.Mends.deviceRead c p _).mem

/-- A SHARD_DATA record keeps the rules of its fields (10 R356). -/
structure DataOk (r : List Byte) : Prop where
  aligned : bytesLe r 16 4 % 64 = 0
  least : 64 ≤ bytesLe r 16 4
  most : bytesLe r 16 4 ≤ 2 ^ 30
  source : bytesLe r 4 1 ≤ 1
  reserved : (bytesZero r 5 7 && bytesZero r 20 23 && bytesZero r 32 63) = true

theorem DataOk.passes {r : List Byte} (h : DataOk r) : ¬ (bytesLe r 16 4 % 64 ≠ 0 ∨ bytesLe r 16 4 < 64 ∨ 2 ^ 30 < bytesLe r 16 4 ∨
    1 < bytesLe r 4 1 ∨ (!(bytesZero r 5 7 && bytesZero r 20 23 && bytesZero r 32 63)) = true) := by
  obtain ⟨haligned, hleast, hmost, hsource, hreserved⟩ := h
  rw [hreserved]
  simp only [Bool.not_true, Bool.false_eq_true, or_false]
  omega

/-- The image of an epoch is open for bytes: it is being built or repaired, and its SHARD_COMMIT was not taken (10 R356). -/
structure Epoch.TakesData (e : Epoch) : Prop where
  uncommitted : e.committed = false
  opened : e.state = .building ∨ e.repair = true

theorem Epoch.TakesData.passes {e : Epoch} (h : e.TakesData) :
    ¬ (e.committed = true ∨ (e.state ≠ .building ∧ (!e.repair) = true)) := by
  obtain ⟨huncommitted, hbuilding | hrepair⟩ := h <;> simp [*]

section
variable {c : Chip} {fn p : Nat} {x : Part} {k : Cmd} {rest : List Cmd} {e : Epoch} (h : c.Starts fn 0x11 (fun _ => true) p x k rest)
  (hfirst : c.epochCmdAhead fn 0x11 0x12 = false) (hok : DataOk k.record) (he : x.epochNo (bytesLe k.record 0 4) = some e)
  (hopen : e.TakesData) (hfits : bytesLe k.record 8 8 + bytesLe k.record 16 4 ≤ e.size)
include h hfirst hok he hopen hfits

/-- A SHARD_DATA from the host copies the bytes it reads to the image. -/
theorem Chip.shardData_host {bs : List Byte} (hhost : bytesLe k.record 4 1 = 0)
    (hread : c.hostRead (bytesLe k.record 24 8) (bytesLe k.record 16 4) = .ok bs) :
    c.shardData fn = ((c.afterStart fn rest).write (physOr x p e.lo + bytesLe k.record 8 8) bs).complete (k.ticket fn (c.func fn).era) .ok := by
  have hread' : (c.afterStart fn rest).hostRead (bytesLe k.record 24 8) (bytesLe k.record 16 4) = .ok bs := hread
  simp only [Chip.shardData, Chip.start_eq h, hfirst, Bool.false_eq_true, false_or, if_neg hok.passes, he, if_neg hopen.passes,
    if_neg (Nat.not_lt.mpr hfits), if_pos hhost, hread']

/-- A SHARD_DATA from the partition's HBM moves bytes to the image, and tells whether a word or a block was bad. -/
theorem Chip.shardData_hbm {a : Nat} (hhbm : bytesLe k.record 4 1 = 1)
    (hplace : x.range p (bytesLe k.record 24 8) (bytesLe k.record 16 4) = some (a, 2)) :
    let m := (c.afterStart fn rest).dataMove p a (physOr x p e.lo + bytesLe k.record 8 8) (bytesLe k.record 16 4)
    c.shardData fn = m.1.complete (k.ticket fn (c.func fn).era) (if m.2 then .ok else .integrityFail) := by
  have hnotHost : ¬ bytesLe k.record 4 1 = 0 := by omega
  simp only [Chip.shardData, Chip.start_eq h, hfirst, Bool.false_eq_true, false_or, if_neg hok.passes, he, if_neg hopen.passes,
    if_neg (Nat.not_lt.mpr hfits), if_neg hnotHost, hplace]

end

/-! The statement -/

/-- Settles O20: a legal record on an image in the right state passes every check of its command, and a move of good words and blocks writes
the bytes it read. -/
theorem shardCommandsFillAnImage : Obligations.ShardCommandsFillAnImage := by
  refine ⟨?_, ?_, ?_⟩
  · intro s fn p lo x k rest hup hstarts hok hnone hnew hrun
    rw [exec_shardBegin_powered hup, Chip.shardBegin_opens hstarts hok hnone hnew hrun, openedEpoch]
  · intro s fn p x k rest e hup hstarts hok he hlive hbuilt hsize hdigest hidle
    rw [exec_shardRepair_powered hup, Chip.shardRepair_opens hstarts hok he hlive hbuilt hsize hdigest hidle]
  · intro s fn p x k rest e hup hstarts hfirst n src dst d t haligned hlow hhigh hzero he hopen hstate hfits
    have hrecord (hsource : bytesLe k.record 4 1 ≤ 1) : DataOk k.record := ⟨haligned, hlow, hhigh, hsource, hzero⟩
    refine ⟨fun bs hhost hread => ?_, fun a hhbm hplace => ⟨?_, fun hgood => Chip.dataMove_mem hgood⟩⟩
    · rw [exec_shardData_powered hup, Chip.shardData_host hstarts hfirst (hrecord (by omega)) he ⟨hopen, hstate⟩ hfits hhost hread]
    · rw [exec_shardData_powered hup, Chip.shardData_hbm hstarts hfirst (hrecord (by omega)) he ⟨hopen, hstate⟩ hfits hhbm hplace]

end Sys2Proof.Machine
end

section
/-! PROOFS. Checked reads of the device outside an op, of master images among them (12 R425, R426, R428): what they leave unchanged, whether
or not they meet a poisoned word, and what a poisoned word leaves. -/

namespace Sys2Proof.Machine

theorem Chip.bank_of_banks {c d : Chip} (h : d.banks = c.banks) (a k : Nat) : d.bank a k = c.bank a k := by simp only [Chip.bank, h]

theorem Chip.bank_setBank_other (c : Chip) (a b : Nat) (x : Bank) {a' b' : Nat} (h : (a', b') ≠ (a, b)) :
    (c.setBank a b x).bank a' b' = c.bank a' b' := Tbl.get_set_other _ _ _ _ _ h

theorem Chip.reg_setBits_other (c : Chip) {r q : Reg} (h : q ≠ r) (m : Nat) : (c.setBits r m).reg q = c.reg q :=
  Chip.reg_setReg_other _ _ _ _ h

theorem Chip.reg_count_other (c : Chip) {r q : Reg} (h : q ≠ r) (n : Nat) : (c.count r n).reg q = c.reg q :=
  Chip.reg_setReg_other _ _ _ _ h

theorem Chip.reg_count_of_reg {c d : Chip} {r : Reg} (h : d.reg r = c.reg r) (n : Nat) : (d.count r n).reg r = (c.count r n).reg r := by
  simp only [Chip.count, Chip.reg_setReg_same, h]

/-- Setting bits of a register takes none back, of it or of another. -/
theorem Chip.bit_setBits_of_bit {c : Chip} {q : Reg} {i : Nat} (h : (c.reg q).bit i = true) (r : Reg) (m : Nat) :
    ((c.setBits r m).reg q).bit i = true := by
  rw [Chip.setBits, Chip.reg_setReg]
  split
  · next hthis => rw [Word.bit_or, ← hthis, h, Bool.true_or]
  · exact h

/-! What the checks of a read may change -/

/-- The registers that the checks of a read write. -/
def checkRegs : List RegName := [.safeIntStatus, .safeEvtCe, .safeEvtUe, .safeEvtParity]

/-- One part follows another by the checks of a read: only marks of corrected words, the registers of the checks and partitions have
changed. -/
structure Chip.Checked (c d : Chip) : Prop where
  outside : c.SameOutside d
  regs : ∀ r, r.name ∉ checkRegs → d.reg r = c.reg r

theorem Chip.Checked.refl (c : Chip) : c.Checked c := ⟨⟨c.ce, c.regs, c.parts, rfl⟩, fun _ _ => rfl⟩

theorem Chip.Checked.trans {c d e : Chip} (h : c.Checked d) (k : d.Checked e) : c.Checked e :=
  ⟨h.outside.trans k.outside, fun r hr => (k.regs r hr).trans (h.regs r hr)⟩

theorem Chip.Checked.mem {c d : Chip} (h : c.Checked d) : d.mem = c.mem := by
  obtain ⟨_, _, _, rfl⟩ := h.outside
  rfl

theorem Chip.Checked.funcs {c d : Chip} (h : c.Checked d) : d.funcs = c.funcs := by
  obtain ⟨_, _, _, rfl⟩ := h.outside
  rfl

theorem Chip.Checked.convFailed {c d : Chip} (h : c.Checked d) : d.convFailed = c.convFailed := by
  obtain ⟨_, _, _, rfl⟩ := h.outside
  rfl

theorem Chip.Checked.bank {c d : Chip} (h : c.Checked d) (a k : Nat) : d.bank a k = c.bank a k := Chip.bank_of_banks h.outside.banks a k

theorem Chip.Checked.setReg (c : Chip) {r : Reg} (h : r.name ∈ checkRegs) (v : Word) : c.Checked (c.setReg r v) :=
  ⟨⟨c.ce, _, c.parts, rfl⟩, fun _ hq => Chip.reg_setReg_other _ _ _ _ fun e => hq (e ▸ h)⟩

theorem Chip.Checked.setBits (c : Chip) {r : Reg} (h : r.name ∈ checkRegs) (m : Nat) : c.Checked (c.setBits r m) := .setReg c h _

theorem Chip.Checked.count (c : Chip) {r : Reg} (h : r.name ∈ checkRegs) (n : Nat) : c.Checked (c.count r n) := .setReg c h _

theorem Chip.Checked.updPart (c : Chip) (p : Nat) (f : Part → Part) : c.Checked (c.updPart p f) :=
  ⟨c.updPart_sameOutside p f, fun r _ => Chip.reg_of_regs (Chip.updPart_regs ..) r⟩

theorem Chip.Checked.correct (c : Chip) (p : Nat) (rs : List (Nat × Nat)) : c.Checked (c.correct p rs) := by
  simp only [Chip.correct]
  split
  · exact .refl c
  · exact .trans (d := { c with ce := c.ce.filter (fun a => !(wordsIn c.ce rs).contains a) }) ⟨⟨_, c.regs, c.parts, rfl⟩, fun _ _ => rfl⟩
      (.count _ (by simp [rg, checkRegs]) _)

theorem Chip.Checked.noteParity (c : Chip) (p : Nat) : c.Checked (c.noteParity p) :=
  (Chip.Checked.setBits c (by simp [rg, checkRegs]) 2).trans (.count _ (by simp [rg, checkRegs]) 1)

theorem Chip.Checked.noteUe (c : Chip) (p n : Nat) : c.Checked (c.noteUe p n) :=
  ((Chip.Checked.setBits c (by simp [rg, checkRegs]) 1).trans (.count _ (by simp [rg, checkRegs]) n)).trans (.updPart _ p _)

/-! The reads -/

/-- Where the image of an epoch lies (10 R371). -/
abbrev Epoch.image (e : Epoch) (p : Nat) (x : Part) : List (Nat × Nat) := [(physOr x p e.lo, physOr x p e.lo + e.size)]

/-- A read fails exactly where it meets a poisoned word, which it notes. -/
theorem Chip.deviceRead_eq (c : Chip) (p : Nat) (rs : List (Nat × Nat)) : ∃ d, c.Checked d ∧ d.parts = c.parts ∧
    c.deviceRead p rs = if wordsIn c.ue rs = [] then (d, true) else (d.noteUe p (wordsIn c.ue rs).length, false) := by
  unfold Chip.deviceRead
  extract_lets broken d ue
  refine ⟨d, ?_, ?_, ?_⟩
  · simp only [d]
    split
    · exact (Chip.Checked.noteParity c p).trans (.correct _ p rs)
    · exact .correct c p rs
  · refine (Chip.correct_sameStores ..).parts.trans ?_
    split <;> rfl
  · have hue : wordsIn d.ue rs = wordsIn c.ue rs := by
      simp only [d, Chip.correct]
      split <;> split <;> rfl
    simp only [ue, hue, List.length_eq_zero_iff]

theorem Chip.deviceRead_clean {c : Chip} {rs : List (Nat × Nat)} (p : Nat) (h : wordsIn c.ue rs = []) :
    ∃ d, c.Checked d ∧ d.parts = c.parts ∧ c.deviceRead p rs = (d, true) := by
  obtain ⟨d, hchecked, hparts, hread⟩ := c.deviceRead_eq p rs
  exact ⟨d, hchecked, hparts, hread.trans (if_pos h)⟩

/-- A read that did not fail leaves the partitions. -/
theorem Chip.deviceRead_parts {c : Chip} {p : Nat} {rs : List (Nat × Nat)} (h : (c.deviceRead p rs).2 = true) :
    (c.deviceRead p rs).1.parts = c.parts := by
  obtain ⟨d, -, hparts, hread⟩ := c.deviceRead_eq p rs
  rw [hread] at h ⊢
  split at h
  · next hnone => rwa [if_pos hnone]
  · simp at h

theorem Chip.Checked.deviceRead (c : Chip) (p : Nat) (rs : List (Nat × Nat)) : c.Checked (c.deviceRead p rs).1 := by
  obtain ⟨d, hchecked, -, hread⟩ := c.deviceRead_eq p rs
  rw [hread]
  split
  · exact hchecked
  · exact hchecked.trans (.noteUe d p _)

theorem Chip.Checked.imageRead (c : Chip) (p run : Nat) (rs : List (Nat × Nat)) : c.Checked (c.imageRead p run rs).1 := by
  simp only [Chip.imageRead]
  split
  · exact .deviceRead c p rs
  · exact (Chip.Checked.deviceRead c p rs).trans (.updPart _ p _)

theorem Chip.imageRead_clean {c : Chip} {rs : List (Nat × Nat)} (p run : Nat) (h : wordsIn c.ue rs = []) :
    ∃ d, c.Checked d ∧ d.parts = c.parts ∧ c.imageRead p run rs = (d, true) := by
  obtain ⟨d, hchecked, hparts, hread⟩ := Chip.deviceRead_clean p h
  exact ⟨d, hchecked, hparts, by simp [Chip.imageRead, hread]⟩

/-- A poisoned word in an image sets INT_STATUS.UE, marks the image invalid and has the partition recover (12 R426, R446). -/
theorem Chip.imageRead_poisoned {c : Chip} {p : Nat} {x : Part} {rs : List (Nat × Nat)} (hx : c.part p = some x) (run : Nat)
    (h : wordsIn c.ue rs ≠ []) : ∃ d, c.Checked d ∧ (d.reg (rg .safeIntStatus p)).bit 0 = true ∧
      d.part p = some ({ x with recovery := true, clean := x.rounds }.invalidate run) ∧ c.imageRead p run rs = (d, false) := by
  obtain ⟨d, hchecked, hparts, hread⟩ := c.deviceRead_eq p rs
  rw [if_neg h] at hread
  let counted := (d.setBits (rg .safeIntStatus p) 1).count (rg .safeEvtUe p) (wordsIn c.ue rs).length
  have hcounted : counted.part p = some x := (Chip.part_of_parts (c := counted) (by exact hparts) p).trans hx
  have hnoted : d.noteUe p (wordsIn c.ue rs).length = counted.setPart p { x with recovery := true, clean := x.rounds } :=
    Chip.updPart_eq hcounted _
  have himage : c.imageRead p run rs = ((counted.setPart p { x with recovery := true, clean := x.rounds }).setPart p
      ({ x with recovery := true, clean := x.rounds }.invalidate run), false) := by
    simp only [Chip.imageRead, hread, Bool.false_eq_true, if_false, hnoted]
    rw [Chip.updPart_eq (Chip.part_setPart_same ..)]
  refine ⟨_, ?_, ?_, Chip.part_setPart_same .., himage⟩
  · have himageRead := Chip.Checked.imageRead c p run rs
    rwa [himage] at himageRead
  · have hbit : ((d.setBits (rg .safeIntStatus p) 1).reg (rg .safeIntStatus p)).bit 0 = true := Chip.setBits_bit _ _ (by decide)
    have hother : counted.reg (rg .safeIntStatus p) = (d.setBits (rg .safeIntStatus p) 1).reg (rg .safeIntStatus p) :=
      Chip.reg_count_other _ (by simp [rg]) _
    exact hother ▸ hbit

end Sys2Proof.Machine
end

section
/-! PROOFS. SHARD_COMMIT and BANK_PROGRAM_DONE (10 R357, R359, R361-R366): how a commit starts its build or fails, what the end of a bank's
programming or verification leaves, and the statement settled from these. -/

namespace Sys2Proof.Machine

/-! The failure of a commit (10 R357, R359) -/

/-- A failed commit of an epoch of which no build runs discards the epoch. -/
theorem Chip.commitFails_new {c : Chip} {p : Nat} {x : Part} {e : Epoch} (hx : c.part p = some x) (hbuild : x.build = none)
    (hnew : e.repair = false) (t : Ticket) (st : Status) :
    c.commitFails p t e st = (c.setPart p { x with epochs := x.epochs.filter (fun f => f.num != e.num) }).complete t st := by
  obtain ⟨⟩ := x
  subst hbuild
  simp only [Chip.commitFails, Chip.discardEpoch, hnew, Chip.updPart_eq hx, Option.any_none, Bool.false_eq_true, if_false]

/-- A failed commit whose build runs discards its epoch with the build. -/
theorem Chip.commitFails_built {c : Chip} {p : Nat} {x : Part} {b : Build} {e : Epoch} (hx : c.part p = some x) (hb : x.build = some b)
    (he : x.epochNo b.epoch = some e) (hnew : e.repair = false) (st : Status) (word : Nat) :
    ∃ y, c.commitFails p b.ticket e st word = (c.setPart p y).complete b.ticket st word ∧ y.build = none ∧
      ∀ f ∈ y.epochs, f.num ≠ e.num := by
  have hnum : e.num = b.epoch := by simpa using List.find?_some he
  refine ⟨{ x with epochs := x.epochs.filter (fun f => f.num != e.num), build := none }, ?_, rfl, ?_⟩
  · simp [Chip.commitFails, Chip.discardEpoch, hnew, Chip.updPart_eq hx, hb, hnum]
  · simp

/-- A failed repair leaves its epoch with its image invalid. -/
theorem Chip.commitFails_repair {c : Chip} {p : Nat} {x : Part} {e : Epoch} (hx : c.part p = some x) (hrepair : e.repair = true)
    (t : Ticket) (st : Status) :
    c.commitFails p t e st =
      (c.setPart p { x.setEpoch { e with repair := false, committed := false, invalid := true } with build := none }).complete t st := by
  simp only [Chip.commitFails, hrepair, Chip.updPart_eq hx, if_true]

/-! SHARD_COMMIT (10 R357, R359) -/

theorem exec_shardCommit_powered {s : State} (hup : s.chip.powered = true) (fn : Nat) :
    exec (.shardCommit fn) s = .next (s.withChip (s.chip.shardCommit fn)) :=
  State.onChip_powered hup (·.shardCommit fn)

/-- A commit's read of an epoch's image meets no poisoned word, and the image matches its digest. -/
def Chip.imageMatches (c : Chip) (p : Nat) (x : Part) (e : Epoch) : Bool :=
  (c.deviceRead p (e.image p x)).2 && sha256Of (c.read (physOr x p e.lo) e.size) == e.digest

theorem Chip.not_imageMatches (c : Chip) (p : Nat) (x : Part) (e : Epoch) :
    (!(c.deviceRead p (e.image p x)).2 || sha256Of (c.read (physOr x p e.lo) e.size) != e.digest) =
      !c.imageMatches p x e := (Bool.not_and ..).symm

/-- No SHARD_DATA for its image was accepted before a SHARD_COMMIT, and no other commit runs: it does not wait. -/
theorem Chip.shardCommit_free {c : Chip} {fn p : Nat} {x : Part} {k : Cmd} {rest : List Cmd} (h : c.Starts fn 0x12 (fun _ => true) p x k rest)
    (hlast : c.epochCmdAhead fn 0x12 0x11 = false) (hidle : x.build = none) :
    (c.epochCmdAhead fn 0x12 0x11 || ((c.partOf fn).bind c.part).any (fun x => x.build.isSome)) = false := by
  simp [hlast, h.owner, h.part, hidle]

theorem Chip.committed_num (c : Chip) (p : Nat) (x : Part) (e : Epoch) : (c.committed p x e).num = e.num := by
  simp only [Chip.committed]

section
variable {c : Chip} {fn p : Nat} {x : Part} {k : Cmd} {rest : List Cmd} {e : Epoch} (h : c.Starts fn 0x12 (fun _ => true) p x k rest)
  (hlast : c.epochCmdAhead fn 0x12 0x11 = false) (hidle : x.build = none) (hzero : bytesZero k.record 4 63 = true)
  (he : x.epochNo (bytesLe k.record 0 4) = some e) (hopen : e.TakesData)
include h hlast hidle hzero he hopen

/-- An image that does not match its digest, or holds a poisoned word, fails its commit. -/
theorem Chip.shardCommit_fails (hbad : (c.afterStart fn rest).imageMatches p x e = false) :
    c.shardCommit fn = ((c.afterStart fn rest).deviceRead p (e.image p x)).1.commitFails p
      (k.ticket fn (c.func fn).era) e .integrityFail := by
  simp only [Chip.shardCommit, Chip.shardCommit_free h hlast hidle, Chip.start_eq h, hzero, he, if_neg hopen.passes,
    Chip.not_imageMatches, hbad, Bool.not_true, Bool.not_false, Bool.false_eq_true, if_false, if_true]

/-- A repair whose image matches has every bank of its epoch verified. -/
theorem Chip.shardCommit_repairs (hgood : (c.afterStart fn rest).imageMatches p x e = true) (hrepair : e.repair = true) :
    c.shardCommit fn = (((c.afterStart fn rest).deviceRead p (e.image p x)).1.setPart p
      { x.setEpoch { e with committed := true } with
        build := some { epoch := e.num, ticket := k.ticket fn (c.func fn).era, todo := e.tiles } }).buildDone p := by
  simp only [Chip.shardCommit, Chip.shardCommit_free h hlast hidle, Chip.start_eq h, hzero, he, if_neg hopen.passes,
    Chip.not_imageMatches, hgood, if_pos hrepair, Bool.not_true, Bool.false_eq_true, if_false]

/-- A new image that matches and passes its checks has its own tiles programmed. -/
theorem Chip.shardCommit_builds (hgood : (c.afterStart fn rest).imageMatches p x e = true) (hnew : e.repair = false) {d : Chip}
    (hd : ((c.afterStart fn rest).deviceRead p (e.image p x)).1 = d) (hfault : d.commitFault p x e = none) :
    c.shardCommit fn = (d.setPart p { x.setEpoch (d.committed p x e) with
      build := some { epoch := e.num, ticket := k.ticket fn (c.func fn).era,
                      todo := (d.committed p x e).tiles.filter (fun y => y.run == e.num) } }).buildDone p := by
  subst hd
  simp only [Chip.shardCommit, Chip.shardCommit_free h hlast hidle, Chip.start_eq h, hzero, he, if_neg hopen.passes,
    Chip.not_imageMatches, hgood, if_neg (Bool.eq_false_iff.mp hnew), Bool.not_true, Bool.false_eq_true, if_false, hfault,
    Chip.committed_num]

end

/-! Columns to refresh (10 R367) -/

/-- The columns of a refresh join the refreshes of its bank, and no other bank changes. -/
theorem Chip.refresh_joins (c : Chip) (array bank : Nat) (cols : List Nat) :
    (∀ j ∈ cols, j ∈ ((c.refresh array bank cols).bank array bank).refreshing) ∧
    ((c.refresh array bank cols).bank array bank).cells = (c.bank array bank).cells ∧
    ∀ a k, (a, k) ≠ (array, bank) → (c.refresh array bank cols).bank a k = c.bank a k := by
  have hturn : (c.keepTurn array).banks = c.banks := by
    unfold Chip.keepTurn
    split <;> rfl
  refine ⟨fun j hj => ?_, ?_, fun a k h => ?_⟩
  · rw [Chip.refresh, Chip.bank_setBank_same]
    by_cases hold : j ∈ (c.bank array bank).refreshing
    · exact List.mem_append_left _ hold
    · exact List.mem_append_right _ (List.mem_filter.mpr ⟨List.mem_eraseDups.mpr hj, by simp [hold]⟩)
  · rw [Chip.refresh, Chip.bank_setBank_same]
  · rw [Chip.refresh, Chip.bank_setBank_other _ _ _ _ h, Chip.bank_of_banks hturn]

/-! BANK_PROGRAM_DONE (10 R359, R361-R366) -/

theorem exec_bankProgramDone_powered {s : State} (hup : s.chip.powered = true) (p array bank : Nat) (bad : List Nat) :
    exec (.bankProgramDone p array bank bad) s = .next (s.withChip (s.chip.bankProgramDone p array bank bad)) :=
  State.onChip_powered hup (·.bankProgramDone p array bank bad)

/-- The remaps of a bank that is programmed turn on the bank and on which converters have failed. -/
theorem Chip.buildRemap_of_convFailed {c d : Chip} (h : d.convFailed = c.convFailed) : d.buildRemap = c.buildRemap := by
  funext array b bad
  simp only [Chip.buildRemap, Chip.deadColumns, Chip.freeSpares, Chip.withdrawn, h]

/-- A read before the programming changes no remap. -/
theorem Chip.Checked.buildRemap {c d : Chip} (h : c.Checked d) (array bank : Nat) (bad : List Nat) :
    d.buildRemap array (d.bank array bank).merged bad = c.buildRemap array (c.bank array bank).merged bad := by
  rw [Chip.buildRemap_of_convFailed h.convFailed, h.bank]

theorem Chip.tileCodes_of_mem {c d : Chip} (h : d.mem = c.mem) : d.tileCodes = c.tileCodes := by
  funext payload f
  simp only [Chip.tileCodes, Chip.listedGroups, Chip.le, h]

/-- A build once a tile of it is done. -/
def Build.finish (b : Build) (t : Tile) : Build := { b with todo := b.todo.filter (· != t), done := b.done + 1 }

/-- A bank as the programming of a tile leaves it, on the bank with its remaps (10 R361-R363). -/
def Bank.built (b : Bank) (t : Tile) (codes : List (Nat × Nat × Int)) (commits : Nat) : Bank :=
  { b.programmed t codes with cleanAt := commits, scrubbed := [], measured := false }

/-- A build or a repair that has tiles left goes on. -/
theorem Chip.buildDone_more {c : Chip} {p : Nat} {x : Part} {b : Build} {e : Epoch} (hx : c.part p = some x) (hb : x.build = some b)
    (he : x.epochNo b.epoch = some e) (hmore : b.todo ≠ []) : c.buildDone p = c := by
  have hleft : (!b.todo.isEmpty) = true := by simpa using hmore
  simp only [Chip.buildDone, hx, hb, he, hleft, if_true]

/-- A tile is done and others are left: the build goes on. -/
theorem Chip.buildDone_next {c : Chip} {p : Nat} {x : Part} {b : Build} {e : Epoch} {t : Tile} (hx : c.part p = some x)
    (he : x.epochNo b.epoch = some e) (hmore : b.todo.filter (· != t) ≠ []) :
    (c.updPart p (fun x => { x with build := some (b.finish t) })).buildDone p = c.setPart p { x with build := some (b.finish t) } := by
  rw [Chip.updPart_eq hx]
  exact Chip.buildDone_more (Chip.part_setPart_same ..) rfl he hmore

/-! Wear reaches no register but WGT.STATUS (10 R364). -/

@[simp] theorem Chip.noteWear_mem (c : Chip) (p : Nat) (b : Bank) : (c.noteWear p b).mem = c.mem := by unfold Chip.noteWear; split <;> rfl
@[simp] theorem Chip.noteWear_parts (c : Chip) (p : Nat) (b : Bank) : (c.noteWear p b).parts = c.parts := by unfold Chip.noteWear; split <;> rfl
@[simp] theorem Chip.noteWear_funcs (c : Chip) (p : Nat) (b : Bank) : (c.noteWear p b).funcs = c.funcs := by unfold Chip.noteWear; split <;> rfl
@[simp] theorem Chip.noteWear_banks (c : Chip) (p : Nat) (b : Bank) : (c.noteWear p b).banks = c.banks := by unfold Chip.noteWear; split <;> rfl

theorem Chip.reg_noteWear_other (c : Chip) (p : Nat) (b : Bank) {r : Reg} (h : r ≠ rg .wgtStatus p) : (c.noteWear p b).reg r = c.reg r := by
  unfold Chip.noteWear
  split
  · exact Chip.reg_setBits_other _ h _
  · rfl

/-- A tile before which no tile of its unit is due is in the running round (10 R362). -/
theorem inRound_of_least {own todo : List Tile} {t : Tile} {array bank : Nat}
    (ht : todo.find? (fun t => t.array == array && t.bank == bank) = some t)
    (hround : ∀ u ∈ todo, u.array / 2048 = array / 2048 → roundOf own t ≤ roundOf own u) : inRound own todo t = true := by
  have hfound := List.find?_some ht
  simp only [Bool.and_eq_true, beq_iff_eq] at hfound
  obtain ⟨harray, -⟩ := hfound
  simp only [inRound, Bool.not_eq_true', List.any_eq_false, Bool.and_eq_true, beq_iff_eq, decide_eq_true_eq, not_and, Nat.not_lt, harray]
  exact hround

section
variable {c : Chip} {p array bank : Nat} {x : Part} {b : Build} {e : Epoch} {t : Tile} (hx : c.part p = some x) (hb : x.build = some b)
  (he : x.epochNo b.epoch = some e) (ht : b.todo.find? (fun t => t.array == array && t.bank == bank) = some t)
  (hgood : wordsIn c.ue t.bytes = [])
include hx hb he ht hgood

/-- The end of a bank's verification in a repair has the columns that differ refreshed, and the repair goes on with its next bank. -/
theorem Chip.bankProgramDone_verifies (hrepair : e.repair = true) (bad : List Nat) : ∃ d, c.Checked d ∧ d.parts = c.parts ∧
    c.bankProgramDone p array bank bad =
      ((d.refresh array bank bad).updPart p (fun x => { x with build := some (b.finish t) })).buildDone p := by
  obtain ⟨d, hchecked, hparts, hread⟩ := Chip.imageRead_clean p t.run hgood
  refine ⟨d, hchecked, hparts, ?_⟩
  simp only [Chip.bankProgramDone, hx, hb, he, ht, hread, hrepair, Bool.not_true, Bool.false_and, Bool.false_eq_true, if_false, if_true]
  rfl

variable (hnew : e.repair = false) (hround : ∀ u ∈ b.todo, u.array / 2048 = array / 2048 →
    roundOf (e.tiles.filter (fun u => u.run == e.num)) t ≤ roundOf (e.tiles.filter (fun u => u.run == e.num)) u)
include hnew hround

/-- The end of a bank's programming, with spares enough and tiles left: the bank is remapped and holds its tile, and the build goes on. -/
theorem Chip.bankProgramDone_programs {bad : List Nat} {r : BuildRemap} (hr : c.buildRemap array (c.bank array bank).merged bad = r)
    (hok : r.ok = true) (hmore : b.todo.filter (· != t) ≠ []) {nb : Bank}
    (hnb : r.bank.built t (sliceCodes t.wfmt (c.tileCodes t.payload t.wfmt)) x.commits = nb) : ∃ d, c.Checked d ∧
    c.bankProgramDone p array bank bad = (((d.count (rg .wgtEvtRemap p) r.count).setBank array bank nb).noteWear p nb).setPart p
      { x with build := some (b.finish t) } := by
  obtain ⟨d, hchecked, hparts, hread⟩ := Chip.imageRead_clean p t.run hgood
  have hremap : d.buildRemap array (d.bank array bank).merged bad = r := (hchecked.buildRemap array bank bad).trans hr
  have hcodes : (d.count (rg .wgtEvtRemap p) r.count).tileCodes = c.tileCodes := Chip.tileCodes_of_mem hchecked.mem
  refine ⟨d, hchecked, ?_⟩
  have hpart : (((d.count (rg .wgtEvtRemap p) r.count).setBank array bank nb).noteWear p nb).part p = some x :=
    (Chip.part_of_parts (Chip.noteWear_parts ..) p).trans ((Chip.part_of_parts hparts p).trans hx)
  rw [← Chip.buildDone_next hpart he hmore, ← hnb]
  simp only [Chip.bankProgramDone, hx, hb, he, ht, hread, hremap, hok, hnew, inRound_of_least ht hround, hcodes, Bool.not_true, Bool.and_false,
    Bool.false_eq_true, if_false]
  rfl

/-- The end of a bank's programming where a spare is missing fails the commit. -/
theorem Chip.bankProgramDone_noSpare {bad : List Nat} {r : BuildRemap} (hr : c.buildRemap array (c.bank array bank).merged bad = r)
    (hok : r.ok = false) : ∃ d, c.Checked d ∧ d.parts = c.parts ∧
    c.bankProgramDone p array bank bad =
      ((d.count (rg .wgtEvtRemap p) r.count).setBank array bank r.bank).commitFails p b.ticket e .noResource
        (tileWord ((e.tiles.filter (fun u => u.run == e.num)).takeWhile (· != t)).length) := by
  obtain ⟨d, hchecked, hparts, hread⟩ := Chip.imageRead_clean p t.run hgood
  have hremap : d.buildRemap array (d.bank array bank).merged bad = r := (hchecked.buildRemap array bank bad).trans hr
  refine ⟨d, hchecked, hparts, ?_⟩
  simp only [Chip.bankProgramDone, hx, hb, he, ht, hread, hremap, hok, hnew, inRound_of_least ht hround, Bool.not_true, Bool.and_false,
    Bool.not_false, Bool.false_eq_true, if_false, if_true]

end

/-! The statement -/

/-- Settles O21: the read of an image or of a tile leaves the partition, so a commit starts its build or fails on the epochs it found, and the
end of a bank's programming changes that bank and the build alone. -/
theorem commitsProgramTheirBanks : Obligations.CommitsProgramTheirBanks := by
  refine ⟨?_, ?_⟩
  · intro s fn p x k rest e hup hlast hidle hstarts hzero he hopen img d r t
    have hmatch : (s.chip.afterStart fn rest).imageMatches p x e = (r.2 && sha256Of (s.chip.read img e.size) == e.digest) := rfl
    have hpart (hread : r.2 = true) : r.1.part p = some x := (Chip.part_of_parts (Chip.deviceRead_parts hread) p).trans hstarts.part
    refine ⟨fun hstate hnew => ?_, fun hrepair => ?_⟩
    · have htakes : e.TakesData := ⟨hopen, .inl hstate⟩
      refine ⟨fun hread hdigest hfault => ?_, fun hread hdigest => ?_, fun hread => ?_⟩
      · rw [exec_shardCommit_powered hup,
          Chip.shardCommit_builds hstarts hlast hidle hzero he htakes (by simp [hmatch, hread, hdigest]) hnew rfl hfault]
      · rw [exec_shardCommit_powered hup, Chip.shardCommit_fails hstarts hlast hidle hzero he htakes (by simp [hmatch, hdigest]),
          Chip.commitFails_new (hpart hread) hidle hnew]
      · rw [exec_shardCommit_powered hup, Chip.shardCommit_fails hstarts hlast hidle hzero he htakes (by simp [hmatch, hread])]
        simp only [Chip.commitFails, hnew, Bool.false_eq_true, if_false, r, img, t, d]
    · have htakes : e.TakesData := ⟨hopen, .inr hrepair⟩
      refine ⟨fun hread hdigest => ?_, fun hread hdigest => ?_⟩
      · rw [exec_shardCommit_powered hup, Chip.shardCommit_repairs hstarts hlast hidle hzero he htakes (by simp [hmatch, hread, hdigest]) hrepair]
      · rw [exec_shardCommit_powered hup, Chip.shardCommit_fails hstarts hlast hidle hzero he htakes (by simp [hmatch, hdigest]),
          Chip.commitFails_repair (hpart hread) hrepair]
  · intro s p array bank bad x b e t hup hx hb he ht hgood next r
    refine ⟨fun hnew hround => ⟨fun hok hmore => ?_, fun hok => ?_⟩, fun hrepair hmore => ?_⟩
    · obtain ⟨d, hchecked, hprograms⟩ := Chip.bankProgramDone_programs hx hb he ht hgood hnew hround (bad := bad) rfl hok hmore rfl
      refine ⟨_, exec_bankProgramDone_powered hup p array bank bad, ?_⟩
      rw [hprograms]
      refine ⟨(Chip.noteWear_mem ..).trans hchecked.mem, ?_, fun a k hother => ?_, Chip.part_setPart_same .., ?_,
        (Chip.noteWear_funcs ..).trans hchecked.funcs⟩
      · exact (Chip.bank_of_banks (Chip.noteWear_banks ..) array bank).trans (Chip.bank_setBank_same ..)
      · exact (Chip.bank_of_banks (Chip.noteWear_banks ..) a k).trans
          ((Chip.bank_setBank_other (d.count _ _) _ _ _ hother).trans (hchecked.bank a k))
      · exact (Chip.reg_noteWear_other _ _ _ (by simp [rg])).trans (Chip.reg_count_of_reg (hchecked.regs _ (by simp [rg, checkRegs])) _)
    · obtain ⟨d, hchecked, hparts, hfails⟩ := Chip.bankProgramDone_noSpare hx hb he ht hgood hnew hround (bad := bad) rfl hok
      refine ⟨_, exec_bankProgramDone_powered hup p array bank bad, ?_⟩
      have hpart : ((d.count (rg .wgtEvtRemap p) r.count).setBank array bank r.bank).part p = some x := (Chip.part_of_parts hparts p).trans hx
      obtain ⟨y, hfailed, hybuild, hyepochs⟩ := Chip.commitFails_built hpart hb he hnew .noResource
        (tileWord ((e.tiles.filter (fun u => u.run == e.num)).takeWhile (· != t)).length)
      rw [hfails, hfailed]
      refine ⟨hchecked.mem, Chip.bank_setBank_same (d.count _ _) .., fun a k hother => ?_, ⟨y, Chip.part_setPart_same .., hybuild, hyepochs⟩,
        fun hera => ?_⟩
      · exact (Chip.bank_setBank_other (d.count _ _) _ _ _ hother).trans (hchecked.bank a k)
      · exact Chip.mem_waiting_complete (c := ((d.count _ _).setBank _ _ _).setPart _ _)
          ((congrArg Func.era (Chip.func_of_funcs hchecked.funcs _)).trans hera) _ _ _
    · obtain ⟨d, hchecked, hparts, hverifies⟩ := Chip.bankProgramDone_verifies hx hb he ht hgood hrepair bad
      obtain ⟨hjoin, hcells, hothers⟩ := d.refresh_joins array bank bad
      have hrecords := d.refresh_sameRecords array bank bad
      refine ⟨_, exec_bankProgramDone_powered hup p array bank bad, ?_⟩
      rw [hverifies, Chip.buildDone_next ((Chip.part_of_parts (hrecords.parts.trans hparts) p).trans hx) he hmore]
      exact ⟨hrecords.mem.trans hchecked.mem, Chip.part_setPart_same .., hjoin,
        hcells.trans (congrArg Bank.cells (hchecked.bank array bank)), fun a k hother => (hothers a k hother).trans (hchecked.bank a k)⟩

end Sys2Proof.Machine
end

section
/-! PROOFS. Digest checks, scrub reads and refreshes (10 R358, R360, R366-R368, 12 R426, R436, R441): what a late detection, a remap and a
step boundary's work on banks leave unchanged, and the statement settled from these. -/

namespace Sys2Proof

/-- A change of the values of a sparse table that keeps its keys changes what a key finds. -/
theorem Tbl.find?_map {κ ν : Type} [DecidableEq κ] (k : κ) (f : κ → ν → ν) (t : Tbl κ ν) :
    Tbl.find? k (t.map (fun e => (e.1, f e.1 e.2))) = (Tbl.find? k t).map (f k) := by
  induction t with
  | nil => rfl
  | cons e t ih =>
    by_cases h : e.1 = k
    · simp [Tbl.find?, h]
    · simp [Tbl.find?, h, ih]

end Sys2Proof

namespace Sys2Proof.Machine

/-! Late detections (12 R441) -/

/-- The registers that a late detection writes. -/
def lateRegs : List RegName := [.safeIntStatus, .safeEvtLate, .safeLateStepLo, .safeLateStepHi]

/-- A late detection is noted in registers and falls due for a status page. -/
theorem Chip.late_frame (c : Chip) (p since : Nat) : ∃ regs funcs, c.late p since = { c with regs := regs, funcs := funcs } := by
  unfold Chip.late
  extract_lets was d
  split
  · exact ⟨_, c.funcs, rfl⟩
  · exact ⟨_, _, rfl⟩

@[simp] theorem Chip.late_mem (c : Chip) (p since : Nat) : (c.late p since).mem = c.mem := by
  obtain ⟨_, _, h⟩ := c.late_frame p since
  rw [h]

@[simp] theorem Chip.late_banks (c : Chip) (p since : Nat) : (c.late p since).banks = c.banks := by
  obtain ⟨_, _, h⟩ := c.late_frame p since
  rw [h]

@[simp] theorem Chip.late_parts (c : Chip) (p since : Nat) : (c.late p since).parts = c.parts := by
  obtain ⟨_, _, h⟩ := c.late_frame p since
  rw [h]

theorem Chip.late_regs (c : Chip) (p since : Nat) : (c.late p since).regs = (((c.setBits (rg .safeIntStatus p) 64).count
    (rg .safeEvtLate p)).setPair (rg .safeLateStepLo p) (rg .safeLateStepHi p) since).regs := by
  unfold Chip.late
  extract_lets was d
  split <;> rfl

theorem Chip.reg_late_other (c : Chip) (p since : Nat) {r : Reg} (h : r.name ∉ lateRegs) : (c.late p since).reg r = c.reg r := by
  simp only [lateRegs, List.mem_cons, List.not_mem_nil, or_false, not_or] at h
  obtain ⟨hstatus, hcount, hlow, hhigh⟩ := h
  have hne {n : RegName} (hn : r.name ≠ n) : r ≠ rg n p := fun e => hn (e ▸ rfl)
  rw [Chip.reg_of_regs (c.late_regs p since), Chip.setPair, Chip.reg_setReg_other _ _ _ _ (hne hhigh), Chip.reg_setReg_other _ _ _ _ (hne hlow),
    Chip.reg_count_other _ (hne hcount), Chip.reg_setBits_other _ (hne hstatus)]

/-- A late detection sets INT_STATUS.LATE. -/
theorem Chip.late_sets (c : Chip) (p since : Nat) : ((c.late p since).reg (rg .safeIntStatus p)).bit 6 = true := by
  rw [Chip.reg_of_regs (c.late_regs p since), Chip.setPair, Chip.reg_setReg_other _ _ _ _ (by simp [rg]),
    Chip.reg_setReg_other _ _ _ _ (by simp [rg]), Chip.reg_count_other _ (by simp [rg])]
  exact c.setBits_bit _ (by decide)

/-! Scrub reads (10 R368) -/

theorem exec_scrubRead_powered {s : State} (hup : s.chip.powered = true) (p array bank row : Nat) (bad : List Nat) :
    exec (.scrubRead p array bank row bad) s = .next (s.withChip (s.chip.scrubRead p array bank row bad)) :=
  State.onChip_powered hup (·.scrubRead p array bank row bad)

section
variable {c : Chip} {p array bank : Nat} {x : Part} (hx : c.part p = some x) (hheld : x.bankHeld array bank = true)
  (hlive : c.power.state = .live)
include hx hheld hlive

/-- A row without a wrong column in use is noted as clean. -/
theorem Chip.scrubRead_clean {bad : List Nat} (row : Nat) (hnone : bad.filter (c.bank array bank).inUse = []) :
    c.scrubRead p array bank row bad = c.setBank array bank
      { c.bank array bank with scrubbed := Tbl.set row x.commits (c.bank array bank).scrubbed } := by
  simp only [Chip.scrubRead, hx, hheld, hlive, hnone, Bool.not_true, Bool.false_eq_true, ne_eq, not_true_eq_false, or_self, if_false,
    List.isEmpty_nil, if_true]

/-- The wrong columns in use of a row are refreshed, and the detection is late where the bank is in force. -/
theorem Chip.scrubRead_wrong {bad : List Nat} (row : Nat) (hsome : bad.filter (c.bank array bank).inUse ≠ []) :
    c.scrubRead p array bank row bad =
      let d := (c.count (rg .wgtEvtScrub p) (bad.filter (c.bank array bank).inUse).length).refresh array bank
        (bad.filter (c.bank array bank).inUse)
      if x.bankInForce array bank then d.late p (Tbl.get (c.bank array bank).cleanAt row (c.bank array bank).scrubbed) else d := by
  have hwrong : (bad.filter (c.bank array bank).inUse).isEmpty = false := List.isEmpty_eq_false_iff.mpr hsome
  simp only [Chip.scrubRead, hx, hheld, hlive, hwrong, Bool.not_true, Bool.false_eq_true, ne_eq, not_true_eq_false, or_self, if_false]

end

/-! Digest checks (10 R358, R360) -/

theorem exec_digestCheck_powered {s : State} (hup : s.chip.powered = true) (p n : Nat) :
    exec (.digestCheck p n) s = .next (s.withChip (s.chip.digestCheck p n)) :=
  State.onChip_powered hup (·.digestCheck p n)

/-- The part with the time of a digest check stored. -/
def Chip.noteDigestTime (c : Chip) (p : Nat) : Chip := c.setPair (rg .wgtDigestTimeLo p) (rg .wgtDigestTimeHi p) c.now

/-- A digest check is due: the image of an epoch that is built lies in a live run, its period has passed, and the part is in Live. -/
structure Chip.DigestDue (c : Chip) (p n : Nat) (x : Part) (e : Epoch) : Prop where
  part : c.part p = some x
  epoch : x.epochNo n = some e
  built : e.state ≠ .building
  held : x.runLive n = true
  live : c.power.state = .live
  past : e.lastCheck + 3600 * 10 ^ 9 * c.field (rg .wgtDigestCfg p) 7 0 ≤ c.liveTime

/-- The epochs of a partition with one of them changed. -/
def Part.mapEpoch (x : Part) (n : Nat) (f : Epoch → Epoch) : Part := { x with epochs := x.epochs.map (fun e => if e.num = n then f e else e) }

theorem Part.mapEpoch_mapEpoch (x : Part) (n : Nat) {f : Epoch → Epoch} (g : Epoch → Epoch) (hf : ∀ e, (f e).num = e.num) :
    (x.mapEpoch n f).mapEpoch n g = x.mapEpoch n (fun e => g (f e)) := by
  simp only [Part.mapEpoch, List.map_map]
  congr 2
  funext e
  by_cases hn : e.num = n
  · simp [hn, hf]
  · simp [hn]

/-- An epoch once the time of a digest check of its image is noted. -/
def Epoch.checkedAt (e : Epoch) (time : Nat) : Epoch := { e with lastCheck := time }

/-- What follows a digest check that met no poisoned word: the image is clean, or it is marked invalid, late where it is in force. -/
def Chip.digestVerdict (c : Chip) (p n : Nat) (x : Part) (e : Epoch) (good : Bool) : Chip :=
  if good then c.updPart p (fun x => x.mapEpoch n (fun f => { f with cleanAt := x.commits }))
  else
    let d := ((c.setBits (rg .wgtStatus p) 1).count (rg .wgtEvtDigestFail p)).updPart p (fun x => x.invalidate n)
    if (x.epochIn .inForce).any (fun f => f.num == n || f.layers.any (fun l => l.2 == n)) then d.late p e.cleanAt else d

/-- What every digest check leaves: memory and banks as they were, and the time in WGT.DIGEST_TIME. -/
structure Chip.NotesDigest (c d : Chip) (p : Nat) : Prop where
  mem : d.mem = c.mem
  banks : d.banks = c.banks
  low : d.reg (rg .wgtDigestTimeLo p) = BitVec.ofNat 32 c.now
  high : d.reg (rg .wgtDigestTimeHi p) = BitVec.ofNat 32 (c.now / 2 ^ 32)

theorem Chip.noteDigestTime_notes (c : Chip) (p : Nat) : c.NotesDigest (c.noteDigestTime p) p :=
  ⟨rfl, rfl, (Chip.reg_setReg_other _ _ _ _ (by simp [rg])).trans (Chip.reg_setReg_same ..), Chip.reg_setReg_same ..⟩

/-- What leaves memory, banks and WGT.DIGEST_TIME alone keeps what a digest check notes. -/
theorem Chip.NotesDigest.trans {c d e : Chip} {p : Nat} (h : c.NotesDigest d p) (hmem : e.mem = d.mem) (hbanks : e.banks = d.banks)
    (hregs : ∀ r, r.name = .wgtDigestTimeLo ∨ r.name = .wgtDigestTimeHi → e.reg r = d.reg r) : c.NotesDigest e p :=
  ⟨hmem.trans h.mem, hbanks.trans h.banks, (hregs _ (.inl rfl)).trans h.low, (hregs _ (.inr rfl)).trans h.high⟩

theorem Chip.NotesDigest.checked {c d e : Chip} {p : Nat} (h : c.NotesDigest d p) (k : d.Checked e) : c.NotesDigest e p :=
  h.trans k.mem k.outside.banks fun r hr => k.regs r (by obtain hr | hr := hr <;> simp [hr, checkRegs])

theorem Chip.NotesDigest.setPart {c d : Chip} {p : Nat} (h : c.NotesDigest d p) (x : Part) : c.NotesDigest (d.setPart p x) p :=
  h.trans rfl rfl fun _ _ => rfl

theorem Chip.NotesDigest.late {c d : Chip} {p : Nat} (h : c.NotesDigest d p) (since : Nat) : c.NotesDigest (d.late p since) p :=
  h.trans (Chip.late_mem ..) (Chip.late_banks ..) fun _ hr => Chip.reg_late_other _ _ _ (by obtain hr | hr := hr <;> simp [hr, lateRegs])

section
variable {c : Chip} {p n : Nat} {x : Part} {e : Epoch} (h : c.DigestDue p n x e)
include h

/-- A digest check that is due notes its time whatever it reads, and then turns on the read and the digest. -/
theorem Chip.digestCheck_due : c.digestCheck p n =
    let r := (c.noteDigestTime p).imageRead p n (e.image p x)
    let d := r.1.updPart p (fun x => x.mapEpoch n (·.checkedAt c.liveTime))
    if !r.2 then d
    else d.digestVerdict p n x e (sha256Of (d.read (physOr x p e.lo) e.size) == e.digest) := by
  have hdue : ¬ (e.state = .building ∨ (!x.runLive n) = true ∨ c.liveTime < e.lastCheck + 3600 * 10 ^ 9 * c.field (rg .wgtDigestCfg p) 7 0 ∨
      c.power.state ≠ .live) := by
    simpa [h.built, h.held, h.live] using h.past
  simp only [Chip.digestCheck, h.part, h.epoch, if_neg hdue]
  rfl

/-- A check of an image without a poisoned word notes its time, and turns on the digest. -/
theorem Chip.digestCheck_reads (hgood : wordsIn c.ue (e.image p x) = []) : ∃ d, c.NotesDigest d p ∧
    d.part p = some (x.mapEpoch n (·.checkedAt c.liveTime)) ∧ c.digestCheck p n =
      d.digestVerdict p n x e (sha256Of (c.read (physOr x p e.lo) e.size) == e.digest) := by
  obtain ⟨d, hchecked, hparts, hread⟩ := Chip.imageRead_clean (c := c.noteDigestTime p) p n hgood
  have hnotes := (c.noteDigestTime_notes p).checked hchecked
  have hpart : d.part p = some x := (Chip.part_of_parts hparts p).trans h.part
  have hupd := Chip.updPart_eq hpart (fun x => x.mapEpoch n (·.checkedAt c.liveTime))
  refine ⟨_, hnotes.setPart _, Chip.part_setPart_same .., ?_⟩
  rw [Chip.digestCheck_due h]
  simp only [hread, hupd, Chip.read_of_mem (c := c) (d := d.setPart p _) hnotes.mem, Bool.not_true, Bool.false_eq_true, if_false]

/-- A check that finds the image as it should be notes it as clean. -/
theorem Chip.digestCheck_matches (hgood : wordsIn c.ue (e.image p x) = []) (hdigest : sha256Of (c.read (physOr x p e.lo) e.size) = e.digest) :
    c.NotesDigest (c.digestCheck p n) p ∧ (c.digestCheck p n).part p =
      some (x.mapEpoch n (fun f => { f.checkedAt c.liveTime with cleanAt := x.commits })) := by
  obtain ⟨d, hnotes, hpart, hcheck⟩ := Chip.digestCheck_reads h hgood
  rw [hcheck, Chip.digestVerdict, if_pos (beq_iff_eq.mpr hdigest), Chip.updPart_eq hpart]
  exact ⟨hnotes.setPart _, (Chip.part_setPart_same ..).trans (congrArg some (Part.mapEpoch_mapEpoch _ _ _ fun _ => rfl))⟩

/-- A check that finds another digest marks the image invalid and sets STATUS.DIGEST. -/
theorem Chip.digestCheck_differs (hgood : wordsIn c.ue (e.image p x) = []) (hdigest : sha256Of (c.read (physOr x p e.lo) e.size) ≠ e.digest) :
    c.NotesDigest (c.digestCheck p n) p ∧ ((c.digestCheck p n).reg (rg .wgtStatus p)).bit 0 = true ∧ (c.digestCheck p n).part p =
      some (x.mapEpoch n (fun f => { f.checkedAt c.liveTime with invalid := true })) := by
  obtain ⟨d, hnotes, hpart, hcheck⟩ := Chip.digestCheck_reads h hgood
  let failed := (d.setBits (rg .wgtStatus p) 1).count (rg .wgtEvtDigestFail p)
  have hfailed : c.NotesDigest failed p := hnotes.trans rfl rfl fun r hr =>
    (Chip.reg_count_other _ (by rintro rfl; simp [rg] at hr) _).trans (Chip.reg_setBits_other _ (by rintro rfl; simp [rg] at hr) _)
  have hbit : (failed.reg (rg .wgtStatus p)).bit 0 = true := by
    rw [Chip.reg_count_other _ (by simp [rg])]
    exact d.setBits_bit _ (by decide)
  rw [hcheck, Chip.digestVerdict, if_neg (by simpa using hdigest), Chip.updPart_eq (c := failed) hpart,
    show (x.mapEpoch n (·.checkedAt c.liveTime)).invalidate n = _ from Part.mapEpoch_mapEpoch _ _ _ fun _ => rfl]
  split
  · exact ⟨(hfailed.setPart _).late e.cleanAt, (congrArg (Word.bit · 0) (Chip.reg_late_other _ _ _ (by simp [rg, lateRegs]))).trans hbit,
      (Chip.part_of_parts (Chip.late_parts ..) p).trans (Chip.part_setPart_same ..)⟩
  · exact ⟨hfailed.setPart _, hbit, Chip.part_setPart_same ..⟩

/-- A check that meets a poisoned word marks the image invalid, and the partition recovers. -/
theorem Chip.digestCheck_poisoned (hbad : wordsIn c.ue (e.image p x) ≠ []) :
    c.NotesDigest (c.digestCheck p n) p ∧ ((c.digestCheck p n).reg (rg .safeIntStatus p)).bit 0 = true ∧ (c.digestCheck p n).part p =
      some ({ x with recovery := true, clean := x.rounds }.mapEpoch n (fun f => { f.checkedAt c.liveTime with invalid := true })) := by
  obtain ⟨d, hchecked, hbit, hpart, hread⟩ := Chip.imageRead_poisoned (c := c.noteDigestTime p) h.part n hbad
  have hcheck : c.digestCheck p n =
      d.setPart p (({ x with recovery := true, clean := x.rounds }.invalidate n).mapEpoch n (·.checkedAt c.liveTime)) := by
    rw [Chip.digestCheck_due h]
    simp only [hread, Chip.updPart_eq hpart, Bool.not_false, if_true]
  rw [hcheck]
  exact ⟨((c.noteDigestTime_notes p).checked hchecked).setPart _, hbit,
    (Chip.part_setPart_same ..).trans (congrArg some (Part.mapEpoch_mapEpoch _ _ _ fun _ => rfl))⟩

end

/-! Banks at rest (10 R366, R367) -/

theorem Chip.noteMends_frame (c : Chip) (p : Nat) : ∃ parts, c.noteMends p = { c with parts := parts } := by
  unfold Chip.noteMends
  split
  · exact ⟨c.parts, rfl⟩
  · split
    · exact ⟨_, rfl⟩
    · exact ⟨c.parts, rfl⟩

theorem Chip.endRecovery_frame (c : Chip) (p : Nat) : ∃ parts, c.endRecovery p = { c with parts := parts } := by
  unfold Chip.endRecovery
  split
  · exact ⟨c.parts, rfl⟩
  · split
    · exact ⟨_, rfl⟩
    · exact ⟨c.parts, rfl⟩

/-- What a boundary makes of the bank of an array: it acts on the partition's own. -/
def Part.restBank (x : Part) (p : Nat) (key : Nat × Nat) (b : Bank) : Bank :=
  if 2048 * p ≤ key.1 ∧ key.1 < 2048 * (p + x.units) then b.atBoundary else b

theorem Chip.bank_banksAtBoundary (c : Chip) (p : Nat) (x : Part) (a k : Nat) :
    (c.banksAtBoundary p x).bank a k = x.restBank p (a, k) (c.bank a k) := by
  have hmap : (c.banksAtBoundary p x).banks = c.banks.map (fun e => (e.1, x.restBank p e.1 e.2)) := by
    refine List.map_congr_left fun e _ => ?_
    rw [Part.restBank]
    split <;> rfl
  have hempty : x.restBank p (a, k) {} = {} := by
    rw [Part.restBank]
    split <;> rfl
  rw [Chip.bank, Tbl.get, hmap, Tbl.find?_map]
  cases hfind : Tbl.find? (a, k) c.banks with
  | none =>
    simp only [Chip.bank, Tbl.get, hfind]
    exact hempty.symm
  | some b => simp only [Chip.bank, Tbl.get, hfind, Option.map_some, Option.getD_some]

theorem Chip.restBanks_running {c : Chip} {p : Nat} (h : ∀ x, c.part p = some x → x.run.isSome = true) : c.restBanks p = c := by
  unfold Chip.restBanks
  split
  · rfl
  · next x hx => rw [if_pos (h x hx)]

/-- Where no step runs, the banks of the partition come to what a boundary would make of them. -/
theorem Chip.bank_restBanks_idle {c : Chip} {p : Nat} {x : Part} (hx : c.part p = some x) (hidle : x.run = none) (a k : Nat) :
    (c.restBanks p).bank a k = x.restBank p (a, k) (c.bank a k) := by
  obtain ⟨_, hmends⟩ := c.noteMends_frame p
  obtain ⟨_, hends⟩ := ((c.noteMends p).banksAtBoundary p x).endRecovery_frame p
  have hrest : c.restBanks p = ((c.noteMends p).banksAtBoundary p x).endRecovery p := by simp [Chip.restBanks, hx, hidle]
  rw [hrest, hends]
  refine (Chip.bank_banksAtBoundary (c.noteMends p) p x a k).trans ?_
  rw [hmends]
  rfl

/-- Banks at rest keep memory and registers. -/
theorem Chip.restBanks_frame (c : Chip) (p : Nat) : (c.restBanks p).mem = c.mem ∧ (c.restBanks p).regs = c.regs := by
  unfold Chip.restBanks
  split
  · exact ⟨rfl, rfl⟩
  · next x _ =>
    obtain ⟨_, hmends⟩ := c.noteMends_frame p
    obtain ⟨_, hends⟩ := ((c.noteMends p).banksAtBoundary p x).endRecovery_frame p
    split
    · exact ⟨rfl, rfl⟩
    · rw [hends, hmends]
      exact ⟨rfl, rfl⟩

/-- Rest keeps the rewrites, the refreshes and the findings of every bank. -/
theorem Chip.restBanks_bank (c : Chip) (p a k : Nat) : ((c.restBanks p).bank a k).rewrites = (c.bank a k).rewrites ∧
    ((c.restBanks p).bank a k).refreshing = (c.bank a k).refreshing ∧
    ((c.restBanks p).bank a k).foundWrong = (c.bank a k).foundWrong := by
  by_cases hidle : ∃ x, c.part p = some x ∧ x.run = none
  · obtain ⟨x, hx, hrun⟩ := hidle
    rw [Chip.bank_restBanks_idle hx hrun, Part.restBank]
    split <;> exact ⟨rfl, rfl, rfl⟩
  · rw [Chip.restBanks_running fun x hx => Option.isSome_iff_ne_none.mpr fun hrun => hidle ⟨x, hx, hrun⟩]
    exact ⟨rfl, rfl, rfl⟩

/-! Remaps (10 R366) -/

/-- What the work on one bank keeps: other banks, the bank's rewrites, that no column joins its refreshes, and the bits of WGT.STATUS. -/
structure Chip.KeepsWear (c d : Chip) (p array bank : Nat) : Prop where
  others : ∀ a k, (a, k) ≠ (array, bank) → d.bank a k = c.bank a k
  rewrites : (d.bank array bank).rewrites = (c.bank array bank).rewrites
  refreshing : (d.bank array bank).refreshing ⊆ (c.bank array bank).refreshing
  status : ∀ i, (c.reg (rg .wgtStatus p)).bit i = true → (d.reg (rg .wgtStatus p)).bit i = true

section
variable {c d e : Chip} {p array bank : Nat}

theorem Chip.KeepsWear.refl : c.KeepsWear c p array bank := ⟨fun _ _ _ => rfl, rfl, fun _ h => h, fun _ h => h⟩

theorem Chip.KeepsWear.trans (h : c.KeepsWear d p array bank) (k : d.KeepsWear e p array bank) : c.KeepsWear e p array bank :=
  ⟨fun a b hother => (k.others a b hother).trans (h.others a b hother), k.rewrites.trans h.rewrites, fun _ hj => h.refreshing (k.refreshing hj),
    fun i hi => k.status i (h.status i hi)⟩

theorem Chip.KeepsWear.setBank {b : Bank} (hrewrites : b.rewrites = (c.bank array bank).rewrites)
    (hrefreshing : b.refreshing ⊆ (c.bank array bank).refreshing) : c.KeepsWear (c.setBank array bank b) p array bank :=
  ⟨fun _ _ hother => Chip.bank_setBank_other _ _ _ _ hother, by rw [Chip.bank_setBank_same, hrewrites],
    by rwa [Chip.bank_setBank_same], fun _ h => h⟩

theorem Chip.KeepsWear.of_banks (hbanks : d.banks = c.banks)
    (hstatus : ∀ i, (c.reg (rg .wgtStatus p)).bit i = true → (d.reg (rg .wgtStatus p)).bit i = true) : c.KeepsWear d p array bank :=
  ⟨fun a k _ => Chip.bank_of_banks hbanks a k, by rw [Chip.bank_of_banks hbanks], by rw [Chip.bank_of_banks hbanks]; exact fun _ h => h, hstatus⟩

theorem Chip.KeepsWear.setBits (r : Reg) (m : Nat) : c.KeepsWear (c.setBits r m) p array bank :=
  .of_banks rfl fun _ hi => Chip.bit_setBits_of_bit hi r m

theorem Chip.KeepsWear.count {r : Reg} (h : r.name ≠ .wgtStatus) (n : Nat) : c.KeepsWear (c.count r n) p array bank :=
  .of_banks rfl fun _ hi => by rwa [Chip.reg_count_other _ fun e => h (congrArg Reg.name e).symm]

theorem Chip.Checked.keepsWear (h : c.Checked d) : c.KeepsWear d p array bank :=
  .of_banks h.outside.banks fun _ hi => by rwa [h.regs _ (by simp [rg, checkRegs])]

end

/-- A remap takes columns from a bank's refreshes and adds none. -/
theorem Chip.KeepsWear.remapLogical (c : Chip) (p array bank col : Nat) : c.KeepsWear (c.remapLogical p array bank col) p array bank := by
  have hread := Chip.Checked.imageRead c p (c.bank array bank).run ((c.bank array bank).imageOf ((c.bank array bank).merged.effective col))
  have hset {b : Bank} (hrewrites : b.rewrites = (c.bank array bank).rewrites) (hrefreshing : b.refreshing ⊆ (c.bank array bank).refreshing) :=
    hread.keepsWear.trans (.setBank (p := p) (hrewrites.trans (congrArg Bank.rewrites (hread.bank array bank).symm)) (by rwa [hread.bank array bank]))
  simp only [Chip.remapLogical]
  split
  · exact .refl
  · split
    · exact .setBank (by rfl) fun _ h => h
    · split
      · exact ((Chip.KeepsWear.setBank (by rfl) (by exact fun _ h => h)).trans (.setBits _ 8)).trans
          (.count (r := rg .wgtEvtNospare p) (by simp [rg]) 1)
      · split
        · exact hset (by rfl) fun _ h => h
        · exact (hset (by rfl) List.filter_sublist.subset).trans (.count (r := rg .wgtEvtRemap p) (by simp [rg]) 1)

theorem Chip.KeepsWear.remapColumn (c : Chip) (p array bank phys : Nat) : c.KeepsWear (c.remapColumn p array bank phys) p array bank := by
  simp only [Chip.remapColumn]
  split
  · exact .refl
  · exact .remapLogical c p array bank _

/-! Refreshes (10 R367) -/

theorem exec_refreshDone_powered {s : State} (hup : s.chip.powered = true) (p array bank col : Nat) (stuck : Bool) :
    exec (.refreshDone p array bank col stuck) s = .next (s.withChip (s.chip.refreshDone p array bank col stuck)) :=
  State.onChip_powered hup (·.refreshDone p array bank col stuck)

/-- A bank once the refresh of a column has rewritten it. -/
def Bank.rewritten (b : Bank) (col : Nat) : Bank := { b with refreshing := b.refreshing.filter (· != col), rewrites := b.rewrites + 1 }

/-- A bank once a refresh of a column that held is noted: its trims are to become 0 (10 R367, 12 R436). -/
def Bank.refreshed (b : Bank) (col commits : Nat) : Bank :=
  { (b.rewritten col).noteMended col commits with zeroTrims := b.zeroTrims ++ [col] }

theorem Bank.not_mem_rewritten (b : Bank) (col : Nat) : col ∉ (b.rewritten col).refreshing := by simp [Bank.rewritten]

/-- The note of a refresh's end changes neither the rewrites of its bank nor its refreshes. -/
theorem Bank.refreshed_rewritten (b : Bank) (col commits : Nat) : (b.refreshed col commits).rewrites = (b.rewritten col).rewrites ∧
    (b.refreshed col commits).refreshing = (b.rewritten col).refreshing := by
  simp only [Bank.refreshed, Bank.noteMended]
  split <;> exact ⟨rfl, rfl⟩

/-- A column that arbitration found wrong is noted with the commits at the end of its refresh. -/
theorem Bank.refreshed_foundWrong {b : Bank} {col : Nat} (h : Tbl.find? col b.foundWrong = some none) (commits : Nat) :
    Tbl.find? col (b.refreshed col commits).foundWrong = some (some commits) := by
  have hfound : Tbl.find? col (b.rewritten col).foundWrong = some none := h
  simp only [Bank.refreshed, Bank.noteMended, if_pos hfound, Tbl.find?_set_same]

/-- At a boundary the trims that are to become 0 do (10 R367). -/
theorem Bank.atBoundary_trims {b : Bank} {col : Nat} (h : col ∈ b.zeroTrims) : b.atBoundary.zeroTrims = [] ∧
    Tbl.find? col b.atBoundary.gt = none ∧ Tbl.find? col b.atBoundary.ot = none := by
  have hgone (t : Tbl Nat Int) : Tbl.find? col (t.filter (fun e => !b.zeroTrims.contains e.1)) = none :=
    Tbl.find?_filter_none (fun k => !b.zeroTrims.contains k) col t (by simpa using h)
  exact ⟨rfl, hgone b.gt, hgone b.ot⟩

/-- A bank whose rewrites have passed the rating sets STATUS.WEAR. -/
theorem Chip.noteWear_sets {c : Chip} {b : Bank} (p : Nat) (h : 100000 < b.rewrites) :
    ((c.noteWear p b).reg (rg .wgtStatus p)).bit 2 = true := by
  rw [Chip.noteWear, if_pos h]
  exact c.setBits_bit _ (by decide)

/-- The refresh of a column of a bank runs on its array, in the partition's units and in Live. -/
structure Chip.Refreshes (c : Chip) (p array bank col : Nat) (x : Part) : Prop where
  part : c.part p = some x
  runs : c.refreshRuns array = some (bank, col)
  above : p ≤ array / 2048
  below : array / 2048 < p + x.units
  live : c.power.state = .live
  sound : wordsIn c.ue ((c.bank array bank).imageOf col) = []

/-- What the end of a refresh leaves before its partition's banks come to rest: the rewrite counts and the column is refreshed no more, no
other bank and no running step changes, and wear past the rating is told. -/
structure Chip.Rewrites (c d : Chip) (p array bank col : Nat) : Prop where
  mem : d.mem = c.mem
  runs : (d.part p).map Part.run = (c.part p).map Part.run
  rewrites : (d.bank array bank).rewrites = (c.bank array bank).rewrites + 1
  gone : col ∉ (d.bank array bank).refreshing
  others : ∀ a k, (a, k) ≠ (array, bank) → d.bank a k = c.bank a k
  worn : 100000 < (c.bank array bank).rewrites + 1 → (d.reg (rg .wgtStatus p)).bit 2 = true

/-- The rewritten bank is stored, after a read of its column's image. -/
theorem Chip.Rewrites.store {c d : Chip} {p array bank col : Nat} {b : Bank} (hchecked : c.Checked d) (hparts : d.parts = c.parts)
    (hrewrites : b.rewrites = ((c.bank array bank).rewritten col).rewrites)
    (hrefreshing : b.refreshing = ((c.bank array bank).rewritten col).refreshing) :
    c.Rewrites ((d.noteWear p ((c.bank array bank).rewritten col)).setBank array bank b) p array bank col where
  mem := (Chip.noteWear_mem ..).trans hchecked.mem
  runs := congrArg (Option.map Part.run) (Chip.part_of_parts ((Chip.noteWear_parts d p _).trans hparts) p)
  rewrites := by rw [Chip.bank_setBank_same, hrewrites, Bank.rewritten]
  gone := by
    rw [Chip.bank_setBank_same, hrefreshing]
    exact Bank.not_mem_rewritten _ col
  others := fun a k hother => (Chip.bank_setBank_other _ _ _ _ hother).trans
    ((Chip.bank_of_banks (Chip.noteWear_banks ..) a k).trans (hchecked.bank a k))
  worn := Chip.noteWear_sets (b := (c.bank array bank).rewritten col) p

/-- Later work on the bank that adds no refresh and no rewrite keeps this. -/
theorem Chip.Rewrites.trans {c d e : Chip} {p array bank col : Nat} (h : c.Rewrites d p array bank col) (k : d.KeepsWear e p array bank)
    (hmem : e.mem = d.mem) (hruns : (e.part p).map Part.run = (d.part p).map Part.run) : c.Rewrites e p array bank col where
  mem := hmem.trans h.mem
  runs := hruns.trans h.runs
  rewrites := k.rewrites.trans h.rewrites
  gone := fun hcol => h.gone (k.refreshing hcol)
  others := fun a b hother => (k.others a b hother).trans (h.others a b hother)
  worn := fun hwear => k.status 2 (h.worn hwear)

section
variable {c : Chip} {p array bank col : Nat} {x : Part} (h : c.Refreshes p array bank col x)
include h

/-- The refresh that runs on an array ends: its bank is rewritten, and its column is remapped where it is stuck. -/
theorem Chip.refreshDone_due (stuck : Bool) : ∃ d, c.Checked d ∧ d.parts = c.parts ∧
    c.refreshDone p array bank col stuck =
      (if stuck then
        ((d.noteWear p ((c.bank array bank).rewritten col)).setBank array bank ((c.bank array bank).rewritten col)).remapColumn p array bank col
       else ((d.noteWear p ((c.bank array bank).rewritten col)).setBank array bank ((c.bank array bank).refreshed col x.commits)).count
        (rg .wgtEvtRefresh p)).restBanks p := by
  obtain ⟨d, hchecked, hparts, hread⟩ := Chip.imageRead_clean p (c.bank array bank).run h.sound
  have hdue : ¬ (c.refreshRuns array ≠ some (bank, col) ∨ array / 2048 < p ∨ p + x.units ≤ array / 2048 ∨ c.power.state ≠ .live) := by
    simp [h.runs, h.live, h.above, h.below]
  refine ⟨d, hchecked, hparts, ?_⟩
  simp only [Chip.refreshDone, h.part, if_neg hdue, hread, Bool.not_true, Bool.false_eq_true, if_false]
  rfl

/-- The end of a refresh rewrites its bank, and a stuck column is remapped. -/
theorem Chip.refreshDone_rewrites (stuck : Bool) : ∃ d, c.Rewrites d p array bank col ∧
    c.refreshDone p array bank col stuck = d.restBanks p := by
  obtain ⟨d, hchecked, hparts, hdone⟩ := Chip.refreshDone_due h stuck
  refine ⟨_, ?_, hdone⟩
  cases stuck with
  | true =>
    have hmends := Chip.Mends.remapColumn
      ((d.noteWear p ((c.bank array bank).rewritten col)).setBank array bank ((c.bank array bank).rewritten col)) p array bank col
    exact (Chip.Rewrites.store hchecked hparts rfl rfl).trans (.remapColumn ..) hmends.mem (hmends.runs p)
  | false =>
    obtain ⟨hrewrites, hrefreshing⟩ := (c.bank array bank).refreshed_rewritten col x.commits
    exact (Chip.Rewrites.store hchecked hparts hrewrites hrefreshing).trans (.count (r := rg .wgtEvtRefresh p) (by simp [rg]) 1) rfl rfl

/-- The end of a refresh whose column held notes it in the bank alone. -/
theorem Chip.refreshDone_holds : ∃ d : Chip, d.parts = c.parts ∧ d.bank array bank = (c.bank array bank).refreshed col x.commits ∧
    c.refreshDone p array bank col false = d.restBanks p := by
  obtain ⟨d, -, hparts, hdone⟩ := Chip.refreshDone_due h false
  refine ⟨_, ?_, ?_, hdone⟩
  · exact (Chip.noteWear_parts d p _).trans hparts
  · exact Chip.bank_setBank_same ..

/-- While a step runs, the end of a refresh reaches its own bank alone, and the trims wait for the boundary. -/
theorem Chip.refreshDone_running (hrun : x.run.isSome = true) (stuck : Bool) :
    (∀ a k, (a, k) ≠ (array, bank) → (c.refreshDone p array bank col stuck).bank a k = c.bank a k) ∧
    (stuck = false → (c.refreshDone p array bank col stuck).parts = c.parts ∧
      (c.refreshDone p array bank col stuck).bank array bank = (c.bank array bank).refreshed col x.commits) := by
  have hwaits {d : Chip} (hruns : (d.part p).map Part.run = (c.part p).map Part.run) : d.restBanks p = d := by
    refine Chip.restBanks_running fun y hy => ?_
    have hyrun : y.run = x.run := by simpa [hy, h.part] using hruns
    rwa [hyrun]
  refine ⟨?_, ?_⟩
  · obtain ⟨d, hrewrites, hdone⟩ := Chip.refreshDone_rewrites h stuck
    rw [hdone, hwaits hrewrites.runs]
    exact hrewrites.others
  · rintro rfl
    obtain ⟨d, hparts, hbank, hdone⟩ := Chip.refreshDone_holds h
    rw [hdone, hwaits (by rw [Chip.part_of_parts hparts])]
    exact ⟨hparts, hbank⟩

/-- While no step runs, the trims of a refreshed column become 0 at once. -/
theorem Chip.refreshDone_idle (hidle : x.run = none) :
    (c.refreshDone p array bank col false).bank array bank = ((c.bank array bank).refreshed col x.commits).atBoundary := by
  obtain ⟨d, hparts, hbank, hdone⟩ := Chip.refreshDone_holds h
  have hpart : d.part p = some x := (Chip.part_of_parts hparts p).trans h.part
  have hown : 2048 * p ≤ array ∧ array < 2048 * (p + x.units) := by
    have habove := h.above
    have hbelow := h.below
    omega
  rw [hdone, Chip.bank_restBanks_idle hpart hidle, Part.restBank, if_pos hown, hbank]

end

/-! The statement -/

/-- Settles O23: a digest check turns on what its read meets and on the digest, a scrub read on the wrong columns in use, and the end of a
refresh on whether a step runs and whether the column held. -/
theorem periodicChecksMendBanks : Obligations.PeriodicChecksMendBanks := by
  refine ⟨?_, ?_, ?_⟩
  · intro s p n x e hup hpart he hbuilt hheld hlive hpast img checked read
    have hdue : s.chip.DigestDue p n x e := ⟨hpart, he, hbuilt, hheld, hlive, hpast⟩
    refine ⟨fun hgood hdigest => ⟨_, exec_digestCheck_powered hup p n, ?_⟩, fun hgood hdigest => ⟨_, exec_digestCheck_powered hup p n, ?_⟩,
      fun hbad => ⟨_, exec_digestCheck_powered hup p n, ?_⟩⟩
    · obtain ⟨hnotes, hafter⟩ := Chip.digestCheck_matches hdue hgood hdigest
      exact ⟨⟨hnotes.mem, hnotes.banks, hnotes.low, hnotes.high⟩, hafter⟩
    · obtain ⟨hnotes, hbit, hafter⟩ := Chip.digestCheck_differs hdue hgood hdigest
      exact ⟨⟨hnotes.mem, hnotes.banks, hnotes.low, hnotes.high⟩, hbit, hafter⟩
    · obtain ⟨hnotes, hbit, hafter⟩ := Chip.digestCheck_poisoned hdue hbad
      exact ⟨⟨hnotes.mem, hnotes.banks, hnotes.low, hnotes.high⟩, hbit, hafter⟩
  · intro s p array bank row bad x hup hpart hheld hlive b wrong
    refine ⟨fun hnone => ?_, fun hsome => ?_⟩
    · rw [exec_scrubRead_powered hup, Chip.scrubRead_clean hpart hheld hlive row hnone]
    · refine ⟨_, exec_scrubRead_powered hup p array bank row bad, ?_⟩
      obtain ⟨hjoin, -, hothers⟩ := (s.chip.count (rg .wgtEvtScrub p) wrong.length).refresh_joins array bank wrong
      have hrecords := (s.chip.count (rg .wgtEvtScrub p) wrong.length).refresh_sameRecords array bank wrong
      have hlate (d : Chip) (since a k : Nat) : (d.late p since).bank a k = d.bank a k := Chip.bank_of_banks (d.late_banks p since) a k
      rw [Chip.scrubRead_wrong hpart hheld hlive row hsome]
      by_cases hforce : x.bankInForce array bank = true
      · simp only [State.withChip, hforce, if_true, Chip.late_mem, Chip.late_parts, hlate]
        exact ⟨hrecords.mem, hrecords.parts, hjoin, hothers, fun _ => Chip.late_sets ..⟩
      · simp only [State.withChip, hforce, Bool.false_eq_true, if_false]
        exact ⟨hrecords.mem, hrecords.parts, hjoin, hothers, False.elim⟩
  · intro s p array bank col stuck x hup hpart hruns habove hbelow hlive hsound b
    have hrefreshes : s.chip.Refreshes p array bank col x := ⟨hpart, hruns, habove, hbelow, hlive, hsound⟩
    obtain ⟨d, hrewrites, hdone⟩ := Chip.refreshDone_rewrites hrefreshes stuck
    obtain ⟨hmem, hregs⟩ := d.restBanks_frame p
    obtain ⟨hrestRewrites, hrestRefreshing, -⟩ := d.restBanks_bank p array bank
    rw [← hdone] at hmem hregs hrestRewrites hrestRefreshing
    refine ⟨_, exec_refreshDone_powered hup p array bank col stuck, hmem.trans hrewrites.mem, hrestRewrites.trans hrewrites.rewrites, ?_,
      fun hwear => ?_, ?_, fun hrun => ?_, fun hidle => ?_⟩
    · simp only [State.withChip, hrestRefreshing]
      exact hrewrites.gone
    · simp only [State.withChip, Chip.reg_of_regs hregs]
      exact hrewrites.worn hwear
    · rintro rfl hfound
      obtain ⟨e, -, hbank, hholds⟩ := Chip.refreshDone_holds hrefreshes
      obtain ⟨-, -, hrest⟩ := e.restBanks_bank p array bank
      simp only [State.withChip, hholds, hrest, hbank]
      exact Bank.refreshed_foundWrong hfound x.commits
    · obtain ⟨hothers, hheld⟩ := Chip.refreshDone_running hrefreshes hrun stuck
      refine ⟨hothers, fun hstuck => ?_⟩
      obtain ⟨hparts, hbank⟩ := hheld hstuck
      exact ⟨hparts, congrArg Bank.zeroTrims hbank⟩
    · rintro rfl
      simp only [State.withChip, Chip.refreshDone_idle hrefreshes hidle]
      exact Bank.atBoundary_trims (List.mem_append_right _ (List.mem_singleton.mpr rfl))

end Sys2Proof.Machine
end

section
/-! PROOFS. Temperature levels, the power limit and automatic entry (11 R408, 01 R35, 16 R547): the status pages that fall due, what the
tick of a level leaves, and the statement settled from these. -/

namespace Sys2Proof.Machine

/-! Status pages that fall due (13 R478) -/

/-- A page that is due stays due, and one that an event names becomes due. -/
theorem Chip.pageDue_due {c : Chip} {g fn : Nat} (h : g = fn ∨ (c.func fn).pageDue = true) : ((c.pageDue g).func fn).pageDue = true := by
  by_cases hg : fn = g
  · subst hg
    rw [Chip.pageDue, Chip.func_updFunc_same]
  · rw [Chip.pageDue, Chip.func_updFunc_other _ _ _ _ hg]
    exact h.resolve_left (Ne.symm hg)

theorem Chip.foldl_pageDue_due {fn : Nat} (l : List Nat) {c : Chip} (h : fn ∈ l ∨ (c.func fn).pageDue = true) :
    ((l.foldl Chip.pageDue c).func fn).pageDue = true := by
  induction l generalizing c with
  | nil => simpa using h
  | cons g l ih =>
    rw [List.mem_cons] at h
    obtain (rfl | htail) | hdue := h
    · exact ih (.inr (Chip.pageDue_due (.inl rfl)))
    · exact ih (.inl htail)
    · exact ih (.inr (Chip.pageDue_due (.inr hdue)))

theorem Chip.allPagesDue_due (c : Chip) {fn : Nat} (h : fn < 17) : (c.allPagesDue.func fn).pageDue = true :=
  Chip.foldl_pageDue_due _ (.inl (List.mem_range.mpr h))

/-- Pages that fall due touch the functions alone. -/
theorem Chip.allPagesDue_frame (c : Chip) : ∃ funcs, c.allPagesDue = { c with funcs := funcs } :=
  List.foldlRecOn (motive := fun d : Chip => ∃ funcs, d = { c with funcs := funcs }) (List.range 17) Chip.pageDue ⟨c.funcs, rfl⟩
    fun _ ⟨_, hd⟩ _ _ => hd ▸ ⟨_, rfl⟩

@[simp] theorem Chip.allPagesDue_mem (c : Chip) : c.allPagesDue.mem = c.mem := by
  obtain ⟨_, h⟩ := c.allPagesDue_frame
  rw [h]

@[simp] theorem Chip.allPagesDue_parts (c : Chip) : c.allPagesDue.parts = c.parts := by
  obtain ⟨_, h⟩ := c.allPagesDue_frame
  rw [h]

@[simp] theorem Chip.allPagesDue_regs (c : Chip) : c.allPagesDue.regs = c.regs := by
  obtain ⟨_, h⟩ := c.allPagesDue_frame
  rw [h]

@[simp] theorem Chip.allPagesDue_therm (c : Chip) : c.allPagesDue.therm = c.therm := by
  obtain ⟨_, h⟩ := c.allPagesDue_frame
  rw [h]

/-! The grace and the tick of ENFORCING (11 R408) -/

theorem exec_graceExpiry_powered {s : State} (hup : s.chip.powered = true) : exec .graceExpiry s = .next (s.withChip s.chip.graceExpiry) :=
  State.onChip_powered hup (·.graceExpiry)

theorem exec_thermLevelTick_powered {s : State} (hup : s.chip.powered = true) (hruns : s.wardenHalted = false) :
    exec .thermLevelTick s = .next (s.withChip s.chip.levelTick) :=
  (State.onChip_powered hup fun c => if s.wardenHalted then c else c.levelTick).trans
    (by simp only [hruns, Bool.false_eq_true, if_false, State.withChip])

/-- The level after a tick: one up above 95 °C, one down below 88 °C. -/
def Therm.nextLevel (h : Therm) : Nat := if 1520 < h.pkg then min 7 (h.level + 1) else if h.pkg < 1408 then h.level - 1 else h.level

/-- Temperature control after a tick of ENFORCING: level 0 is NORMAL. -/
def Therm.ticked (h : Therm) : Therm :=
  { h with level := h.nextLevel, lastTick := h.lastTick + 1000000, state := if h.nextLevel = 0 then .normal else .enforcing,
           slowdown := if h.nextLevel = 0 then false else h.slowdown }

/-- A tick of ENFORCING that is due moves the level, and pages fall due where it moved. -/
theorem Chip.levelTick_due {c : Chip} (hstate : c.therm.state = .enforcing) (hlevel : 0 < c.therm.level)
    (hdue : c.therm.lastTick + 1000000 ≤ c.now) :
    c.levelTick = if c.therm.nextLevel = c.therm.level then { c with therm := c.therm.ticked }
      else ({ c with therm := c.therm.ticked } : Chip).allPagesDue := by
  have hguard : ¬ (c.therm.state ≠ .enforcing ∨ c.now < c.therm.lastTick + 1000000) := by
    simp [hstate, hdue]
  have hkeeps (h0 : c.therm.nextLevel ≠ 0) :
      c.therm.ticked = { c.therm with level := c.therm.nextLevel, lastTick := c.therm.lastTick + 1000000 } := by
    simp only [Therm.ticked, if_neg h0, hstate]
  have hends (h0 : c.therm.nextLevel = 0) : c.therm.ticked =
      { c.therm with level := c.therm.nextLevel, lastTick := c.therm.lastTick + 1000000, state := .normal, slowdown := false } := by
    simp only [Therm.ticked, if_pos h0]
  unfold Chip.levelTick
  rw [if_neg hguard]
  by_cases hsame : c.therm.nextLevel = c.therm.level
  · rw [if_pos hsame, hkeeps (by omega)]
    exact if_pos hsame
  · rw [if_neg hsame]
    refine (if_neg hsame).trans ?_
    by_cases hzero : c.therm.nextLevel = 0
    · rw [hends hzero]
      exact if_pos hzero
    · rw [hkeeps hzero]
      exact if_neg hzero

/-! The power limit (01 R35) -/

theorem exec_powerLimitTick_powered {s : State} (hup : s.chip.powered = true) (w : Nat) :
    exec (.powerLimitTick w) s = .next (s.withChip (s.chip.powerTick w)) := State.onChip_powered hup (·.powerTick w)

/-- A millisecond's average is taken once a millisecond has passed. -/
theorem Chip.powerTick_due {c : Chip} {w : Nat} (hdue : c.power.lastTick + 1000000 ≤ c.now) (hw : w < 2048) :
    c.powerTick w = { c with power := c.power.limit c.now (c.field (rg .pwrLimit) 10 0) w } := by
  rw [Chip.powerTick, if_neg (by omega), Nat.min_eq_left (by omega)]

section
variable {p : Power} {now limit w : Nat}

theorem Power.limit_above (h : limit < w) : p.limit now limit w = { p with
    watts := w, lastTick := now, lever := min 13 (p.lever + 1), unmet := decide (p.lever = 13), belowSince := none } := by
  unfold Power.limit
  exact if_pos h

theorem Power.limit_wellBelow_first (h : 100 * w ≤ 95 * limit) (hfirst : p.belowSince = none) : p.limit now limit w =
    { p with watts := w, lastTick := now, unmet := false, belowSince := some now } := by
  simp only [Power.limit, if_neg (show ¬ limit < w by omega), if_pos h, hfirst]

theorem Power.limit_wellBelow_long {since : Nat} (h : 100 * w ≤ 95 * limit) (hsince : p.belowSince = some since)
    (hlong : since + 1000000 ≤ now) : p.limit now limit w =
    { p with watts := w, lastTick := now, unmet := false, lever := p.lever - 1, belowSince := some now } := by
  simp only [Power.limit, if_neg (show ¬ limit < w by omega), if_pos h, hsince, if_pos hlong]

theorem Power.limit_below (habove : 95 * limit < 100 * w) (h : w ≤ limit) : p.limit now limit w =
    { p with watts := w, lastTick := now, unmet := false, belowSince := none } := by
  simp only [Power.limit, if_neg (show ¬ limit < w by omega), if_neg (show ¬ 100 * w ≤ 95 * limit by omega)]

end

/-! Automatic entry (16 R547) -/

theorem exec_eveIdleExpiry_powered {s : State} (hup : s.chip.powered = true) : exec .eveIdleExpiry s = .next (s.withChip s.chip.eveIdle) :=
  State.onChip_powered hup (·.eveIdle)

theorem exec_vigilIdleExpiry_powered {s : State} (hup : s.chip.powered = true) :
    exec .vigilIdleExpiry s = .next (s.withChip s.chip.vigilIdle) :=
  State.onChip_powered hup (·.vigilIdle)

/-- From Eve the time outside Live goes on. -/
theorem Chip.enterVigil_eve {c : Chip} (h : c.power.state = .eve) :
    c.enterVigil = ({ c with power := { c.power with state := .vigil } } : Chip).count (rg .pwrEvtVigil) := by
  simp only [Chip.enterVigil, h, if_true]

/-! The statement -/

/-- Settles O46: the grace enters ENFORCING, a tick moves the level by the package temperature, a millisecond's average moves a lever by
the limit, and idle time that has passed enters Eve and then Vigil. -/
theorem heatAndPowerAreHeldInBounds : Obligations.HeatAndPowerAreHeldInBounds := by
  refine ⟨?_, ?_, ?_, ?_⟩
  · intro s hup hwarned hgrace
    refine ⟨_, exec_graceExpiry_powered hup, ?_⟩
    rw [Chip.graceExpiry, if_pos ⟨hwarned, hgrace⟩, Chip.enforce]
    refine ⟨Chip.allPagesDue_mem _, Chip.allPagesDue_parts _, Chip.allPagesDue_therm _, ?_, fun fn hfn => Chip.allPagesDue_due _ hfn⟩
    exact (Chip.reg_of_regs (Chip.allPagesDue_regs _) _).trans (Chip.reg_count_of_reg rfl 1)
  · intro s hup hruns hstate hlevel hdue l l'
    refine ⟨_, exec_thermLevelTick_powered hup hruns, ?_⟩
    rw [Chip.levelTick_due hstate hlevel hdue]
    by_cases hsame : s.chip.therm.nextLevel = s.chip.therm.level
    · rw [if_pos hsame]
      exact ⟨rfl, rfl, rfl, rfl, fun hmoved => absurd hsame hmoved⟩
    · rw [if_neg hsame]
      exact ⟨Chip.allPagesDue_mem _, Chip.allPagesDue_parts _, Chip.allPagesDue_regs _, Chip.allPagesDue_therm _,
        fun _ fn hfn => Chip.allPagesDue_due _ hfn⟩
  · intro s w hup hdue hw p q limit
    rw [exec_powerLimitTick_powered hup, Chip.powerTick_due hdue hw]
    refine ⟨fun habove => ?_, fun hbelow hfirst => ?_, fun since hbelow hsince hlong => ?_, fun habove hbelow => ?_⟩
    · rw [Power.limit_above habove]
    · rw [Power.limit_wellBelow_first hbelow hfirst]
    · rw [Power.limit_wellBelow_long hbelow hsince hlong]
    · rw [Power.limit_below habove hbelow]
  · intro s hup hauto
    refine ⟨fun hlive hidle hlong => ?_, fun heve hlong => ?_⟩
    · rw [exec_eveIdleExpiry_powered hup, Chip.eveIdle, if_pos (by simp [Chip.auto, hauto, hlive, hidle, hlong]), Chip.enterEve]
    · rw [exec_vigilIdleExpiry_powered hup, Chip.vigilIdle, if_pos (by simp [Chip.auto, hauto, heve, hlong]), Chip.enterVigil_eve heve]

end Sys2Proof.Machine
end

section
/-! PROOFS. The end of all work at the entry to Solstice (11 R410, 16 R550): nothing in it begins a step or moves the state of temperature
control, and it leaves no step running. -/

namespace Sys2Proof.Machine

/-! What begins no step -/

/-- One part follows another with the same temperature control, and no partition has begun a step. -/
structure Chip.BeginsNone (c d : Chip) : Prop where
  therm : d.therm = c.therm
  idle : ∀ q, c.running q = none → d.running q = none

theorem Chip.running_eq_none_iff {c : Chip} {p : Nat} : c.running p = none ↔ ∀ x, c.part p = some x → x.run = none := by
  unfold Chip.running
  cases c.part p <;> simp

namespace Chip.BeginsNone

theorem refl (c : Chip) : c.BeginsNone c := ⟨rfl, fun _ h => h⟩

theorem trans {c d e : Chip} (h : c.BeginsNone d) (k : d.BeginsNone e) : c.BeginsNone e :=
  ⟨k.therm.trans h.therm, fun q hq => k.idle q (h.idle q hq)⟩

theorem foldl {α : Type} (l : List α) (f : Chip → α → Chip) (h : ∀ (c : Chip) a, c.BeginsNone (f c a)) (c : Chip) :
    c.BeginsNone (l.foldl f c) :=
  List.foldlRecOn (motive := c.BeginsNone) l f (.refl c) fun d hd a _ => hd.trans (h d a)

theorem of_eq {c d : Chip} (hparts : d.parts = c.parts) (htherm : d.therm = c.therm) : c.BeginsNone d :=
  ⟨htherm, fun q hq => by rwa [Chip.running_of_parts hparts]⟩

theorem of_sameButMem {c d : Chip} (h : c.SameButMem d) : c.BeginsNone d := by
  obtain ⟨_, rfl⟩ := h
  exact .of_eq rfl rfl

/-- A change to a partition that begins no step. -/
theorem setPart {c : Chip} {p : Nat} {y : Part} (h : c.running p = none → y.run = none) : c.BeginsNone (c.setPart p y) := by
  refine ⟨rfl, fun q hq => ?_⟩
  rw [Chip.running_eq_none_iff] at hq ⊢
  by_cases hqp : q = p
  · subst hqp
    simpa using h (Chip.running_eq_none_iff.mpr hq)
  · rwa [Chip.part_setPart_other _ _ _ _ hqp]

theorem setPart_of_run {c : Chip} {p : Nat} {x y : Part} (hx : c.part p = some x) (hrun : y.run = x.run) : c.BeginsNone (c.setPart p y) :=
  .setPart fun hidle => hrun.trans (Chip.running_eq_none_iff.mp hidle x hx)

theorem updPart (c : Chip) (p : Nat) (f : Part → Part) (h : ∀ x, (f x).run = x.run) : c.BeginsNone (c.updPart p f) := by
  unfold Chip.updPart
  split
  · next x hx => exact .setPart_of_run hx (h x)
  · exact .refl c

theorem complete (c : Chip) (t : Ticket) (st : Status) (r : Nat) (m : Bool) (i g : Option Nat) : c.BeginsNone (c.complete t st r m i g) :=
  .of_eq rfl rfl

/-- A completion for a command that may be none. -/
theorem completeSome (c : Chip) (t : Option Ticket) (st : Status) : c.BeginsNone (t.elim c fun t => c.complete t st) := by
  cases t with
  | none => exact .refl c
  | some t => exact .complete ..

theorem hostWrite (c : Chip) (fn a : Nat) (bs : List Byte) : c.BeginsNone (c.hostWrite fn a bs) :=
  .of_eq (Chip.hostWrite_parts ..) (Chip.hostWrite_therm ..)

/-! The boundary (08 R307 action 7) -/

theorem of_keeps {c d : Chip} (h : c.Keeps d) (htherm : d.therm = c.therm) : c.BeginsNone d := by
  refine ⟨htherm, fun q hq => ?_⟩
  rw [Chip.running_eq_none_iff] at hq ⊢
  intro y hy
  obtain ⟨x, hx, hrun⟩ : ∃ x, c.part q = some x ∧ x.run = y.run := by
    have hruns := (h.runs q).symm
    rw [hy] at hruns
    simpa using hruns
  exact hrun.symm.trans (hq x hx)

theorem noteMends (c : Chip) (p : Nat) : c.BeginsNone (c.noteMends p) := by
  refine .of_keeps (.noteMends c p) ?_
  obtain ⟨_, h⟩ := c.noteMends_frame p
  rw [h]

theorem endRecovery (c : Chip) (p : Nat) : c.BeginsNone (c.endRecovery p) := by
  refine .of_keeps (.endRecovery c p) ?_
  obtain ⟨_, h⟩ := c.endRecovery_frame p
  rw [h]

theorem accordInForce (c : Chip) (e : Nat) : c.BeginsNone (c.accordInForce e) := by
  have hbanks (g : Chip → Nat × Nat → Bank) (l : List (Nat × Nat)) (d : Chip) :
      d.BeginsNone (l.foldl (fun d k => d.setBank k.1 k.2 (g d k)) d) :=
    .foldl l (fun d k => d.setBank k.1 k.2 (g d k)) (fun _ _ => .of_eq rfl rfl) d
  have hengine (x : Engine) : c.BeginsNone (c.setEngine e x) := .of_eq rfl rfl
  simp only [Chip.accordInForce]
  split
  · exact .refl c
  · split
    · exact (((hengine _).trans (hbanks _ _ _)).trans (.of_keeps (.roundStep _ _ _) (Chip.updPart_therm ..))).trans (.endRecovery _ _)
    · exact (hengine _).trans (hbanks _ _ _)

theorem switchEpoch (c : Chip) (p : Nat) : c.BeginsNone (c.switchEpoch p) := by
  simp only [Chip.switchEpoch]
  split
  · exact .refl c
  · next x hx =>
    split
    · exact .refl c
    · exact ((setPart_of_run hx (by exact x.unbuild_run)).trans (.of_sameButMem (Chip.resetMonitors_sameButMem ..))).trans
        (.foldl _ (fun c t => c.complete t .ok) (fun _ _ => .complete ..) _)

theorem retire (c : Chip) (p : Nat) : c.BeginsNone (c.retire p) := by
  refine .of_keeps (.retire c p) ?_
  simp only [Chip.retire]
  split
  · rfl
  · split
    · rfl
    · split <;> rfl

theorem iftBoundary (c : Chip) (p : Nat) : c.BeginsNone (c.iftBoundary p) := by
  refine .of_keeps (.iftBoundary c p) ?_
  simp only [Chip.iftBoundary]
  split
  · rfl
  · split
    · rfl
    · split
      · rfl
      · split <;> rfl

theorem takeSafeCfg (c : Chip) (p : Nat) : c.BeginsNone (c.takeSafeCfg p) := .updPart c p _ fun _ => rfl

theorem boundary (c : Chip) (p : Nat) : c.BeginsNone (c.boundary p) := by
  simp only [Chip.boundary]
  split
  · exact .refl c
  · next x hx =>
    have haccords : c.BeginsNone ((((c.readyEngines p x).foldl Chip.accordInForce c).noteMends p).banksAtBoundary p x) :=
      ((BeginsNone.foldl _ Chip.accordInForce BeginsNone.accordInForce c).trans (.noteMends _ p)).trans (.of_eq rfl rfl)
    refine .trans ?_ (.updPart _ p _ fun _ => rfl)
    exact (haccords.trans ((BeginsNone.switchEpoch _ p).trans (.retire _ p))).trans
      (((BeginsNone.endRecovery _ p).trans (.takeSafeCfg _ p)).trans (.iftBoundary _ p))

/-! The end of the steps (08 R309) -/

theorem kvUndo (c : Chip) (p : Nat) (x : Part) (us : List SeqUse) : c.BeginsNone (c.kvUndo p x us) :=
  .of_sameButMem (.foldl _ _ (fun c _ => .trans (.foldl _ _ (fun _ _ => Chip.dropEntry_sameButMem ..) c) (Chip.setSeq_sameButMem ..)) c)

theorem spoil (c : Chip) (rs : List (Nat × Nat)) : c.BeginsNone (c.spoil rs) := by
  unfold Chip.spoil
  refine .foldl rs _ (fun d r => ?_) c
  exact .of_eq rfl rfl

theorem endStep (c : Chip) (p : Nat) (st : Status) (idx : Nat) : c.BeginsNone (c.endStep p st idx) := by
  unfold Chip.endStep
  split
  · exact .refl c
  · next x _ =>
    split
    · exact .refl c
    · next step _ =>
      extract_lets undone cleared failed ended told
      have hundone : c.BeginsNone undone := (BeginsNone.kvUndo c p x step.uses).trans (.spoil ..)
      have hcleared : undone.BeginsNone cleared := .of_eq rfl rfl
      have hfailed : cleared.BeginsNone failed := .of_eq rfl rfl
      have htold : ended.BeginsNone told := by
        simp only [told]
        split
        · exact .complete ..
        · exact .refl ended
      exact ((((hundone.trans hcleared).trans hfailed).trans (.setPart fun _ => rfl)).trans htold).trans (.boundary told p)

theorem endSteps (c : Chip) (p : Nat) (st : Status) : c.BeginsNone (c.endSteps p st) := by
  unfold Chip.endSteps
  extract_lets ended
  have hended : c.BeginsNone ended := by
    simp only [ended]
    split
    · exact .refl c
    · exact .endStep ..
  split
  · exact hended
  · next x hx =>
    refine (hended.trans (.setPart_of_run (y := { x with queued := [], fwResult := none }) hx rfl)).trans (.foldl _ _ (fun c q => ?_) _)
    split
    · exact .complete ..
    · exact .refl c

/-! The end of requests (09 R331, R346) -/

theorem updSrv (c : Chip) (p : Nat) (f : Serving → Serving) : c.BeginsNone (c.updSrv p f) := .updPart c p _ fun _ => rfl

theorem updReq (c : Chip) (p n : Nat) (f : Request → Request) : c.BeginsNone (c.updReq p n f) := .updSrv ..

theorem importEnd (c : Chip) (p slot : Nat) (st : Status) : c.BeginsNone (c.importEnd p slot st) := by
  have hwindow (n : Nat) (ws : List Word) : c.BeginsNone (c.putWindow p n ws) := by
    obtain ⟨_, hframe, -⟩ := c.storeWindow_frame p n ws
    rw [Chip.putWindow_eq, hframe]
    unfold Chip.setWindow
    refine .trans ?_ (.updPart _ p _ fun _ => rfl)
    exact .of_eq rfl rfl
  unfold Chip.importEnd
  split
  · exact .refl c
  · split
    · exact .refl c
    · exact ((hwindow _ _).trans (.updSrv _ p _)).trans (.complete ..)

theorem outHeader (c : Chip) (p n : Nat) : c.BeginsNone (c.outHeader p n) := by
  unfold Chip.outHeader
  split
  · exact .refl c
  · exact .hostWrite ..

theorem freeReq (c : Chip) (p n : Nat) : c.BeginsNone (c.freeReq p n) := by
  unfold Chip.freeReq
  split
  · exact .refl c
  · next x hx =>
    refine .trans (.trans ?_ (.foldl _ _ (fun c q => ?_) _)) (.updSrv _ p _)
    · exact .trans (setPart_of_run (y := { x with edits := x.edits.filter (fun e => e.seq / 2 != n) }) hx rfl)
        (.foldl _ _ (fun c (e : KvEdit) => .completeSome c e.ticket .state) _)
    split
    · exact .of_sameButMem (Chip.editApply_sameButMem (e := fwEdit q 3 0 0 0) (Nat.lt_succ_self 3) c p x)
    · exact .refl c

theorem closeReq (c : Chip) (p n : Nat) : c.BeginsNone (c.closeReq p n) := by
  simp only [Chip.closeReq]
  split
  · exact .refl c
  · split
    · exact .refl c
    · have hshut (f : Request → Request) : c.BeginsNone (((c.freeReq p n).updReq p n f).outHeader p n) :=
        ((BeginsNone.freeReq c p n).trans (.updReq _ p n f)).trans (.outHeader _ p n)
      refine .trans ?_ (.foldl _ _ (fun _ _ => .complete ..) _)
      split
      · exact (hshut _).trans (.complete ..)
      · exact hshut _

theorem endRequest (c : Chip) (p n : Nat) (st : Status) : c.BeginsNone (c.endRequest p n st) := by
  simp only [Chip.endRequest]
  split
  · exact .refl c
  · split
    · exact .refl c
    · refine .trans (.trans ?_ (.updReq ..)) (.closeReq ..)
      have htold (l : List ReqCmd) : c.BeginsNone (l.foldl (fun c w => c.complete w.ticket st) c) := .foldl l _ (fun _ _ => .complete ..) c
      split
      · exact (htold _).trans (.of_eq rfl rfl)
      · exact htold _

theorem endRequests (c : Chip) (p : Nat) (st : Status) : c.BeginsNone (c.endRequests p st) := by
  unfold Chip.endRequests
  split
  · exact .refl c
  · next x v _ =>
    extract_lets told edited unheld imported
    have htold : c.BeginsNone told := .foldl _ _ (fun c (e : KvEdit) => .completeSome c e.ticket st) c
    have hedited : told.BeginsNone edited := .updPart told p _ fun _ => rfl
    have hunheld : edited.BeginsNone unheld := .updSrv edited p _
    have himported : unheld.BeginsNone imported := .foldl _ _ (fun c (i : Nat × Import) => .importEnd c p i.1 st) unheld
    exact (((htold.trans hedited).trans hunheld).trans himported).trans (.foldl _ _ (fun c (r : Nat × Request) => .endRequest c p r.1 st) _)

/-! The end of commands and builds (13 R461, 16 R550) -/

theorem endCommands (c : Chip) (p : Nat) (st : Status) : c.BeginsNone (c.endCommands p st) := by
  unfold Chip.endCommands
  extract_lets fn
  split
  · exact .refl c
  · next x hx =>
    extract_lets opened edited switched ended mine
    have hopened : c.BeginsNone opened := by
      refine .trans ?_ (setPart_of_run (p := p) (x := x) hx rfl)
      exact .of_eq rfl rfl
    have hedited : opened.BeginsNone edited := .foldl _ _ (fun c (e : KvEdit) => .completeSome c e.ticket st) opened
    have hswitched : edited.BeginsNone switched := .foldl _ _ (fun _ _ => .complete ..) edited
    have hended : switched.BeginsNone ended := by
      refine .foldl _ _ (fun c k => ?_) switched
      unfold Chip.endCommand
      split <;> exact .complete ..
    refine .trans ?_ (.foldl _ _ (fun _ _ => .complete ..) _)
    exact (((hopened.trans hedited).trans hswitched).trans hended).trans (.of_eq rfl rfl)

theorem endBuild (c : Chip) (p : Nat) (st : Status) : c.BeginsNone (c.endBuild p st) := by
  unfold Chip.endBuild
  split
  · exact .refl c
  · next x hx =>
    have hunbuilt (es : List Epoch) : c.BeginsNone (c.setPart p { x with build := none, epochs := es }) := .setPart_of_run hx rfl
    cases x.build with
    | none => exact hunbuilt _
    | some b => exact (hunbuilt _).trans (.complete ..)

/-- All of a partition's work ends in turn: what a boundary would switch, its steps, its requests, its commands and its build. -/
theorem endWork (c : Chip) (p : Nat) (st : Status) :
    ∃ d, c.BeginsNone d ∧ (d.endSteps p st).BeginsNone (c.endWork p st) :=
  ⟨_, (BeginsNone.updPart c p (fun x => { x with switch := [] }) fun _ => rfl).trans (.foldl _ _ (fun _ _ => .complete ..) _),
    ((BeginsNone.endRequests ..).trans (.endCommands ..)).trans (.endBuild ..)⟩

theorem endPf (c : Chip) (st : Status) : c.BeginsNone (c.endPf st) := by
  unfold Chip.endPf
  extract_lets acc era ended mine
  have hended : c.BeginsNone ended := by
    refine .trans ?_ (.foldl _ _ (fun _ _ => .complete ..) _)
    exact .of_eq rfl rfl
  refine .trans ?_ (.foldl _ _ (fun _ _ => .complete ..) _)
  exact hended.trans (.of_eq rfl rfl)

/-! The end of a function's rings (16 R550) -/

theorem completionWrite (c : Chip) (fn n : Nat) : c.BeginsNone (c.completionWrite fn n) := by
  unfold Chip.completionWrite
  split
  · exact .refl c
  · split
    · exact .refl c
    · unfold Chip.putCompletion
      extract_lets tail phase next written stored
      have hstored : c.BeginsNone stored := .of_eq (Chip.hostWrite_parts ..) (Chip.hostWrite_therm ..)
      split
      · exact hstored.trans (.of_eq rfl rfl)
      · exact hstored

theorem closeFunc (c : Chip) (fn : Nat) : c.BeginsNone (c.closeFunc fn) := by
  have hflush : c.BeginsNone (c.flushCompletions fn) :=
    .foldl _ _ (fun c q => .foldl _ _ (fun c _ => .completionWrite c fn q) c) c
  unfold Chip.closeFunc
  extract_lets flushed
  refine hflush.trans (.trans (d := if flushed.statOn fn && flushed.busMaster fn then flushed.putPage fn else flushed) ?_ (.of_eq rfl rfl))
  split
  · exact .of_eq (Chip.hostWrite_parts ..) (Chip.hostWrite_therm ..)
  · exact .refl _

end Chip.BeginsNone

/-! No step is left running -/

theorem Chip.running_endSteps (c : Chip) (p : Nat) (st : Status) : (c.endSteps p st).running p = none := by
  unfold Chip.endSteps
  extract_lets ended
  have hended : ended.running p = none := by
    simp only [ended]
    split
    · assumption
    · next hrun => exact (Chip.endStep_facts hrun st _).1
  split
  · exact hended
  · next x hx =>
    refine ((Chip.BeginsNone.setPart_of_run (y := { x with queued := [], fwResult := none }) hx rfl).trans (.foldl _ _ (fun c q => ?_) _)).idle p hended
    split
    · exact .complete ..
    · exact .refl c

theorem Chip.running_endWork (c : Chip) (p : Nat) (st : Status) : (c.endWork p st).running p = none := by
  obtain ⟨d, -, hends⟩ := Chip.BeginsNone.endWork c p st
  exact hends.idle p (d.running_endSteps p st)

theorem Chip.BeginsNone.endWorks (l : List (Nat × Part)) (st : Status) (c : Chip) :
    c.BeginsNone (l.foldl (fun c e => c.endWork e.1 st) c) :=
  .foldl l _ (fun c e => by
    obtain ⟨_, hbefore, hends⟩ := Chip.BeginsNone.endWork c e.1 st
    exact (hbefore.trans (.endSteps _ _ _)).trans hends) c

/-- The work of the partitions of a list ends, so none of them is left with a step. -/
theorem Chip.running_endWorks {p : Nat} (l : List (Nat × Part)) (st : Status) {c : Chip} (h : p ∈ l.map Prod.fst ∨ c.running p = none) :
    (l.foldl (fun c e => c.endWork e.1 st) c).running p = none := by
  induction l generalizing c with
  | nil => simpa using h
  | cons e l ih =>
    rw [List.map_cons, List.mem_cons] at h
    obtain (rfl | htail) | hidle := h
    · exact ih (.inr (c.running_endWork e.1 st))
    · exact ih (.inl htail)
    · exact ih (.inr ((Chip.BeginsNone.endWorks [e] st c).idle p hidle))

theorem Tbl.find?_eq_none_of_not_mem {κ ν : Type} [DecidableEq κ] {k : κ} {t : Tbl κ ν} (h : k ∉ t.map Prod.fst) : Tbl.find? k t = none := by
  induction t with
  | nil => rfl
  | cons e t ih =>
    rw [List.map_cons, List.mem_cons, not_or] at h
    rw [Tbl.find?, if_neg (Ne.symm h.1), ih h.2]

theorem Chip.endAll_idle (c : Chip) (st : Status) (p : Nat) : (c.endAll st).running p = none := by
  refine (Chip.BeginsNone.endPf _ st).idle p (Chip.running_endWorks c.parts st ?_)
  by_cases hkey : p ∈ c.parts.map Prod.fst
  · exact .inl hkey
  · refine .inr (Chip.running_eq_none_iff.mpr fun x hx => ?_)
    rw [Chip.part, Tbl.find?_eq_none_of_not_mem hkey] at hx
    cases hx

/-! The entry to Solstice (16 R550) -/

/-- The package enters Solstice: no step is left running, and a trip under way stays one. -/
theorem Chip.toSolstice_enters {c : Chip} (h : ¬ (c.power.inReset = true ∨ c.power.state = .solstice)) (st : Status) :
    (c.toSolstice st).power.state = .solstice ∧ (c.toSolstice st).therm.tripping = c.therm.tripping ∧
      ∀ p, (c.toSolstice st).running p = none := by
  have hclosed : (c.endAll st).BeginsNone (foldN 17 Chip.closeFunc (c.endAll st)) := .foldl _ _ Chip.BeginsNone.closeFunc _
  have hall := ((Chip.BeginsNone.endWorks c.parts st c).trans (.endPf _ st)).trans hclosed
  rw [Chip.toSolstice, if_neg h]
  have htripping : (foldN 17 Chip.closeFunc (c.endAll st)).therm.tripping = c.therm.tripping := by rw [hall.therm]
  exact ⟨rfl, htripping, fun p => hclosed.idle p (c.endAll_idle st p)⟩

/-- What the entry does to the whole part beside its data path: settings that were due are saved and debug is locked. -/
theorem State.toSolstice_enters {s : State} (h : ¬ (s.chip.power.inReset = true ∨ s.chip.power.state = .solstice)) (st : Status) :
    ∃ due fw, s.toSolstice st = { s with
      chip := { s.chip.toSolstice st with settingsDue := due }, sys := { s.sys with fw := fw, dbg := s.sys.dbg.lock } } := by
  simp only [State.toSolstice, if_neg h, State.flushSettings]
  split <;> exact ⟨_, _, rfl⟩

/-- The state in which a critical trip is told and the entry to Solstice begins. -/
def State.tripped (s : State) : State :=
  { s with
    sys := { s.sys with pins := { s.sys.pins with thermtripN := false } }
    chip := { s.chip.allPagesDue with therm := { s.chip.therm with tripping := true } } }

theorem State.criticalTrip_eq (s : State) : s.criticalTrip = s.tripped.toSolstice .internal := rfl

/-- The critical trip (11 R410): THERMTRIP_N goes low and the package enters Solstice with no step running. -/
theorem State.criticalTrip_trips {s : State} (h : ¬ (s.chip.power.inReset = true ∨ s.chip.power.state = .solstice)) :
    s.criticalTrip.sys.pins.thermtripN = false ∧ s.criticalTrip.chip.power.state = .solstice ∧
      s.criticalTrip.chip.therm.tripping = true ∧ ∀ p, s.criticalTrip.chip.running p = none := by
  have hpower : s.tripped.chip.power = s.chip.power := by
    obtain ⟨_, hpages⟩ := s.chip.allPagesDue_frame
    simp only [State.tripped, hpages]
  rw [← hpower] at h
  obtain ⟨hstate, htripping, hidle⟩ := Chip.toSolstice_enters h .internal
  obtain ⟨_, _, hentry⟩ := State.toSolstice_enters h .internal
  rw [State.criticalTrip_eq, hentry]
  exact ⟨rfl, hstate, htripping, hidle⟩

end Sys2Proof.Machine
end

section
/-! PROOFS. Telemetry conversions and urgent readings (11 R399-R403, R406, R410): what a conversion leaves alone, what each channel's reading
gives, and how urgent requests wait. -/

namespace Sys2Proof.Machine

/-! Telemetry converters -/

@[simp] theorem Chip.telemOf_setTelem_same (c : Chip) (d k : Nat) (t : Telem) : (c.setTelem d k t).telemOf d k = t := Tbl.get_set_same ..

theorem Chip.telemOf_setTelem_other (c : Chip) (d : Nat) {j k : Nat} (t : Telem) (h : j ≠ k) : (c.setTelem d k t).telemOf d j = c.telemOf d j :=
  Tbl.get_set_other _ _ _ _ _ (by simpa using h)

theorem Chip.telemOf_of_telem {c d : Chip} (h : d.telem = c.telem) (die k : Nat) : d.telemOf die k = c.telemOf die k := by
  simp only [Chip.telemOf, h]

theorem Chip.sensor_of_sensors {c d : Chip} (h : d.sensors = c.sensors) (die n : Nat) : d.sensor die n = c.sensor die n := by
  simp only [Chip.sensor, h]

/-- The other converter of a die is another one. -/
theorem otherConverter_ne (k : Nat) : 1 - k ≠ k := by omega

/-- Telemetry runs on every die of a powered part. -/
theorem exec_telemConversion_powered {s : State} (hup : s.chip.powered = true) (d k : Nat) (code : Int) :
    exec (.telemConversion d k code) s = .next (s.telemConversion d k code) := by
  obtain ⟨hreset, hstate, -, hclock, -⟩ := s.chip.powered_iff.mp hup
  exact State.onDie_on hreset hclock (.inl hstate) (·.telemConversion d k code)

theorem exec_telemUrgent_powered {s : State} (hup : s.chip.powered = true) (d k u : Nat) (who : Agent) :
    exec (.telemUrgent d k u who) s = .next (s.withChip (s.chip.telemUrgent d k u who)) := by
  obtain ⟨hreset, hstate, -, hclock, -⟩ := s.chip.powered_iff.mp hup
  exact State.onDie_on hreset hclock (.inl hstate) fun s => { s with chip := s.chip.telemUrgent d k u who }

/-! Temperature control after a reading (11 R408) -/

/-- The counters of temperature control. -/
def controlRegs : List RegName := [.thermEvtWarn, .thermEvtEnforce]

/-- One part follows another by what temperature control does after a reading: its own state, its counters and pages that fall due. -/
structure Chip.Controls (c d : Chip) : Prop where
  outside : ∃ therm regs funcs, d = { c with therm := therm, regs := regs, funcs := funcs }
  regs : ∀ r, r.name ∉ controlRegs → d.reg r = c.reg r

theorem Chip.Controls.paged {c d : Chip} (h : c.Controls d) : c.Controls d.allPagesDue := by
  obtain ⟨_, hpages⟩ := d.allPagesDue_frame
  obtain ⟨_, _, _, rfl⟩ := h.outside
  rw [hpages]
  exact ⟨⟨_, _, _, rfl⟩, h.regs⟩

theorem Chip.Controls.counted (c : Chip) (t : Therm) {r : Reg} (h : r.name ∈ controlRegs) : c.Controls (({ c with therm := t } : Chip).count r) :=
  ⟨⟨_, _, _, rfl⟩, fun q hq => Chip.reg_count_other { c with therm := t } (fun e : q = r => hq (e ▸ h)) 1⟩

theorem Chip.Controls.enforce (c : Chip) : c.Controls c.enforce := (Chip.Controls.counted c _ (by simp [rg, controlRegs])).paged

theorem Chip.Controls.control (c : Chip) : c.Controls c.control := by
  have hstays : c.Controls c := ⟨⟨_, _, _, rfl⟩, fun _ _ => rfl⟩
  unfold Chip.control
  extract_lets t
  split
  · split
    · exact .enforce c
    · split
      · exact (Chip.Controls.counted c _ (by simp [rg, controlRegs])).paged
      · exact hstays
  · split
    · exact .enforce c
    · split
      · exact Chip.Controls.paged ⟨⟨_, _, _, rfl⟩, fun _ _ => rfl⟩
      · exact hstays
  · exact hstays

theorem Chip.Controls.newTemps (c : Chip) : c.Controls c.newTemps := by
  unfold Chip.newTemps
  extract_lets h
  have hcontrol := Chip.Controls.control { c with therm := { c.therm with pkg := h.1, hotDie := h.2.1, hotSensor := h.2.2 } }
  obtain ⟨_, _, _, heq⟩ := hcontrol.outside
  exact ⟨⟨_, _, _, heq⟩, hcontrol.regs⟩

/-! The scan goes on (11 R399, R401) -/

/-- What follows a conversion that was not an urgent one: the scan goes on from a channel, and temperature control follows. -/
def Chip.scanOn (c : Chip) (d k ch : Nat) : Chip :=
  let alone := (c.telemOf d (1 - k)).excluded
  let next := nextChan k alone ch
  let c := c.setTelem d k ((c.telemOf d k).advance next)
  (if next = 0 then c.endScan d k alone else c).newTemps

/-- One part follows another by the going on of a converter's scan: nothing but telemetry, temperature control and its counters changes. -/
structure Chip.ScansOn (c d : Chip) (die conv next : Nat) : Prop where
  outside : ∃ telem scanChans scanTemps therm regs funcs, d = { c with
    telem := telem, scanChans := scanChans, scanTemps := scanTemps, therm := therm, regs := regs, funcs := funcs }
  regs : ∀ r, r.name ∉ controlRegs → d.reg r = c.reg r
  chan : (d.telemOf die conv).chan = next
  excluded : (d.telemOf die conv).excluded = (c.telemOf die conv).excluded

theorem Chip.ScansOn.sensors {c d : Chip} {die conv next : Nat} (h : c.ScansOn d die conv next) : d.sensors = c.sensors := by
  obtain ⟨_, _, _, _, _, _, rfl⟩ := h.outside
  rfl

theorem Chip.ScansOn.mem {c d : Chip} {die conv next : Nat} (h : c.ScansOn d die conv next) : d.mem = c.mem := by
  obtain ⟨_, _, _, _, _, _, rfl⟩ := h.outside
  rfl

theorem Chip.ScansOn.parts {c d : Chip} {die conv next : Nat} (h : c.ScansOn d die conv next) : d.parts = c.parts := by
  obtain ⟨_, _, _, _, _, _, rfl⟩ := h.outside
  rfl

theorem Chip.ScansOn.chans {c d : Chip} {die conv next : Nat} (h : c.ScansOn d die conv next) : d.chans = c.chans := by
  obtain ⟨_, _, _, _, _, _, rfl⟩ := h.outside
  rfl

theorem Chip.ScansOn.power {c d : Chip} {die conv next : Nat} (h : c.ScansOn d die conv next) : d.power = c.power := by
  obtain ⟨_, _, _, _, _, _, rfl⟩ := h.outside
  rfl

/-- Temperature control that follows leaves telemetry alone. -/
theorem Chip.ScansOn.controls {c d e : Chip} {die conv next : Nat} (h : c.ScansOn d die conv next) (k : d.Controls e) :
    c.ScansOn e die conv next := by
  obtain ⟨hout, hregs, hchan, hexcluded⟩ := h
  obtain ⟨hcontrol, hcontrolRegs⟩ := k
  obtain ⟨_, _, _, _, _, _, rfl⟩ := hout
  obtain ⟨_, _, _, rfl⟩ := hcontrol
  exact ⟨⟨_, _, _, _, _, _, rfl⟩, fun r hr => (hcontrolRegs r hr).trans (hregs r hr), hchan, hexcluded⟩

/-- The next channel is set, and exclusion is not. -/
theorem Telem.advance_chan (t : Telem) (next : Nat) : (t.advance next).chan = next ∧ (t.advance next).excluded = t.excluded := by
  unfold Telem.advance
  extract_lets formed moved
  have hformed : formed.excluded = t.excluded := by
    simp only [formed]
    split <;> rfl
  split
  · exact ⟨rfl, hformed⟩
  · split <;> exact ⟨rfl, hformed⟩

theorem Chip.ScansOn.scanOn (c : Chip) (d k ch : Nat) :
    c.ScansOn (c.scanOn d k ch) d k (nextChan k (c.telemOf d (1 - k)).excluded ch) := by
  obtain ⟨hchan, hexcluded⟩ := (c.telemOf d k).advance_chan (nextChan k (c.telemOf d (1 - k)).excluded ch)
  unfold Chip.scanOn
  extract_lets alone next moved
  have hends : c.ScansOn (if next = 0 then moved.endScan d k alone else moved) d k next := by
    split
    · refine ⟨⟨_, _, _, _, _, _, rfl⟩, fun _ _ => rfl, ?_, ?_⟩
      · exact (congrArg Telem.chan (Chip.telemOf_setTelem_same moved d k _)).trans
          ((congrArg Telem.chan (Chip.telemOf_setTelem_same c d k _)).trans hchan)
      · exact (congrArg Telem.excluded (Chip.telemOf_setTelem_same moved d k _)).trans
          ((congrArg Telem.excluded (Chip.telemOf_setTelem_same c d k _)).trans hexcluded)
    · exact ⟨⟨_, _, _, _, _, _, rfl⟩, fun _ _ => rfl, (congrArg Telem.chan (Chip.telemOf_setTelem_same c d k _)).trans hchan,
        (congrArg Telem.excluded (Chip.telemOf_setTelem_same c d k _)).trans hexcluded⟩
  exact hends.controls (.newTemps _)

/-- A conversion of the scan: the channel's reading, then the scan goes on, and a critical trip follows where the reading makes one. -/
theorem State.telemConversion_scans {s : State} {d k : Nat} (hin : (s.chip.telemOf d k).excluded = false)
    (hnone : (s.chip.telemOf d k).urgentWait = []) (code : Int) {c : Chip} {trips : Bool}
    (h : s.chip.reading d k (s.chip.telemOf d k).chan code = (c, trips)) :
    s.telemConversion d k code = if trips then (s.withChip (c.scanOn d k (s.chip.telemOf d k).chan)).criticalTrip
      else s.withChip (c.scanOn d k (s.chip.telemOf d k).chan) := by
  simp only [State.telemConversion, hin, hnone, h, Bool.false_eq_true, if_false]
  rfl

/-- An urgent request that waits takes the conversion, and its value goes to the Warden alone (11 R403). -/
theorem State.telemConversion_urgent {s : State} {d k u : Nat} {rest : List Nat} (hin : (s.chip.telemOf d k).excluded = false)
    (hwait : (s.chip.telemOf d k).urgentWait = u :: rest) (code : Int) :
    s.telemConversion d k code = s.withChip (s.chip.setTelem d k { s.chip.telemOf d k with
      urgentWait := rest, urgent := some (u, s.chip.volts d u (s.chip.telemOf d k) code) }) := by
  simp only [State.telemConversion, hin, hwait, Bool.false_eq_true, if_false, State.withChip]

/-! Readings (11 R399-R402, R405-R407) -/

/-- The part with a channel's value reported, before its sensor or its cross-check. -/
def Chip.noteReading (c : Chip) (d k ch : Nat) (code : Int) : Chip :=
  let t := c.telemOf d k
  { c.setTelem d k { t with scan := Tbl.set ch (c.volts d ch t code) t.scan } with chans := Tbl.set (d, ch) (c.volts d ch t code) c.chans }

theorem Chip.noteReading_telemOf (c : Chip) (d k ch : Nat) (code : Int) : ((c.noteReading d k ch code).telemOf d k) =
    { c.telemOf d k with scan := Tbl.set ch (c.volts d ch (c.telemOf d k) code) (c.telemOf d k).scan } :=
  Chip.telemOf_setTelem_same ..

theorem Chip.noteReading_telemOf_other (c : Chip) (d k ch : Nat) (code : Int) :
    (c.noteReading d k ch code).telemOf d (1 - k) = c.telemOf d (1 - k) := Chip.telemOf_setTelem_other _ _ _ (otherConverter_ne k)

theorem Chip.noteReading_value (c : Chip) (d k ch : Nat) (code : Int) :
    Tbl.get 0 (d, ch) (c.noteReading d k ch code).chans = c.volts d ch (c.telemOf d k) code := Tbl.get_set_same ..

/-- A voltage channel is reported and nothing more. -/
theorem Chip.reading_voltage (c : Chip) (d k : Nat) {ch : Nat} (h : 26 ≤ ch) (code : Int) :
    c.reading d k ch code = (c.noteReading d k ch code, false) := by
  simp only [Chip.reading, if_neg (show ¬ ch = 0 by omega), if_neg (show ¬ ch = 25 by omega), if_neg (show ¬ ch ≤ 24 by omega)]
  rfl

theorem Chip.reading_sensor (c : Chip) (d k : Nat) {n : Nat} (h : n < 24) (code : Int) : c.reading d k (n + 1) code =
    (c.noteReading d k (n + 1) code).sensorReading d n code (c.tempOf d (c.telemOf d k) code) := by
  simp only [Chip.reading, if_neg (show ¬ n + 1 = 0 by omega), if_neg (show ¬ n + 1 = 25 by omega), if_pos (show n + 1 ≤ 24 by omega)]
  rfl

theorem Chip.reading_bandGap (c : Chip) (d k : Nat) (code : Int) :
    c.reading d k 0 code = ((c.noteReading d k 0 code).crossCheck d k code, false) := rfl

/-- A reading widens what its neighbours have seen, in the sensors alone. -/
theorem Chip.seenBy_frame (c : Chip) (d n : Nat) (temp : Int) : ∃ sensors, c.seenBy d n temp = { c with sensors := sensors } :=
  List.foldlRecOn (motive := fun e : Chip => ∃ sensors, e = { c with sensors := sensors }) (neighbours n) _ ⟨c.sensors, rfl⟩
    fun _ ⟨_, he⟩ _ _ => he ▸ ⟨_, rfl⟩

/-- A reading within range, of a sensor whose code moves and that does not disagree for long: it gives the sensor's temperature, and trips
where the one before and this one are both at or above 105 °C (11 R406, R410). -/
theorem Chip.sensorReading_sound {c : Chip} {d n : Nat} {code temp : Int} (hsound : (c.sensor d n).broken = false)
    (hmoves : (c.sensor d n).code ≠ code) (happart : (c.sensor d n).apart < 15) (hhigh : temp ≤ 2400) (hlow : -640 ≤ temp) :
    ∃ sensors, c.sensorReading d n code temp = ({ c with sensors := sensors },
        (c.sensor d n).valid && decide (1680 ≤ (c.sensor d n).temp ∧ 1680 ≤ temp)) ∧
      let s := Tbl.get ({} : Sensor) (d, n) sensors
      s.temp = temp ∧ s.valid = true ∧ s.broken = false := by
  obtain ⟨_, hseen⟩ := c.seenBy_frame d n temp
  unfold Chip.sensorReading
  extract_lets s seen same span apart far breaks s' stored told
  have hsame : same = 1 := if_neg fun h => hmoves h.2
  have hapart : apart < 16 := by
    simp only [apart]
    split
    · exact Nat.succ_lt_succ happart
    · omega
  have hnear : far temp = false := decide_eq_false (by omega)
  have hholds : breaks = false := by
    simp only [breaks, hsame, hnear]
    simp [hapart]
  have htold : told = stored := by simp only [told, hholds, Bool.false_eq_true, if_false]
  rw [if_neg (by simp [s, hsound])]
  refine ⟨Tbl.set (d, n) s' seen.sensors, ?_, ?_⟩
  · rw [htold, hholds]
    simp only [stored, seen, hseen, Bool.false_and, Bool.false_or, Bool.not_false, Bool.true_and, s]
  · rw [Tbl.get_set_same]
    simp only [s', hholds, Bool.false_eq_true, if_false, and_self]

/-! Exclusion (11 R402) -/

/-- A telemetry fault sets STATUS.FAULT of its die and counts. -/
theorem Chip.telemFault_tells (c : Chip) (d : Nat) : ((c.telemFault d).reg (rg .telemStatus d)).bit 0 = true ∧
    (c.telemFault d).reg (rg .telemEvtFault d) = (c.count (rg .telemEvtFault d)).reg (rg .telemEvtFault d) := by
  refine ⟨?_, Chip.reg_count_of_reg (Chip.reg_setBits_other c (by simp [rg]) 1) 1⟩
  rw [Chip.telemFault, Chip.reg_count_other _ (by simp [rg])]
  exact c.setBits_bit _ (by decide)

/-- The part with a converter out and its urgent requests passed to the other of its die, which takes them where it is not out. -/
def Chip.passUrgent (c : Chip) (d k : Nat) : Chip :=
  (c.setTelem d (1 - k) (if (c.telemOf d (1 - k)).excluded then c.telemOf d (1 - k)
      else (c.telemOf d (1 - k)).takeUrgent (c.telemOf d k).urgentWait)).setTelem d k
    { c.telemOf d k with excluded := true, urgentWait := [] }

/-- Exclusion passes the urgent requests on and tells the fault, and may fix the die's temperatures. -/
theorem Chip.exclude_frame (c : Chip) (d k : Nat) : ∃ sensors, c.exclude d k = { (c.passUrgent d k).telemFault d with sensors := sensors } := by
  by_cases hlost : ((c.passUrgent d k).telemFault d).telemLost d = true
  · exact ⟨_, if_pos hlost⟩
  · exact ⟨((c.passUrgent d k).telemFault d).sensors, if_neg hlost⟩

/-- A converter that is excluded is out, which its die tells. -/
theorem Chip.exclude_excludes (c : Chip) (d k : Nat) : ((c.exclude d k).telemOf d k).excluded = true ∧
    ((c.exclude d k).reg (rg .telemStatus d)).bit 0 = true ∧
    (c.exclude d k).reg (rg .telemEvtFault d) = (c.count (rg .telemEvtFault d)).reg (rg .telemEvtFault d) ∧
    (c.exclude d k).mem = c.mem ∧ (c.exclude d k).parts = c.parts := by
  obtain ⟨_, hframe⟩ := c.exclude_frame d k
  obtain ⟨hbit, hcount⟩ := (c.passUrgent d k).telemFault_tells d
  rw [hframe]
  exact ⟨congrArg Telem.excluded (Chip.telemOf_setTelem_same _ d k _), hbit, hcount.trans (Chip.reg_count_of_reg rfl 1), rfl, rfl⟩

/-- A band-gap code out of range excludes its converter. -/
theorem Chip.crossCheck_out {c : Chip} {d k : Nat} {code : Int} (h : code < 1984 ∨ 2112 < code) : c.crossCheck d k code = c.exclude d k :=
  if_pos h

/-! Urgent requests (11 R403) -/

theorem Chip.telemUrgent_joins {c : Chip} {d k u : Nat} (hin : (c.telemOf d k).excluded = false)
    (hscans : scans k (c.telemOf d (1 - k)).excluded u = true) (hroom : (c.telemOf d k).urgentWait.length < 4) :
    c.telemUrgent d k u c.warden = (c.setTelem d k { c.telemOf d k with urgentWait := (c.telemOf d k).urgentWait ++ [u] }).count
      (rg .telemEvtUrgent d) :=
  if_neg (by simp [hin, hscans, hroom])

theorem Chip.telemUrgent_refused {c : Chip} {d k : Nat} (u : Nat) {who : Agent}
    (h : who ≠ c.warden ∨ 4 ≤ (c.telemOf d k).urgentWait.length) : c.telemUrgent d k u who = c :=
  if_pos (h.imp_right fun hfull => .inr (.inl hfull))

end Sys2Proof.Machine
end

section
/-! PROOFS. The sense inputs (11 R404): fields of a register that hold what was stored in them, the captures, and the statement settled from
these and from the readings of the converters. -/

namespace Sys2Proof

/-- A field holds what was put in it. -/
theorem Machine.field_putField (w : Word) {hi lo v : Nat} (hhi : hi < 32) (hv : v < 2 ^ (hi + 1 - lo)) :
    (Machine.putField w hi lo v).field hi lo = v := by
  refine Nat.eq_of_testBit_eq fun i => ?_
  rw [Word.field, Machine.putField, BitVec.toNat_ofNat, show (0xFFFFFFFF : Nat) = 2 ^ 32 - 1 from rfl]
  simp only [Nat.testBit_mod_two_pow, Nat.testBit_shiftRight, Nat.testBit_or, Nat.testBit_and, Nat.testBit_xor, Nat.testBit_shiftLeft,
    Nat.testBit_two_pow_sub_one, Nat.add_sub_cancel_left]
  by_cases hin : i < hi + 1 - lo
  · have hword : lo + i < 32 := by omega
    simp [hin, hword]
  · have hzero : v.testBit i = false := Nat.testBit_lt_two_pow (hv.trans_le (Nat.pow_le_pow_right (by omega) (by omega)))
    simp [hin, hzero]

theorem Tbl.find?_del {κ ν : Type} [DecidableEq κ] (k j : κ) (t : Tbl κ ν) :
    Tbl.find? j (Tbl.del k t) = if j = k then none else Tbl.find? j t := by
  induction t with
  | nil => simp [Tbl.del, Tbl.find?]
  | cons e t ih =>
    rw [Tbl.del] at ih
    by_cases hk : e.1 = k
    · rw [Tbl.del, List.filter_cons_of_neg (by simpa using hk), ih]
      split
      · rfl
      · next hj => rw [Tbl.find?, if_neg (by rw [hk]; exact Ne.symm hj)]
    · rw [Tbl.del, List.filter_cons_of_pos (by simpa using hk), Tbl.find?, ih]
      by_cases hj : e.1 = j
      · rw [if_pos hj, if_neg (by rwa [← hj]), Tbl.find?, if_pos hj]
      · rw [if_neg hj, Tbl.find?, if_neg hj]

end Sys2Proof

namespace Sys2Proof.Machine

theorem Chip.field_setField (c : Chip) (r : Reg) {hi lo v : Nat} (hhi : hi < 32) (hv : v < 2 ^ (hi + 1 - lo)) :
    (c.setField r hi lo v).field r hi lo = v := by
  rw [Chip.field, Chip.setField, Chip.reg_setReg_same]
  exact field_putField _ hhi hv

/-! Captures (11 R404) -/

section
variable {s : State} (hup : s.chip.power.inReset = false)
include hup

theorem exec_snsCaptureZero_up (i : Nat) : exec (.snsCaptureZero i) s = .next (s.withChip (s.chip.snsZero i)) := State.onPort_up hup (·.snsZero i)

theorem exec_snsCaptureFull_up (i full : Nat) : exec (.snsCaptureFull i full) s = .next (s.withChip (s.chip.snsFull i full)) :=
  State.onPort_up hup (·.snsFull i full)

theorem exec_snsClear_up (i : Nat) : exec (.snsClear i) s = .next (s.withChip (s.chip.snsClear i)) := State.onPort_up hup (·.snsClear i)

theorem exec_snsCaptureDone_up (l : List Int) : exec (.snsCaptureDone l) s = .next (s.withChip (s.chip.snsDone l)) :=
  State.onPort_up hup (·.snsDone l)

end

/-- The part with the operands of a full capture stored. -/
def Chip.noteCapture (c : Chip) (i full : Nat) : Chip := (c.setField (rg .telemSnsCtrl) 17 16 i).setField (rg .telemSnsCtrl) 15 0 full

theorem Chip.snsFull_begins {c : Chip} {i : Nat} (full : Nat) (h : (Tbl.find? i c.senseZero).isSome = true) :
    c.snsFull i full = { c.noteCapture i full with capture := some ⟨i, some full⟩ } := by
  have hzero : ¬ (Tbl.find? i (c.noteCapture i full).senseZero).isNone = true := by
    simpa [Chip.noteCapture, Option.isNone_iff_eq_none, Option.isSome_iff_ne_none] using h
  exact if_neg hzero

/-- A full capture without a zero capture before it is refused. -/
theorem Chip.snsFull_refused {c : Chip} {i : Nat} (full : Nat) (h : Tbl.find? i c.senseZero = none) :
    c.snsFull i full = (c.noteCapture i full).snsRefuse :=
  if_pos (by simpa [Chip.noteCapture, Option.isNone_iff_eq_none] using h)

theorem Chip.snsRefuse_tells (c : Chip) : (c.snsRefuse.reg (rg .telemSnsStat)).bit 5 = true := c.setBits_bit _ (by decide)

/-- The average of the 256 readings of a capture. -/
theorem quotient_length {l : List Int} (h : l.length = 256) : quotient l.sum l.length = rheInt l.sum 256 := by
  rw [h]
  rfl

section
variable {c : Chip} {i : Nat} {l : List Int} (hl : l.length = 256)
include hl

theorem Chip.snsDone_zero (hcapture : c.capture = some ⟨i, none⟩) :
    c.snsDone l = { c with capture := none, senseZero := Tbl.set i (rheInt l.sum 256) c.senseZero } := by
  simp only [Chip.snsDone, hcapture, quotient_length hl]

/-- A full capture calibrates its input, unless its span is below 100 mV. -/
theorem Chip.snsDone_full {full : Nat} {z : Int} (hcapture : c.capture = some ⟨i, some full⟩) (hzero : Tbl.find? i c.senseZero = some z) :
    c.snsDone l = if rheInt l.sum 256 - z < 1000 then ({ c with capture := none } : Chip).snsRefuse
      else { c with capture := none, sense := Tbl.set i (z, rheInt l.sum 256, full) c.sense, settingsDue := true } := by
  simp only [Chip.snsDone, hcapture, quotient_length hl, Tbl.get, hzero, Option.getD_some]

end

/-! Conversions -/

/-- What a sound reading of a sensor leaves: its temperature, and neither memory, nor partitions, nor power changes. -/
structure Chip.ReadsSensor (c d : Chip) (die n : Nat) (temp : Int) : Prop where
  mem : d.mem = c.mem
  parts : d.parts = c.parts
  power : d.power = c.power
  temp : (d.sensor die n).temp = temp
  valid : (d.sensor die n).valid = true
  sound : (d.sensor die n).broken = false

section
variable {s : State} {d k : Nat} (hin : (s.chip.telemOf d k).excluded = false) (hnone : (s.chip.telemOf d k).urgentWait = [])
include hin hnone

/-- A voltage channel's conversion reports its value. -/
theorem State.telemConversion_voltage (hch : 26 ≤ (s.chip.telemOf d k).chan) (code : Int) :
    ∃ c : Chip, s.telemConversion d k code = s.withChip c ∧ c.mem = s.chip.mem ∧ c.parts = s.chip.parts ∧ c.sensors = s.chip.sensors ∧
      Tbl.get 0 (d, (s.chip.telemOf d k).chan) c.chans = s.chip.volts d (s.chip.telemOf d k).chan (s.chip.telemOf d k) code ∧
      (c.telemOf d k).chan = nextChan k (s.chip.telemOf d (1 - k)).excluded (s.chip.telemOf d k).chan := by
  have hscan := Chip.ScansOn.scanOn (s.chip.noteReading d k (s.chip.telemOf d k).chan code) d k (s.chip.telemOf d k).chan
  rw [Chip.noteReading_telemOf_other] at hscan
  refine ⟨_, State.telemConversion_scans hin hnone code (s.chip.reading_voltage d k hch code), hscan.mem, hscan.parts, hscan.sensors, ?_,
    hscan.chan⟩
  rw [hscan.chans]
  exact s.chip.noteReading_value ..

/-- A sensor channel's conversion gives the sensor's temperature, and trips with the second reading in a row at or above 105 °C. -/
theorem State.telemConversion_sensor {n : Nat} {code : Int} (hch : (s.chip.telemOf d k).chan = n + 1) (hn : n < 24)
    (hsound : (s.chip.sensor d n).broken = false) (hmoves : (s.chip.sensor d n).code ≠ code) (happart : (s.chip.sensor d n).apart < 15)
    (hhigh : s.chip.tempOf d (s.chip.telemOf d k) code ≤ 2400) (hlow : -640 ≤ s.chip.tempOf d (s.chip.telemOf d k) code) :
    ∃ c : Chip, s.chip.ReadsSensor c d n (s.chip.tempOf d (s.chip.telemOf d k) code) ∧ s.telemConversion d k code =
      if (s.chip.sensor d n).valid && decide (1680 ≤ (s.chip.sensor d n).temp ∧ 1680 ≤ s.chip.tempOf d (s.chip.telemOf d k) code) then
        (s.withChip c).criticalTrip else s.withChip c := by
  obtain ⟨sensors, hreading, htemp, hvalid, hbroken⟩ :=
    Chip.sensorReading_sound (c := s.chip.noteReading d k (n + 1) code) (d := d) (n := n) hsound hmoves happart hhigh hlow
  have hscan := Chip.ScansOn.scanOn { s.chip.noteReading d k (n + 1) code with sensors := sensors } d k (n + 1)
  have hsensor := Chip.sensor_of_sensors hscan.sensors d n
  refine ⟨_, ⟨hscan.mem, hscan.parts, hscan.power, ?_, ?_, ?_⟩, ?_⟩
  · rw [hsensor]
    exact htemp
  · rw [hsensor]
    exact hvalid
  · rw [hsensor]
    exact hbroken
  · rw [← hch] at hreading ⊢
    refine State.telemConversion_scans hin hnone code ?_
    rw [hch, s.chip.reading_sensor d k hn code, ← hch]
    exact hreading

/-- A band-gap code out of range excludes the converter, and the scan of its die goes on. -/
theorem State.telemConversion_bandGapOut {code : Int} (hch : (s.chip.telemOf d k).chan = 0) (hcode : code < 1984 ∨ 2112 < code) :
    ∃ c : Chip, s.telemConversion d k code = s.withChip c ∧ (c.telemOf d k).excluded = true ∧ (c.reg (rg .telemStatus d)).bit 0 = true ∧
      c.reg (rg .telemEvtFault d) = (s.chip.count (rg .telemEvtFault d)).reg (rg .telemEvtFault d) ∧ c.mem = s.chip.mem ∧
      c.parts = s.chip.parts := by
  have hreading : s.chip.reading d k (s.chip.telemOf d k).chan code = ((s.chip.noteReading d k 0 code).exclude d k, false) := by
    rw [hch, Chip.reading_bandGap, Chip.crossCheck_out hcode]
  have hscan := Chip.ScansOn.scanOn ((s.chip.noteReading d k 0 code).exclude d k) d k (s.chip.telemOf d k).chan
  obtain ⟨hout, hbit, hcount, hmem, hparts⟩ := (s.chip.noteReading d k 0 code).exclude_excludes d k
  refine ⟨_, State.telemConversion_scans hin hnone code hreading, hscan.excluded.trans hout, ?_, ?_, hscan.mem.trans hmem,
    hscan.parts.trans hparts⟩
  · rw [hscan.regs _ (by simp [rg, controlRegs])]
    exact hbit
  · rw [hscan.regs _ (by simp [rg, controlRegs]), hcount]
    exact Chip.reg_count_of_reg rfl 1

end

/-! The statement -/

/-- Settles O45: a conversion is its channel's reading and the going on of the scan, with the critical trip where the reading makes one; an
urgent request waits and is served in turn; and a capture of a sense input is stored, calibrates it or is refused. -/
theorem sensorsAreReadAndCalibrated : Obligations.SensorsAreReadAndCalibrated := by
  refine ⟨?_, ?_⟩
  · intro s d k code hup hin t₀ ch
    have hexec := exec_telemConversion_powered hup d k code
    refine ⟨fun hvoltage hnone => ?_, fun n hch hn _ hsound hmoves happart hnone => ?_, fun hch hnone hcode => ?_,
      fun u hscans => ⟨fun hroom => ?_, fun hfull => ?_⟩, fun u who hwho => ?_, fun u rest hwait => ?_⟩
    · obtain ⟨c, hconversion, hreports⟩ := State.telemConversion_voltage hin hnone hvoltage code
      exact ⟨_, hexec, hconversion ▸ hreports⟩
    · intro temp hhigh hlow
      obtain ⟨c, hreads, hconversion⟩ := State.telemConversion_sensor hin hnone hch hn hsound hmoves happart hhigh hlow
      rw [hconversion] at hexec
      refine ⟨fun hcool => ⟨_, hexec, ?_⟩, fun hvalid hwas his => ⟨_, hexec, ?_⟩⟩
      · have hone : ¬ (1680 ≤ (s.chip.sensor d n).temp ∧ 1680 ≤ temp) := by omega
        rw [if_neg (by simp [hone, temp])]
        exact ⟨rfl, hreads.mem, hreads.parts, hreads.temp, hreads.valid, hreads.sound⟩
      · obtain ⟨hreset, hstate, -⟩ := s.chip.powered_iff.mp hup
        rw [if_pos (by simp only [hvalid, Bool.true_and, decide_eq_true_eq]; exact ⟨hwas, his⟩)]
        exact State.criticalTrip_trips (by simpa [State.withChip, hreads.power, hreset] using hstate)
    · obtain ⟨c, hconversion, hexcluded⟩ := State.telemConversion_bandGapOut hin hnone hch hcode
      exact ⟨_, hexec, hconversion ▸ hexcluded⟩
    · rw [exec_telemUrgent_powered hup, Chip.telemUrgent_joins hin hscans hroom]
    · rw [exec_telemUrgent_powered hup, Chip.telemUrgent_refused u (.inr hfull)]
      rfl
    · rw [exec_telemUrgent_powered hup, Chip.telemUrgent_refused u (.inl hwho)]
      rfl
    · rw [hexec, State.telemConversion_urgent hin hwait]
  · intro s i full l hup hi hfull hl
    refine ⟨⟨_, exec_snsCaptureZero_up hup i, rfl, Chip.field_setField _ _ (by omega) hi, rfl⟩, fun hzero => ?_, fun hnone => ?_,
      ⟨_, exec_snsClear_up hup i, fun j => Tbl.find?_del i j s.chip.sense, ?_, rfl⟩, fun hcapture => ?_,
      fun z hcapture hzero => ⟨fun hspan => ?_, fun hspan => ?_⟩⟩
    · refine ⟨_, exec_snsCaptureFull_up hup i full, ?_⟩
      rw [Chip.snsFull_begins full hzero]
      exact ⟨rfl, Chip.field_setField _ _ (by omega) hfull, rfl⟩
    · refine ⟨_, exec_snsCaptureFull_up hup i full, ?_⟩
      rw [Chip.snsFull_refused full hnone]
      exact ⟨rfl, Chip.snsRefuse_tells _, rfl⟩
    · exact (Tbl.find?_del i i _).trans (if_pos rfl)
    · rw [exec_snsCaptureDone_up hup, Chip.snsDone_zero hl hcapture]
    · rw [exec_snsCaptureDone_up hup, Chip.snsDone_full hl hcapture hzero, if_neg (by omega)]
    · refine ⟨_, exec_snsCaptureDone_up hup l, ?_⟩
      rw [Chip.snsDone_full hl hcapture hzero, if_pos hspan]
      exact ⟨rfl, rfl, Chip.snsRefuse_tells _⟩

end Sys2Proof.Machine
end

section
/-! PROOFS. The upkeep of engines and banks outside their steps (11 R391-R395, 10 R366, R367): what the failing of a converter, refreshes,
remaps, Accords that come into force and the rest of banks leave alone. -/

namespace Sys2Proof

/-- Where a new value maps to what the old one mapped to, a mapped table does not change. -/
theorem Tbl.map_set {κ ν : Type} [DecidableEq κ] {k : κ} {v w : ν} {f : ν → ν} {t : Tbl κ ν} (h : Tbl.find? k t = some v) (hw : f w = f v) :
    (Tbl.set k w t).map (fun e => (e.1, f e.2)) = t.map (fun e => (e.1, f e.2)) := by
  induction t with
  | nil => simp [Tbl.find?] at h
  | cons e t ih =>
    by_cases hk : e.1 = k
    · obtain rfl : e.2 = v := by simpa [Tbl.find?, hk] using h
      simp [Tbl.set, hk, hw]
    · simp only [Tbl.find?, hk, if_false] at h
      simp [Tbl.set, hk, ih h]

end Sys2Proof

namespace Sys2Proof.Machine

/-! Partitions through upkeep -/

/-- What upkeep leaves of a partition: its units, its step and its in-field test. -/
def Part.lasting (x : Part) : Part := { units := x.units, run := x.run, iftSince := x.iftSince, iftRun := x.iftRun, iftBad := x.iftBad }

/-- What upkeep leaves of every partition. -/
def Chip.lastingParts (c : Chip) : Tbl Nat Part := c.parts.map (fun e => (e.1, e.2.lasting))

theorem Chip.part_of_lastingParts {c d : Chip} (h : d.lastingParts = c.lastingParts) (p : Nat) :
    (d.part p).map Part.lasting = (c.part p).map Part.lasting := by
  simp only [Chip.part, ← Tbl.find?_map p (fun _ => Part.lasting)]
  exact congrArg (Tbl.find? p) h

theorem Chip.ownerOfUnit_lastingParts (c : Chip) (u : Nat) :
    c.ownerOfUnit u = (List.find? (fun e : Nat × Part => decide (e.1 ≤ u ∧ u < e.1 + e.2.units)) c.lastingParts).map Prod.fst := by
  rw [Chip.lastingParts, List.find?_map, Option.map_map]
  rfl

theorem Chip.ownerOfUnit_of_lastingParts {c d : Chip} (h : d.lastingParts = c.lastingParts) (u : Nat) : d.ownerOfUnit u = c.ownerOfUnit u := by
  rw [Chip.ownerOfUnit_lastingParts, h, ← Chip.ownerOfUnit_lastingParts]

theorem Chip.lastingParts_of_parts {c d : Chip} (h : d.parts = c.parts) : d.lastingParts = c.lastingParts := by simp only [Chip.lastingParts, h]

/-- The partition that owns a unit runs a step. -/
def Chip.unitBusy (c : Chip) (u : Nat) : Bool := ((c.ownerOfUnit u).bind c.part).any (fun x => x.run.isSome)

theorem Chip.unitBusy_of_lastingParts {c d : Chip} (h : d.lastingParts = c.lastingParts) (u : Nat) : d.unitBusy u = c.unitBusy u := by
  simp only [Chip.unitBusy, Chip.ownerOfUnit_of_lastingParts h]
  cases c.ownerOfUnit u with
  | none => rfl
  | some p =>
    have hrun (e : Chip) : (e.part p).any (fun x => x.run.isSome) = ((e.part p).map Part.lasting).any (fun x => x.run.isSome) := by
      cases e.part p <;> rfl
    simp only [Option.bind_some]
    rw [hrun d, hrun c, Chip.part_of_lastingParts h]

/-! Upkeep -/

/-- The registers that upkeep writes. -/
def upkeepRegs : List RegName :=
  checkRegs ++ lateRegs ++ [.wgtStatus, .wgtEvtNospare, .wgtEvtRemap, .engStatus, .calEvtConvFail, .fixStatus, .fixEvtTrimLimit, .safeEvtIftFail]

/-- One part follows another by upkeep: marks of corrected words, its registers, partitions but for what lasts of them, banks, completions and
converters that fail; and no bit of INT_STATUS is taken back. -/
structure Chip.Upkeep (c d : Chip) : Prop where
  outside : ∃ ce regs parts banks convFailed refreshTurn funcs calWait, d = { c with
    ce := ce, regs := regs, parts := parts, banks := banks, convFailed := convFailed, refreshTurn := refreshTurn, funcs := funcs,
    calWait := calWait }
  parts : d.lastingParts = c.lastingParts
  regs : ∀ r, r.name ∉ upkeepRegs → d.reg r = c.reg r
  bits : ∀ p i, (c.reg (rg .safeIntStatus p)).bit i = true → (d.reg (rg .safeIntStatus p)).bit i = true
  failed : c.convFailed ⊆ d.convFailed

namespace Chip.Upkeep

variable {c d e : Chip}

theorem refl (c : Chip) : c.Upkeep c := ⟨⟨_, _, _, _, _, _, _, _, rfl⟩, rfl, fun _ _ => rfl, fun _ _ h => h, fun _ h => h⟩

theorem trans (h : c.Upkeep d) (k : d.Upkeep e) : c.Upkeep e := by
  refine ⟨?_, k.parts.trans h.parts, fun r hr => (k.regs r hr).trans (h.regs r hr), fun p i hi => k.bits p i (h.bits p i hi),
    fun _ hx => k.failed (h.failed hx)⟩
  obtain ⟨_, _, _, _, _, _, _, _, rfl⟩ := h.outside
  obtain ⟨_, _, _, _, _, _, _, _, rfl⟩ := k.outside
  exact ⟨_, _, _, _, _, _, _, _, rfl⟩

theorem foldl {α : Type} (l : List α) (f : Chip → α → Chip) (h : ∀ (c : Chip) a, c.Upkeep (f c a)) (c : Chip) : c.Upkeep (l.foldl f c) :=
  List.foldlRecOn (motive := c.Upkeep) l f (.refl c) fun d hd a _ => hd.trans (h d a)

theorem mem (h : c.Upkeep d) : d.mem = c.mem := by
  obtain ⟨_, _, _, _, _, _, _, _, rfl⟩ := h.outside
  rfl

theorem engines (h : c.Upkeep d) : d.engines = c.engines := by
  obtain ⟨_, _, _, _, _, _, _, _, rfl⟩ := h.outside
  rfl

theorem cores (h : c.Upkeep d) : d.cores = c.cores := by
  obtain ⟨_, _, _, _, _, _, _, _, rfl⟩ := h.outside
  rfl

theorem clocks (h : c.Upkeep d) : d.clocks = c.clocks := by
  obtain ⟨_, _, _, _, _, _, _, _, rfl⟩ := h.outside
  rfl

theorem streamDown (h : c.Upkeep d) : d.streamDown = c.streamDown := by
  obtain ⟨_, _, _, _, _, _, _, _, rfl⟩ := h.outside
  rfl

theorem unownedTest (h : c.Upkeep d) : d.unownedTest = c.unownedTest := by
  obtain ⟨_, _, _, _, _, _, _, _, rfl⟩ := h.outside
  rfl

/-! Operations on the state -/

theorem setBits (c : Chip) {r : Reg} (h : r.name ∈ upkeepRegs) (m : Nat) : c.Upkeep (c.setBits r m) :=
  ⟨⟨_, _, _, _, _, _, _, _, rfl⟩, rfl, fun q hq => Chip.reg_setBits_other c (fun e : q = r => hq (e ▸ h)) m,
    fun _ _ hi => Chip.bit_setBits_of_bit hi r m, fun _ h => h⟩

theorem count (c : Chip) {r : Reg} (h : r.name ∈ upkeepRegs) (hr : r.name ≠ .safeIntStatus) (n : Nat) :
    c.Upkeep (c.count r n) :=
  ⟨⟨_, _, _, _, _, _, _, _, rfl⟩, rfl, fun q hq => Chip.reg_count_other c (fun e : q = r => hq (e ▸ h)) n, (Chip.Mends.count c hr n).bits, fun _ h => h⟩

theorem setBank (c : Chip) (a b : Nat) (x : Bank) : c.Upkeep (c.setBank a b x) :=
  ⟨⟨_, _, _, _, _, _, _, _, rfl⟩, rfl, fun _ _ => rfl, fun _ _ h => h, fun _ h => h⟩

theorem setPart {p : Nat} {x y : Part} (hx : c.part p = some x) (hlasting : y.lasting = x.lasting) : c.Upkeep (c.setPart p y) :=
  ⟨⟨_, _, _, _, _, _, _, _, rfl⟩, Tbl.map_set hx hlasting, fun _ _ => rfl, fun _ _ h => h, fun _ h => h⟩

theorem updPart (c : Chip) (p : Nat) {f : Part → Part} (h : ∀ x, (f x).lasting = x.lasting) : c.Upkeep (c.updPart p f) := by
  cases hx : c.part p with
  | none => rw [Chip.updPart, hx]; exact .refl c
  | some x => rw [Chip.updPart_eq hx]; exact .setPart hx (h x)

theorem setFunc (c : Chip) (fn : Nat) (x : Func) : c.Upkeep (c.setFunc fn x) :=
  ⟨⟨_, _, _, _, _, _, _, _, rfl⟩, rfl, fun _ _ => rfl, fun _ _ h => h, fun _ h => h⟩

theorem complete (c : Chip) (t : Ticket) (st : Status) : c.Upkeep (c.complete t st) := .setFunc c _ _

theorem late (c : Chip) (p since : Nat) : c.Upkeep (c.late p since) := by
  refine ⟨?_, Chip.lastingParts_of_parts (c.late_parts p since), fun r hr => c.reg_late_other p since fun h => hr (by simp [upkeepRegs, h]),
    fun q i hi => ?_, fun _ h => ?_⟩
  · obtain ⟨_, _, hframe⟩ := c.late_frame p since
    rw [hframe]
    exact ⟨_, _, _, _, _, _, _, _, rfl⟩
  · rw [Chip.reg_of_regs (c.late_regs p since), Chip.setPair, Chip.reg_setReg_other _ _ _ _ (by simp [rg]),
      Chip.reg_setReg_other _ _ _ _ (by simp [rg]), Chip.reg_count_other _ (by simp [rg])]
    exact Chip.bit_setBits_of_bit hi _ _
  · obtain ⟨_, _, hframe⟩ := c.late_frame p since
    rwa [hframe]

/-! Reads of images (12 R425, R426) -/

theorem correct (c : Chip) (p : Nat) (rs : List (Nat × Nat)) : c.Upkeep (c.correct p rs) := by
  simp only [Chip.correct]
  split
  · exact .refl c
  · refine .trans (d := { c with ce := c.ce.filter (fun a => !(wordsIn c.ce rs).contains a) }) ?_
      (.count _ (by simp [rg, upkeepRegs, checkRegs]) (by simp [rg]) _)
    exact ⟨⟨_, _, _, _, _, _, _, _, rfl⟩, rfl, fun _ _ => rfl, fun _ _ h => h, fun _ h => h⟩

theorem noteParity (c : Chip) (p : Nat) : c.Upkeep (c.noteParity p) :=
  (setBits c (by simp [rg, upkeepRegs, checkRegs]) 2).trans (.count _ (by simp [rg, upkeepRegs, checkRegs]) (by simp [rg]) 1)

theorem enterRecovery (c : Chip) (p : Nat) : c.Upkeep (c.enterRecovery p) := .updPart c p fun _ => rfl

theorem noteUe (c : Chip) (p n : Nat) : c.Upkeep (c.noteUe p n) :=
  ((setBits c (by simp [rg, upkeepRegs, checkRegs]) 1).trans (.count _ (by simp [rg, upkeepRegs, checkRegs]) (by simp [rg]) n)).trans
    (.enterRecovery _ p)

theorem deviceRead (c : Chip) (p : Nat) (rs : List (Nat × Nat)) : c.Upkeep (c.deviceRead p rs).1 := by
  unfold Chip.deviceRead
  extract_lets broken d ue
  have hd : c.Upkeep d := by
    simp only [d]
    split
    · exact (noteParity c p).trans (.correct _ p rs)
    · exact .correct c p rs
  split
  · exact hd
  · exact hd.trans (.noteUe d p ue)

theorem imageRead (c : Chip) (p run : Nat) (rs : List (Nat × Nat)) : c.Upkeep (c.imageRead p run rs).1 := by
  simp only [Chip.imageRead]
  split
  · exact .deviceRead c p rs
  · exact (deviceRead c p rs).trans (.updPart _ p fun _ => rfl)

/-! Refreshes, remaps and converters (10 R366, R367, 11 R395) -/

theorem refresh (c : Chip) (a b : Nat) (cols : List Nat) : c.Upkeep (c.refresh a b cols) := by
  refine .trans (d := c.keepTurn a) ?_ (.setBank ..)
  simp only [Chip.keepTurn]
  split
  · exact .refl c
  · exact ⟨⟨_, _, _, _, _, _, _, _, rfl⟩, rfl, fun _ _ => rfl, fun _ _ h => h, fun _ h => h⟩

theorem remapLogical (c : Chip) (p array bank col : Nat) : c.Upkeep (c.remapLogical p array bank col) := by
  simp only [Chip.remapLogical]
  split
  · exact .refl c
  · split
    · exact .setBank ..
    · split
      · exact ((setBank c _ _ _).trans (.setBits _ (by simp [rg, upkeepRegs]) 8)).trans
          (.count _ (by simp [rg, upkeepRegs]) (by simp [rg]) 1)
      · have hread := imageRead c p (c.bank array bank).run ((c.bank array bank).imageOf ((c.bank array bank).merged.effective col))
        split
        · exact hread.trans (.setBank ..)
        · exact (hread.trans (.setBank ..)).trans (.count _ (by simp [rg, upkeepRegs]) (by simp [rg]) 1)

theorem remapColumn (c : Chip) (p array bank phys : Nat) : c.Upkeep (c.remapColumn p array bank phys) := by
  simp only [Chip.remapColumn]
  split
  · exact .refl c
  · exact .remapLogical c p array bank _

/-- A converter joins those that failed for good. -/
theorem failConverter (c : Chip) (u : Nat × Nat) : c.Upkeep { c with convFailed := c.convFailed ++ [u] } :=
  ⟨⟨_, _, _, _, _, _, _, _, rfl⟩, rfl, fun _ _ => rfl, fun _ _ h => h, List.subset_append_left _ _⟩

theorem converterFails (c : Chip) (array conv : Nat) : c.Upkeep (c.converterFails array conv) := by
  unfold Chip.converterFails
  extract_lets k told counted
  have htold : c.Upkeep told := .setBits c (by simp [rg, upkeepRegs]) 8
  have hcounted : c.Upkeep counted :=
    htold.trans ((failConverter told (array, conv)).trans (.count _ (by simp [rg, upkeepRegs]) (by simp [rg]) 1))
  split
  · exact htold
  · split
    · exact hcounted
    · split
      · exact hcounted
      · exact hcounted.trans (.foldl _ _ (fun d b => (remapColumn d _ _ _ _).trans (.remapColumn _ _ _ _ _)) _)

/-! Recovery, rounds and banks at rest (12 R446, 11 R396) -/

theorem noteMends (c : Chip) (p : Nat) : c.Upkeep (c.noteMends p) := by
  simp only [Chip.noteMends]
  split
  · exact .refl c
  · next x hx =>
    split
    · exact .setPart hx rfl
    · exact .refl c

theorem endRecovery (c : Chip) (p : Nat) : c.Upkeep (c.endRecovery p) := by
  simp only [Chip.endRecovery]
  split
  · exact .refl c
  · next x hx =>
    split
    · exact .setPart hx rfl
    · exact .refl c

theorem roundStep (c : Chip) (p e : Nat) : c.Upkeep (c.roundStep p e) := by
  refine .updPart c p fun x => ?_
  dsimp only
  split
  · rfl
  · split <;> rfl

theorem banksAtBoundary (c : Chip) (p : Nat) (x : Part) : c.Upkeep (c.banksAtBoundary p x) :=
  ⟨⟨_, _, _, _, _, _, _, _, rfl⟩, rfl, fun _ _ => rfl, fun _ _ h => h, fun _ h => h⟩

theorem restBanks (c : Chip) (p : Nat) : c.Upkeep (c.restBanks p) := by
  simp only [Chip.restBanks]
  split
  · exact .refl c
  · split
    · exact .refl c
    · exact ((noteMends c p).trans (.banksAtBoundary _ p _)).trans (.endRecovery _ p)

/-- The banks of the partition that owns a unit come to rest. -/
theorem restUnit (c : Chip) (u : Nat) : c.Upkeep (((c.ownerOfUnit u).map c.restBanks).getD c) := by
  cases c.ownerOfUnit u with
  | none => exact .refl c
  | some p => exact .restBanks c p

theorem calDone (c : Chip) : c.Upkeep c.calDone := by
  unfold Chip.calDone
  extract_lets done
  refine .trans (d := { c with calWait := c.calWait.filter (fun w => !done w) }) ?_ (.foldl _ _ (fun d w => .complete d _ _) _)
  exact ⟨⟨_, _, _, _, _, _, _, _, rfl⟩, rfl, fun _ _ => rfl, fun _ _ h => h, fun _ h => h⟩

end Chip.Upkeep

end Sys2Proof.Machine
end

section
/-! PROOFS. Calibration slots and new Accords (02 R61, 11 R389-R392, 12 R441): what slots write, the Accord that an engine's readings make,
and its coming into force. -/

namespace Sys2Proof.Machine

theorem Chip.engine_setEngine_other (c : Chip) {e f : Nat} (x : Engine) (h : f ≠ e) : (c.setEngine e x).engine f = c.engine f :=
  Tbl.get_set_other _ _ _ _ _ h

theorem Chip.engine_of_engines {c d : Chip} (h : d.engines = c.engines) (e : Nat) : d.engine e = c.engine e := by simp only [Chip.engine, h]

/-! Calibration slots (02 R61, 12 R441) -/

/-- One part follows another by what the slots of an engine write: its own engine, and late detections. -/
structure Chip.TakesSlots (c d : Chip) (e : Nat) : Prop where
  frame : ∃ engines regs funcs, d = { c with engines := engines, regs := regs, funcs := funcs }
  others : ∀ f, f ≠ e → d.engine f = c.engine f

theorem Chip.TakesSlots.refl (c : Chip) (e : Nat) : c.TakesSlots c e := ⟨⟨_, _, _, rfl⟩, fun _ _ => rfl⟩

theorem Chip.TakesSlots.trans {c d b : Chip} {e : Nat} (h : c.TakesSlots d e) (k : d.TakesSlots b e) : c.TakesSlots b e := by
  refine ⟨?_, fun f hf => (k.others f hf).trans (h.others f hf)⟩
  obtain ⟨_, _, _, rfl⟩ := h.frame
  obtain ⟨_, _, _, rfl⟩ := k.frame
  exact ⟨_, _, _, rfl⟩

theorem Chip.TakesSlots.mem {c d : Chip} {e : Nat} (h : c.TakesSlots d e) : d.mem = c.mem := by
  obtain ⟨_, _, _, rfl⟩ := h.frame
  rfl

theorem Chip.TakesSlots.parts {c d : Chip} {e : Nat} (h : c.TakesSlots d e) : d.parts = c.parts := by
  obtain ⟨_, _, _, rfl⟩ := h.frame
  rfl

theorem Chip.TakesSlots.now {c d : Chip} {e : Nat} (h : c.TakesSlots d e) : d.now = c.now := by
  obtain ⟨_, _, _, rfl⟩ := h.frame
  rfl

theorem Chip.TakesSlots.coreTemp {c d : Chip} {e : Nat} (h : c.TakesSlots d e) (k : Nat) : d.coreTemp k = c.coreTemp k := by
  obtain ⟨_, _, _, rfl⟩ := h.frame
  rfl

theorem Chip.TakesSlots.unitBusy {c d : Chip} {e : Nat} (h : c.TakesSlots d e) (u : Nat) : d.unitBusy u = c.unitBusy u :=
  Chip.unitBusy_of_lastingParts (Chip.lastingParts_of_parts h.parts) u

theorem Chip.TakesSlots.foldl {α : Type} {e : Nat} (l : List α) (f : Chip → α → Chip) (h : ∀ (c : Chip), ∀ a ∈ l, c.TakesSlots (f c a) e) (c : Chip) :
    c.TakesSlots (l.foldl f c) e :=
  List.foldlRecOn (motive := (c.TakesSlots · e)) l f (.refl c e) fun d hd a ha => hd.trans (h d a ha)

theorem Chip.TakesSlots.late (c : Chip) (e p since : Nat) : c.TakesSlots (c.late p since) e := by
  obtain ⟨_, _, h⟩ := c.late_frame p since
  rw [h]
  exact ⟨⟨_, _, _, rfl⟩, fun _ _ => rfl⟩

theorem Chip.TakesSlots.setEngine (c : Chip) (e : Nat) (g : Engine) : c.TakesSlots (c.setEngine e g) e :=
  ⟨⟨_, _, _, rfl⟩, fun _ hf => c.engine_setEngine_other g hf⟩

theorem Chip.calibrationSlot_slots (c : Chip) (k : CalSlot) : c.TakesSlots (c.calibrationSlot k) (k.array / 4) := by
  unfold Chip.calibrationSlot
  extract_lets e p x g b us found noted
  split
  · exact .refl c e
  · have hnoted : c.TakesSlots noted e := .setEngine c e _
    clear_value p
    cases p with
    | none => exact hnoted
    | some p => exact hnoted.trans (.foldl found _ (fun c since _ => .late c e p since) _)

theorem Chip.takeSlots_slots (c : Chip) (e : Nat) (ks : List CalSlot) : c.TakesSlots (c.takeSlots e ks) e :=
  .foldl _ _ (fun c k hk => by
    obtain rfl : k.array / 4 = e := by simpa using (List.mem_filter.mp hk).2
    exact c.calibrationSlot_slots k) c

theorem Chip.takeSlots_one (c : Chip) {e : Nat} {k : CalSlot} (h : k.array / 4 = e) : c.takeSlots e [k] = c.calibrationSlot k := by
  simp [Chip.takeSlots, h]

theorem Chip.takeSlots_none (c : Chip) {e : Nat} {k : CalSlot} (h : k.array / 4 ≠ e) : c.takeSlots e [k] = c := by
  simp [Chip.takeSlots, h]

theorem exec_calibrationSlot_powered {s : State} (hup : s.chip.powered = true) (e : Nat) (k : CalSlot) :
    exec (.calibrationSlot e k) s = .next (s.withChip (s.chip.takeSlots e [k])) :=
  State.onChip_powered hup (·.takeSlots e [k])

theorem exec_accordReady_powered {s : State} (hup : s.chip.powered = true) (e : Nat) (ks : List CalSlot) :
    exec (.accordReady e ks) s = .next (s.withChip (s.chip.accordReady e ks)) :=
  State.onChip_powered hup (·.accordReady e ks)

theorem Chip.accordReady_due {c : Chip} {e : Nat} {ks : List CalSlot} (hdue : (c.takeSlots e ks).accordDue e = true)
    (henough : (c.takeSlots e ks).measuredEnough e = true) : c.accordReady e ks = (c.takeSlots e ks).newAccord e := by
  simp [Chip.accordReady, hdue, henough]

theorem Chip.accordReady_notDue {c : Chip} {e : Nat} {ks : List CalSlot}
    (h : ¬ ((c.takeSlots e ks).accordDue e = true ∧ (c.takeSlots e ks).measuredEnough e = true)) : c.accordReady e ks = c.takeSlots e ks := by
  simp only [Chip.accordReady]
  exact if_neg (by simpa using h)

/-! A new Accord (11 R389, R391, R392) -/

/-- An engine in which a READY Accord has come into force. -/
def Engine.accorded (g : Engine) (a : Accord) (now : Nat) (cfg : Word) : Engine :=
  { g with zc := a.m.zc, art := a.m.art, allowance := a.m.allowance, inForce := some a, ready := none,
           count := (g.count + 1) % 2 ^ 32, accordAt := now, cfg := cfg }

/-- A READY Accord comes into force whole in its engine; banks and rounds follow. -/
theorem Chip.accordInForce_upkeep {c : Chip} {e : Nat} {a : Accord} (h : (c.engine e).ready = some a) :
    (c.setEngine e ((c.engine e).accorded a c.now (c.reg (rg .calCfg (e / 64))))).Upkeep (c.accordInForce e) := by
  simp only [Chip.accordInForce, h]
  have hbanks {f : Chip → Nat × Nat → Bank} (l : List (Nat × Nat)) (c : Chip) :
      c.Upkeep (l.foldl (fun c k => c.setBank k.1 k.2 (f c k)) c) := .foldl l _ (fun c k => .setBank c k.1 k.2 (f c k)) c
  split
  · next p _ => exact ((hbanks _ _).trans (.roundStep _ p e)).trans (.endRecovery _ p)
  · exact hbanks _ _

/-- What an engine's readings make is READY; what it mends changes banks alone, and where no step runs it comes into force. -/
theorem Chip.newAccord_makes (c : Chip) (e : Nat) : ∃ d, (c.setEngine e ((c.engine e).measured (c.accordOf e))).Upkeep d ∧
    (if d.unitBusy (e / 512) then d else d.accordInForce e).Upkeep (c.newAccord e) := by
  unfold Chip.newAccord
  extract_lets k wild limits ready untrimmed failed refreshed forced
  refine ⟨refreshed, ?_, (Chip.Upkeep.restUnit _ _).trans (.calDone _)⟩
  have huntrimmed : ready.Upkeep untrimmed := .foldl _ _ (fun c (b : Nat × Nat) => .setBank c b.1 b.2 _) _
  have hfailed : untrimmed.Upkeep failed := .foldl _ _ (fun c (z : Nat) => .converterFails c _ _) _
  refine (huntrimmed.trans hfailed).trans (.foldl _ _ (fun c (t : Nat × Nat × Nat) => ?_) _)
  exact ((Chip.Upkeep.refresh c t.1 t.2.1 [t.2.2]).trans (.setBits _ (by simp [rg, upkeepRegs]) 8)).trans
    (.count _ (by simp [rg, upkeepRegs, checkRegs, lateRegs]) (by simp [rg]) 1)

theorem Chip.Upkeep.engine {c d : Chip} (h : c.Upkeep d) (e : Nat) : d.engine e = c.engine e := Chip.engine_of_engines h.engines e

/-- A new Accord changes no other engine and no memory. -/
theorem Chip.newAccord_others (c : Chip) (e : Nat) : (c.newAccord e).mem = c.mem ∧ ∀ f, f ≠ e → (c.newAccord e).engine f = c.engine f := by
  obtain ⟨d, hmade, hforced⟩ := c.newAccord_makes e
  have hmem : d.mem = c.mem := hmade.mem
  have hothers (f : Nat) (hf : f ≠ e) : d.engine f = c.engine f := (hmade.engine f).trans (c.engine_setEngine_other _ hf)
  split at hforced
  · exact ⟨hforced.mem.trans hmem, fun f hf => (hforced.engine f).trans (hothers f hf)⟩
  · have hready : (d.engine e).ready = some (c.accordOf e) := by rw [hmade.engine, Chip.engine_setEngine_same]; rfl
    have hinForce := Chip.accordInForce_upkeep hready
    exact ⟨hforced.mem.trans (hinForce.mem.trans hmem),
      fun f hf => (hforced.engine f).trans ((hinForce.engine f).trans ((d.engine_setEngine_other _ hf).trans (hothers f hf)))⟩

/-- While a step runs the new Accord stays READY. -/
theorem Chip.newAccord_busy {c : Chip} {e : Nat} (h : c.unitBusy (e / 512) = true) :
    (c.newAccord e).engine e = (c.engine e).measured (c.accordOf e) := by
  obtain ⟨d, hmade, hforced⟩ := c.newAccord_makes e
  rw [if_pos ((Chip.unitBusy_of_lastingParts hmade.parts _).trans h)] at hforced
  rw [hforced.engine, hmade.engine, Chip.engine_setEngine_same]

/-- With no step running it is in force at once. -/
theorem Chip.newAccord_idle {c : Chip} {e : Nat} (h : c.unitBusy (e / 512) = false) : (c.newAccord e).engine e =
    ((c.engine e).measured (c.accordOf e)).accorded (c.accordOf e) c.now (c.reg (rg .calCfg (e / 64))) := by
  obtain ⟨d, hmade, hforced⟩ := c.newAccord_makes e
  have hmeasured : d.engine e = (c.engine e).measured (c.accordOf e) := by rw [hmade.engine, Chip.engine_setEngine_same]
  have hready : (d.engine e).ready = some (c.accordOf e) := by rw [hmeasured]; rfl
  have hcfg : d.reg (rg .calCfg (e / 64)) = c.reg (rg .calCfg (e / 64)) := hmade.regs _ (by simp [rg, upkeepRegs, checkRegs, lateRegs])
  have hbusy : d.unitBusy (e / 512) = false := (Chip.unitBusy_of_lastingParts hmade.parts _).trans h
  rw [if_neg (by simp [hbusy])] at hforced
  rw [hforced.engine, (Chip.accordInForce_upkeep hready).engine, Chip.engine_setEngine_same, hmeasured, hcfg,
    Chip.now_of_clocks (c := d) (d := c) hmade.clocks]

/-! The ranges of an Accord's items (11 R390, 05 R159) -/

theorem clampInt_bounds {lo hi : Int} (h : lo ≤ hi) (v : Int) : lo ≤ clampInt lo hi v ∧ clampInt lo hi v ≤ hi := by
  simp only [clampInt]
  omega

theorem mem_listed {κ ν : Type} [DecidableEq ν] {d : ν} {f : κ → ν} {l : List κ} {x : κ × ν} (h : x ∈ listed d f l) : x.2 = f x.1 := by
  obtain ⟨k, -, rfl⟩ := List.mem_map.mp (List.mem_filter.mp h).1
  rfl

theorem Engine.measuredZ_bounds (g : Engine) (pos conv : Nat) : -8 ≤ g.measuredZ pos conv ∧ g.measuredZ pos conv ≤ 7 :=
  clampInt_bounds (by decide) _

theorem openTrim_bounds (kind array bank phys : Nat) : -127 ≤ openTrim kind array bank phys ∧ openTrim kind array bank phys ≤ 127 := by
  simp only [openTrim]
  omega

theorem Chip.columnTrims_bounds (c : Chip) (array bank phys : Nat) :
    (-127 ≤ (c.columnTrims array bank phys).1 ∧ (c.columnTrims array bank phys).1 ≤ 127) ∧
    (-127 ≤ (c.columnTrims array bank phys).2 ∧ (c.columnTrims array bank phys).2 ≤ 127) := by
  simp only [Chip.columnTrims]
  split
  · exact ⟨openTrim_bounds .., openTrim_bounds ..⟩
  · exact ⟨clampInt_bounds (by decide) _, clampInt_bounds (by decide) _⟩

theorem Chip.measure_offsets {c : Chip} {e : Nat} {z : Nat × Int} (h : z ∈ (c.measure e).zc) : -8 ≤ z.2 ∧ z.2 ≤ 7 := by
  simp only [Chip.measure] at h
  rw [mem_listed h]
  exact Engine.measuredZ_bounds ..

theorem Chip.measure_trims {c : Chip} {e : Nat} {v : (Nat × Nat × Nat) × Int} (h : v ∈ (c.measure e).gt ∨ v ∈ (c.measure e).ot) :
    -127 ≤ v.2 ∧ v.2 ≤ 127 := by
  rcases h with h | h <;> rw [mem_listed h]
  · exact (c.columnTrims_bounds ..).1
  · exact (c.columnTrims_bounds ..).2

end Sys2Proof.Machine
end

section
/-! PROOFS. The judging of a calibration slot's readings (02 R61, 12 R441): what is noted of each, and the late detections. -/

namespace Sys2Proof

/-- A fold over a list that is not empty ends in a step on one of its elements. -/
theorem foldl_last {α β : Type} {l : List α} (h : l ≠ []) (f : β → α → β) (b : β) : ∃ d, ∃ a ∈ l, l.foldl f b = f d a := by
  refine ⟨l.dropLast.foldl f b, l.getLast h, List.getLast_mem h, ?_⟩
  conv_lhs => rw [← List.dropLast_append_getLast h]
  exact List.foldl_concat ..

end Sys2Proof

namespace Sys2Proof.Machine

/-! What is noted of a slot's units -/

/-- A judged unit is noted in an engine; the counts go by the engine before the slot. -/
def Engine.judge (g : Engine) (b : Bank) (h : Engine) (u : (Nat × Nat × Nat) × Bool) : Engine :=
  if u.2 then { h with
    readings := if u.1.2.1 = 2 then h.readings else Tbl.set u.1 (if g.detects u.1 then 0 else Tbl.get 0 u.1 g.readings + 1) h.readings
    clean := Tbl.set u.1 (g.lastClean b u.1) h.clean }
  else { h with clean := Tbl.del u.1 h.clean }

theorem Engine.noteSlot_judges (g : Engine) (b : Bank) (now : Nat) (us : List ((Nat × Nat × Nat) × Bool)) :
    ∃ at_, g.noteSlot b now us = { us.foldl (g.judge b) g with slotAt := at_ } := ⟨_, rfl⟩

theorem Engine.noteSlot_slots (g : Engine) (b : Bank) (now : Nat) (us : List ((Nat × Nat × Nat) × Bool)) :
    (g.noteSlot b now us).slots = g.slots := by
  obtain ⟨_, hjudges⟩ := g.noteSlot_judges b now us
  rw [hjudges]
  refine List.foldlRecOn (motive := fun h => h.slots = g.slots) us (g.judge b) rfl fun h hh u _ => ?_
  rw [Engine.judge]
  split <;> exact hh

theorem Engine.judge_readings (g : Engine) (b : Bank) (h : Engine) {u : Nat × Nat × Nat} (hu : u.2.1 ≠ 2) (v : (Nat × Nat × Nat) × Bool) :
    Tbl.get 0 u (g.judge b h v).readings =
      if v = (u, true) then (if Tbl.get 0 u g.readings = 3 then 0 else Tbl.get 0 u g.readings + 1) else Tbl.get 0 u h.readings := by
  obtain ⟨w, bad⟩ := v
  cases bad with
  | false => simp [Engine.judge]
  | true =>
    by_cases hw : w = u
    · subst hw
      simp [Engine.judge, hu, Engine.detects]
    · by_cases hconv : w.2.1 = 2
      · simp [Engine.judge, hw, hconv]
      · simp [Engine.judge, hw, hconv, Tbl.get_set_other _ _ _ _ _ (Ne.symm hw)]

/-- The bad readings of a column are counted, to begin anew after the fourth. -/
theorem Engine.noteSlot_readings (g : Engine) (b : Bank) (now : Nat) (us : List ((Nat × Nat × Nat) × Bool)) {u : Nat × Nat × Nat}
    (hu : u.2.1 ≠ 2) : Tbl.get 0 u (g.noteSlot b now us).readings =
      if (u, true) ∈ us then (if Tbl.get 0 u g.readings = 3 then 0 else Tbl.get 0 u g.readings + 1) else Tbl.get 0 u g.readings := by
  obtain ⟨_, hjudges⟩ := g.noteSlot_judges b now us
  have hfold (h : Engine) : Tbl.get 0 u (us.foldl (g.judge b) h).readings =
      if (u, true) ∈ us then (if Tbl.get 0 u g.readings = 3 then 0 else Tbl.get 0 u g.readings + 1) else Tbl.get 0 u h.readings := by
    clear hjudges
    induction us generalizing h with
    | nil => simp
    | cons v us ih =>
      rw [List.foldl_cons, ih, g.judge_readings b h hu v]
      by_cases hv : v = (u, true)
      · simp [hv]
      · simp [hv, Ne.symm hv]
  rw [hjudges]
  exact hfold g

/-! Late detections (12 R441) -/

theorem Chip.late_pair (c : Chip) (p since : Nat) : (c.late p since).pair (rg .safeLateStepLo p) (rg .safeLateStepHi p) = since % 2 ^ 64 := by
  rw [Chip.pair, Chip.reg_of_regs (c.late_regs p since), Chip.reg_of_regs (c.late_regs p since), Chip.setPair, Chip.reg_setReg_same,
    Chip.reg_setReg_other _ _ _ _ (by simp [rg]), Chip.reg_setReg_same, BitVec.toNat_ofNat, BitVec.toNat_ofNat]
  omega

/-- Late detections one after the other. -/
def Chip.lates (c : Chip) (p : Nat) (found : List Nat) : Chip := found.foldl (fun c since => c.late p since) c

theorem Chip.lates_frame (c : Chip) (p : Nat) (found : List Nat) : ∃ regs funcs, c.lates p found = { c with regs := regs, funcs := funcs } := by
  refine List.foldlRecOn (motive := fun d : Chip => ∃ regs funcs, d = { c with regs := regs, funcs := funcs }) found _ ⟨c.regs, c.funcs, rfl⟩ fun d hd since _ => ?_
  obtain ⟨_, _, rfl⟩ := hd
  exact Chip.late_frame _ p since

/-- The last of them is the one that stands. -/
theorem Chip.lates_tell (c : Chip) (p : Nat) {found : List Nat} (h : found ≠ []) :
    ((c.lates p found).reg (rg .safeIntStatus p)).bit 6 = true ∧
    ∃ since ∈ found, (c.lates p found).pair (rg .safeLateStepLo p) (rg .safeLateStepHi p) = since % 2 ^ 64 := by
  obtain ⟨d, since, hsince, hlast⟩ := foldl_last h (fun (c : Chip) since => c.late p since) c
  rw [Chip.lates, hlast]
  exact ⟨d.late_sets p since, since, hsince, d.late_pair p since⟩

/-! A slot that is taken (02 R61) -/

/-- The partition whose unit a slot drives, empty where none owns it. -/
def Chip.slotPart (c : Chip) (k : CalSlot) : Part := ((c.ownerOfUnit (k.array / 2048)).bind c.part).getD {}

/-- The bank that a unit's readings are of, or a bank of a converter's array, is in force. -/
def Chip.slotUses (c : Chip) (k : CalSlot) (u : Nat × Nat × Nat) : Bool :=
  if u.2.1 = 2 then (c.slotPart k).bankInForce k.array 0 || (c.slotPart k).bankInForce k.array 1 else (c.slotPart k).bankInForce k.array k.bank

/-- A slot's engine once it is taken. -/
def Chip.slotEngine (c : Chip) (k : CalSlot) : Engine :=
  ((c.engine (k.array / 4)).noteSlot (c.bank k.array k.bank) (c.slotPart k).commits (c.slotUnits k)).takeSlot k

/-- The commits at the last clean reading of a unit. -/
def Chip.slotClean (c : Chip) (k : CalSlot) (u : Nat × Nat × Nat) : Nat := (c.engine (k.array / 4)).lastClean (c.bank k.array k.bank) u

/-- The detections of a slot in a bank in force, each as the commits at its unit's last clean reading. -/
def Chip.slotFound (c : Chip) (k : CalSlot) : List Nat :=
  ((c.slotUnits k).filter (fun u => u.2 && (c.engine (k.array / 4)).detects u.1 && c.slotUses k u.1)).map (fun u => c.slotClean k u.1)

/-- A unit's reading is such a detection. -/
def Chip.Finds (c : Chip) (k : CalSlot) (u : Nat × Nat × Nat) : Prop :=
  (u, true) ∈ c.slotUnits k ∧ (c.engine (k.array / 4)).detects u = true ∧ c.slotUses k u = true

theorem Chip.mem_slotFound {c : Chip} {k : CalSlot} {t : Nat} : t ∈ c.slotFound k ↔ ∃ u, c.Finds k u ∧ c.slotClean k u = t := by
  simp only [Chip.slotFound, List.mem_map, List.mem_filter, Bool.and_eq_true]
  constructor
  · rintro ⟨⟨u, bad⟩, ⟨hu, ⟨hbad, hdetects⟩, huses⟩, rfl⟩
    obtain rfl : bad = true := hbad
    exact ⟨u, ⟨hu, hdetects, huses⟩, rfl⟩
  · rintro ⟨u, ⟨hu, hdetects, huses⟩, rfl⟩
    exact ⟨(u, true), ⟨hu, ⟨rfl, hdetects⟩, huses⟩, rfl⟩

section
variable {c : Chip} {k : CalSlot} (hlive : c.power.state = .live) (hbank : k.source = .columns → (k.array, k.bank) ∈ c.liveBanks (k.array / 4))
include hlive hbank

/-- A slot of a live part takes its readings, and what it finds is late in the partition that owns its unit. -/
theorem Chip.calibrationSlot_taken : c.calibrationSlot k =
    ((c.ownerOfUnit (k.array / 2048)).map (fun p => (c.setEngine (k.array / 4) (c.slotEngine k)).lates p (c.slotFound k))).getD
      (c.setEngine (k.array / 4) (c.slotEngine k)) := by
  have hguard : ¬ (c.power.state ≠ .live ∨ (k.source = .columns ∧ !(c.liveBanks (k.array / 4)).contains (k.array, k.bank))) := by
    rintro (h | ⟨hcolumns, h⟩)
    · exact h hlive
    · simp [hbank hcolumns] at h
  simp only [Chip.calibrationSlot, if_neg hguard, Chip.slotFound, Chip.slotEngine, Chip.slotUses, Chip.slotPart]
  cases c.ownerOfUnit (k.array / 2048) <;> rfl

theorem Chip.calibrationSlot_quiet (hnone : ∀ u, ¬ c.Finds k u) : c.calibrationSlot k = c.setEngine (k.array / 4) (c.slotEngine k) := by
  have hfound : c.slotFound k = [] := List.eq_nil_iff_forall_not_mem.mpr fun t ht => by
    obtain ⟨u, hu, -⟩ := Chip.mem_slotFound.mp ht
    exact hnone u hu
  rw [Chip.calibrationSlot_taken hlive hbank, hfound]
  cases c.ownerOfUnit (k.array / 2048) <;> rfl

theorem Chip.calibrationSlot_owned {p : Nat} (hp : c.ownerOfUnit (k.array / 2048) = some p) :
    c.calibrationSlot k = (c.setEngine (k.array / 4) (c.slotEngine k)).lates p (c.slotFound k) := by
  rw [Chip.calibrationSlot_taken hlive hbank, hp]
  rfl

end

end Sys2Proof.Machine
end

section
/-! PROOFS. The in-field test (12 R442-R444): what it takes out of service stays out, and what it tells. -/

namespace Sys2Proof.Machine

/-! Units out of service (12 R444) -/

/-- A unit that a test can find failing is failed or out of service. -/
def Chip.isOut (c : Chip) : TestFault → Prop
  | .converter array conv => (array, conv) ∈ c.convFailed
  | .row array => array ∈ (c.engine (array / 4)).failedRows
  | .engine e => (c.engine e).outOfService = true
  | .fixative k => (c.core k).outOfService = true
  | .stream u => u ∈ c.streamDown

/-- One part follows another by upkeep and by units that go out of service, none of which comes back. -/
structure Chip.Tests (c d : Chip) : Prop where
  mem : d.mem = c.mem
  parts : d.lastingParts = c.lastingParts
  unownedTest : d.unownedTest = c.unownedTest
  regs : ∀ r, r.name ∉ upkeepRegs → d.reg r = c.reg r
  bits : ∀ p i, (c.reg (rg .safeIntStatus p)).bit i = true → (d.reg (rg .safeIntStatus p)).bit i = true
  outs : ∀ f, c.isOut f → d.isOut f

namespace Chip.Tests

variable {c d e : Chip}

theorem refl (c : Chip) : c.Tests c := ⟨rfl, rfl, rfl, fun _ _ => rfl, fun _ _ h => h, fun _ h => h⟩

theorem trans (h : c.Tests d) (k : d.Tests e) : c.Tests e :=
  ⟨k.mem.trans h.mem, k.parts.trans h.parts, k.unownedTest.trans h.unownedTest, fun r hr => (k.regs r hr).trans (h.regs r hr),
    fun p i hi => k.bits p i (h.bits p i hi), fun f hf => k.outs f (h.outs f hf)⟩

theorem foldl {α : Type} (l : List α) {f : Chip → α → Chip} (h : ∀ (c : Chip) a, c.Tests (f c a)) (c : Chip) : c.Tests (l.foldl f c) :=
  List.foldlRecOn (motive := c.Tests) l f (.refl c) fun d hd a _ => hd.trans (h d a)

/-- Each element of a list has its turn in a fold. -/
theorem foldl_turn {α : Type} {l : List α} {a : α} (ha : a ∈ l) {f : Chip → α → Chip} (h : ∀ (c : Chip) a, c.Tests (f c a)) (c : Chip) :
    ∃ d, (f d a).Tests (l.foldl f c) := by
  obtain ⟨before, after, rfl⟩ := List.append_of_mem ha
  rw [List.foldl_append, List.foldl_cons]
  exact ⟨_, .foldl after h _⟩

end Chip.Tests

theorem Chip.Upkeep.tests {c d : Chip} (h : c.Upkeep d) : c.Tests d := by
  refine ⟨h.mem, h.parts, h.unownedTest, h.regs, h.bits, fun f hf => ?_⟩
  cases f with
  | converter array conv => exact h.failed hf
  | row array => simpa only [Chip.isOut, h.engine] using hf
  | engine e => simpa only [Chip.isOut, h.engine] using hf
  | fixative k => simpa only [Chip.isOut, Chip.core_of_cores h.cores] using hf
  | stream u => simpa only [Chip.isOut, h.streamDown] using hf

/-- An engine may lose rows and its service. -/
theorem Chip.Tests.setEngine {c : Chip} {e : Nat} {g : Engine} (hrows : (c.engine e).failedRows ⊆ g.failedRows)
    (hservice : (c.engine e).outOfService = true → g.outOfService = true) : c.Tests (c.setEngine e g) := by
  refine ⟨rfl, rfl, rfl, fun _ _ => rfl, fun _ _ h => h, fun f hf => ?_⟩
  cases f with
  | row array =>
    by_cases he : array / 4 = e
    · subst he
      simpa only [Chip.isOut, Chip.engine_setEngine_same] using hrows hf
    · simpa only [Chip.isOut, Chip.engine_setEngine_other _ _ he] using hf
  | engine f =>
    by_cases he : f = e
    · subst he
      simpa only [Chip.isOut, Chip.engine_setEngine_same] using hservice hf
    · simpa only [Chip.isOut, Chip.engine_setEngine_other _ _ he] using hf
  | converter | fixative | stream => exact hf

/-- A Fixative core goes out of service. -/
theorem Chip.Tests.stopCore (c : Chip) (k : Nat) : c.Tests (c.setCore k { c.core k with outOfService := true }) := by
  refine ⟨rfl, rfl, rfl, fun _ _ => rfl, fun _ _ h => h, fun f hf => ?_⟩
  cases f with
  | fixative j =>
    by_cases hj : j = k
    · subst hj
      simp [Chip.isOut]
    · have hother : (c.setCore k { c.core k with outOfService := true }).core j = c.core j := Tbl.get_set_other _ _ _ _ _ hj
      simpa only [Chip.isOut, hother] using hf
  | converter | row | engine | stream => exact hf

/-- Stream units go down. -/
theorem Chip.Tests.streams {c : Chip} {l : List Nat} (h : c.streamDown ⊆ l) : c.Tests { c with streamDown := l } := by
  refine ⟨rfl, rfl, rfl, fun _ _ => rfl, fun _ _ h => h, fun f hf => ?_⟩
  cases f with
  | stream u => exact h hf
  | converter | row | engine | fixative => exact hf

/-- An element is in a list it has joined, as is all that was there. -/
theorem joined_mem {α : Type} [BEq α] [LawfulBEq α] (l : List α) (a : α) :
    a ∈ (if l.contains a then l else l ++ [a]) ∧ l ⊆ (if l.contains a then l else l ++ [a]) := by
  split
  · next h => exact ⟨by simpa using h, fun _ h => h⟩
  · exact ⟨by simp, List.subset_append_left _ _⟩

theorem Chip.converterFails_failed (c : Chip) (array conv : Nat) : (array, conv) ∈ (c.converterFails array conv).convFailed := by
  unfold Chip.converterFails
  extract_lets k told counted
  have hcounted : (array, conv) ∈ counted.convFailed := List.mem_append_right _ (List.mem_singleton.mpr rfl)
  split
  · next h => simpa using h
  · split
    · exact hcounted
    · split
      · exact hcounted
      · exact (Chip.Upkeep.foldl _ _ (fun d (b : Nat × Nat) => (Chip.Upkeep.remapColumn d _ _ _ _).trans (.remapColumn _ _ _ _ _)) _).failed
          hcounted

theorem Chip.Tests.takeOut (c : Chip) (f : TestFault) : c.Tests (c.takeOut f) := by
  cases f with
  | converter array conv => exact (Chip.Upkeep.converterFails c array conv).tests
  | row array => exact .setEngine (joined_mem _ array).2 fun h => h
  | engine e => exact .setEngine (fun _ h => h) fun _ => rfl
  | fixative k => exact .stopCore c k
  | stream u => exact .streams (joined_mem _ u).2

theorem Chip.takeOut_isOut (c : Chip) (f : TestFault) : (c.takeOut f).isOut f := by
  cases f with
  | converter array conv => exact c.converterFails_failed array conv
  | row array => simpa only [Chip.isOut, Chip.takeOut, Chip.engine_setEngine_same] using (joined_mem _ array).1
  | engine e => simp [Chip.isOut, Chip.takeOut]
  | fixative k => simp [Chip.isOut, Chip.takeOut]
  | stream u => exact (joined_mem _ u).1

/-- Nothing is remapped for a converter of a unit that no partition owns. -/
theorem Chip.converterFails_parts {c : Chip} {array : Nat} (h : c.ownerOfUnit (array / 2048) = none) (conv : Nat) :
    (c.converterFails array conv).parts = c.parts := by
  unfold Chip.converterFails
  extract_lets k told counted
  have howner : counted.ownerOfUnit (array / 2048) = none := h
  split
  · rfl
  · rw [howner]
    rfl

theorem Chip.takeOut_parts {c : Chip} {f : TestFault} (h : c.ownerOfUnit (faultUnit f) = none) : (c.takeOut f).parts = c.parts := by
  cases f with
  | converter array conv => exact Chip.converterFails_parts h conv
  | row | engine | fixative | stream => rfl

/-! The test of a partition's engines (12 R443) -/

/-- A unit that failed the test of its partition goes out of service, late since the commits at its last clean one. -/
def Chip.failUnit (p : Nat) (c : Chip) (f : TestFault × Nat) : Chip := ((c.takeOut f.1).count (rg .safeEvtIftFail p)).late p f.2

theorem Chip.Tests.failUnit (p : Nat) (c : Chip) (f : TestFault × Nat) : c.Tests (c.failUnit p f) :=
  (Chip.Tests.takeOut c f.1).trans ((Chip.Upkeep.count _ (by simp [rg, upkeepRegs]) (by simp [rg]) 1).trans (.late _ p f.2)).tests

theorem Chip.failUnit_isOut (p : Nat) (c : Chip) (f : TestFault × Nat) : (c.failUnit p f).isOut f.1 :=
  ((Chip.Upkeep.count (c.takeOut f.1) (r := rg .safeEvtIftFail p) (by simp [rg, upkeepRegs]) (by simp [rg]) 1).trans (.late _ p f.2)).tests.outs
    f.1 (c.takeOut_isOut f.1)

/-- The faults of a partition's own units. -/
def Part.ownFaults (x : Part) (p : Nat) (faults : List TestFault) : List TestFault :=
  faults.filter (fun f => decide (p ≤ faultUnit f ∧ faultUnit f < p + x.units))

/-- A partition whose test has run. -/
def Part.afterTest (x : Part) (bad : List (TestFault × Nat)) : Part :=
  { x with iftSince := 0, iftDeferred := 0, iftForced := false, iftRun := false, tested := true, iftBad := bad }

/-- The part whose test of a partition is counted. -/
def Chip.afterTest (c : Chip) (p : Nat) (x : Part) (bad : List (TestFault × Nat)) : Chip :=
  (c.count (rg .safeEvtIftRun p)).setPart p (x.afterTest bad)

theorem exec_iftRun_powered {s : State} (hup : s.chip.powered = true) (p : Nat) (faults : List TestFault) :
    exec (.iftRun p faults) s = .next (s.withChip (s.chip.iftRun p faults)) :=
  State.onChip_powered hup (·.iftRun p faults)

section
variable {c : Chip} {p : Nat} {x : Part} {faults : List TestFault} (hlive : c.power.state = .live) (hx : c.part p = some x) (hidle : x.run = none)
  (hdue : x.iftRun = true ∨ (x.iftDue = true ∧ x.queued = []))
include hlive hx hidle hdue

/-- A test that is due runs: what fails goes out of service, and the partition recovers. -/
theorem Chip.iftRun_runs : c.iftRun p faults =
    if (x.badUnits (x.ownFaults p faults)).isEmpty then c.afterTest p x (x.badUnits (x.ownFaults p faults))
    else ((((x.badUnits (x.ownFaults p faults)).foldl (Chip.failUnit p) (c.afterTest p x (x.badUnits (x.ownFaults p faults)))).setBits
      (rg .safeIntStatus p) 128).enterRecovery p).restBanks p := by
  have hguard : ¬ (x.run.isSome = true ∨ c.power.state ≠ .live ∨ (!(x.iftRun || (x.iftDue && x.queued.isEmpty))) = true) := by
    rcases hdue with h | ⟨h, hqueued⟩
    · simp [hidle, hlive, h]
    · simp [hidle, hlive, h, hqueued]
  simp only [Chip.iftRun, hx]
  rw [if_neg hguard]
  rfl

theorem Chip.iftRun_clean (h : x.ownFaults p faults = []) : c.iftRun p faults = c.afterTest p x (x.badUnits (x.ownFaults p faults)) := by
  rw [Chip.iftRun_runs hlive hx hidle hdue, if_pos (by simp [h, Part.badUnits])]

theorem Chip.iftRun_fails (h : x.ownFaults p faults ≠ []) : c.iftRun p faults =
    ((((x.badUnits (x.ownFaults p faults)).foldl (Chip.failUnit p) (c.afterTest p x (x.badUnits (x.ownFaults p faults)))).setBits
      (rg .safeIntStatus p) 128).enterRecovery p).restBanks p := by
  rw [Chip.iftRun_runs hlive hx hidle hdue, if_neg (by simpa [Part.badUnits] using h)]

end

/-- The last unit that failed is the one whose lateness stands. -/
theorem Chip.failUnits_tell (c : Chip) (p : Nat) {bad : List (TestFault × Nat)} (h : bad ≠ []) :
    ((bad.foldl (Chip.failUnit p) c).reg (rg .safeIntStatus p)).bit 6 = true ∧
    ∃ f ∈ bad, (bad.foldl (Chip.failUnit p) c).pair (rg .safeLateStepLo p) (rg .safeLateStepHi p) = f.2 % 2 ^ 64 := by
  obtain ⟨d, f, hf, hlast⟩ := foldl_last h (Chip.failUnit p) c
  rw [hlast]
  exact ⟨Chip.late_sets .., f, hf, Chip.late_pair ..⟩

/-- A recovery that has just begun goes on while the banks come to rest. -/
theorem Chip.restBanks_recovers {c : Chip} {p : Nat} {x : Part} (hx : c.part p = some x)
    (hclean : x.clean = x.rounds) : (c.restBanks p).part p = some x := by
  have hmends : (c.noteMends p).part p = some x := by
    have hsame : { x with clean := x.rounds } = x := congrArg (fun n => { x with clean := n }) hclean.symm
    simp only [Chip.noteMends, hx]
    split
    · rw [hsame, Chip.part_setPart_same]
    · exact hx
  have hrest : ((c.noteMends p).banksAtBoundary p x).part p = some x := hmends
  simp only [Chip.restBanks, hx]
  split
  · exact hx
  · rw [Chip.endRecovery, hrest]
    simp only [hclean, Nat.lt_irrefl, decide_false, Bool.and_false, Bool.false_eq_true, if_false]
    exact hrest

/-- A failed test begins the recovery of its partition; what the test has put down of it stays. -/
theorem Chip.recovers {c : Chip} {p : Nat} {x : Part} (hx : c.part p = some x) :
    ∃ z, ((c.enterRecovery p).restBanks p).part p = some z ∧ z.recovery = true ∧ z.lasting = x.lasting :=
  ⟨{ x with recovery := true, clean := x.rounds },
    Chip.restBanks_recovers (by rw [Chip.enterRecovery, Chip.updPart_eq hx, Chip.part_setPart_same]) rfl, rfl, rfl⟩

theorem Chip.recovers_regs (c : Chip) (p : Nat) : ((c.enterRecovery p).restBanks p).regs = c.regs :=
  ((c.enterRecovery p).restBanks_frame p).2.trans (Chip.updPart_regs ..)

/-- A failed test: everything that failed is out, and all of it is told. -/
theorem Chip.iftRun_tells {c : Chip} {p : Nat} {x : Part} {faults : List TestFault} (hlive : c.power.state = .live) (hx : c.part p = some x)
    (hidle : x.run = none) (hdue : x.iftRun = true ∨ (x.iftDue = true ∧ x.queued = [])) (h : x.ownFaults p faults ≠ []) :
    (c.iftRun p faults).mem = c.mem ∧
    (c.iftRun p faults).reg (rg .safeEvtIftRun p) = (c.count (rg .safeEvtIftRun p)).reg (rg .safeEvtIftRun p) ∧
    (∃ z, (c.iftRun p faults).part p = some z ∧ z.recovery = true ∧ z.lasting = (x.afterTest (x.badUnits (x.ownFaults p faults))).lasting) ∧
    ((c.iftRun p faults).reg (rg .safeIntStatus p)).bit 7 = true ∧ ((c.iftRun p faults).reg (rg .safeIntStatus p)).bit 6 = true ∧
    (∃ f ∈ x.badUnits (x.ownFaults p faults), (c.iftRun p faults).pair (rg .safeLateStepLo p) (rg .safeLateStepHi p) = f.2 % 2 ^ 64) ∧
    ∀ f ∈ x.ownFaults p faults, (c.iftRun p faults).isOut f := by
  let tested := c.afterTest p x (x.badUnits (x.ownFaults p faults))
  let failed := (x.badUnits (x.ownFaults p faults)).foldl (Chip.failUnit p) tested
  let told := failed.setBits (rg .safeIntStatus p) 128
  have hrun : c.iftRun p faults = (told.enterRecovery p).restBanks p := Chip.iftRun_fails hlive hx hidle hdue h
  have hfailed : tested.Tests failed := .foldl _ (fun c f => .failUnit p c f) _
  have htold : failed.Upkeep told := .setBits failed (by simp [rg, upkeepRegs, checkRegs]) 128
  have hends : failed.Tests (c.iftRun p faults) :=
    hrun ▸ (htold.trans ((Chip.Upkeep.enterRecovery told p).trans (.restBanks _ p))).tests
  have hregs : (c.iftRun p faults).regs = told.regs := hrun ▸ told.recovers_regs p
  obtain ⟨hlate, f, hf, hpair⟩ := tested.failUnits_tell p (bad := x.badUnits (x.ownFaults p faults)) (by simpa [Part.badUnits] using h)
  obtain ⟨w, hw, hlasting⟩ : ∃ w, failed.part p = some w ∧ w.lasting = (x.afterTest (x.badUnits (x.ownFaults p faults))).lasting := by
    simpa [tested, Chip.afterTest] using Chip.part_of_lastingParts hfailed.parts p
  obtain ⟨z, hz, hrecovery, hzw⟩ := told.recovers (p := p) (x := w) hw
  refine ⟨hends.mem.trans hfailed.mem, ?_, ⟨z, hrun ▸ hz, hrecovery, hzw.trans hlasting⟩, ?_, hends.bits p 6 hlate, ⟨f, hf, ?_⟩, fun f hf => ?_⟩
  · exact (hends.regs _ (by simp [rg, upkeepRegs, checkRegs, lateRegs])).trans (hfailed.regs _ (by simp [rg, upkeepRegs, checkRegs, lateRegs]))
  · rw [Chip.reg_of_regs hregs]
    exact failed.setBits_bit _ (by decide)
  · rw [← hpair, Chip.pair, Chip.reg_of_regs hregs, Chip.reg_of_regs hregs, Chip.reg_setBits_other _ (by simp [rg]),
      Chip.reg_setBits_other _ (by simp [rg])]
    rfl
  · obtain ⟨d, hturn⟩ := Chip.Tests.foldl_turn (List.mem_map_of_mem hf) (.failUnit p) tested
    exact hends.outs f (hturn.outs f (d.failUnit_isOut p _))

/-! The test of engines that no partition owns (12 R442) -/

/-- The tests of some units are counted. -/
def Chip.countTests (c : Chip) (us : List Nat) : Chip := us.foldl (fun c u => c.count (rg .safeEvtIftRun u)) c

theorem Chip.countTests_frame (c : Chip) (us : List Nat) : ∃ regs, c.countTests us = { c with regs := regs } := by
  refine List.foldlRecOn (motive := fun d : Chip => ∃ regs, d = { c with regs := regs }) us _ ⟨c.regs, rfl⟩ fun d hd u _ => ?_
  obtain ⟨_, rfl⟩ := hd
  exact ⟨_, rfl⟩

theorem Chip.reg_countTests_other (c : Chip) {us : List Nat} {u : Nat} (h : u ∉ us) :
    (c.countTests us).reg (rg .safeEvtIftRun u) = c.reg (rg .safeEvtIftRun u) := by
  refine List.foldlRecOn (motive := fun d : Chip => d.reg (rg .safeEvtIftRun u) = c.reg (rg .safeEvtIftRun u)) us _ rfl fun d hd v hv => ?_
  have hne : u ≠ v := fun e => h (e ▸ hv)
  exact (Chip.reg_count_other _ (by simpa [rg] using hne) 1).trans hd

theorem Chip.reg_countTests (c : Chip) {us : List Nat} (hnodup : us.Nodup) {u : Nat} (hu : u ∈ us) :
    (c.countTests us).reg (rg .safeEvtIftRun u) = (c.count (rg .safeEvtIftRun u)).reg (rg .safeEvtIftRun u) := by
  induction us generalizing c with
  | nil => simp at hu
  | cons v us ih =>
    obtain ⟨hv, hrest⟩ := List.nodup_cons.mp hnodup
    by_cases huv : u = v
    · subst huv
      exact Chip.reg_countTests_other _ hv
    · exact (ih (c.count (rg .safeEvtIftRun v)) hrest (by simpa [huv] using hu)).trans
        (Chip.reg_count_of_reg (Chip.reg_count_other _ (by simpa [rg] using huv) 1) 1)

/-- A unit of no partition that failed goes out of service. -/
def Chip.failUnowned (c : Chip) (f : TestFault) : Chip :=
  (((c.takeOut f).count (rg .safeEvtIftFail (faultUnit f))).setBits (rg .safeIntStatus (faultUnit f)) 128).late (faultUnit f) 0

/-- What follows the taking out of such a unit is upkeep. -/
theorem Chip.failUnowned_upkeep (c : Chip) (f : TestFault) : (c.takeOut f).Upkeep (c.failUnowned f) :=
  ((Chip.Upkeep.count _ (by simp [rg, upkeepRegs]) (by simp [rg]) 1).trans (.setBits _ (by simp [rg, upkeepRegs, checkRegs]) 128)).trans
    (.late _ _ 0)

theorem Chip.Tests.failUnowned (c : Chip) (f : TestFault) : c.Tests (c.failUnowned f) :=
  (Chip.Tests.takeOut c f).trans (c.failUnowned_upkeep f).tests

theorem Chip.failUnowned_isOut (c : Chip) (f : TestFault) : (c.failUnowned f).isOut f :=
  (c.failUnowned_upkeep f).tests.outs f (c.takeOut_isOut f)

theorem Chip.failUnowned_tells (c : Chip) (f : TestFault) : ((c.failUnowned f).reg (rg .safeIntStatus (faultUnit f))).bit 7 = true :=
  (Chip.Upkeep.late _ _ 0).bits _ 7 (Chip.setBits_bit _ _ (by decide))

theorem Chip.failUnowned_parts {c : Chip} {f : TestFault} (h : c.ownerOfUnit (faultUnit f) = none) : (c.failUnowned f).parts = c.parts :=
  (Chip.late_parts ..).trans (Chip.takeOut_parts h)

/-- The units that no partition owns. -/
def Chip.freeUnits (c : Chip) : List Nat := (List.range 16).filter (fun u => (c.ownerOfUnit u).isNone)

theorem Chip.mem_freeUnits {c : Chip} {u : Nat} : u ∈ c.freeUnits ↔ u < 16 ∧ c.ownerOfUnit u = none := by
  simp [Chip.freeUnits]

theorem Chip.freeUnits_nodup (c : Chip) : c.freeUnits.Nodup := List.nodup_range.filter _

/-- The faults that lie in them. -/
def Chip.freeFaults (c : Chip) (faults : List TestFault) : List TestFault :=
  faults.filter (fun f => decide (faultUnit f < 16) && (c.ownerOfUnit (faultUnit f)).isNone)

theorem Chip.mem_freeFaults {c : Chip} {faults : List TestFault} {f : TestFault} :
    f ∈ c.freeFaults faults ↔ f ∈ faults ∧ faultUnit f < 16 ∧ c.ownerOfUnit (faultUnit f) = none := by
  simp [Chip.freeFaults]

theorem exec_iftUnowned_powered {s : State} (hup : s.chip.powered = true) (faults : List TestFault) :
    exec (.iftUnowned faults) s = .next (s.withChip (s.chip.iftUnowned faults)) :=
  State.onChip_powered hup (·.iftUnowned faults)

theorem Chip.iftUnowned_early {c : Chip} (h : c.now < c.unownedTest + 1000000000) (faults : List TestFault) : c.iftUnowned faults = c := by
  rw [Chip.iftUnowned, if_pos (.inr (.inr h))]

/-- The engines that no partition owns are tested, counted before what failed of them goes out of service. -/
theorem Chip.iftUnowned_due {c : Chip} (hlive : c.power.state = .live) (hreset : c.power.inReset = false)
    (h : c.unownedTest + 1000000000 ≤ c.now) (faults : List TestFault) : c.iftUnowned faults =
    (c.freeFaults faults).foldl Chip.failUnowned (({ c with unownedTest := c.now } : Chip).countTests c.freeUnits) := by
  have hguard : ¬ (c.power.state ≠ .live ∨ c.power.inReset = true ∨ c.now < c.unownedTest + 1000000000) := by
    simp only [hlive, hreset, ne_eq, not_true_eq_false, Bool.false_eq_true, false_or, not_lt]
    exact h
  rw [Chip.iftUnowned, if_neg hguard]
  rfl

theorem Chip.failUnowned_foldl_parts {c : Chip} {l : List TestFault} (h : ∀ f ∈ l, c.ownerOfUnit (faultUnit f) = none) :
    (l.foldl Chip.failUnowned c).parts = c.parts := by
  refine List.foldlRecOn (motive := fun d : Chip => d.parts = c.parts) l _ rfl fun d hd f hf => ?_
  refine (Chip.failUnowned_parts ?_).trans hd
  exact (Chip.ownerOfUnit_of_lastingParts (Chip.lastingParts_of_parts hd) _).trans (h f hf)

/-- What the test of the free units leaves, counts and tells. -/
theorem Chip.iftUnowned_tells {c : Chip} (hlive : c.power.state = .live) (hreset : c.power.inReset = false)
    (h : c.unownedTest + 1000000000 ≤ c.now) (faults : List TestFault) :
    (c.iftUnowned faults).mem = c.mem ∧ (c.iftUnowned faults).parts = c.parts ∧ (c.iftUnowned faults).unownedTest = c.now ∧
    (∀ u, (u < 16 ∧ c.ownerOfUnit u = none →
        (c.iftUnowned faults).reg (rg .safeEvtIftRun u) = (c.count (rg .safeEvtIftRun u)).reg (rg .safeEvtIftRun u)) ∧
      (¬ (u < 16 ∧ c.ownerOfUnit u = none) → (c.iftUnowned faults).reg (rg .safeEvtIftRun u) = c.reg (rg .safeEvtIftRun u))) ∧
    ∀ u f, u < 16 → c.ownerOfUnit u = none → faultUnit f = u → f ∈ faults →
      (c.iftUnowned faults).isOut f ∧ ((c.iftUnowned faults).reg (rg .safeIntStatus u)).bit 7 = true := by
  rw [Chip.iftUnowned_due hlive hreset h]
  let timed : Chip := { c with unownedTest := c.now }
  obtain ⟨regs, hframe⟩ := timed.countTests_frame c.freeUnits
  have hparts : (timed.countTests c.freeUnits).parts = c.parts := by rw [hframe]
  have htests : (timed.countTests c.freeUnits).Tests ((c.freeFaults faults).foldl Chip.failUnowned (timed.countTests c.freeUnits)) :=
    .foldl _ .failUnowned _
  have hreg (u : Nat) : ((c.freeFaults faults).foldl Chip.failUnowned (timed.countTests c.freeUnits)).reg (rg .safeEvtIftRun u) =
      (timed.countTests c.freeUnits).reg (rg .safeEvtIftRun u) := htests.regs _ (by simp [rg, upkeepRegs, checkRegs, lateRegs])
  refine ⟨htests.mem.trans (by rw [hframe]), (Chip.failUnowned_foldl_parts fun f hf => ?_).trans hparts,
    htests.unownedTest.trans (by rw [hframe]), fun u => ⟨fun hu => ?_, fun hu => ?_⟩, fun u f hu hfree hunit hf => ?_⟩
  · exact (Chip.ownerOfUnit_of_lastingParts (Chip.lastingParts_of_parts hparts) _).trans (Chip.mem_freeFaults.mp hf).2.2
  · exact (hreg u).trans (timed.reg_countTests c.freeUnits_nodup (Chip.mem_freeUnits.mpr hu))
  · exact (hreg u).trans (timed.reg_countTests_other fun h => hu (Chip.mem_freeUnits.mp h))
  · subst hunit
    obtain ⟨d, hturn⟩ := Chip.Tests.foldl_turn (Chip.mem_freeFaults.mpr ⟨hf, hu, hfree⟩) .failUnowned (timed.countTests c.freeUnits)
    exact ⟨hturn.outs f (d.failUnowned_isOut f), hturn.bits _ 7 (d.failUnowned_tells f)⟩

end Sys2Proof.Machine
end

section
/-! PROOFS. The Accords, the calibration slots and the in-field test of the engines, as O51 states them. -/

namespace Sys2Proof.Machine

/-- Settles O51: a new Accord is what the readings make, and in force where no step runs; a slot is kept and judged unit by unit; and a test
takes out what fails, each unit in its turn, the last one late. -/
theorem enginesAreCalibratedAndTested : Obligations.EnginesAreCalibratedAndTested := by
  refine ⟨?_, ?_, ?_, ?_⟩
  · intro s e ks hup c g a busy due
    have hslots : s.chip.TakesSlots c e := s.chip.takeSlots_slots e ks
    have hbusy : c.unitBusy (e / 512) = busy := hslots.unitBusy (e / 512)
    obtain ⟨hmem, hothers⟩ := c.newAccord_others e
    have hnow : c.now = s.chip.now := hslots.now
    have hexec := exec_accordReady_powered hup e ks
    have hready (h : due) : exec (.accordReady e ks) s = .next (s.withChip (c.newAccord e)) := by
      rw [hexec, Chip.accordReady_due h.1 h.2]
    refine ⟨fun k hk => ?_, fun k hk => ?_, fun h hrun => ⟨_, hready h, hmem.trans hslots.mem, Chip.newAccord_busy (hbusy.trans hrun),
        fun f hf => (hothers f hf).trans (hslots.others f hf)⟩,
      fun h hidle => ⟨_, hready h, hmem.trans hslots.mem, ?_, fun f hf => (hothers f hf).trans (hslots.others f hf)⟩,
      fun h => ?_, hslots.coreTemp _, hnow, rfl, fun z => Chip.measure_offsets, fun v => Chip.measure_trims⟩
    · rw [exec_calibrationSlot_powered hup, Chip.takeSlots_one _ hk]
    · rw [exec_calibrationSlot_powered hup, Chip.takeSlots_none _ hk]
      rfl
    · rw [← hnow]
      exact Chip.newAccord_idle (hbusy.trans hidle)
    · rw [hexec, Chip.accordReady_notDue h]
  · intro s k hup hlive _ hbank owner x g b us g' used found
    have hexec : exec (.calibrationSlot (k.array / 4) k) s = .next (s.withChip (s.chip.calibrationSlot k)) := by
      rw [exec_calibrationSlot_powered hup, Chip.takeSlots_one _ rfl]
    refine ⟨fun hnone => ?_, fun p hp ⟨u, hu⟩ => ⟨_, hexec, ?_⟩, ?_, fun u hu => g.noteSlot_readings b x.commits us hu⟩
    · rw [hexec, Chip.calibrationSlot_quiet hlive hbank hnone]
      rfl
    · have hfound : s.chip.slotFound k ≠ [] := List.ne_nil_of_mem (Chip.mem_slotFound.mpr ⟨u, hu, rfl⟩)
      have howned := Chip.calibrationSlot_owned hlive hbank hp
      obtain ⟨hbit, since, hsince, hpair⟩ := (s.chip.setEngine (k.array / 4) (s.chip.slotEngine k)).lates_tell p hfound
      obtain ⟨regs, funcs, hframe⟩ := (s.chip.setEngine (k.array / 4) (s.chip.slotEngine k)).lates_frame p (s.chip.slotFound k)
      obtain ⟨v, hv, rfl⟩ := Chip.mem_slotFound.mp hsince
      rw [← howned] at hbit hpair hframe
      refine ⟨hbit, ⟨v, hv, hpair⟩, ?_⟩
      simp only [State.withChip]
      rw [hframe]
      exact ⟨Chip.engine_setEngine_same .., rfl, rfl, rfl⟩
    · exact congrArg (· ++ [k]) (g.noteSlot_slots b x.commits us)
  · intro s p faults x hup hlive hx hidle hdue mine y
    have hexec := exec_iftRun_powered hup p faults
    refine ⟨fun hnone => ?_, fun hsome => ⟨_, hexec, ?_⟩⟩
    · rw [hexec, Chip.iftRun_clean hlive hx hidle hdue hnone]
      rfl
    · obtain ⟨hmem, hcount, ⟨z, hz, hrecovery, hlasting⟩, hint, hlate, hpair, houts⟩ := Chip.iftRun_tells hlive hx hidle hdue hsome
      exact ⟨hmem, hcount, ⟨z, hz, hrecovery, congrArg Part.iftSince hlasting, congrArg Part.iftRun hlasting, congrArg Part.iftBad hlasting⟩,
        hint, hlate, hpair, fun e => houts (.engine e), fun k => houts (.fixative k), fun u => houts (.stream u), fun a => houts (.row a),
        fun a k => houts (.converter a k)⟩
  · intro s faults hup hlive
    have hexec := exec_iftUnowned_powered hup faults
    obtain ⟨hreset, -⟩ := s.chip.powered_iff.mp hup
    refine ⟨fun hlong => ⟨_, hexec, ?_⟩, fun hearly => by rw [hexec, Chip.iftUnowned_early hearly]; rfl⟩
    obtain ⟨hmem, hparts, htest, hcounts, houts⟩ := Chip.iftUnowned_tells hlive hreset hlong faults
    exact ⟨hmem, hparts, htest, fun u hu hfree => ⟨(hcounts u).1 ⟨hu, hfree⟩, fun e he hfault => houts u (.engine e) hu hfree he hfault⟩,
      fun u howned => (hcounts u).2 fun h => howned h.2⟩

end Sys2Proof.Machine
end

section
/-! PROOFS. The starts of the part (16 R552-R558): what initial Accords and the read-back leave alone, and the state a boot ends in. -/

namespace Sys2Proof.Machine

/-! Read-back, temperatures and initial Accords (16 R556-R558, 11 R397) -/

/-- One part follows another by what a start measures: no partition begins a step, and memory, clocks, power, host and windows stay. -/
structure Chip.Measured (c d : Chip) : Prop where
  outside : ∃ ce regs parts banks convFailed refreshTurn funcs calWait engines sensors scanTemps, d = { c with
    ce := ce, regs := regs, parts := parts, banks := banks, convFailed := convFailed, refreshTurn := refreshTurn, funcs := funcs,
    calWait := calWait, engines := engines, sensors := sensors, scanTemps := scanTemps }
  parts : d.lastingParts = c.lastingParts

namespace Chip.Measured

variable {c d e : Chip}

theorem refl (c : Chip) : c.Measured c := ⟨⟨_, _, _, _, _, _, _, _, _, _, _, rfl⟩, rfl⟩

theorem trans (h : c.Measured d) (k : d.Measured e) : c.Measured e := by
  refine ⟨?_, k.parts.trans h.parts⟩
  obtain ⟨_, _, _, _, _, _, _, _, _, _, _, rfl⟩ := h.outside
  obtain ⟨_, _, _, _, _, _, _, _, _, _, _, rfl⟩ := k.outside
  exact ⟨_, _, _, _, _, _, _, _, _, _, _, rfl⟩

theorem foldl {α : Type} (l : List α) (f : Chip → α → Chip) (h : ∀ (c : Chip) a, c.Measured (f c a)) (c : Chip) : c.Measured (l.foldl f c) :=
  List.foldlRecOn (motive := c.Measured) l f (.refl c) fun d hd a _ => hd.trans (h d a)

theorem of_upkeep (h : c.Upkeep d) : c.Measured d := by
  refine ⟨?_, h.parts⟩
  obtain ⟨_, _, _, _, _, _, _, _, rfl⟩ := h.outside
  exact ⟨_, _, _, _, _, _, _, _, _, _, _, rfl⟩

theorem count (c : Chip) (r : Reg) (n : Nat) : c.Measured (c.count r n) := ⟨⟨_, _, _, _, _, _, _, _, _, _, _, rfl⟩, rfl⟩
theorem setBits (c : Chip) (r : Reg) (m : Nat) : c.Measured (c.setBits r m) := ⟨⟨_, _, _, _, _, _, _, _, _, _, _, rfl⟩, rfl⟩
theorem setEngine (c : Chip) (n : Nat) (x : Engine) : c.Measured (c.setEngine n x) := ⟨⟨_, _, _, _, _, _, _, _, _, _, _, rfl⟩, rfl⟩

theorem withEngines (c : Chip) (t : Tbl Nat Engine) : c.Measured { c with engines := t } := ⟨⟨_, _, _, _, _, _, _, _, _, _, _, rfl⟩, rfl⟩

theorem newAccord (c : Chip) (n : Nat) : c.Measured (c.newAccord n) := by
  obtain ⟨d, hmade, hforced⟩ := c.newAccord_makes n
  have hd : c.Measured d := (setEngine c n _).trans (.of_upkeep hmade)
  have hready : (d.engine n).ready = some (c.accordOf n) := by rw [hmade.engine, Chip.engine_setEngine_same]; rfl
  split at hforced
  · exact hd.trans (.of_upkeep hforced)
  · exact (hd.trans ((setEngine d n _).trans (.of_upkeep (Chip.accordInForce_upkeep hready)))).trans (.of_upkeep hforced)

theorem initialAccords (c : Chip) (l : List (Nat × List CalSlot)) : c.Measured (c.initialAccords l) := by
  unfold Chip.initialAccords
  extract_lets zero fresh nominal
  exact (withEngines c _).trans (.foldl l _ (fun c a => (setEngine c a.1 _).trans (.newAccord _ a.1)) nominal)

theorem readBack (c : Chip) (rows : List (Nat × Nat × Nat)) : c.Measured (c.readBack rows) := by
  refine .foldl rows _ (fun c r => ?_) c
  split
  · exact .refl c
  · split
    · exact .count ..
    · exact .refl c

theorem firstTemps (c : Chip) (l : List ((Nat × Nat) × Int)) : c.Measured (c.firstTemps l) := ⟨⟨_, _, _, _, _, _, _, _, _, _, _, rfl⟩, rfl⟩

theorem power (h : c.Measured d) : d.power = c.power := by
  obtain ⟨_, _, _, _, _, _, _, _, _, _, _, rfl⟩ := h.outside
  rfl

theorem mem (h : c.Measured d) : d.mem = c.mem := by
  obtain ⟨_, _, _, _, _, _, _, _, _, _, _, rfl⟩ := h.outside
  rfl

theorem hostUp (h : c.Measured d) : d.hostUp = c.hostUp := by
  obtain ⟨_, _, _, _, _, _, _, _, _, _, _, rfl⟩ := h.outside
  rfl

theorem mbxWindow (h : c.Measured d) : d.mbxWindow = c.mbxWindow := by
  obtain ⟨_, _, _, _, _, _, _, _, _, _, _, rfl⟩ := h.outside
  rfl

theorem clocks (h : c.Measured d) : d.clocks = c.clocks := by
  obtain ⟨_, _, _, _, _, _, _, _, _, _, _, rfl⟩ := h.outside
  rfl

end Chip.Measured

/-! The part comes up (16 R557, R558) -/

/-- The part as it comes up, before anything is measured. -/
def Chip.risen (c : Chip) (last : PowerState) (wake : Nat) : Chip :=
  { c with
    therm := {}
    clocks := c.clocks.map (fun _ => ({ now := c.now, lastPulse := c.now } : Clock))
    power := { state := .live, last := last, wake := wake, inReset := false, ready := true, idleSince := c.now, lastTick := c.now } }

theorem Chip.now_risen (c : Chip) (last : PowerState) (wake : Nat) : (c.risen last wake).now = c.now := by
  simp only [Chip.now, Chip.clock, Chip.risen]
  cases c.clocks <;> rfl

theorem Chip.comeUp_measured (c : Chip) (b : Start) (last : PowerState) (wake : Nat) : (c.risen last wake).Measured (c.comeUp b last wake) := by
  unfold Chip.comeUp
  extract_lets trip up told
  have htold : (c.risen last wake).Measured told := by
    simp only [told]
    split
    · exact .foldl _ _ (fun c d => .setBits c _ 8) _
    · exact .refl _
  exact htold.trans (((Chip.Measured.firstTemps _ _).trans (.readBack _ _)).trans (.initialAccords _ _))

theorem Chip.Measured.now {c d : Chip} (h : c.Measured d) : d.now = c.now := Chip.now_of_clocks h.clocks

theorem Chip.Measured.idle {c d : Chip} (h : c.Measured d) (p : Nat) : d.running p = none ↔ c.running p = none := by
  have hrun (e : Chip) : (e.running p = none) ↔ ((e.part p).map Part.lasting).bind Part.run = none := by
    unfold Chip.running
    cases e.part p <;> simp [Part.lasting]
  rw [hrun d, hrun c, Chip.part_of_lastingParts h.parts]

/-! Firmware at a start (16 R557, R566-R569) -/

@[simp] theorem Firmware.run_update (w : Firmware) (slot : Nat) (trial : Bool) : (w.run slot trial).update = none := rfl

@[simp] theorem Firmware.blow_update (w : Firmware) : w.blow.update = w.update := by
  unfold Firmware.blow
  split <;> rfl

@[simp] theorem Firmware.loadSettings_update (w : Firmware) : w.loadSettings.1.update = w.update := by
  unfold Firmware.loadSettings
  split
  · rfl
  · split <;> rfl

theorem Firmware.plainBoot_update {w v : Firmware} (h : w.plainBoot = some v) : v.update = none := by
  unfold Firmware.plainBoot at h
  extract_lets a at h
  split at h
  · cases h; rfl
  · split at h <;> cases h
    rfl

theorem Firmware.tryBoot_update {w : Firmware} {b : Start} {slot : Nat} (h : (w.tryBoot b slot).2 = true) :
    (w.tryBoot b slot).1.update = none := by
  unfold Firmware.tryBoot at h ⊢
  extract_lets at h ⊢
  split at h
  · next hstarts => rw [if_pos hstarts]; rfl
  · cases h

/-- No update stays open through a boot. -/
theorem Firmware.boot_update (w : Firmware) (b : Start) : (w.boot b).1.update = none := by
  unfold Firmware.boot
  split
  · extract_lets tried
    split
    · next h => exact Firmware.tryBoot_update h
    · split
      · next h => exact Firmware.plainBoot_update h
      · rfl
  · split
    · next h => exact Firmware.plainBoot_update h
    · rfl

/-! The boot and the exit from Solstice (16 R552, R553) -/

/-- What every start leaves of the data path: the part out of reset and Live with nothing in memory and no step, its time and its host
link as they were, and its mailbox window too unless the start is cold. -/
structure Chip.StartsAs (cold : Bool) (c d : Chip) : Prop where
  outOfReset : d.power.inReset = false
  live : d.power.state = .live
  now : d.now = c.now
  mem : d.mem = []
  hostUp : d.hostUp = c.hostUp
  mbxWindow : d.mbxWindow = if cold then [] else c.mbxWindow
  idle : ∀ p, d.running p = none

theorem Tbl.find?_mapValues {κ ν μ : Type} [DecidableEq κ] (k : κ) (f : κ → ν → μ) (t : Tbl κ ν) :
    Tbl.find? k (t.map (fun e => (e.1, f e.1 e.2))) = (Tbl.find? k t).map (f k) := by
  induction t with
  | nil => rfl
  | cons e t ih =>
    by_cases h : e.1 = k
    · subst h
      simp [Tbl.find?]
    · simp only [List.map_cons, Tbl.find?, if_neg h, ih]

theorem Chip.idle_of_parts {c : Chip} {ν : Type} {f : Nat → ν → Part} {t : Tbl Nat ν} (h : c.parts = t.map (fun e => (e.1, f e.1 e.2)))
    (hf : ∀ k v, (f k v).run = none) (p : Nat) : c.running p = none := by
  refine Chip.running_eq_none_iff.mpr fun x hx => ?_
  rw [Chip.part, h, Tbl.find?_mapValues] at hx
  obtain ⟨v, -, rfl⟩ := Option.map_eq_some_iff.mp hx
  exact hf p v

theorem Chip.retained_idle (c : Chip) (cold : Bool) (p : Nat) : (c.retained cold).running p = none :=
  Chip.idle_of_parts (f := fun k (x : Part) => c.retainedPart k x.units x.strictNext) rfl (fun _ _ => rfl) p

theorem Chip.settle_idle (c : Chip) (o : Option Settings) (p : Nat) : (c.settle o).running p = none := by
  cases o with
  | none => rfl
  | some t => exact Chip.idle_of_parts (t := t.parts) (f := fun k (v : Nat × Bool) => c.retainedPart k v.1 v.2) rfl (fun _ _ => rfl) p

theorem Chip.settle_frame (c : Chip) (o : Option Settings) : ∃ units sense regs parts banks, c.settle o = { c with
    units := units, sense := sense, regs := regs, parts := parts, banks := banks } := by
  cases o <;> exact ⟨_, _, _, _, _, rfl⟩

/-- The part comes up on what its islands kept. -/
theorem Chip.comeUp_starts (c : Chip) (cold : Bool) (o : Option Settings) (b : Start) (last : PowerState) (wake : Nat) :
    Chip.StartsAs cold c (((c.retained cold).settle o).comeUp b last wake) ∧
      (((c.retained cold).settle o).comeUp b last wake).power.ready = true ∧
      (((c.retained cold).settle o).comeUp b last wake).power.last = last := by
  have hup := ((c.retained cold).settle o).comeUp_measured b last wake
  have hidle (p : Nat) : (((c.retained cold).settle o).comeUp b last wake).running p = none :=
    (hup.idle p).mpr ((c.retained cold).settle_idle o p)
  obtain ⟨_, _, _, _, _, hsettled⟩ := (c.retained cold).settle_frame o
  refine ⟨⟨?_, ?_, ?_, ?_, ?_, ?_, hidle⟩, ?_, ?_⟩
  · rw [hup.power]; rfl
  · rw [hup.power]; rfl
  · rw [hup.now, Chip.now_risen, hsettled]; rfl
  · rw [hup.mem, Chip.risen, hsettled]; rfl
  · rw [hup.hostUp, Chip.risen, hsettled]; rfl
  · rw [hup.mbxWindow, Chip.risen, hsettled]; rfl
  · rw [hup.power]; rfl
  · rw [hup.power]; rfl

theorem Chip.StartsAs.reverted {cold : Bool} {c d : Chip} (h : Chip.StartsAs cold c d) (yes : Bool) :
    Chip.StartsAs cold c (d.reverted yes) := by
  obtain ⟨hout, hlive, hnow, hmem, hhost, hwindow, hidle⟩ := h
  cases yes <;> exact ⟨hout, hlive, hnow, hmem, hhost, hwindow, hidle⟩

/-- Where a pair failed its self-test, a bit of SAFE.W_STATUS or the lack of a Warden is all that says so. -/
theorem Chip.pairs_frame (c : Chip) (b : Start) :
    ∃ regs noWarden ready, c.pairs b = { c with regs := regs, power := { c.power with noWarden := noWarden, ready := ready } } := by
  unfold Chip.pairs
  cases b.standbyOk <;> cases b.activeOk <;> exact ⟨_, _, _, rfl⟩

theorem Chip.StartsAs.pairs {cold : Bool} {c d : Chip} (h : Chip.StartsAs cold c d) (b : Start) : Chip.StartsAs cold c (d.pairs b) := by
  obtain ⟨hout, hlive, hnow, hmem, hhost, hwindow, hidle⟩ := h
  obtain ⟨_, _, _, hpairs⟩ := d.pairs_frame b
  rw [hpairs]
  exact ⟨hout, hlive, hnow, hmem, hhost, hwindow, hidle⟩

theorem State.readyNow_frame (s : State) : ∃ drive seen, s.readyNow = { s with
    sys := { s.sys with dbg := { s.sys.dbg with readySeen := seen }, pins := { s.sys.pins with drive := drive } } } := by
  unfold State.readyNow
  split <;> exact ⟨_, _, rfl⟩

/-- What the boot leaves: nothing runs, debug is locked, no update is open and the trip pin is as it was. -/
structure State.Boots (cold : Bool) (s t : State) : Prop where
  chip : Chip.StartsAs cold s.chip t.chip
  locked : t.sys.dbg.unlocked = false
  closed : t.sys.fw.update = none
  trip : t.sys.pins.thermtripN = s.sys.pins.thermtripN

theorem State.Boots.readyNow {cold : Bool} {s t : State} (h : State.Boots cold s t) : State.Boots cold s t.readyNow := by
  obtain ⟨_, _, hready⟩ := State.readyNow_frame t
  rw [hready]
  exact ⟨h.chip, h.locked, h.closed, h.trip⟩

theorem State.boot_boots (s : State) (b : Start) (cold : Bool) : State.Boots cold s (s.boot b cold) := by
  have hclosed := s.sys.fw.boot_update b
  unfold State.boot
  extract_lets fresh r failed failedSys ws settled up
  split
  · have hfailed : Chip.StartsAs cold s.chip { failed with power := { inReset := false, recovery := true, idleSince := failed.now } } := by
      simp only [failed, Chip.reverted]
      split <;> exact ⟨rfl, rfl, rfl, rfl, rfl, rfl, s.chip.retained_idle cold⟩
    exact ⟨hfailed, rfl, hclosed, rfl⟩
  · have hup : Chip.StartsAs cold s.chip (settled.comeUp b .live 0) := (s.chip.comeUp_starts cold ws.2 b .live 0).1
    have hfw : ws.1.update = none := by
      rw [Firmware.loadSettings_update, Firmware.blow_update]
      exact hclosed
    clear_value ws
    exact State.Boots.readyNow ⟨(hup.reverted r.2.2).pairs b, rfl, hfw, rfl⟩

/-! The host link trains -/

theorem Chip.flushWrites_power (c : Chip) (fn : Nat) : (c.flushWrites fn).power = c.power := by
  unfold Chip.flushWrites
  extract_lets emptied
  split
  · rfl
  · exact List.foldlRecOn (motive := fun d : Chip => d.power = c.power) _ _ rfl fun d hd w _ => (d.hostWrite_power fn w.1 w.2).trans hd

theorem State.trainHost_power (s : State) : s.trainHost.chip.power = s.chip.power := by
  unfold State.trainHost
  extract_lets p
  split
  · exact List.foldlRecOn (motive := fun d : Chip => d.power = s.chip.power) _ _ rfl fun d hd fn _ => (d.flushWrites_power fn).trans hd
  · rfl

end Sys2Proof.Machine
end

section
/-! PROOFS. Reset (16 R553, R576, 17 R579): what State.reset holds, what a command can do while reset holds the part, and the statements settled
from these. -/

namespace Sys2Proof.Machine

/-! The values of reset -/

/-- Settles O58: no table of State.reset lists anything, so every read gives its default, a register its table's reset value. -/
theorem resetHoldsItsValues : Obligations.ResetHoldsItsValues := by
  have hclock (d : Nat) (hd : d < 8) : State.reset.chip.timeOn d = 0 := by
    have hnew : State.reset.chip.clocks[d]? = some {} := List.getElem?_replicate_of_lt hd
    rw [Chip.timeOn, Chip.clock, List.getD_eq_getElem?_getD, hnew]
    rfl
  have hcal : (0xFA0010 : Word).field 8 0 = 16 ∧ (0xFA0010 : Word).field 25 16 = 250 := by decide
  have hintegrity : (0x10004001 : Word).field 31 16 = 4096 ∧ (0x10004001 : Word).field 15 8 = 64 := by decide
  refine ⟨rfl, rfl, rfl, rfl, rfl, rfl, rfl, rfl, fun _ => rfl, hclock, fun _ => rfl, fun _ => rfl, fun _ _ => rfl, fun _ => rfl,
    fun _ => rfl, rfl, rfl, rfl, fun _ => ⟨rfl, rfl⟩, fun _ => hcal, fun _ => hintegrity, fun _ => ⟨rfl, rfl⟩, rfl, rfl, rfl, rfl⟩

/-! What acts in reset -/

/-- One part follows another in reset: only the host link and what manufacture noted of the sensors can differ. -/
def Chip.HeldAs (c d : Chip) : Prop := ∃ up gaps dividers, d = { c with hostUp := up, vbgh := gaps, dividers := dividers }

theorem Chip.HeldAs.refl (c : Chip) : c.HeldAs c := ⟨c.hostUp, c.vbgh, c.dividers, rfl⟩

theorem Chip.HeldAs.of_eq {c d : Chip} (h : d = c) : c.HeldAs d := h ▸ .refl c

theorem held_of_same {o : Host.Outcome State Fault Refusal} {s : State} (h : o = .next s) : ∃ t, o = .next t ∧ s.chip.HeldAs t.chip :=
  ⟨s, h, .refl _⟩

/-! Commands that touch the system side alone -/

@[simp] theorem State.updPins_chip (s : State) (f : Pins → Pins) : (s.updPins f).chip = s.chip := rfl
@[simp] theorem State.updDbg_chip (s : State) (f : Debug → Debug) : (s.updDbg f).chip = s.chip := rfl
@[simp] theorem State.tap_chip (s : State) (instr : Nat) (out : List Bool) (drive : Nat) : (s.tap instr out drive).chip = s.chip := rfl
@[simp] theorem State.bypass_chip (s : State) (tdi : List Bool) : (s.bypass tdi).chip = s.chip := rfl

@[simp] theorem State.lockDebug_chip (s : State) : s.lockDebug.chip = s.chip := by
  unfold State.lockDebug
  extract_lets locked
  split <;> rfl

@[simp] theorem State.pinDriving_chip (s : State) (instr : Nat) (out : List Bool) : (s.pinDriving instr out).chip = s.chip := by
  unfold State.pinDriving
  split <;> rfl

@[simp] theorem State.debugging_chip (s : State) (who : Agent) (f : Debug → Debug) : (s.debugging who f).chip = s.chip := by
  unfold State.debugging
  split <;> rfl

/-! The part in reset -/

/-- With PWRGD low, or PORST_N high already, a release of PORST_N boots nothing. -/
theorem exec_porstNRelease_held {s : State} (b : Start) (h : ¬ (s.sys.pins.porstN = false ∧ s.sys.pins.pwrgd = true)) :
    Completes (.porstNRelease b) s (fun t => s.chip.HeldAs t.chip) := by
  refine ⟨_, rfl, .of_eq ?_⟩
  cases hporst : s.sys.pins.porstN with
  | true => rfl
  | false =>
    have hgood : s.sys.pins.pwrgd = false := by simpa [hporst] using h
    simp [State.updPins, hgood]

section
variable {s : State} (hreset : s.chip.power.inReset = true)
include hreset

theorem Chip.powered_inReset : s.chip.powered = false := by simp [Chip.powered, hreset]

theorem State.wardenServes_inReset : s.wardenServes = false := by simp [State.wardenServes, hreset]

theorem State.onBus_inReset (f : State → State) : s.onBus f = .next s := by simp [State.onBus, hreset]

theorem State.onDie_inReset (d : Nat) (f : State → State) : s.onDie d f = .next s := by simp [State.onDie, hreset]

theorem State.onAccess_inReset (t : Target) (f : State → State) : s.onAccess t f = .next s := by simp [State.onAccess, hreset]

theorem State.enterReset_inReset : s.enterReset = s := by simp [State.enterReset, hreset]

theorem State.trainHost_inReset : s.trainHost = s := by simp [State.trainHost, hreset]

theorem Chip.tick_inReset : s.chip.tick = s.chip := by simp [Chip.tick, hreset]

theorem Chip.budgetWaits_inReset : s.chip.budgetWaits = s.chip := by
  rw [Chip.budgetWaits, Chip.powered_inReset hreset]
  rfl

/-- Every command but a release of PORST_N leaves the part held: those of the data path need its power, accesses, telemetry and mailbox
commands a part out of reset, and what is left works on the system side, the host link and what the board brings. -/
theorem exec_inReset (i : Instr) (hi : ∀ b, i ≠ .porstNRelease b) : Completes i s (fun t => s.chip.HeldAs t.chip) := by
  have hoff := Chip.powered_inReset hreset
  have hwaits := State.wardenServes_inReset hreset
  unfold Completes exec
  cases i with
  | porstNRelease b => exact absurd rfl (hi b)
  | completionWrite | statusPageWrite | functionLevelReset | bmeWrite | snsCaptureZero | snsCaptureFull | snsClear | snsCaptureDone
  | vicSourceEdge | vicPendSet | vicDeliver | vicEoi | vicHoldoffExpiry => exact held_of_same (State.onPort_reset hreset _)
  | registerWrite | statusBitClear | counterClear | pairLowRead | pairHighWrite => exact held_of_same (State.onAccess_inReset hreset _ _)
  | telemConversion | telemUrgent => exact held_of_same (State.onDie_inReset hreset _ _)
  | mctpSetEndpointId | mctpGetEndpointId | mctpGetVersionSupport | mctpGetMessageType => exact held_of_same (State.onBus_inReset hreset _)
  | partCreate | partRelease | partStrict | unitScrub | keyGrant | keyRevoke | regWrite | fwuBegin | fwuWrite | fwuVerify | fwuActivate
  | fwuAbort | pwrSetLive | pwrSetEve | pwrSetVigil | pwrSetSolstice | pwrCfg | pwrLimit | pkgReset | dbgChallenge | dbgUnlock
  | dbgLock => exact held_of_same (State.mailbox_waits _ hwaits)
  | regRead => exact held_of_same (by simp [execRegRead, hwaits])
  | partScrubDone => exact held_of_same (by simp [execPartScrubDone, hoff])
  | settingsWrite => exact held_of_same (by simp [execSettingsWrite, hreset])
  | wardenTakeover => exact held_of_same (by simp [execWardenTakeover, hoff])
  | wardenCheckpoint => exact held_of_same (by simp [execWardenCheckpoint, Chip.standby, hreset])
  | cpWatchdogRestart => exact held_of_same (by simp [execCpWatchdogRestart, hoff])
  | dbgChallengeLapse => exact ⟨_, rfl, .of_eq (by split <;> rfl)⟩
  | dbgExpiry => exact ⟨_, rfl, .of_eq (by split <;> simp)⟩
  | jtagBypass | jtagIdcode | jtagSamplePreload => exact ⟨_, rfl, .refl _⟩
  | jtagExtest | jtagClamp | jtagHighz => exact ⟨_, rfl, .of_eq (State.pinDriving_chip ..)⟩
  | dbgHalt | dbgSingleStep | dbgBreakpoint => exact ⟨_, rfl, .of_eq (State.debugging_chip ..)⟩
  | dbgMemoryAccess => exact ⟨s.bypass [], by simp [execDbgMemoryAccess, hreset], .refl _⟩
  | porstNAssert | pwrgdFall => exact ⟨_, rfl, .of_eq ((congrArg State.chip (State.enterReset_inReset (s := s.updPins _) hreset)).trans rfl)⟩
  | pwrgdRise =>
    refine ⟨_, rfl, ?_⟩
    unfold State.made
    split
    · exact .refl _
    · exact ⟨_, _, _, rfl⟩
  | perstNAssert => exact ⟨s.updPins _, by simp [execPerstNAssert, hreset]; rfl, .refl _⟩
  | perstNRelease | refclkPcieReturn => exact ⟨_, rfl, .of_eq ((congrArg State.chip (State.trainHost_inReset (s := s.updPins _) hreset)).trans rfl)⟩
  | refclkSdLoss => exact ⟨s.updPins _, by simp [execRefclkSdLoss, hreset]; rfl, .refl _⟩
  | refclkPcieLoss => exact ⟨_, rfl, ⟨_, _, _, rfl⟩⟩
  | devtimeAlignPulse | devtimePulseMiss => exact held_of_same (State.onChip_off hoff (fun c => if _ = 0 then c else _))
  | _ => exact held_of_same (State.onChip_off hoff _)

end

/-- A release of PORST_N with PWRGD high ends reset: the part boots. -/
theorem exec_porstNRelease_boots {s : State} (b : Start) (hporst : s.sys.pins.porstN = false) (hgood : s.sys.pins.pwrgd = true) :
    Completes (.porstNRelease b) s (fun t => t.chip.power.inReset = false) := by
  refine ⟨_, rfl, ?_⟩
  simp only [hporst, State.updPins, hgood, Bool.false_eq_true, if_false, Bool.not_true]
  rw [State.trainHost_power]
  exact (State.boot_boots _ b true).chip.outOfReset

/-- Settles O60: what runs in reset follows the part held as it is; a release of PORST_N with PWRGD high ends reset, by the boot. -/
theorem resetHoldsThePart : Obligations.ResetHoldsThePart := by
  intro s t hreset hstep
  have of_completes {i : Instr} {u : State} {P : State → Prop} (hi : exec i u = .next t) (h : Completes i u P) : P t := by
    obtain ⟨v, hv, hP⟩ := h
    cases hi.symm.trans hv
    exact hP
  have held (h : s.chip.HeldAs t.chip) : t.chip.power = s.chip.power ∧ t.chip.mem = s.chip.mem ∧ t.chip.regs = s.chip.regs ∧
      t.chip.parts = s.chip.parts ∧ t.chip.banks = s.chip.banks ∧ t.chip.units = s.chip.units ∧ t.chip.clocks = s.chip.clocks ∧
      t.chip.host = s.chip.host ∧ t.chip.funcs = s.chip.funcs ∧ t.chip.fab = s.chip.fab := by
    obtain ⟨_, _, _, h⟩ := h
    simp [h]
  unfold step at hstep
  cases hpending : s.pending with
  | nil =>
    rw [hpending] at hstep
    cases hstep
    exact .inl (held (.of_eq (by simp [Chip.tick_inReset hreset, Chip.budgetWaits_inReset hreset])))
  | cons i rest =>
    rw [hpending] at hstep
    by_cases hrelease : ∃ b, i = .porstNRelease b ∧ s.sys.pins.porstN = false ∧ s.sys.pins.pwrgd = true
    · obtain ⟨b, rfl, hporst, hgood⟩ := hrelease
      exact .inr ⟨b, rest, rfl, hporst, hgood, of_completes hstep (exec_porstNRelease_boots b hporst hgood)⟩
    · refine .inl (held ?_)
      by_cases hi : ∀ b, i ≠ .porstNRelease b
      · exact of_completes hstep (exec_inReset (s := { s with pending := rest }) hreset i hi)
      · obtain ⟨b, rfl⟩ : ∃ b, i = .porstNRelease b := by simpa using hi
        exact of_completes hstep (exec_porstNRelease_held b fun h => hrelease ⟨b, rfl, h⟩)

end Sys2Proof.Machine
end

section
/-! PROOFS. The interrupt controllers (15 R537-R540): a controller's update, the winner among the eligible sources, and the statement settled
from these. -/

namespace Sys2Proof.Machine

/-! One controller -/

theorem Chip.vic_updVic (c : Chip) (k : Nat) (f : Vic → Vic) : (c.updVic k f).vic k = f (c.vic k) := by
  simp [Chip.vic, Chip.updVic, Tbl.get_upd]

theorem Chip.vic_of_vics {c d : Chip} (h : d.vics = c.vics) (k : Nat) : d.vic k = c.vic k := by simp only [Chip.vic, h]

/-- Waking touches the power state alone. -/
theorem Chip.wake_frame (c : Chip) (cause : Nat) : ∃ power, c.wake cause = { c with power := power } := by
  unfold Chip.wake
  split <;> exact ⟨_, rfl⟩

theorem mem_sourceBits {w m : Nat} {v : Word} : m ∈ sourceBits w v ↔ ∃ b, b < 32 ∧ v.bit b = true ∧ m = 32 * w + b := by
  simp only [sourceBits, List.mem_map, List.mem_filter, List.mem_range]
  constructor
  · rintro ⟨b, ⟨hb, hv⟩, rfl⟩
    exact ⟨b, hb, hv, rfl⟩
  · rintro ⟨b, hb, hv, rfl⟩
    exact ⟨b, ⟨hb, hv⟩, rfl⟩

theorem Chip.vicEdge_unwired {c : Chip} {who : Agent} {n : Nat} (h : vicWired who.die n = false) (on : Bool) : c.vicEdge who n on = c := by
  simp [Chip.vicEdge, h]

/-- A controller after a source's line has changed; an edge source becomes pending where the line rises. -/
def Vic.followed (v : Vic) (n : Nat) (edge on : Bool) : Vic :=
  { v with
    lines := if on then (if v.lines.contains n then v.lines else v.lines ++ [n]) else v.lines.filter (· != n)
    pending := if (on && !v.lines.contains n && edge) && !v.pending.contains n then v.pending ++ [n] else v.pending }

/-- A number added to a list that may hold it already. -/
theorem mem_addOnce {m n : Nat} {l : List Nat} : (m ∈ if l.contains n then l else l ++ [n]) ↔ m ∈ l ∨ m = n := by
  split
  · next h =>
    have hn : n ∈ l := by simpa using h
    exact ⟨.inl, fun h => h.elim id fun h => h ▸ hn⟩
  · simp

theorem Vic.mem_pending_followed {v : Vic} {m n : Nat} {edge : Bool} :
    m ∈ (v.followed n edge true).pending ↔ m ∈ v.pending ∨ (m = n ∧ n ∉ v.lines ∧ edge = true) := by
  by_cases hrise : n ∉ v.lines ∧ edge = true
  · have hpending : (v.followed n edge true).pending = if v.pending.contains n then v.pending else v.pending ++ [n] := by
      by_cases hn : n ∈ v.pending <;> simp [Vic.followed, hrise, hn]
    rw [hpending, mem_addOnce]
    simp [hrise]
  · rw [show (v.followed n edge true).pending = v.pending from if_neg (by simp only [not_and] at hrise; simp; tauto)]
    exact ⟨.inl, fun h => h.elim id fun h => absurd h.2 hrise⟩

/-- A wired source's line is followed. -/
theorem Chip.vicEdge_wired {c : Chip} {who : Agent} {n : Nat} (h : vicWired who.die n = true) (on : Bool) :
    (c.vicEdge who n on).mem = c.mem ∧ (c.vicEdge who n on).regs = c.regs ∧
      (c.vicEdge who n on).vic (vicOf who) = (c.vic (vicOf who)).followed n (!(c.reg (rg .vicSrcCfg (vicOf who) n)).bit 3) on := by
  obtain ⟨power, hwake⟩ := c.wake_frame 4
  simp only [Chip.vicEdge, h, Bool.not_true, Bool.false_eq_true, if_false, Chip.vic_updVic]
  split
  · rw [hwake]
    exact ⟨rfl, rfl, rfl⟩
  · exact ⟨rfl, rfl, rfl⟩

/-! The winner (15 R539) -/

/-- Of two sources the later takes the place of the earlier where its priority is higher. -/
def laterWins (prio : Nat → Nat) (best : Option Nat) (n : Nat) : Option Nat :=
  match best with
  | none => some n
  | some o => if prio o < prio n then some n else best

theorem Chip.vicWinner_eq (c : Chip) (k : Nat) (mie : Bool) :
    c.vicWinner k mie = ((List.range 256).filter (c.vicEligible k mie)).foldl (laterWins (c.vicPrio k)) none := rfl

theorem foldl_laterWins_best {prio : Nat → Nat} {n : Nat} {l : List Nat} (h : ∀ m ∈ l, prio m ≤ prio n) :
    l.foldl (laterWins prio) (some n) = some n := by
  induction l with
  | nil => rfl
  | cons m l ih =>
    obtain ⟨hm, hl⟩ := List.forall_mem_cons.mp h
    rw [List.foldl_cons, laterWins, if_neg (Nat.not_lt.mpr hm)]
    exact ih hl

/-- In a rising list the fold finds the highest priority, and of equals the lowest number. -/
theorem foldl_laterWins {prio : Nat → Nat} {n : Nat} {l : List Nat} (hsorted : l.Pairwise (· < ·)) (hn : n ∈ l)
    (hbest : ∀ m ∈ l, prio m < prio n ∨ (prio m = prio n ∧ n ≤ m)) {best : Option Nat} (hlower : ∀ o, best = some o → prio o < prio n) :
    l.foldl (laterWins prio) best = some n := by
  induction l generalizing best with
  | nil => cases hn
  | cons m l ih =>
    obtain ⟨hm, hl⟩ := List.forall_mem_cons.mp hbest
    obtain ⟨hfirst, hrest⟩ := List.pairwise_cons.mp hsorted
    rw [List.foldl_cons]
    rcases List.mem_cons.mp hn with rfl | hn
    · have htaken : laterWins prio best n = some n := by
        cases best with
        | none => rfl
        | some o => exact if_pos (hlower o rfl)
      rw [htaken]
      exact foldl_laterWins_best fun m' hm' => by have := hl m' hm'; omega
    · refine ih hrest hn hl fun o ho => ?_
      have hmn : prio m < prio n := by have := hfirst n hn; omega
      cases best with
      | none => cases ho; exact hmn
      | some o' =>
        simp only [laterWins] at ho
        split at ho <;> cases ho
        · exact hmn
        · exact hlower _ rfl

theorem Chip.vicWinner_best {c : Chip} {k n : Nat} {mie : Bool} (hn : n < 256) (heligible : c.vicEligible k mie n = true)
    (hbest : ∀ m, m < 256 → c.vicEligible k mie m = true → c.vicPrio k m < c.vicPrio k n ∨ (c.vicPrio k m = c.vicPrio k n ∧ n ≤ m)) :
    c.vicWinner k mie = some n := by
  rw [Chip.vicWinner_eq]
  refine foldl_laterWins (List.pairwise_lt_range.filter _) (List.mem_filter.mpr ⟨List.mem_range.mpr hn, heligible⟩) (fun m hm => ?_)
    (fun o ho => by cases ho)
  obtain ⟨hlt, hm⟩ := List.mem_filter.mp hm
  exact hbest m (List.mem_range.mp hlt) hm

theorem Chip.vicWinner_none {c : Chip} {k : Nat} {mie : Bool} (h : ∀ n, n < 256 → c.vicEligible k mie n = false) : c.vicWinner k mie = none := by
  have hnone : (List.range 256).filter (c.vicEligible k mie) = [] :=
    List.filter_eq_nil_iff.mpr fun n hn => by simp [h n (List.mem_range.mp hn)]
  rw [Chip.vicWinner_eq, hnone]
  rfl

/-- Settles O53: each command is one update of the processor's own controller. -/
theorem interruptsAreTakenAndDelivered : Obligations.InterruptsAreTakenAndDelivered := by
  intro s who hup
  dsimp only
  refine ⟨fun n hwired on => ?_, fun n hwired => ⟨?_, ?_⟩, fun w x => ?_, fun n hn heligible hbest => ?_, fun mie hnone => ?_, ?_, fun g => ?_⟩
  · exact (State.onPort_up hup (·.vicEdge who n on)).trans (by rw [Chip.vicEdge_unwired hwired])
  · obtain ⟨hmem, hregs, hvic⟩ := Chip.vicEdge_wired (c := s.chip) hwired true
    refine ⟨_, State.onPort_up hup (·.vicEdge who n true), hmem, hregs, ?_⟩
    rw [hvic]
    refine ⟨rfl, fun m => ?_, fun m => ?_⟩
    · exact mem_addOnce
    · rw [Vic.mem_pending_followed, Bool.not_eq_true']
  · obtain ⟨hmem, hregs, hvic⟩ := Chip.vicEdge_wired (c := s.chip) hwired false
    refine ⟨_, State.onPort_up hup (·.vicEdge who n false), hmem, hregs, ?_⟩
    rw [hvic]
    exact ⟨rfl, rfl, fun m => by simp [Vic.followed]⟩
  · refine ⟨_, State.onPort_up hup (·.vicPendSet (vicOf who) w x), rfl, rfl, ?_⟩
    rw [Chip.vicPendSet, Chip.vic_updVic]
    refine ⟨rfl, fun m => ?_⟩
    rw [← mem_sourceBits]
    by_cases hm : m ∈ (s.chip.vic (vicOf who)).pending <;> simp [hm]
  · refine ⟨_, State.onPort_up hup (·.vicDeliver who true), ?_⟩
    simp only [Chip.vicDeliver, Chip.vicWinner_best hn heligible hbest]
    refine ⟨rfl, rfl, ?_⟩
    rw [Chip.vic_updVic]
    exact ⟨rfl, rfl, fun m => by simp, fun hlong => by simp [hlong]⟩
  · exact (State.onPort_up hup (·.vicDeliver who mie)).trans (by simp only [Chip.vicDeliver, Chip.vicWinner_none hnone])
  · refine ⟨_, State.onPort_up hup (·.vicPop (vicOf who)), rfl, rfl, ?_⟩
    rw [Chip.vicPop, Chip.vic_updVic]
    exact ⟨rfl, rfl⟩
  · refine ⟨_, State.onPort_up hup (·.vicHoldoffEnd who g), rfl, rfl, ?_⟩
    rw [Chip.vicHoldoffEnd, Chip.vic_updVic]
    refine ⟨?_, fun ⟨time, htime, hended⟩ => ?_, fun time htime hrunning => ?_⟩
    · split <;> rfl
    · rw [if_pos (by simp [htime, hended]), Tbl.find?_del, if_pos rfl]
    · rw [if_neg (by simpa [htime] using hrunning)]
      exact htime

end Sys2Proof.Machine
end

section
/-! PROOFS. The Warden's mailbox (15 R523-R525): what taking a request and answering it leave alone. -/

namespace Sys2Proof.Machine

/-! A request is taken -/

/-- A state that has taken a request: its command is logged and the package is awake, and nothing else is changed. -/
structure State.Takes (s u : State) : Prop where
  outside : ∃ power log, u = { s with chip := { s.chip with power := power }, sys := { s.sys with warden := { s.sys.warden with log := log } } }
  power : u.chip.power = (s.chip.wake 2).power

theorem State.takes_taken (s : State) (code : Nat) (req : MbxReq) : s.Takes (s.taken code req) := by
  obtain ⟨power, hwake⟩ := s.chip.wake_frame 2
  exact ⟨⟨power, _, by rw [State.taken, hwake]; rfl⟩, rfl⟩

namespace State.Takes

variable {s u : State} (h : s.Takes u)
include h

theorem dbg : u.sys.dbg = s.sys.dbg := by
  obtain ⟨_, _, rfl⟩ := h.outside
  rfl

theorem fw : u.sys.fw = s.sys.fw := by
  obtain ⟨_, _, rfl⟩ := h.outside
  rfl

theorem pins : u.sys.pins = s.sys.pins := by
  obtain ⟨_, _, rfl⟩ := h.outside
  rfl

theorem busErrors : u.sys.busErrors = s.sys.busErrors := by
  obtain ⟨_, _, rfl⟩ := h.outside
  rfl

theorem chip : ∃ power, u.chip = { s.chip with power := power } := by
  obtain ⟨power, _, rfl⟩ := h.outside
  exact ⟨power, rfl⟩

theorem regs : u.chip.regs = s.chip.regs := by
  obtain ⟨_, hchip⟩ := h.chip
  rw [hchip]

theorem reg (r : Reg) : u.chip.reg r = s.chip.reg r := Chip.reg_of_regs h.regs r

theorem mem : u.chip.mem = s.chip.mem := by
  obtain ⟨_, hchip⟩ := h.chip
  rw [hchip]

theorem parts : u.chip.parts = s.chip.parts := by
  obtain ⟨_, hchip⟩ := h.chip
  rw [hchip]

theorem part (p : Nat) : u.chip.part p = s.chip.part p := Chip.part_of_parts h.parts p

theorem units : u.chip.units = s.chip.units := by
  obtain ⟨_, hchip⟩ := h.chip
  rw [hchip]

theorem hostUp : u.chip.hostUp = s.chip.hostUp := by
  obtain ⟨_, hchip⟩ := h.chip
  rw [hchip]

theorem now : u.chip.now = s.chip.now := by
  obtain ⟨_, hchip⟩ := h.chip
  rw [hchip]
  rfl

end State.Takes

/-! An answer -/

section
variable (s : State) (req : MbxReq)

/-- Where a state follows another with nothing answered between them. -/
structure State.Silent (s u : State) : Prop where
  window : u.chip.mbxWindow = s.chip.mbxWindow
  mctp : u.sys.warden.mctp = s.sys.warden.mctp
  internal : u.sys.warden.internal = s.sys.warden.internal

theorem State.Takes.silent {s u : State} (h : s.Takes u) : s.Silent u := by
  obtain ⟨_, _, rfl⟩ := h.outside
  exact ⟨rfl, rfl, rfl⟩

/-- An answer is one of the state from which nothing was answered before it. -/
theorem State.Silent.answered {s u : State} (h : s.Silent u) (req : MbxReq) (st : Status) (result : Nat) (more : List Byte) :
    s.Answered (u.answer req st result more) req st result more := by
  obtain ⟨hwindow, hmctp, hinternal⟩ := h
  unfold State.Answered State.answer
  cases req.src with
  | pf => exact congrArg (fun m => Memory.write m _ _) hwindow
  | mctp => exact congrArg (· ++ _) hmctp
  | proc who => exact congrArg (· ++ _) hinternal

theorem State.answer_frame (st : Status) (result : Nat) (more : List Byte) : ∃ window mctp internal, s.answer req st result more = { s with
    chip := { s.chip with mbxWindow := window }
    sys := { s.sys with warden := { s.sys.warden with mctp := mctp, internal := internal } } } := by
  unfold State.answer
  cases req.src <;> exact ⟨_, _, _, rfl⟩

variable (st : Status) (result : Nat) (more : List Byte)

@[simp] theorem State.answer_regs : (s.answer req st result more).chip.regs = s.chip.regs := by
  obtain ⟨_, _, _, h⟩ := s.answer_frame req st result more
  rw [h]

@[simp] theorem State.answer_mem : (s.answer req st result more).chip.mem = s.chip.mem := by
  obtain ⟨_, _, _, h⟩ := s.answer_frame req st result more
  rw [h]

@[simp] theorem State.answer_parts : (s.answer req st result more).chip.parts = s.chip.parts := by
  obtain ⟨_, _, _, h⟩ := s.answer_frame req st result more
  rw [h]

@[simp] theorem State.answer_power : (s.answer req st result more).chip.power = s.chip.power := by
  obtain ⟨_, _, _, h⟩ := s.answer_frame req st result more
  rw [h]

@[simp] theorem State.answer_settingsDue : (s.answer req st result more).chip.settingsDue = s.chip.settingsDue := by
  obtain ⟨_, _, _, h⟩ := s.answer_frame req st result more
  rw [h]

@[simp] theorem State.answer_dbg : (s.answer req st result more).sys.dbg = s.sys.dbg := by
  obtain ⟨_, _, _, h⟩ := s.answer_frame req st result more
  rw [h]

@[simp] theorem State.answer_fw : (s.answer req st result more).sys.fw = s.sys.fw := by
  obtain ⟨_, _, _, h⟩ := s.answer_frame req st result more
  rw [h]

@[simp] theorem State.answer_pins : (s.answer req st result more).sys.pins = s.sys.pins := by
  obtain ⟨_, _, _, h⟩ := s.answer_frame req st result more
  rw [h]

@[simp] theorem State.answer_reg (r : Reg) : (s.answer req st result more).chip.reg r = s.chip.reg r :=
  Chip.reg_of_regs (s.answer_regs req st result more) r

end

/-! A command that is served -/

/-- A served command completes with what it does in the state that has taken the request. -/
theorem State.Serves.completes {s : State} {req : MbxReq} (h : s.Serves req) {i : Instr} {code : Nat} {inRec : Bool} {f : State → State}
    (hi : exec i s = s.mailbox req code inRec f) {P : State → Prop} (hP : ∀ u, s.Takes u → P (f u)) : Completes i s P :=
  ⟨_, hi.trans (State.mailbox_served f h.free h.source (.inl h.firmware)), hP _ (s.takes_taken code req)⟩

/-- A command that recovery firmware takes too. -/
theorem completes_inRecovery {s : State} {req : MbxReq} (hfree : s.wardenServes = true) (hsource : fromProcessor req = false) {i : Instr}
    {code : Nat} {f : State → State} (hi : exec i s = s.mailbox req code true f) {P : State → Prop} (hP : ∀ u, s.Takes u → P (f u)) :
    Completes i s P :=
  ⟨_, hi.trans (State.mailbox_served f hfree hsource (.inr rfl)), hP _ (s.takes_taken code req)⟩

end Sys2Proof.Machine
end

section
/-! PROOFS. The debug unlock (16 R564, R570-R573): the challenge, the token, the lock and the expiry. -/

namespace Sys2Proof.Machine

theorem nonce_length (n : Nat) : (nonce n).length = 32 := by simp [nonce]

/-! Locking (16 R571) -/

theorem State.lockDebug_frame (s : State) : ∃ drive, s.lockDebug = { s with
    sys := { s.sys with dbg := s.sys.dbg.lock, pins := { s.sys.pins with drive := drive } } } := by
  unfold State.lockDebug
  extract_lets locked
  split <;> exact ⟨_, rfl⟩

theorem State.lockDebug_dbg (s : State) : s.lockDebug.sys.dbg = s.sys.dbg.lock := by
  obtain ⟨_, hlock⟩ := s.lockDebug_frame
  rw [hlock]

/-! Refusals of an unlock (16 R571, R573) -/

/-- A refused unlock: DBG_EVT_FAIL counts. -/
def State.refuseUnlock (s : State) (req : MbxReq) (st : Status) : State :=
  ({ s with chip := s.chip.count (rg .dbgEvtFail) }).answer req st

theorem State.refuseUnlock_counts {s u : State} (h : u.chip.reg (rg .dbgEvtFail) = s.chip.reg (rg .dbgEvtFail)) (req : MbxReq) (st : Status) :
    (u.refuseUnlock req st).chip.reg (rg .dbgEvtFail) = (s.chip.count (rg .dbgEvtFail)).reg (rg .dbgEvtFail) := by
  rw [State.refuseUnlock, State.answer_reg]
  exact Chip.reg_count_of_reg h 1

theorem State.refuseUnlock_dbg (s : State) (req : MbxReq) (st : Status) : (s.refuseUnlock req st).sys.dbg = s.sys.dbg := by
  rw [State.refuseUnlock, State.answer_dbg]

theorem State.Silent.refuseUnlock {s u : State} (h : s.Silent u) (req : MbxReq) (st : Status) :
    s.Answered (u.refuseUnlock req st) req st :=
  State.Silent.answered (u := { u with chip := u.chip.count (rg .dbgEvtFail) }) ⟨h.window, h.mctp, h.internal⟩ req st 0 []

/-! The challenge (16 R570) -/

section
variable (s : State) (req : MbxReq)

/-- What a challenge does in a state that has taken its request. -/
def State.newChallenge : State :=
  if 8 ≤ s.sys.dbg.attempts then s.answer req .denied
  else
    let n := nonce s.chip.free
    let u := { s with chip := { s.chip with free := s.chip.free + 1 } }
    (u.updDbg (fun d => { d with challenge := some (n, u.chip.now) })).answer req .ok 0 (s.sys.fw.fuses.uid ++ n)

theorem exec_dbgChallenge : exec (.dbgChallenge req) s = s.mailbox req 0x0050 false (fun s => s.newChallenge req) := rfl

theorem exec_dbgLock : exec (.dbgLock req) s = s.mailbox req 0x0052 false (fun s => s.lockDebug.answer req .ok) := rfl

/-- After eight failed attempts no challenge is given. -/
theorem State.newChallenge_denied (h : 8 ≤ s.sys.dbg.attempts) : s.newChallenge req = s.answer req .denied := if_pos h

/-- The state in which a challenge is open. -/
def State.challenged : State :=
  { s with
    chip := { s.chip with free := s.chip.free + 1 }
    sys := { s.sys with dbg := { s.sys.dbg with challenge := some (nonce s.chip.free, s.chip.now) } } }

theorem State.newChallenge_opens (h : s.sys.dbg.attempts < 8) :
    s.newChallenge req = s.challenged.answer req .ok 0 (s.sys.fw.fuses.uid ++ nonce s.chip.free) := if_neg (Nat.not_le.mpr h)

end

/-! The unlock (16 R571) -/

section
variable (s : State) (req : MbxReq) (token : List Byte)

/-- What an unlock does in a state that has taken its request. -/
def State.unlock : State :=
  match s.sys.dbg.challenge with
  | none => s.refuseUnlock req .state
  | some (n, _) =>
    let u := s.updDbg (fun d => { d with challenge := none })
    if s.chip.units.any (fun u => u.2.1 == .active) then u.refuseUnlock req .state
    else if tokenOk s.sys.fw.fuses n token s.chip.now then
      let v := u.updDbg (fun d => { d with unlocked := true, scope := bytesLe token 0 1 % 8, expiry := bytesLe token 8 8 })
      ({ v with chip := v.chip.count (rg .dbgEvtUnlock) }).answer req .ok
    else (u.updDbg (fun d => { d with attempts := d.attempts + 1 })).refuseUnlock req .denied

theorem exec_dbgUnlock : exec (.dbgUnlock req token) s = s.mailbox req 0x0051 false (fun s => s.unlock req token) := rfl

end

section
variable {s : State} {req : MbxReq} {token : List Byte}

theorem State.unlock_none (h : s.sys.dbg.challenge = none) : s.unlock req token = s.refuseUnlock req .state := by
  simp only [State.unlock, h]

/-- The state in which a challenge has been used up. -/
def State.unchallenged (s : State) : State := s.updDbg (fun d => { d with challenge := none })

/-- The debug state a right token gives. -/
def Debug.unlockedBy (d : Debug) (token : List Byte) : Debug :=
  { d with challenge := none, unlocked := true, scope := bytesLe token 0 1 % 8, expiry := bytesLe token 8 8 }

variable {n : List Byte} {time : Nat} (hopen : s.sys.dbg.challenge = some (n, time))
include hopen

theorem State.unlock_active (h : ∃ u ∈ s.chip.units, u.2.1 = .active) : s.unlock req token = s.unchallenged.refuseUnlock req .state := by
  have hany : s.chip.units.any (fun u => u.2.1 == .active) = true := by simpa using h
  simp only [State.unlock, hopen, if_pos hany, State.unchallenged]

theorem State.unlock_right (h : ¬ ∃ u ∈ s.chip.units, u.2.1 = .active) (htoken : tokenOk s.sys.fw.fuses n token s.chip.now = true) :
    s.unlock req token = ({ s with chip := s.chip.count (rg .dbgEvtUnlock), sys := { s.sys with dbg := s.sys.dbg.unlockedBy token } } : State).answer req .ok := by
  have hany : ¬ s.chip.units.any (fun u => u.2.1 == .active) = true := by simpa using h
  simp only [State.unlock, hopen, if_neg hany]
  exact if_pos htoken

theorem State.unlock_wrong (h : ¬ ∃ u ∈ s.chip.units, u.2.1 = .active) (htoken : tokenOk s.sys.fw.fuses n token s.chip.now = false) :
    s.unlock req token = (s.unchallenged.updDbg (fun d => { d with attempts := d.attempts + 1 })).refuseUnlock req .denied := by
  have hany : ¬ s.chip.units.any (fun u => u.2.1 == .active) = true := by simpa using h
  simp only [State.unlock, hopen, if_neg hany]
  exact if_neg (by rw [show tokenOk _ n token _ = false from htoken]; exact Bool.false_ne_true)

end

/-! What ends by time (16 R571) -/

section
variable {s : State}

theorem any_ended {o : Option (List Byte × Nat)} {n : List Byte} {time span now : Nat} (h : o = some (n, time)) :
    o.any (fun e => decide (e.2 + span ≤ now)) = decide (time + span ≤ now) := by
  rw [h]
  rfl

theorem exec_dbgChallengeLapse : exec .dbgChallengeLapse s = .next (
    if s.sys.dbg.challenge.any (fun e => decide (e.2 + 60000000000 ≤ s.chip.now)) then s.updDbg (fun d => { d with challenge := none }) else s) := rfl

theorem exec_dbgChallengeLapse_late {n : List Byte} {time : Nat} (hopen : s.sys.dbg.challenge = some (n, time))
    (h : time + 60000000000 ≤ s.chip.now) :
    exec .dbgChallengeLapse s = .next (s.withSys { s.sys with dbg := { s.sys.dbg with challenge := none } }) := by
  rw [exec_dbgChallengeLapse, any_ended hopen, decide_eq_true h]
  rfl

theorem exec_dbgChallengeLapse_early {n : List Byte} {time : Nat} (hopen : s.sys.dbg.challenge = some (n, time))
    (h : s.chip.now < time + 60000000000) : exec .dbgChallengeLapse s = .next s := by
  rw [exec_dbgChallengeLapse, any_ended hopen, decide_eq_false (Nat.not_le.mpr h)]
  rfl

theorem exec_dbgExpiry_late (hunlocked : s.sys.dbg.unlocked = true) (h : s.sys.dbg.expiry ≤ s.chip.now) :
    exec .dbgExpiry s = .next s.lockDebug :=
  congrArg Host.Outcome.next (if_pos (by simp [hunlocked, h]))

theorem exec_dbgExpiry_early (h : s.chip.now < s.sys.dbg.expiry) : exec .dbgExpiry s = .next s :=
  congrArg Host.Outcome.next (if_neg (by simp; omega))

end

/-- Settles O49: a command of debug changes the debug state alone, beside its counters and its answer. -/
theorem debugUnlocksByChallengeAndToken : Obligations.DebugUnlocksByChallengeAndToken := by
  refine ⟨fun s req hserves => ⟨fun hfew => ?_, fun hmany => ?_, ?_, fun token hnone => ?_, fun token n time hopen => ?_⟩,
    fun s n time hopen => ⟨fun hlapsed => ?_, fun hearly => ?_⟩, fun s hunlocked => ⟨fun hexpired => ?_, fun hearly => ?_⟩⟩
  · refine hserves.completes (exec_dbgChallenge s req) fun u hu => ⟨nonce u.chip.free, nonce_length _, ?_⟩
    rw [← hu.dbg] at hfew ⊢
    rw [State.newChallenge_opens _ req hfew, State.answer_dbg, State.answer_regs, State.answer_mem, ← hu.now, ← hu.fw]
    exact ⟨State.Silent.answered (u := u.challenged) ⟨hu.silent.window, hu.silent.mctp, hu.silent.internal⟩ .., rfl, hu.regs, hu.mem⟩
  · refine hserves.completes (exec_dbgChallenge s req) fun u hu => ?_
    rw [← hu.dbg] at hmany ⊢
    rw [State.newChallenge_denied _ req hmany]
    exact ⟨hu.silent.answered .., State.answer_dbg ..⟩
  · refine hserves.completes (exec_dbgLock s req) fun u hu => ?_
    have hsilent : s.Silent u.lockDebug := by
      obtain ⟨_, hlock⟩ := u.lockDebug_frame
      rw [hlock]
      exact ⟨hu.silent.window, hu.silent.mctp, hu.silent.internal⟩
    rw [State.answer_dbg, State.lockDebug_dbg, hu.dbg]
    exact ⟨hsilent.answered .., rfl, rfl, rfl, rfl, rfl, rfl⟩
  · refine hserves.completes (exec_dbgUnlock s req token) fun u hu => ?_
    rw [← hu.dbg] at hnone ⊢
    rw [State.unlock_none hnone]
    exact ⟨hu.silent.refuseUnlock .., State.refuseUnlock_dbg .., State.refuseUnlock_counts (hu.reg _) ..⟩
  · intro active
    have hsilent {u : State} (hu : s.Takes u) (d : Debug) (regs : Tbl Reg Word) :
        s.Silent { u with chip := { u.chip with regs := regs }, sys := { u.sys with dbg := d } } :=
      ⟨hu.silent.window, hu.silent.mctp, hu.silent.internal⟩
    refine ⟨fun hactive => ?_, fun hactive htoken => ?_, fun hactive htoken => ?_⟩
    · refine hserves.completes (exec_dbgUnlock s req token) fun u hu => ?_
      rw [← hu.dbg] at hopen ⊢
      rw [State.unlock_active hopen (by rw [hu.units]; exact hactive)]
      exact ⟨(hsilent hu _ u.chip.regs).refuseUnlock req .state, State.refuseUnlock_dbg u.unchallenged ..,
        State.refuseUnlock_counts (u := u.unchallenged) (hu.reg _) req .state⟩
    · refine hserves.completes (exec_dbgUnlock s req token) fun u hu => ?_
      rw [← hu.dbg] at hopen ⊢
      rw [← hu.fw, ← hu.now] at htoken
      rw [State.unlock_right hopen (by rw [hu.units]; exact hactive) htoken, State.answer_dbg, State.answer_reg, State.answer_reg]
      exact ⟨(hsilent hu _ _).answered req .ok 0 [], rfl, Chip.reg_count_of_reg (hu.reg _) 1,
        (Chip.reg_count_other _ (by decide) 1).trans (hu.reg _)⟩
    · refine hserves.completes (exec_dbgUnlock s req token) fun u hu => ?_
      rw [← hu.dbg] at hopen ⊢
      rw [← hu.fw, ← hu.now] at htoken
      rw [State.unlock_wrong hopen (by rw [hu.units]; exact hactive) htoken]
      exact ⟨(hsilent hu _ u.chip.regs).refuseUnlock req .denied, State.refuseUnlock_dbg ..,
        State.refuseUnlock_counts (u := u.unchallenged.updDbg _) (hu.reg _) req .denied⟩
  · exact exec_dbgChallengeLapse_late hopen hlapsed
  · exact exec_dbgChallengeLapse_early hopen hearly
  · refine ⟨s.lockDebug, exec_dbgExpiry_late hunlocked hexpired, ?_⟩
    obtain ⟨_, hlock⟩ := s.lockDebug_frame
    rw [hlock]
    exact ⟨rfl, rfl, rfl, rfl, rfl⟩
  · exact exec_dbgExpiry_early hearly

end Sys2Proof.Machine
end

section
/-! PROOFS. The test port and the debug instructions (16 R570, 17 R576, 01 R28). -/

namespace Sys2Proof.Machine

/-! The test port (17 R576) -/

/-- The state in which the test port has taken an instruction. -/
def State.tapped (s : State) (instr : Nat) (out : List Bool) (drive : Nat) : State :=
  s.withSys { s.sys with dbg := { s.sys.dbg with instr := instr, tdo := out }, pins := { s.sys.pins with drive := drive } }

section
variable {s : State}

theorem State.tap_running (h : s.sys.pins.porstN = true) (instr : Nat) (out : List Bool) (drive : Nat) :
    s.tap instr out drive = s.tapped instr out drive := by
  rw [State.tap]
  simp only [h, if_true]
  rfl

theorem State.pinDriving_acts (h : s.sys.pins.porstN = true) (hmay : s.sys.dbg.readySeen = false ∨ s.sys.dbg.unlocked = true)
    (instr : Nat) (out : List Bool) : s.pinDriving instr out = s.tapped instr out instr := by
  rw [State.pinDriving, if_pos (by simpa using hmay), State.tap_running h]

theorem State.pinDriving_bypasses (h : s.sys.pins.porstN = true) (hready : s.sys.dbg.readySeen = true) (hlocked : s.sys.dbg.unlocked = false)
    (instr : Nat) (out : List Bool) : s.pinDriving instr out = s.tapped 0 [] 0 := by
  rw [State.pinDriving, if_neg (by simp [hready, hlocked]), State.bypass, State.tap_running h]
  rfl

end

/-! Debug instructions that reach a processor (16 R570) -/

section
variable {s : State} {who : Agent}

theorem State.debugging_reaches (h : s.reaches who = true) (f : Debug → Debug) : s.debugging who f = s.updDbg f := if_pos h

theorem State.debugging_locked (h : s.sys.dbg.unlocked = false) (f : Debug → Debug) : s.debugging who f = s.bypass [] :=
  if_neg (by simp [State.reaches, h])

theorem exec_dbgMemoryAccess_bypasses (h : s.sys.dbg.unlocked = false) (w : Bool) (a k : Nat) (v : DWord) :
    exec (.dbgMemoryAccess who w a k v) s = .next (s.bypass []) := if_pos (by simp [State.reaches, h])

/-- An access of a reached processor out of reset is a bus error, a write or a read through its map. -/
theorem exec_dbgMemoryAccess_reaches (hreaches : s.reaches who = true) (hup : s.chip.power.inReset = false) (w : Bool) (a k : Nat) (v : DWord) :
    exec (.dbgMemoryAccess who w a k v) s = match busErrorAt (.phys who a) with
      | some a => .fault (.busError a)
      | none => .next (if w then s.withChip (s.chip.registerWrite (.phys who a) k v) else s.debugRead who a k) :=
  if_neg (by simp [hup, hreaches])

end

/-! What lies at a physical offset (01 R26, R28) -/

theorem mapped_eq_true_iff {a : Nat} : mapped a = true ↔ a < 0x18000000000 ∨ (0x20000000000 ≤ a ∧ a < 0x200C0000000) ∨
    (0x30000000000 ≤ a ∧ a < 0x30110000000) ∨ (0x3F000000000 ≤ a ∧ a < 0x3F001000000) := by
  simp only [mapped, Bool.or_eq_true, Bool.and_eq_true, decide_eq_true_eq, or_assoc]
  simp only [hbmUnit, coreScratch, Nat.reduceMul, Nat.reducePow]

/-- Every range of the map begins and ends at a word. -/
theorem mapped_word (a : Nat) : mapped (a / 4 * 4) = mapped a := by
  rw [Bool.eq_iff_iff, mapped_eq_true_iff, mapped_eq_true_iff]
  omega

theorem physSpot_unmapped {a : Nat} (h : mapped a = false) : physSpot a = .unmapped := by simp [physSpot, h]

theorem mapped_of_memory {a m : Nat} (h : physSpot a = .memory m) : mapped a = true := by
  by_contra hmap
  rw [physSpot_unmapped (by simpa using hmap)] at h
  cases h

theorem busErrorAt_memory {who : Agent} {a m : Nat} (h : physSpot a = .memory m) : busErrorAt (.phys who a) = none := by
  simp [busErrorAt, mapped_of_memory h]

theorem busErrorAt_other {who : Agent} (h : 5 ≤ who.num) (a : Nat) : busErrorAt (.phys who a) = none := by
  simp [busErrorAt, Nat.not_lt.mpr h]

theorem Chip.spot_unmapped {c : Chip} {who : Agent} {a : Nat} (h : mapped a = false) : c.spot (.phys who a) = .unmapped := physSpot_unmapped h

/-- Outside the map a write changes nothing and a read gives 0, of an agent that takes no bus error (log entry 71). -/
theorem Chip.registerWrite_unmapped {c : Chip} {who : Agent} {a : Nat} (h : mapped a = false) (v : DWord) :
    c.registerWrite (.phys who a) 4 v = c := by
  have hword : c.spot (wordOf (.phys who a)) = .unmapped := Chip.spot_unmapped (by rw [mapped_word]; exact h)
  simp [Chip.registerWrite, Chip.busWrite, Chip.spot_unmapped h, Chip.denies, hword]

theorem State.registerRead_unmapped {s : State} {who : Agent} {a : Nat} (h : mapped a = false) : s.registerRead (.phys who a) 4 = (s, 0) := by
  simp [State.registerRead, State.busRead, Chip.spot_unmapped h]

/-! A processor's reads of memory (12 R425, R426, R428) -/

theorem Chip.correct_clean {c : Chip} (h : c.ce = []) (p : Nat) (rs : List (Nat × Nat)) : c.correct p rs = c := by
  simp [Chip.correct, wordsIn, h]

theorem Chip.readCheck_clean {c : Chip} (hce : c.ce = []) (hue : c.ue = []) (hdamaged : c.damaged = []) (p : Nat) (parity : Bool)
    (rs : List (Nat × Nat)) : c.readCheck p parity rs = (c, true) := by
  have hue : wordsIn c.ue rs = [] := by rw [hue]; rfl
  have hdamaged : wordsIn c.damaged rs = [] := by rw [hdamaged]; rfl
  simp [Chip.readCheck, hue, hdamaged, Chip.correct_clean hce]

theorem Chip.readCheck_poisoned {c : Chip} {rs : List (Nat × Nat)} (h : wordsIn c.ue rs ≠ []) (p : Nat) (parity : Bool) :
    c.readCheck p parity rs = (c.noteUe p (wordsIn c.ue rs).length, false) := by
  rw [Chip.readCheck, if_pos (by simpa using h)]

theorem Chip.enterRecovery_regs (c : Chip) (p : Nat) : (c.enterRecovery p).regs = c.regs := Chip.updPart_regs ..

/-- A consumed poisoned word: memory stays, the partition's status bit is set and its counter counts. -/
theorem Chip.noteUe_facts (c : Chip) (p n : Nat) : (c.noteUe p n).mem = c.mem ∧ ((c.noteUe p n).reg (rg .safeIntStatus p)).bit 0 = true ∧
    (c.noteUe p n).reg (rg .safeEvtUe p) = (c.count (rg .safeEvtUe p) n).reg (rg .safeEvtUe p) := by
  have hreg (r : Reg) : (c.noteUe p n).reg r = ((c.setBits (rg .safeIntStatus p) 1).count (rg .safeEvtUe p) n).reg r :=
    Chip.reg_of_regs (Chip.enterRecovery_regs _ p) r
  refine ⟨Chip.updPart_mem .., ?_, ?_⟩
  · rw [hreg, Chip.reg_count_other _ (by simp [rg])]
    rw [Chip.setBits, Chip.reg_setReg_same, Word.bit_or]
    exact Bool.or_eq_true_iff.mpr (.inr (by decide))
  · rw [hreg]
    exact Chip.reg_count_of_reg (Chip.reg_setBits_other _ (by simp [rg]) 1) n

section
variable {s : State} {who : Agent} {a m : Nat} (hspot : physSpot a = .memory m)
include hspot

theorem Chip.registerWrite_memory (c : Chip) (k : Nat) (v : DWord) :
    c.registerWrite (.phys who a) k v = c.write m (leBytes k v.toNat) := by
  simp [Chip.registerWrite, Chip.spot, hspot]

theorem State.debugRead_clean (hce : s.chip.ce = []) (hue : s.chip.ue = []) (hdamaged : s.chip.damaged = []) (k : Nat) :
    s.debugRead who a k = s.updDbg (fun d => { d with lastRead := s.chip.mem.le m k }) := by
  simp [State.debugRead, hspot, Chip.processorRead, Chip.readCheck_clean hce hue hdamaged, Chip.le]

theorem State.debugRead_poisoned {k : Nat} (h : wordsIn s.chip.ue [(m / 8 * 8, m + k)] ≠ []) : s.debugRead who a k =
    (s.withChip (s.chip.noteUe (s.chip.governing (unitAt m)) (wordsIn s.chip.ue [(m / 8 * 8, m + k)]).length)).busFault who m := by
  simp [State.debugRead, hspot, Chip.processorRead, Chip.readCheck_poisoned h, State.withChip]

end

theorem State.busFault_withChip (s : State) (c : Chip) (who : Agent) (a : Nat) :
    (s.withChip c).busFault who a = (s.busFault who a).withChip c := by
  unfold State.busFault
  split <;> rfl

/-- A breakpoint that is set takes the place of the processor's one of its kind and number. -/
theorem mem_placedBreak {l : List (Agent × Nat × Bool × Nat)} {who : Agent} {n a : Nat} {watch : Bool} {b : Agent × Nat × Bool × Nat} :
    b ∈ l.filter (fun b => !(b.1 == who && b.2.1 == n && b.2.2.1 == watch)) ++ [(who, n, watch, a)] ↔
      b = (who, n, watch, a) ∨ (b ∈ l ∧ ¬ (b.1 = who ∧ b.2.1 = n ∧ b.2.2.1 = watch)) := by
  have hkept : b ∈ l.filter (fun b => !(b.1 == who && b.2.1 == n && b.2.2.1 == watch)) ↔
      b ∈ l ∧ ¬ (b.1 = who ∧ b.2.1 = n ∧ b.2.2.1 = watch) := by
    rw [List.mem_filter]
    simp
    tauto
  rw [List.mem_append, List.mem_singleton, hkept, or_comm]

/-- Settles O50: each instruction is one update of the debug state or one access through the map. -/
theorem testPortAndDebugInstructionsAct : Obligations.TestPortAndDebugInstructionsAct := by
  refine ⟨fun s tdi bits hporst => ⟨?_, ?_, ?_, fun hmay => ⟨?_, ?_, ?_⟩, fun hready hlocked => ⟨?_, ?_, ?_⟩⟩,
    fun s who n a watch hunlocked hscope => ?_, fun s who n a watch w k v hlocked i hi => ?_⟩
  · exact congrArg Host.Outcome.next (State.tap_running hporst ..)
  · exact congrArg Host.Outcome.next (State.tap_running hporst ..)
  · refine ⟨s.sys.pins.sample, congrArg Host.Outcome.next ?_⟩
    rw [State.tap_running hporst]
    rfl
  · exact ⟨_, congrArg Host.Outcome.next (State.pinDriving_acts hporst hmay ..)⟩
  · exact ⟨_, congrArg Host.Outcome.next (State.pinDriving_acts hporst hmay ..)⟩
  · exact ⟨_, congrArg Host.Outcome.next (State.pinDriving_acts hporst hmay ..)⟩
  · exact congrArg Host.Outcome.next (State.pinDriving_bypasses hporst hready hlocked ..)
  · exact congrArg Host.Outcome.next (State.pinDriving_bypasses hporst hready hlocked ..)
  · exact congrArg Host.Outcome.next (State.pinDriving_bypasses hporst hready hlocked ..)
  · have hreaches : s.reaches who = true := by simp [State.reaches, hunlocked, scopeBit, hscope]
    intro goes
    refine ⟨fun hruns => ⟨?_, ?_⟩, fun hhalted => ⟨?_, ?_⟩, fun hn => ?_, fun hup hmap w k v => ⟨fun hwho => ?_, fun hwho => ⟨?_, fun ha => ?_⟩⟩,
      fun hup m hspot k v => ⟨?_, fun hce hue hdamaged => ?_, fun hpoison => ?_⟩⟩
    · refine congrArg Host.Outcome.next ((State.debugging_reaches hreaches _).trans ?_)
      simp [State.updDbg, hruns, goes, State.withSys]
    · refine congrArg Host.Outcome.next ((State.debugging_reaches hreaches _).trans ?_)
      simp [State.updDbg, hruns]
    · refine congrArg Host.Outcome.next ((State.debugging_reaches hreaches _).trans ?_)
      simp [State.updDbg, hhalted]
    · refine congrArg Host.Outcome.next ((State.debugging_reaches hreaches _).trans ?_)
      simp [State.updDbg, hhalted, goes, State.withSys, Tbl.upd]
    · refine ⟨_, congrArg Host.Outcome.next (State.debugging_reaches hreaches _), rfl, fun b => ?_⟩
      simp only [State.updDbg, if_pos hn]
      exact mem_placedBreak
    · rw [exec_dbgMemoryAccess_reaches hreaches hup, busErrorAt_processor hmap hwho]
    · rw [exec_dbgMemoryAccess_reaches hreaches hup, busErrorAt_other hwho]
      simp only [if_true, Chip.registerWrite_unmapped hmap]
      rfl
    · rw [exec_dbgMemoryAccess_reaches hreaches hup, busErrorAt_other hwho]
      simp only [Bool.false_eq_true, if_false, State.debugRead, physSpot_unmapped hmap, State.registerRead_unmapped hmap]
      rfl
    · rw [exec_dbgMemoryAccess_reaches hreaches hup, busErrorAt_memory hspot]
      simp only [if_true, Chip.registerWrite_memory hspot]
    · rw [exec_dbgMemoryAccess_reaches hreaches hup, busErrorAt_memory hspot]
      simp only [Bool.false_eq_true, if_false, State.debugRead_clean hspot hce hue hdamaged]
      rfl
    · rw [Completes, exec_dbgMemoryAccess_reaches hreaches hup, busErrorAt_memory hspot]
      simp only [Bool.false_eq_true, if_false, State.debugRead_poisoned hspot hpoison]
      obtain ⟨hmem, hbit, hcount⟩ := s.chip.noteUe_facts (s.chip.governing (unitAt m)) (wordsIn s.chip.ue [(m / 8 * 8, m + k)]).length
      rw [State.busFault_withChip]
      exact ⟨_, rfl, rfl, hmem, hbit, hcount⟩
  · simp only [List.mem_cons, List.not_mem_nil, or_false] at hi
    rcases hi with rfl | rfl | rfl | rfl
    · exact ⟨s.bypass [], congrArg Host.Outcome.next (State.debugging_locked hlocked _), rfl, rfl, rfl, rfl, rfl, rfl⟩
    · exact ⟨s.bypass [], congrArg Host.Outcome.next (State.debugging_locked hlocked _), rfl, rfl, rfl, rfl, rfl, rfl⟩
    · exact ⟨s.bypass [], congrArg Host.Outcome.next (State.debugging_locked hlocked _), rfl, rfl, rfl, rfl, rfl, rfl⟩
    · exact ⟨s.bypass [], exec_dbgMemoryAccess_bypasses hlocked .., rfl, rfl, rfl, rfl, rfl, rfl⟩

end Sys2Proof.Machine
end

section
/-! PROOFS. The host interface (13 R459, R467, R472, R475-R482): what a host write leaves alone, completions, status pages, late reads and
queries, and the statements settled from these. -/

namespace Sys2Proof.Machine

/-! Host writes (13 R458) -/

/-- The part with bytes put into host memory. -/
def Chip.toHost (c : Chip) (a : Nat) (bs : List Byte) : Chip := { c with host := { c.host with mem := c.host.mem.write a bs } }

@[simp] theorem Chip.toHost_mem (c : Chip) (a : Nat) (bs : List Byte) : (c.toHost a bs).mem = c.mem := rfl
@[simp] theorem Chip.toHost_parts (c : Chip) (a : Nat) (bs : List Byte) : (c.toHost a bs).parts = c.parts := rfl
@[simp] theorem Chip.toHost_host (c : Chip) (a : Nat) (bs : List Byte) : (c.toHost a bs).host.mem = c.host.mem.write a bs := rfl

/-- With Bus Master Enable a host write reaches host memory, and changes nothing else. -/
theorem Chip.hostWrite_up {c : Chip} {fn : Nat} (h : c.busMaster fn = true) (a : Nat) (bs : List Byte) :
    c.hostWrite fn a bs = c.toHost a bs := if_pos h

theorem Chip.hasFunc_of_busMaster {c : Chip} {fn : Nat} (h : c.busMaster fn = true) : c.hasFunc fn = true := by
  simp only [Chip.busMaster, Bool.and_eq_true] at h
  exact h.1.1

/-- Bus Master Enable rests on the functions, their number and the host link. -/
theorem Chip.busMaster_of_funcs {c d : Chip} (hfuncs : d.funcs = c.funcs) (hvfs : d.numVfs = c.numVfs) (hup : d.hostUp = c.hostUp) (fn : Nat) :
    d.busMaster fn = c.busMaster fn := by
  simp only [Chip.busMaster, Chip.hasFunc, Chip.func, hfuncs, hvfs, hup]

/-- A change of a function that keeps its Bus Master Enable keeps what it may do. -/
theorem Chip.busMaster_updFunc (c : Chip) (fn : Nat) {f : Func → Func} (h : (f (c.func fn)).bme = (c.func fn).bme) :
    (c.updFunc fn f).busMaster fn = c.busMaster fn := by
  rw [Chip.busMaster, Chip.func_updFunc_same, h]
  rfl

/-! Completions (13 R467, R472) -/

section
variable {s : State} {fn : Nat}

theorem exec_completionWrite_up (hup : s.chip.power.inReset = false) (n : Nat) :
    exec (.completionWrite fn n) s = .next (s.withChip (s.chip.completionWrite fn n)) := State.onPort_up hup (·.completionWrite fn n)

/-- The oldest completion of a ring that can take it leaves the list and is put at the ring's tail. -/
theorem Chip.completionWrite_puts {c : Chip} {n : Nat} {k : Completion} {rest : List Completion}
    (hfirst : takeFirst (fun k : Completion => k.cq == n) (c.func fn).waiting = some (k, rest)) (hbus : c.busMaster fn = true)
    (hon : c.cqOn fn n = true) (hruns : n ∉ (c.func fn).stopped) (hroom : k.reserved = true ∨ c.cqRoom fn n = true) :
    c.completionWrite fn n = (c.updFunc fn (fun f => { f with waiting := rest })).putCompletion fn n k := by
  have hroom : (!k.reserved && !c.cqRoom fn n) = false := by rcases hroom with h | h <;> simp [h]
  simp [Chip.completionWrite, hfirst, hbus, hon, hruns, hroom]

/-- The register of a ring's tail after a completion: the next index, and the phase, which flips where the index wraps. -/
def Chip.nextTail (c : Chip) (fn n : Nat) : Word :=
  let phase := c.field (rg .ringCqTail fn n) 16 16
  let next := (c.cqTail fn n + 1) % c.cqSize fn n
  BitVec.ofNat 32 (next + 65536 * (if next = 0 then 1 - phase else phase))

/-- A completion put at its ring's tail: its bytes in host memory, the tail moved on, and its reserved slot given back. -/
theorem Chip.putCompletion_up {c : Chip} (hbus : c.busMaster fn = true) (n : Nat) (k : Completion) :
    (c.putCompletion fn n k).mem = c.mem ∧ (c.putCompletion fn n k).parts = c.parts ∧
      (c.putCompletion fn n k).host.mem = c.host.mem.write (c.pair (rg .ringCqBaseLo fn n) (rg .ringCqBaseHi fn n) + 32 * c.cqTail fn n)
        (k.bytes (c.field (rg .ringCqTail fn n) 16 16)) ∧
      (c.putCompletion fn n k).regs = Tbl.set (rg .ringCqTail fn n) (c.nextTail fn n) c.regs ∧
      (c.putCompletion fn n k).func fn =
        { c.func fn with reserved := if k.reserved then Tbl.upd 0 n (· - 1) (c.func fn).reserved else (c.func fn).reserved } := by
  unfold Chip.putCompletion
  extract_lets tail phase next written stored
  have hwritten : written = c.toHost _ _ := Chip.hostWrite_up hbus ..
  have hstored : stored = written.setReg (rg .ringCqTail fn n) (c.nextTail fn n) := rfl
  rw [hwritten] at hstored
  clear_value stored
  subst hstored
  split
  · simp only [Chip.updFunc_mem, Chip.updFunc_parts, Chip.updFunc_host, Chip.updFunc_regs, Chip.setReg_mem, Chip.setReg_parts,
      Chip.setReg_host, Chip.setReg_regs, Chip.func_updFunc_same, Chip.toHost, true_and]
    exact ⟨rfl, rfl⟩
  · simp only [Chip.setReg_mem, Chip.setReg_parts, Chip.setReg_host, Chip.setReg_regs, Chip.toHost, true_and]
    exact ⟨rfl, rfl⟩

theorem Completion.bytes_eq (k : Completion) (phase : Nat) : k.bytes phase =
    leBytes 8 k.tag ++ leBytes 4 k.result ++ leBytes 2 k.cmdId ++ leBytes 2 k.sqHead ++ leBytes 1 k.status.code ++
      leBytes 1 (k.sq % 8 + (if k.more then 8 else 0) + (if k.opIndex.isSome then 16 else 0)) ++ leBytes 2 (k.opIndex.getD 0) ++
      leBytes 8 k.time ++ [0, 0, 0] ++ leBytes 1 phase := rfl

theorem Chip.reg_of_set {c d : Chip} {r : Reg} {v : Word} (h : d.regs = Tbl.set r v c.regs) (q : Reg) :
    d.reg q = if q = r then v else c.reg q := by
  exact (Chip.reg_of_regs (d := c.setReg r v) h q).trans (Chip.reg_setReg ..)

/-- Settles O31: the completion is put at the tail, and all else is as it was. -/
theorem completionsReachTheirRing : Obligations.CompletionsReachTheirRing := by
  intro s fn n k rest hup hfirst hbus hon hruns hroom tail phase base next
  refine ⟨_, exec_completionWrite_up hup n, ?_⟩
  have hbus' : (s.chip.updFunc fn (fun f => { f with waiting := rest })).busMaster fn = true := by
    rw [Chip.busMaster_updFunc _ _ rfl]
    exact hbus
  obtain ⟨hmem, hparts, hhost, hregs, hfunc⟩ := Chip.putCompletion_up hbus' n k
  rw [← Chip.completionWrite_puts hfirst hbus hon hruns hroom] at hmem hparts hhost hregs hfunc
  rw [Chip.func_updFunc_same] at hfunc
  refine ⟨hmem, hparts, ?_, ?_, fun r hr => ?_, ?_⟩
  · rw [← Completion.bytes_eq]
    exact hhost
  · exact (Chip.reg_of_set (c := s.chip) hregs _).trans (if_pos rfl)
  · exact (Chip.reg_of_set (c := s.chip) hregs r).trans (if_neg hr)
  · simp only [State.withChip, hfunc, true_and]
    cases k.reserved <;> simp [Tbl.get_upd]

/-! The status page (13 R478-R482) -/

theorem exec_statusPageWrite_up (hup : s.chip.power.inReset = false) :
    exec (.statusPageWrite fn) s = .next (s.withChip (s.chip.statusPageWrite fn)) := State.onPort_up hup (·.statusPageWrite fn)

theorem exec_statWriteNow_powered (hup : s.chip.powered = true) :
    exec (.statWriteNow fn) s = .next (s.withChip (s.chip.statWriteNow fn)) := State.onChip_powered hup (·.statWriteNow fn)

theorem Part.reqCounts_length (x : Part) : x.reqCounts.length = 6 := by
  unfold Part.reqCounts
  split <;> simp

theorem length_flatMap_leBytes {α : Type} (n : Nat) (f : α → Nat) (l : List α) : (l.flatMap fun a => leBytes n (f a)).length = n * l.length := by
  simp [List.length_flatMap, leBytes_length, Nat.mul_comm]

/-- The page begins with the sequence number and DEVTIME, ends with the sequence number, and takes 4 KiB. -/
theorem Chip.statusPage_eq (c : Chip) (fn seq : Nat) : ∃ head, c.statusPage fn seq = head ++ leBytes 8 seq ∧ head.length = 4088 ∧
    ∃ body, head = leBytes 8 seq ++ (leBytes 8 c.now ++ body) := by
  unfold Chip.statusPage
  extract_lets p x r w
  have hcounts : (((x.map Part.reqCounts).getD (List.replicate 6 0)).flatMap (leBytes 2)).length = 12 := by
    cases x with
    | none => rfl
    | some x => exact (length_flatMap_leBytes 2 id _).trans (by rw [Option.map_some, Option.getD_some, Part.reqCounts_length])
  have hcounters : (pageCounters.flatMap w).length = 64 := length_flatMap_leBytes 4 r pageCounters
  have hword (n : RegName) : (w n).length = 4 := leBytes_length 4 _
  refine ⟨_, rfl, ?_, ?_⟩
  · simp only [List.length_append, leBytes_length, hword, hcounts, hcounters, List.length_replicate]
  · simp only [List.append_assoc]
    exact ⟨_, rfl⟩

theorem statusPage_parts {page head body : List Byte} {seq now : Nat} (hpage : page = head ++ leBytes 8 seq) (hlength : head.length = 4088)
    (hhead : head = leBytes 8 seq ++ (leBytes 8 now ++ body)) :
    page.length = 4096 ∧ page.take 8 = leBytes 8 seq ∧ page.drop 4088 = leBytes 8 seq ∧ (page.drop 8).take 8 = leBytes 8 now := by
  refine ⟨by simp [hpage, hlength], ?_, by rw [hpage, ← hlength, List.drop_left], ?_⟩
  · rw [hpage, hhead, List.append_assoc, List.take_left' (leBytes_length 8 seq)]
  · rw [hpage, hhead, List.append_assoc, List.drop_left' (leBytes_length 8 seq), List.append_assoc, List.take_left' (leBytes_length 8 now)]

theorem Chip.pair_of_regs {c d : Chip} (h : d.regs = c.regs) (lo hi : Reg) : d.pair lo hi = c.pair lo hi := by
  simp only [Chip.pair, Chip.reg, h]

theorem Chip.pair_setPair (c : Chip) {lo hi : Reg} (h : lo ≠ hi) {v : Nat} (hv : v < 2 ^ 64) : (c.setPair lo hi v).pair lo hi = v := by
  have hhi : v / 2 ^ 32 < 2 ^ 32 := Nat.div_lt_of_lt_mul (by rwa [← Nat.pow_add])
  rw [Chip.pair, Chip.setPair, Chip.reg_setReg_same, Chip.reg_setReg_other _ _ _ _ h, Chip.reg_setReg_same, BitVec.toNat_ofNat,
    BitVec.toNat_ofNat, Nat.mod_eq_of_lt hhi]
  exact Nat.mod_add_div v (2 ^ 32)

/-- A page that is on and due is put into host memory with the next number, and none is due then. -/
theorem Chip.statusPageWrite_due {c : Chip} (hon : c.statOn fn = true) (hbus : c.busMaster fn = true)
    (hdue : (c.func fn).pageDue = true ∨ (c.func fn).lastPage + 1000 * c.field (rg .statPeriodUs fn) 16 0 ≤ c.now) :
    ∃ last : Func → Nat, c.statusPageWrite fn = (c.putPage fn).updFunc fn (fun f => { f with pageDue := false, lastPage := last f }) := by
  have hwrites : ¬ (!c.statOn fn ∨ !c.busMaster fn ∨
      !(decide ((c.func fn).lastPage + 1000 * c.field (rg .statPeriodUs fn) 16 0 ≤ c.now) || (c.func fn).pageDue)) := by
    simp only [hon, hbus, Bool.not_true, Bool.false_eq_true, false_or, Bool.not_eq_true', Bool.not_eq_false, Bool.or_eq_true,
      decide_eq_true_eq]
    exact hdue.symm
  exact ⟨fun f => _, if_neg hwrites⟩

/-- Settles O32: the page is 4,096 bytes under its next number, which the pair of registers then holds. -/
theorem statusPagesAreWritten : Obligations.StatusPagesAreWritten := by
  refine ⟨fun s fn hup hon hbus hdue => ⟨_, exec_statusPageWrite_up hup, ?_⟩, fun s fn hup hon => ?_⟩
  · obtain ⟨last, hwrite⟩ := Chip.statusPageWrite_due hon hbus hdue
    have hput : s.chip.putPage fn = (s.chip.toHost _ _).setPair _ _ _ := congrArg (Chip.setPair · _ _ _) (Chip.hostWrite_up hbus _ _)
    obtain ⟨head, hpage, hlength, body, hhead⟩ := s.chip.statusPage_eq fn
      ((s.chip.pair (rg .statSeqLo fn) (rg .statSeqHi fn) + 1) % 2 ^ 64)
    obtain ⟨hpageLength, hfirst, hlast, htime⟩ := statusPage_parts hpage hlength hhead
    rw [hput] at hwrite
    simp only [State.withChip, hwrite, Chip.updFunc_mem, Chip.updFunc_parts, Chip.updFunc_host, Chip.setPair_mem, Chip.setPair_parts,
      Chip.setPair_host, Chip.toHost_mem, Chip.toHost_parts, Chip.toHost_host, Chip.func_updFunc_same, true_and]
    refine ⟨(Chip.pair_of_regs (Chip.updFunc_regs ..) _ _).trans ?_, _, hpageLength, hfirst, hlast, htime, rfl⟩
    exact Chip.pair_setPair _ (by simp [rg]) (Nat.mod_lt _ (by decide))
  · rw [exec_statWriteNow_powered hup, Chip.statWriteNow, if_pos hon]
    rfl

/-! Late reads (13 R459) -/

section
variable {c : Chip} (hbus : c.busMaster fn = true)
include hbus

theorem Chip.completionTimeout_doorbell (hon : (c.reg (rg .ringCtrl fn)).bit 0 = true) :
    c.completionTimeout fn .doorbell = c.setBits (rg .hostifStatus fn) 4 := by
  simp [Chip.completionTimeout, hbus, hon]

theorem Chip.completionTimeout_descriptor {n : Nat} (hready : c.sqReady fn n = true) :
    c.completionTimeout fn (.descriptor n) = c.sqStop fn n := by
  simp [Chip.completionTimeout, hbus, hready]

theorem Chip.completionTimeout_command {sq id : Nat} {k : Cmd} {rest : List Cmd}
    (hfirst : takeFirst (fun k : Cmd => k.sq == sq && k.cmdId == id) (c.func fn).accepted = some (k, rest)) :
    c.completionTimeout fn (.command sq id) = (c.afterStart fn rest).complete (k.ticket fn (c.func fn).era) .timeout := by
  simp [Chip.completionTimeout, hbus, hfirst, Chip.afterStart]

theorem Chip.completionTimeout_step {p : Nat} {x : Part} {st : StepCtx} (hp : c.partOf fn = some p) (hrun : c.running p = some (x, st))
    (hkind : st.req.kind = 0) : c.completionTimeout fn .step = c.endStep p .timeout programLevel := by
  simp [Chip.completionTimeout, hbus, hp, hrun, hkind]

end

theorem Word.bit_two_pow {i : Nat} (h : i < 32) : Word.bit (BitVec.ofNat 32 (2 ^ i)) i = true := by
  rw [Word.bit, BitVec.toNat_ofNat, Nat.mod_eq_of_lt (Nat.pow_lt_pow_right (by decide) h), Nat.testBit_two_pow_self]

/-- Clearing bits of a register leaves none of them. -/
theorem Chip.clearBits_bit (c : Chip) (r : Reg) {m i : Nat} (h : Word.bit (~~~(BitVec.ofNat 32 m)) i = false) :
    ((c.clearBits r m).reg r).bit i = false := by
  rw [Chip.clearBits, Chip.reg_setReg_same, Word.bit, BitVec.toNat_and, Nat.testBit_and, show Nat.testBit _ i = false from h, Bool.and_false]

/-- A stopped ring is off and says so. -/
theorem Chip.sqStop_stops (c : Chip) (fn : Nat) {n : Nat} (hn : n < 8) :
    (c.sqStop fn n).sqOn fn n = false ∧ ((c.sqStop fn n).reg (rg .ringStatus fn)).bit (8 + n) = true := by
  refine ⟨Chip.clearBits_bit _ _ (by decide), ?_⟩
  rw [Chip.sqStop, Chip.clearBits, Chip.reg_setReg_other _ _ _ _ (by simp [rg])]
  exact Chip.setBits_bit _ _ (Word.bit_two_pow (by omega))

theorem exec_completionTimeout_powered (hup : s.chip.powered = true) (r : HostReader) :
    exec (.completionTimeout fn r) s = .next (s.withChip (s.chip.completionTimeout fn r)) := State.onChip_powered hup (·.completionTimeout fn r)

/-- Settles O34: each reader that times out leaves what its branch of the command does. -/
theorem lateHostReadsTimeOut : Obligations.LateHostReadsTimeOut := by
  intro s fn hup hbus
  refine ⟨fun hon => ?_, fun n hn hready => ⟨_, exec_completionTimeout_powered hup _, ?_⟩, fun sq id k rest hfirst => ?_,
    fun p x st hp hrun hkind => ⟨_, exec_completionTimeout_powered hup _, ?_⟩⟩
  · rw [exec_completionTimeout_powered hup, Chip.completionTimeout_doorbell hbus hon]
  · rw [Chip.completionTimeout_descriptor hbus hready]
    obtain ⟨hoff, hbit⟩ := s.chip.sqStop_stops fn hn
    exact ⟨hoff, hbit, rfl, rfl⟩
  · rw [exec_completionTimeout_powered hup, Chip.completionTimeout_command hbus hfirst]
  · rw [Chip.completionTimeout_step hbus hp hrun hkind]
    exact Chip.failed_endStep hrun rfl rfl (by decide) _

/-! Queries (13 R475-R477) -/

section
variable {c : Chip} {k : Cmd} {rest : List Cmd}

theorem Chip.startAny_first {opcode : Nat} (hfirst : takeFirst (fun k : Cmd => k.opcode == opcode) (c.func fn).accepted = some (k, rest))
    (f : Chip → Ticket → Cmd → Chip) : c.startAny fn opcode f = f (c.afterStart fn rest) (k.ticket fn (c.func fn).era) k := by
  simp [Chip.startAny, hfirst, Chip.afterStart]

theorem Chip.partOf_ne_zero {p : Nat} (h : c.partOf fn = some p) : fn ≠ 0 := by
  rintro rfl
  simp [Chip.partOf] at h

theorem Chip.calRequest_pf (hfirst : takeFirst (fun k : Cmd => k.opcode == 0x30) (c.func 0).accepted = some (k, rest)) :
    c.calRequest 0 = ({ c.afterStart 0 rest with calWait := c.calWait ++ [(k.ticket 0 (c.func 0).era, k.time, 0, 8192)] } : Chip).calDone := by
  simp only [Chip.calRequest, hfirst, Chip.func_updFunc_same, ↓reduceIte]
  rfl

theorem Chip.calRequest_vf {p : Nat} {x : Part} (hfirst : takeFirst (fun k : Cmd => k.opcode == 0x30) (c.func fn).accepted = some (k, rest))
    (hp : c.partOf fn = some p) (hx : c.part p = some x) : c.calRequest fn =
      ({ c.afterStart fn rest with calWait := c.calWait ++ [(k.ticket fn (c.func fn).era, k.time, 512 * p, 512 * x.units)] } : Chip).calDone := by
  have hpart : (c.afterStart fn rest).partOf fn = some p ∧ (c.afterStart fn rest).part p = some x := ⟨hp, hx⟩
  unfold Chip.afterStart at hpart
  simp only [Chip.calRequest, hfirst, Chip.func_updFunc_same, if_neg (Chip.partOf_ne_zero hp), hpart, Option.bind_some, Option.map_some]
  rfl

end

/-- Settles O35: a query takes its command off the list, writes its record, and completes. -/
theorem queriesAnswer : Obligations.QueriesAnswer := by
  intro s fn k rest hup d t
  refine ⟨fun hfirst => ⟨?_, fun p x hp hx => ?_⟩, fun hfirst => ⟨?_, fun p hp => ?_⟩, fun hfirst => ?_⟩
  · rintro rfl
    exact (State.onChip_powered hup (·.calRequest 0)).trans (by rw [Chip.calRequest_pf hfirst]; rfl)
  · exact (State.onChip_powered hup (·.calRequest fn)).trans (by rw [Chip.calRequest_vf hfirst hp hx]; rfl)
  · rintro rfl
    refine (State.onChip_powered hup (·.partQuery 0)).trans ?_
    rw [Chip.partQuery, Chip.startAny_first hfirst]
    rfl
  · refine (State.onChip_powered hup (·.partQuery fn)).trans ?_
    rw [Chip.partQuery, Chip.startAny_first hfirst]
    have hpart : (s.chip.afterStart fn rest).partOf fn = some p := hp
    simp only [if_neg (Chip.partOf_ne_zero hp), hpart]
    rfl
  · refine (State.onChip_powered hup (·.telemSnapshot fn)).trans ?_
    rw [Chip.telemSnapshot, Chip.startAny_first hfirst]
    rfl

end

end Sys2Proof.Machine
end

section
/-! PROOFS. Doorbells (13 R464, R465): what the words of the doorbell page do to a ring, each on its own, and the statement settled from
these. -/

namespace Sys2Proof

/-- Where of the steps of a fold over numbers only the n-th touches what is looked at, the fold acts on it as that step does. -/
theorem foldN_at {σ α : Type} (f : σ → Nat → σ) (view : σ → α) {n N : Nat} (hn : n < N) (h : ∀ s m, m ≠ n → view (f s m) = view s) (s : σ) :
    ∃ t, view t = view s ∧ view (foldN N f s) = view (f t n) := by
  have hkeep (l : List Nat) (hl : n ∉ l) (s : σ) : view (l.foldl f s) = view s :=
    List.foldlRecOn (motive := fun t => view t = view s) l f rfl fun t ht m hm => (h t m fun e => hl (e ▸ hm)).trans ht
  obtain ⟨before, after, hrange⟩ := List.append_of_mem (List.mem_range.mpr hn)
  have hnodup : (before ++ n :: after).Nodup := hrange ▸ List.nodup_range
  obtain ⟨-, hrest, hdisjoint⟩ := List.nodup_append'.mp hnodup
  refine ⟨before.foldl f s, hkeep before (fun hm => hdisjoint hm List.mem_cons_self) s, ?_⟩
  rw [foldN, hrange, List.foldl_append, List.foldl_cons]
  exact hkeep after (List.nodup_cons.mp hrest).1 _

end Sys2Proof

namespace Sys2Proof.Machine

theorem Word.bit_two_pow_other {i j : Nat} (h : i ≠ j) : Word.bit (BitVec.ofNat 32 (2 ^ i)) j = false := by
  rw [Word.bit, BitVec.toNat_ofNat, Nat.testBit_mod_two_pow, Nat.testBit_two_pow_of_ne h, Bool.and_false]

/-- Setting a bit of a register leaves another of its bits. -/
theorem Chip.setBits_bit_other (c : Chip) (r : Reg) {i j : Nat} (h : i ≠ j) : ((c.setBits r (2 ^ i)).reg r).bit j = (c.reg r).bit j := by
  rw [Chip.setBits, Chip.reg_setReg_same, Word.bit_or, Word.bit_two_pow_other h, Bool.or_false]

/-! What every word leaves alone -/

/-- One part follows another by words of the doorbell page of a function. -/
structure Chip.Polls (fn : Nat) (c d : Chip) : Prop where
  mem : d.mem = c.mem
  parts : d.parts = c.parts
  host : d.host = c.host
  pollAt : (d.func fn).pollAt = (c.func fn).pollAt

section
variable {fn : Nat}

theorem Chip.Polls.refl (c : Chip) : c.Polls fn c := ⟨rfl, rfl, rfl, rfl⟩

theorem Chip.Polls.trans {c d e : Chip} (h : c.Polls fn d) (k : d.Polls fn e) : c.Polls fn e :=
  ⟨k.mem.trans h.mem, k.parts.trans h.parts, k.host.trans h.host, k.pollAt.trans h.pollAt⟩

theorem Chip.Polls.foldN (n : Nat) (f : Chip → Nat → Chip) (h : ∀ (c : Chip) m, c.Polls fn (f c m)) (c : Chip) : c.Polls fn (foldN n f c) :=
  List.foldlRecOn (motive := c.Polls fn) (List.range n) f (.refl c) fun d hd m _ => hd.trans (h d m)

theorem Chip.Polls.updFunc (c : Chip) (f : Func → Func) (h : (f (c.func fn)).pollAt = (c.func fn).pollAt) : c.Polls fn (c.updFunc fn f) :=
  ⟨rfl, rfl, rfl, by rw [Chip.func_updFunc_same, h]⟩

theorem Chip.Polls.headWord (c : Chip) (n v : Nat) : c.Polls fn (c.headWord fn n v) := by
  unfold Chip.headWord
  split
  · exact .refl c
  · extract_lets size old
    split
    · exact .trans (d := c.setBits (rg .ringStatus fn) (2 ^ (16 + n))) ⟨rfl, rfl, rfl, rfl⟩ (.updFunc _ _ rfl)
    · exact .updFunc c _ rfl

theorem Chip.Polls.tailWord (c : Chip) (n v : Nat) : c.Polls fn (c.tailWord fn n v) := by
  unfold Chip.tailWord
  split
  · exact .refl c
  · split
    · exact ⟨rfl, rfl, rfl, rfl⟩
    · exact .updFunc c _ rfl

/-! A tail (13 R465) -/

/-- What of a part is about a submission ring. -/
def Chip.sqView (c : Chip) (fn n : Nat) : Word × Nat × Bool :=
  (c.reg (rg .ringSqCfg fn n), Tbl.get 0 n (c.func fn).tails, (c.reg (rg .ringStatus fn)).bit (8 + n))

theorem Chip.sqView_tailWord_other (c : Chip) {m n : Nat} (h : m ≠ n) (v : Nat) : (c.tailWord fn m v).sqView fn n = c.sqView fn n := by
  unfold Chip.tailWord
  split
  · rfl
  · split
    · have hcfg : (c.sqStop fn m).reg (rg .ringSqCfg fn n) = c.reg (rg .ringSqCfg fn n) := by
        rw [Chip.sqStop, Chip.clearBits, Chip.reg_setReg_other _ _ _ _ (by simp [rg, Ne.symm h]), Chip.reg_setBits_other _ (by simp [rg])]
      have hstatus : ((c.sqStop fn m).reg (rg .ringStatus fn)).bit (8 + n) = (c.reg (rg .ringStatus fn)).bit (8 + n) := by
        rw [Chip.sqStop, Chip.clearBits, Chip.reg_setReg_other _ _ _ _ (by simp [rg]), Chip.setBits_bit_other _ _ (by omega)]
      rw [Chip.sqView, hcfg, hstatus]
      rfl
    · rw [Chip.sqView, Chip.func_updFunc_same, Tbl.get_set_other _ _ _ _ _ (Ne.symm h)]
      rfl

theorem Chip.sqCfg_of_view {c d : Chip} {n : Nat} (h : d.sqView fn n = c.sqView fn n) :
    d.reg (rg .ringSqCfg fn n) = c.reg (rg .ringSqCfg fn n) := congrArg Prod.fst h

theorem Chip.sqOn_of_cfg {c d : Chip} {n : Nat} (h : d.reg (rg .ringSqCfg fn n) = c.reg (rg .ringSqCfg fn n)) :
    d.sqOn fn n = c.sqOn fn n := by rw [Chip.sqOn, Chip.sqOn, h]

theorem Chip.sqSize_of_cfg {c d : Chip} {n : Nat} (h : d.reg (rg .ringSqCfg fn n) = c.reg (rg .ringSqCfg fn n)) :
    d.sqSize fn n = c.sqSize fn n := by rw [Chip.sqSize, Chip.sqSize, Chip.field, Chip.field, h]

/-- A tail that is an index of its enabled ring is taken. -/
theorem Chip.tailWord_takes {c : Chip} {n v : Nat} (hon : c.sqOn fn n = true) (hv : v < c.sqSize fn n) :
    Tbl.get 0 n ((c.tailWord fn n v).func fn).tails = v ∧ (c.tailWord fn n v).sqOn fn n = true := by
  have htake : c.tailWord fn n v = c.updFunc fn (fun f => { f with tails := Tbl.set n v f.tails }) := by
    rw [Chip.tailWord, if_neg (by simp [hon]), if_neg (Nat.not_le.mpr hv)]
  rw [htake, Chip.func_updFunc_same, Tbl.get_set_same, Chip.sqOn_of_cfg (c := c) (Chip.reg_of_regs (Chip.updFunc_regs ..) _)]
  exact ⟨rfl, hon⟩

theorem Chip.tailWord_stops {c : Chip} {n v : Nat} (hon : c.sqOn fn n = true) (hv : c.sqSize fn n ≤ v) : c.tailWord fn n v = c.sqStop fn n := by
  rw [Chip.tailWord, if_neg (by simp [hon]), if_pos hv]

/-! A head (13 R465) -/

/-- What of a part is about a completion ring. -/
def Chip.cqView (c : Chip) (fn n : Nat) : Word × Word × Bool × Nat :=
  (c.reg (rg .ringCqCfg fn n), c.reg (rg .ringCqTail fn n), (c.func fn).stopped.contains n, Tbl.get 0 n (c.func fn).heads)

theorem Chip.cqView_headWord_other (c : Chip) {m n : Nat} (h : m ≠ n) (v : Nat) : (c.headWord fn m v).cqView fn n = c.cqView fn n := by
  unfold Chip.headWord
  split
  · rfl
  · extract_lets size old
    split
    · have hstopped : (((c.cqStop fn m).func fn).stopped).contains n = (c.func fn).stopped.contains n := by
        rw [Chip.cqStop, Chip.func_updFunc_same]
        simp [Ne.symm h, Chip.func_of_funcs (Chip.setBits_funcs ..)]
      have hheads : ((c.cqStop fn m).func fn).heads = (c.func fn).heads := by
        rw [Chip.cqStop, Chip.func_updFunc_same, Chip.func_of_funcs (Chip.setBits_funcs ..)]
      have hreg {r : Reg} (hr : r ≠ rg .ringStatus fn) : (c.cqStop fn m).reg r = c.reg r := by
        rw [Chip.cqStop, Chip.reg_of_regs (Chip.updFunc_regs ..), Chip.reg_setBits_other _ hr]
      rw [Chip.cqView, hstopped, hheads, hreg (by simp [rg]), hreg (by simp [rg])]
      rfl
    · rw [Chip.cqView, Chip.func_updFunc_same, Tbl.get_set_other _ _ _ _ _ (Ne.symm h)]
      rfl

/-- A head that its enabled ring has come to is taken. -/
theorem Chip.headWord_takes {c : Chip} {n v : Nat} (hon : c.cqOn fn n = true) (hruns : n ∉ (c.func fn).stopped) (hv : v < c.cqSize fn n)
    (hwritten : ringDist (c.cqSize fn n) (Tbl.get 0 n (c.func fn).heads) v ≤
      ringDist (c.cqSize fn n) (Tbl.get 0 n (c.func fn).heads) (c.cqTail fn n)) :
    Tbl.get 0 n ((c.headWord fn n v).func fn).heads = v := by
  rw [Chip.headWord, if_neg (by simp [hon, hruns]), if_neg (by omega), Chip.func_updFunc_same, Tbl.get_set_same]

/-- What holds of a completion ring for a head to be taken is seen in its view. -/
theorem Chip.headWord_takes_of_view {c d : Chip} {n v : Nat} (h : d.cqView fn n = c.cqView fn n) (hon : c.cqOn fn n = true)
    (hruns : n ∉ (c.func fn).stopped) (hv : v < c.cqSize fn n)
    (hwritten : ringDist (c.cqSize fn n) (Tbl.get 0 n (c.func fn).heads) v ≤
      ringDist (c.cqSize fn n) (Tbl.get 0 n (c.func fn).heads) (c.cqTail fn n)) :
    Tbl.get 0 n ((d.headWord fn n v).func fn).heads = v := by
  obtain ⟨hcfg, htail, hstopped, hheads⟩ : _ = _ ∧ _ = _ ∧ _ = _ ∧ _ = _ := by simpa only [Chip.cqView, Prod.mk.injEq] using h
  have hsize : d.cqSize fn n = c.cqSize fn n := by rw [Chip.cqSize, Chip.field, hcfg]; rfl
  refine Chip.headWord_takes (by rw [Chip.cqOn, hcfg]; exact hon) (fun hd => hruns ?_) (hsize ▸ hv) ?_
  · rw [← List.contains_iff_mem] at hd ⊢
    rw [← hstopped, hd]
  rw [hsize, hheads, Chip.cqTail, Chip.field, htail]
  exact hwritten

/-! A word of the other kind -/

theorem Chip.heads_tailWord (c : Chip) (m v : Nat) : ((c.tailWord fn m v).func fn).heads = (c.func fn).heads := by
  unfold Chip.tailWord
  split
  · rfl
  · split
    · rfl
    · rw [Chip.func_updFunc_same]

theorem Chip.sqCfg_headWord (c : Chip) (n m v : Nat) : (c.headWord fn m v).reg (rg .ringSqCfg fn n) = c.reg (rg .ringSqCfg fn n) := by
  unfold Chip.headWord
  split
  · rfl
  · extract_lets size old
    split
    · rw [Chip.cqStop, Chip.reg_of_regs (Chip.updFunc_regs ..), Chip.reg_setBits_other _ (by simp [rg])]
    · rfl

end

/-! The poll (13 R464) -/

/-- The head words of a page, then its tail words. -/
def Chip.pollHeads (c : Chip) (fn : Nat) (bs : List Byte) : Chip := foldN 8 (fun c n => c.headWord fn n (bytesLe bs (32 + 4 * n) 2)) c

def Chip.pollTails (c : Chip) (fn : Nat) (bs : List Byte) : Chip := foldN 8 (fun c n => c.tailWord fn n (bytesLe bs (4 * n) 2)) c

/-- The time of the next poll is set. -/
def Chip.pollBegun (c : Chip) (fn : Nat) : Chip := c.updFunc fn (fun f => { f with pollAt := c.now + c.field (rg .ringPollNs fn) 19 0 })

section
variable {fn : Nat} {bs : List Byte}

theorem Chip.doorbellPoll_due {c : Chip} (hon : (c.reg (rg .ringCtrl fn)).bit 0 = true) (hbus : c.busMaster fn = true)
    (hdue : (c.func fn).pollAt ≤ c.now) (hread : c.hostRead (c.pair (rg .ringDbBaseLo fn) (rg .ringDbBaseHi fn)) 64 = .ok bs) :
    c.doorbellPoll fn = ((c.pollBegun fn).pollHeads fn bs).pollTails fn bs := by
  have hread : (c.pollBegun fn).hostRead ((c.pollBegun fn).pair (rg .ringDbBaseLo fn) (rg .ringDbBaseHi fn)) 64 = .ok bs := hread
  rw [Chip.doorbellPoll, if_neg (by simp [hon, hbus, Nat.not_lt.mpr hdue])]
  unfold Chip.pollBegun at hread
  simp only [hread]
  rfl

theorem Chip.Polls.pollHeads (c : Chip) : c.Polls fn (c.pollHeads fn bs) := .foldN 8 _ (fun c _ => .headWord c _ _) c

theorem Chip.Polls.pollTails (c : Chip) : c.Polls fn (c.pollTails fn bs) := .foldN 8 _ (fun c _ => .tailWord c _ _) c

theorem Chip.sqCfg_pollHeads (c : Chip) (n : Nat) : (c.pollHeads fn bs).reg (rg .ringSqCfg fn n) = c.reg (rg .ringSqCfg fn n) :=
  List.foldlRecOn (motive := fun d : Chip => d.reg (rg .ringSqCfg fn n) = c.reg (rg .ringSqCfg fn n)) _ _ rfl
    fun d hd m _ => (d.sqCfg_headWord n m _).trans hd

theorem Chip.heads_pollTails (c : Chip) : ((c.pollTails fn bs).func fn).heads = (c.func fn).heads :=
  List.foldlRecOn (motive := fun d : Chip => (d.func fn).heads = (c.func fn).heads) _ _ rfl fun d hd _ _ => (d.heads_tailWord _ _).trans hd

/-- The tail words act on each submission ring as its own does. -/
theorem Chip.pollTails_at (c : Chip) {n : Nat} (hn : n < 8) :
    ∃ d : Chip, d.sqView fn n = c.sqView fn n ∧ (c.pollTails fn bs).sqView fn n = (d.tailWord fn n (bytesLe bs (4 * n) 2)).sqView fn n :=
  foldN_at (fun c n => c.tailWord fn n (bytesLe bs (4 * n) 2)) (fun c => c.sqView fn n) hn (fun c _ hm => c.sqView_tailWord_other hm _) c

theorem Chip.pollHeads_at (c : Chip) {n : Nat} (hn : n < 8) :
    ∃ d : Chip, d.cqView fn n = c.cqView fn n ∧ (c.pollHeads fn bs).cqView fn n = (d.headWord fn n (bytesLe bs (32 + 4 * n) 2)).cqView fn n :=
  foldN_at (fun c n => c.headWord fn n (bytesLe bs (32 + 4 * n) 2)) (fun c => c.cqView fn n) hn (fun c _ hm => c.cqView_headWord_other hm _) c

end

/-- Settles O29: each word of the page acts on its own ring, and the next poll is set. -/
theorem doorbellsMoveTailsAndHeads : Obligations.DoorbellsMoveTailsAndHeads := by
  intro s fn bs hup hon hbus hdue hread
  refine ⟨_, State.onChip_powered hup (·.doorbellPoll fn), ?_⟩
  rw [Chip.doorbellPoll_due hon hbus hdue hread]
  obtain ⟨hmem, hparts, hhost, hpollAt⟩ := (Chip.Polls.pollHeads (fn := fn) (bs := bs) (s.chip.pollBegun fn)).trans (.pollTails _)
  rw [Chip.pollBegun, Chip.func_updFunc_same] at hpollAt
  have hcfg {d : Chip} {n : Nat} (h : d.sqView fn n = ((s.chip.pollBegun fn).pollHeads fn bs).sqView fn n) :
      d.reg (rg .ringSqCfg fn n) = s.chip.reg (rg .ringSqCfg fn n) :=
    (Chip.sqCfg_of_view h).trans (Chip.sqCfg_pollHeads _ n)
  refine ⟨hmem, hparts, hhost, hpollAt, fun n hn hsq hv => ?_, fun n hn hsq hv => ?_, fun n hn hcq hruns hv hwritten => ?_⟩
  · obtain ⟨d, hview, hat⟩ := ((s.chip.pollBegun fn).pollHeads fn bs).pollTails_at (fn := fn) (bs := bs) hn
    obtain ⟨htail, hstays⟩ := Chip.tailWord_takes ((Chip.sqOn_of_cfg (hcfg hview)).trans hsq) (by rwa [Chip.sqSize_of_cfg (hcfg hview)])
    exact ⟨(congrArg (fun w => w.2.1) hat).trans htail, (Chip.sqOn_of_cfg (Chip.sqCfg_of_view hat)).trans hstays⟩
  · obtain ⟨d, hview, hat⟩ := ((s.chip.pollBegun fn).pollHeads fn bs).pollTails_at (fn := fn) (bs := bs) hn
    rw [Chip.tailWord_stops ((Chip.sqOn_of_cfg (hcfg hview)).trans hsq) (by rwa [Chip.sqSize_of_cfg (hcfg hview)])] at hat
    obtain ⟨hoff, hbit⟩ := d.sqStop_stops fn hn
    exact ⟨(Chip.sqOn_of_cfg (Chip.sqCfg_of_view hat)).trans hoff, (congrArg (fun w => w.2.2) hat).trans hbit⟩
  · obtain ⟨d, hview, hat⟩ := (s.chip.pollBegun fn).pollHeads_at (fn := fn) (bs := bs) hn
    have hbegun : (s.chip.pollBegun fn).cqView fn n = s.chip.cqView fn n := by
      rw [Chip.cqView, Chip.pollBegun, Chip.func_updFunc_same]
      rfl
    have hhead := Chip.headWord_takes_of_view (hview.trans hbegun) hcq hruns hv hwritten
    rw [Chip.heads_pollTails]
    exact (congrArg (fun w => w.2.2.2) hat).trans hhead

end Sys2Proof.Machine
end

section
/-! PROOFS. The acceptance of descriptors (13 R465-R471): what reading one and accepting it do, and the statement settled from these. -/

namespace Sys2Proof.Machine

/-- A descriptor that breaks a rule of acceptance is never completed OK. -/
theorem acceptCheck_ne_ok {fn : Nat} {d : List Byte} {st : Status} (h : acceptCheck fn d = some st) : st ≠ .ok := by
  unfold acceptCheck at h
  extract_lets op args at h
  split at h
  · cases h
    decide
  · extract_lets listed at h
    split at h
    · cases h
      decide
    · split at h <;> cases h
      decide

/-- The record a descriptor names, as the host answers, or none. -/
def Chip.descRecord (c : Chip) (d : List Byte) : List Byte × Option HostErr :=
  if recordBytes (bytesLe d 0 1) = 0 then ([], none)
  else match c.hostRead (bytesLe d 16 8) (recordBytes (bytesLe d 0 1)) with
    | .ok bs => (bs, none)
    | .error e => ([], some e)

theorem Chip.descRecord_read {c : Chip} {d bs : List Byte} (hrecord : recordBytes (bytesLe d 0 1) ≠ 0)
    (hread : c.hostRead (bytesLe d 16 8) (recordBytes (bytesLe d 0 1)) = .ok bs) : c.descRecord d = (bs, none) := by
  rw [Chip.descRecord, if_neg hrecord, hread]

/-- The command that a descriptor of a ring spells. -/
def Chip.descCmd (c : Chip) (fn n : Nat) (d : List Byte) : Cmd :=
  { sq := n, cq := c.boundCq fn n, opcode := bytesLe d 0 1, cmdId := bytesLe d 2 2, tag := bytesLe d 8 8, args := d.drop 16,
    record := (c.descRecord d).1, recordErr := (c.descRecord d).2, status := .ok, time := c.now }

/-- The part in which a slot of a completion ring has been reserved and the package is awake. -/
def Chip.slotReserved (c : Chip) (fn cq : Nat) : Chip :=
  (c.updFunc fn (fun f => { f with reserved := Tbl.upd 0 cq (· + 1) f.reserved })).wake 1

/-- The part once a ring's next descriptor has left it. -/
def Chip.descTaken (c : Chip) (fn n : Nat) : Chip :=
  ({ c with served := if c.served.contains (fn, n) then [(fn, n)] else c.served ++ [(fn, n)] } : Chip).setReg (rg .ringSqHead fn n)
    (BitVec.ofNat 32 ((c.sqHead fn n + 1) % c.sqSize fn n))

section
variable {c : Chip} {fn n : Nat} {d : List Byte}

theorem Chip.hasTurn_of (h : (fn, n) ∈ c.served → ∀ f m, f < 17 → m < 8 → c.sqReady f m = true → (f, m) ∈ c.served) :
    c.hasTurn fn n = true := by
  by_cases hserved : (fn, n) ∈ c.served
  · have hall : (List.range 17).all (fun f => (List.range 8).all (fun m => !c.sqReady f m || c.served.contains (f, m))) = true := by
      simp only [List.all_eq_true, List.mem_range, Bool.or_eq_true, Bool.not_eq_true', List.contains_iff_mem]
      intro f hf m hm
      cases hready : c.sqReady f m with
      | false => exact .inl rfl
      | true => exact .inr (h hserved f m hf hm hready)
    rw [Chip.hasTurn, hall, Bool.or_true]
  · simp [Chip.hasTurn, hserved]

theorem Chip.descriptorAccept_ready (hn : n < 8) (hready : c.sqReady fn n = true) (hturn : c.hasTurn fn n = true)
    (hread : c.hostRead (c.pair (rg .ringSqBaseLo fn n) (rg .ringSqBaseHi fn n) + 64 * c.sqHead fn n) 64 = .ok d) :
    c.descriptorAccept fn n = (c.descTaken fn n).accept fn n d := by
  simp only [Chip.descriptorAccept, hread]
  rw [if_neg (by simp [hready, hturn, Nat.not_le.mpr hn])]
  rfl

theorem Chip.accept_good (h : acceptCheck fn d = none) : c.accept fn n d =
    (c.slotReserved fn (c.boundCq fn n)).updFunc fn (fun f => { f with accepted := f.accepted ++ [c.descCmd fn n d] }) := by
  simp only [Chip.accept, h]
  rfl

theorem Chip.accept_bad {st : Status} (h : acceptCheck fn d = some st) : c.accept fn n d =
    (c.slotReserved fn (c.boundCq fn n)).complete
      ((c.descCmd fn n d).ticket fn ((c.slotReserved fn (c.boundCq fn n)).func fn).era) st := by
  simp only [Chip.accept, h]
  rfl

/-- A completion of a function's own age joins the ones that wait, and changes nothing else of the function. -/
theorem Chip.complete_func {c : Chip} {t : Ticket} (h : (c.func t.fn).era = t.era) (st : Status) : (c.complete t st).func t.fn =
    { c.func t.fn with waiting := (c.func t.fn).waiting ++ [c.entryFor t st] } := by
  rw [Chip.complete, Chip.func_updFunc_same, if_pos h]
  rfl

theorem Chip.wake_funcs (c : Chip) (cause : Nat) : (c.wake cause).funcs = c.funcs := by
  obtain ⟨_, hwake⟩ := c.wake_frame cause
  rw [hwake]

theorem Chip.slotReserved_func (c : Chip) (fn cq : Nat) :
    (c.slotReserved fn cq).func fn = { c.func fn with reserved := Tbl.upd 0 cq (· + 1) (c.func fn).reserved } :=
  (Chip.func_of_funcs (Chip.wake_funcs ..) fn).trans (Chip.func_updFunc_same ..)

/-- What accepting leaves alone, whatever it makes of the function. -/
theorem Chip.slotReserved_frame (c : Chip) (fn cq : Nat) : ∃ funcs power, c.slotReserved fn cq = { c with funcs := funcs, power := power } := by
  obtain ⟨_, hwake⟩ := Chip.wake_frame (c.updFunc fn (fun f => { f with reserved := Tbl.upd 0 cq (· + 1) f.reserved })) 1
  exact ⟨_, _, hwake⟩

theorem Chip.accept_frame (c : Chip) (fn n : Nat) (d : List Byte) :
    ∃ funcs power, c.accept fn n d = { c with funcs := funcs, power := power } := by
  obtain ⟨_, power, hreserved⟩ := c.slotReserved_frame fn (c.boundCq fn n)
  cases h : acceptCheck fn d with
  | none => exact ⟨_, power, by rw [Chip.accept_good h, hreserved]; rfl⟩
  | some st => exact ⟨_, power, by rw [Chip.accept_bad h, hreserved]; rfl⟩

end

/-- Settles O30: the descriptor leaves its ring, a slot is reserved, and the command joins the accepted ones, or its completion waits. -/
theorem descriptorsAreAccepted : Obligations.DescriptorsAreAccepted := by
  intro s fn n d hup _ hn hready hturn hread
  refine ⟨_, State.onChip_powered hup (·.descriptorAccept fn n), ?_⟩
  rw [Chip.descriptorAccept_ready hn hready (Chip.hasTurn_of hturn) hread]
  obtain ⟨_, _, hframe⟩ := (s.chip.descTaken fn n).accept_frame fn n d
  have hcq : (s.chip.descTaken fn n).boundCq fn n = s.chip.boundCq fn n := by
    rw [Chip.boundCq, Chip.field, Chip.descTaken, Chip.reg_setReg_other _ _ _ _ (by simp [rg])]
    rfl
  have hfunc : ((s.chip.descTaken fn n).slotReserved fn (s.chip.boundCq fn n)).func fn =
      { s.chip.func fn with reserved := Tbl.upd 0 (s.chip.boundCq fn n) (· + 1) (s.chip.func fn).reserved } := Chip.slotReserved_func ..
  have hbroken {st : Status} (h : acceptCheck fn d = some st) : ((s.chip.descTaken fn n).accept fn n d).func fn =
      { s.chip.func fn with
        reserved := Tbl.upd 0 (s.chip.boundCq fn n) (· + 1) (s.chip.func fn).reserved
        waiting := (s.chip.func fn).waiting ++ [((s.chip.descTaken fn n).slotReserved fn (s.chip.boundCq fn n)).entryFor
          (((s.chip.descTaken fn n).descCmd fn n d).ticket fn
            (((s.chip.descTaken fn n).slotReserved fn (s.chip.boundCq fn n)).func fn).era) st] } := by
    rw [Chip.accept_bad h, hcq]
    refine (Chip.complete_func rfl st).trans ?_
    rw [show (((s.chip.descTaken fn n).slotReserved fn (s.chip.boundCq fn n)).func (Cmd.ticket _ fn _).fn) = _ from hfunc]
  refine ⟨?_, ?_, ?_, ?_, ?_, fun hgood => ?_, fun st hbad => ?_⟩
  · rw [hframe]; rfl
  · rw [hframe]; rfl
  · rw [hframe]; rfl
  · rw [hframe]; exact Chip.reg_setReg_same ..
  · cases hcheck : acceptCheck fn d with
    | none =>
      rw [Chip.accept_good hcheck, hcq, Chip.func_updFunc_same, hfunc]
      exact (Tbl.get_upd ..).trans (if_pos rfl)
    | some st =>
      rw [hbroken hcheck]
      exact (Tbl.get_upd ..).trans (if_pos rfl)
  · rw [Chip.accept_good hgood, hcq, Chip.func_updFunc_same, hfunc]
    refine ⟨rfl, _, rfl, rfl, hcq, rfl, rfl, rfl, rfl, rfl, fun bs hrecord hread => ?_⟩
    have hread : (s.chip.descTaken fn n).descRecord d = (bs, none) := Chip.descRecord_read hrecord hread
    exact ⟨congrArg Prod.fst hread, congrArg Prod.snd hread⟩
  · rw [hbroken hbad]
    exact ⟨rfl, _, rfl, Chip.statusFor_of_ne_ok (acceptCheck_ne_ok hbad) _ _, rfl, rfl, hcq⟩

end Sys2Proof.Machine
end

section
/-! PROOFS. Ring configuration, Bus Master Enable and Function Level Reset (13 R458-R461, R483, R484, R486), and the statement settled from
these. -/

namespace Sys2Proof.Machine

/-! Ring configuration (13 R483, R486) -/

section
variable {s : State} {fn n : Nat} {cq : Bool} {v : Word}

theorem exec_ringCfgWrite_powered (hup : s.chip.powered = true) :
    exec (.ringCfgWrite fn cq n v) s = .next (s.withChip (s.chip.ringCfgWrite fn cq n v)) := State.onChip_powered hup (·.ringCfgWrite fn cq n v)

variable {c : Chip}

/-- The configuration register of a ring. -/
def ringCfg (cq : Bool) (fn n : Nat) : Reg := rg (if cq then .ringCqCfg else .ringSqCfg) fn n

theorem Chip.ringCfgWrite_absent (h : c.hasFunc fn = false) : c.ringCfgWrite fn cq n v = c := by simp [Chip.ringCfgWrite, h]

theorem Chip.ringCfgWrite_inert (h : c.hasFunc fn = true) (hinert : c.inert fn = true) (hon : v.bit 31 = true) :
    c.ringCfgWrite fn cq n v = c.setBits (rg .ringStatus fn) 2 := by
  simp [Chip.ringCfgWrite, h, hinert, hon]

theorem Chip.ringCfgWrite_refused (h : c.hasFunc fn = true) (hinert : c.inert fn = false ∨ v.bit 31 = false)
    (hrefused : c.ringRefused fn cq n v = true) : c.ringCfgWrite fn cq n v = c.setBits (rg .ringStatus fn) 1 := by
  have hinert : (c.inert fn && v.bit 31) = false := by rcases hinert with h | h <;> simp [h]
  simp [Chip.ringCfgWrite, h, hinert, hrefused]

/-- A configuration that is not refused is stored; a ring that it enables starts anew. -/
theorem Chip.ringCfgWrite_stores (h : c.hasFunc fn = true) (hinert : c.inert fn = false ∨ v.bit 31 = false)
    (hgood : c.ringRefused fn cq n v = false) : c.ringCfgWrite fn cq n v =
      let stored := c.setReg (ringCfg cq fn n) (v &&& BitVec.ofNat 32 (ringCfg cq fn n).name.info.rw)
      if v.bit 31 && !(c.reg (ringCfg cq fn n)).bit 31 then stored.ringEnabled fn cq n else stored := by
  have hinert : (c.inert fn && v.bit 31) = false := by rcases hinert with h | h <;> simp [h]
  simp only [Chip.ringCfgWrite, h, hinert, hgood, Bool.not_true, Bool.false_eq_true, if_false]
  rfl

/-- The register that enabling a ring sets: its head or its tail. -/
def ringIndex (cq : Bool) (fn n : Nat) : Reg := rg (if cq then .ringCqTail else .ringSqHead) fn n

theorem Chip.ringEnabled_frame (c : Chip) (fn : Nat) (cq : Bool) (n : Nat) : (c.ringEnabled fn cq n).mem = c.mem ∧
    (c.ringEnabled fn cq n).parts = c.parts ∧ ∀ q, q ≠ ringIndex cq fn n → (c.ringEnabled fn cq n).reg q = c.reg q := by
  cases cq <;> exact ⟨rfl, rfl, fun q hq => Chip.reg_setReg_other _ _ _ _ hq⟩

theorem Chip.ringEnabled_cq (c : Chip) (fn n : Nat) : (c.ringEnabled fn true n).reg (rg .ringCqTail fn n) = BitVec.ofNat 32 65536 ∧
    Tbl.get 1 n ((c.ringEnabled fn true n).func fn).heads = 0 := by
  refine ⟨Chip.reg_setReg_same .., ?_⟩
  simp only [Chip.ringEnabled, if_true, Chip.func_updFunc_same, Tbl.get_set_same]

theorem Chip.ringEnabled_sq (c : Chip) (fn n : Nat) : (c.ringEnabled fn false n).reg (rg .ringSqHead fn n) = 0 ∧
    Tbl.get 1 n ((c.ringEnabled fn false n).func fn).tails = 0 := by
  refine ⟨Chip.reg_setReg_same .., ?_⟩
  simp only [Chip.ringEnabled, Bool.false_eq_true, if_false, Chip.func_updFunc_same, Tbl.get_set_same]

end

/-! Bus Master Enable (13 R458, R484) -/

section
variable {fn : Nat}

/-- The writes that waited, with Bus Master Enable: each reaches host memory. -/
theorem Chip.foldl_hostWrite_up (ws : List (Nat × List Byte)) {c : Chip} (h : c.busMaster fn = true) :
    ws.foldl (fun c w => c.hostWrite fn w.1 w.2) c = { c with host := { c.host with mem := ws.foldl (fun m w => m.write w.1 w.2) c.host.mem } } := by
  induction ws generalizing c with
  | nil => rfl
  | cons w ws ih =>
    rw [List.foldl_cons, Chip.hostWrite_up h]
    exact ih (c := c.toHost w.1 w.2) h

theorem Chip.flushWrites_up {c : Chip} (h : c.busMaster fn = true) : (c.flushWrites fn).regs = c.regs ∧ (c.flushWrites fn).mem = c.mem ∧
    (c.flushWrites fn).parts = c.parts ∧ (c.flushWrites fn).func fn = { c.func fn with writes := [] } ∧
    (c.flushWrites fn).host.mem = (c.func fn).writes.foldl (fun m w => m.write w.1 w.2) c.host.mem := by
  have hflush : c.flushWrites fn = { c.updFunc fn (fun f => { f with writes := [] }) with
      host := { c.host with mem := (c.func fn).writes.foldl (fun m w => m.write w.1 w.2) c.host.mem } } :=
    (if_neg (by simp [h])).trans (Chip.foldl_hostWrite_up (c.func fn).writes ((Chip.busMaster_updFunc _ _ rfl).trans h))
  rw [hflush]
  exact ⟨rfl, rfl, rfl, (Chip.func_of_funcs (c := c.updFunc fn (fun f => { f with writes := [] })) rfl fn).trans (Chip.func_updFunc_same ..), rfl⟩

theorem Chip.flushWrites_off {c : Chip} (h : c.busMaster fn = false) : c.flushWrites fn = c := by simp [Chip.flushWrites, h]

end

/-! Function Level Reset (13 R461) -/

section
variable {fn : Nat}

theorem Chip.resetFunc_func (c : Chip) (fn : Nat) : (c.resetFunc fn).func fn = { bme := (c.func fn).bme, era := (c.func fn).era + 1 } :=
  Chip.func_setFunc_same ..

theorem Chip.resetFunc_reg (c : Chip) {fn : Nat} {r : Reg} (hblk : r.blk = fn) (hblock : r.name.info.block = .ring ∨ r.name.info.block = .stat) :
    (c.resetFunc fn).reg r = r.reset := by
  have hmine : ringOrStat fn r = true := by simp [ringOrStat, hblk, hblock]
  have hnone := Tbl.find?_filter_none (fun r => !ringOrStat fn r) r c.regs (by simp [hmine])
  rw [Chip.reg, Tbl.get, show (c.resetFunc fn).regs = c.regs.filter (fun e => !ringOrStat fn e.1) from rfl, hnone]
  rfl

/-- A change to a partition's work that takes none of it on: the steps queued stay. -/
structure Chip.Requeues (p : Nat) (c d : Chip) : Prop where
  queued : (d.part p).map Part.queued = (c.part p).map Part.queued
  idle : c.running p = none → d.running p = none

theorem Chip.Requeues.of_parts {p : Nat} {c d : Chip} (h : d.parts = c.parts) : c.Requeues p d :=
  ⟨by rw [Chip.part_of_parts h], fun hidle => by rwa [Chip.running_of_parts h]⟩

theorem Chip.Requeues.trans {p : Nat} {c d e : Chip} (h : c.Requeues p d) (k : d.Requeues p e) : c.Requeues p e :=
  ⟨k.queued.trans h.queued, fun hidle => k.idle (h.idle hidle)⟩

theorem Chip.Requeues.updPart (c : Chip) (p : Nat) (f : Part → Part) (hqueued : ∀ x, (f x).queued = x.queued) (hrun : ∀ x, (f x).run = x.run) :
    c.Requeues p (c.updPart p f) := by
  refine ⟨?_, (Chip.BeginsNone.updPart c p f hrun).idle p⟩
  unfold Chip.updPart
  split
  · next x hx => rw [Chip.part_setPart_same, hx, Option.map_some, Option.map_some, hqueued]
  · rfl

theorem Chip.Requeues.dropRequests (c : Chip) (p : Nat) : c.Requeues p (c.dropRequests p) := by
  unfold Chip.dropRequests
  split
  · exact .of_parts rfl
  · next x v _ =>
    extract_lets dropped edited
    have hdropped : dropped.parts = c.parts := by
      refine List.foldlRecOn (motive := fun d : Chip => d.parts = c.parts) _ _ rfl fun d hd r _ => ?_
      split
      · exact hd
      · exact hd
    have hedited : dropped.Requeues p edited := .updPart dropped p _ (fun _ => rfl) fun _ => rfl
    exact ((Chip.Requeues.of_parts hdropped).trans hedited).trans (.updPart edited p _ (fun _ => rfl) fun _ => rfl)

theorem Chip.isSome_endStep {c : Chip} {p : Nat} (h : (c.part p).isSome = true) (st : Status) (idx : Nat) :
    ((c.endStep p st idx).part p).isSome = true := by
  unfold Chip.endStep
  split
  · exact h
  · next x _ =>
    split
    · exact h
    · extract_lets undone cleared failed ended told
      have htold : (told.part p).isSome = true := by
        have hended : (ended.part p).isSome = true := by simp only [ended, Chip.part_setPart_same, Option.isSome_some]
        simp only [told]
        split
        · exact hended
        · exact hended
      have hruns := congrArg Option.isSome ((Chip.boundary_keeps told p).runs p)
      simpa using hruns.trans (by simpa using htold)

/-- The steps that a partition had queued are gone. -/
theorem Chip.queued_endSteps {c : Chip} {p : Nat} (h : (c.part p).isSome = true) (st : Status) :
    ((c.endSteps p st).part p).map Part.queued = some [] := by
  unfold Chip.endSteps
  extract_lets ended
  have hended : (ended.part p).isSome = true := by
    simp only [ended]
    split
    · exact h
    · exact Chip.isSome_endStep h ..
  split
  · next hnone => rw [hnone] at hended; cases hended
  · next x hx =>
    refine List.foldlRecOn (motive := fun d : Chip => (d.part p).map Part.queued = some []) _ _ ?_ fun d hd q _ => ?_
    · rw [Chip.part_setPart_same]
      rfl
    · split <;> exact hd

/-- The reset of a function ends the steps of the partition it serves, and keeps its Bus Master Enable. -/
theorem Chip.flr_resets {c : Chip} (h : c.hasFunc fn = true) : ∃ d : Chip, c.flr fn = (d.updFunc fn (fun g => { g with bme := (c.func fn).bme })).resetFunc fn ∧
    ∀ p, c.partOf fn = some p → d.running p = none ∧ (d.part p).map Part.queued = some [] := by
  have hpart {p : Nat} (hp : c.partOf fn = some p) : (c.part p).isSome = true := by
    simp only [Chip.partOf] at hp
    split at hp
    · cases hp
    · split at hp <;> cases hp
      assumption
  simp only [Chip.flr, h, Bool.not_true, Bool.false_eq_true, if_false]
  refine ⟨_, rfl, fun p hp => ?_⟩
  have hserved (e : Func) : (c.setFunc fn e).partOf fn = some p := hp
  simp only [hserved]
  obtain ⟨hqueued, hidle⟩ := Chip.Requeues.dropRequests ((c.setFunc fn { bme := false, era := (c.func fn).era + 1 }).endSteps p .cancelled) p
  exact ⟨hidle (Chip.running_endSteps ..), hqueued.trans (Chip.queued_endSteps (c := c.setFunc fn _) (hpart hp) _)⟩

end

/-! Commands of a function that exists, and of one that does not (13 R460) -/

theorem exec_bmeWrite_up {s : State} (hup : s.chip.power.inReset = false) (fn : Nat) (on : Bool) :
    exec (.bmeWrite fn on) s = .next (s.withChip (s.chip.bmeWrite fn on)) := State.onPort_up hup (·.bmeWrite fn on)

theorem exec_functionLevelReset_up {s : State} (hup : s.chip.power.inReset = false) (fn : Nat) :
    exec (.functionLevelReset fn) s = .next (s.withChip (s.chip.flr fn)) := State.onPort_up hup (·.flr fn)

theorem State.onChip_same {s : State} {f : Chip → Chip} (h : f s.chip = s.chip) : s.onChip f = .next s := by simp [State.onChip, h]

theorem State.onPort_same {s : State} {f : Chip → Chip} (h : f s.chip = s.chip) : s.onPort f = .next s := by simp [State.onPort, h]

theorem Chip.bmeWrite_exists {c : Chip} {fn : Nat} (h : c.hasFunc fn = true) (on : Bool) :
    c.bmeWrite fn on = (c.updFunc fn (fun f => { f with bme := on })).flushWrites fn := by simp [Chip.bmeWrite, h]

theorem Chip.busMaster_bme {c : Chip} {fn : Nat} (h : c.hasFunc fn = true) (on : Bool) :
    (c.updFunc fn (fun f => { f with bme := on })).busMaster fn = (on && c.hostUp) := by
  have hexists : (c.updFunc fn (fun f => { f with bme := on })).hasFunc fn = true := h
  rw [Chip.busMaster, hexists, Chip.func_updFunc_same, Bool.true_and, Chip.updFunc_hostUp]

/-- Settles O33: each command is what it stores in the function, and what follows for its partition and for host memory. -/
theorem functionsAreConfiguredAndReset : Obligations.FunctionsAreConfiguredAndReset := by
  refine ⟨fun s fn n cq v hup hexists hinert hgood => ?_, fun s fn n cq v hup hexists => ⟨fun hinert hon => ?_, fun hinert hrefused => ?_⟩,
    fun s fn n cq on v habsent => ⟨?_, ?_, ?_⟩, fun s fn on hup hexists => ?_, fun s fn hup hexists => ?_⟩
  · intro r
    refine ⟨_, exec_ringCfgWrite_powered hup, ?_⟩
    rw [Chip.ringCfgWrite_stores hexists hinert hgood]
    have hindex : r ≠ ringIndex cq fn n := by cases cq <;> simp [r, ringIndex, rg]
    extract_lets stored
    have hstored : stored.reg r = v &&& BitVec.ofNat 32 r.name.info.rw := Chip.reg_setReg_same ..
    have hothers {q : Reg} (hq : q ≠ r) : stored.reg q = s.chip.reg q := Chip.reg_setReg_other _ _ _ _ hq
    split
    · obtain ⟨hmem, hparts, hregs⟩ := stored.ringEnabled_frame fn cq n
      refine ⟨(hregs r hindex).trans hstored, hmem, hparts, ?_, ?_, fun q hq htail hhead => ?_⟩
      · rintro - - rfl
        obtain ⟨htail, hheads⟩ := stored.ringEnabled_cq fn n
        simp only [State.withChip, Chip.cqTail, Chip.field, htail]
        exact ⟨by decide, by decide, hheads⟩
      · rintro - - rfl
        obtain ⟨hhead, htails⟩ := stored.ringEnabled_sq fn n
        simp only [State.withChip, Chip.sqHead, Chip.field, hhead]
        exact ⟨by decide, htails⟩
      · exact (hregs q (by cases cq <;> assumption)).trans (hothers hq)
    · next hstays =>
      have hstays {P : Prop} (hon : v.bit 31 = true) (hwas : (s.chip.reg r).bit 31 = false) : P := by
        refine absurd ?_ hstays
        rw [hon, show (s.chip.reg (ringCfg cq fn n)).bit 31 = false from hwas]
        rfl
      exact ⟨hstored, rfl, rfl, fun hon hwas _ => hstays hon hwas, fun hon hwas _ => hstays hon hwas, fun q hq _ _ => hothers hq⟩
  · rw [exec_ringCfgWrite_powered hup, Chip.ringCfgWrite_inert hexists hinert hon]
  · rw [exec_ringCfgWrite_powered hup, Chip.ringCfgWrite_refused hexists hinert hrefused]
  · exact State.onChip_same (f := (·.ringCfgWrite fn cq n v)) (Chip.ringCfgWrite_absent habsent)
  · exact State.onPort_same (f := (·.bmeWrite fn on)) (by simp [Chip.bmeWrite, habsent])
  · exact State.onPort_same (f := (·.flr fn)) (by simp [Chip.flr, habsent])
  · refine ⟨_, exec_bmeWrite_up hup fn on, ?_⟩
    rw [Chip.bmeWrite_exists hexists]
    cases hgoes : on && s.chip.hostUp with
    | true =>
      obtain ⟨hon, hlink⟩ := Bool.and_eq_true_iff.mp hgoes
      obtain ⟨hregs, hmem, hparts, hfunc, hhost⟩ := Chip.flushWrites_up ((Chip.busMaster_bme hexists on).trans hgoes)
      rw [Chip.func_updFunc_same] at hfunc hhost
      simp only [State.withChip, hfunc, hhost]
      refine ⟨trivial, hregs, hmem, hparts, fun _ _ => ⟨trivial, rfl⟩, ?_⟩
      rintro (hoff | hdown)
      · exact absurd (hon.symm.trans hoff) (by decide)
      · exact absurd (hlink.symm.trans hdown) (by decide)
    | false =>
      rw [Chip.flushWrites_off ((Chip.busMaster_bme hexists on).trans hgoes)]
      simp only [State.withChip, Chip.func_updFunc_same]
      refine ⟨trivial, rfl, rfl, rfl, fun hon hlink => ?_, fun _ => ⟨rfl, trivial⟩⟩
      rw [hon, hlink] at hgoes
      cases hgoes
  · obtain ⟨d, hreset, hended⟩ := Chip.flr_resets hexists
    refine ⟨_, exec_functionLevelReset_up hup fn, ?_⟩
    simp only [State.withChip, hreset, Chip.resetFunc_func, Chip.func_updFunc_same, true_and]
    exact ⟨fun r hblk hblock => Chip.resetFunc_reg _ hblk hblock, hended⟩

end Sys2Proof.Machine
end

section
/-! PROOFS. Firmware update (16 R560-R566): the directory that is written is the one read back, and what each command does with it. -/

namespace Sys2Proof.Machine

/-! Little-endian fields -/

theorem leNat_lt : ∀ bs : List Byte, leNat bs < 256 ^ bs.length
  | [] => Nat.one_pos
  | b :: bs => by
    have hrest := leNat_lt bs
    have hbyte : b.toNat < 256 := b.isLt
    rw [leNat, List.length_cons, Nat.pow_succ]
    omega

theorem bytesLe_byte_lt (bs : List Byte) (lo : Nat) : bytesLe bs lo 1 < 256 :=
  (leNat_lt _).trans_le (Nat.pow_le_pow_right (by decide) (List.length_take_le 1 _))

/-- A field of a record that its bytes begin with, past others of known length. -/
theorem bytesLe_field {bs pre post : List Byte} {lo n v : Nat} (hbs : bs = pre ++ (leBytes n v ++ post)) (hlo : pre.length = lo) (hv : v < 256 ^ n) :
    bytesLe bs lo n = v := by
  rw [hbs, bytesLe, List.drop_left' hlo, List.take_left' (leBytes_length n v), leNat_leBytes, Nat.mod_eq_of_lt hv]

theorem Memory.read_of_bytes {m m' : Memory} {a n : Nat} (h : ∀ j, a ≤ j → j < a + n → m'.byte j = m.byte j) : m'.read a n = m.read a n := by
  induction n generalizing a with
  | zero => rfl
  | succ n ih =>
    rw [Memory.read, Memory.read, h a (Nat.le_refl a) (by omega), ih fun j hlo hhi => h j (by omega) (by omega)]

/-! CRC-32C is a word of 32 bits -/

theorem crcBits_lt (n : Nat) {c : Nat} (h : c < 2 ^ 32) : crcBits n c < 2 ^ 32 := by
  induction n generalizing c with
  | zero => exact h
  | succ n ih =>
    have hhalf : c / 2 < 2 ^ 32 := by omega
    rw [crcBits]
    split
    · exact ih (Nat.xor_lt_two_pow hhalf (by decide))
    · exact ih hhalf

theorem crcFeed_lt (bs : List Byte) {c : Nat} (h : c < 2 ^ 32) : crcFeed c bs < 2 ^ 32 := by
  induction bs generalizing c with
  | nil => exact h
  | cons b bs ih => exact ih (crcBits_lt 8 (Nat.xor_lt_two_pow h (b.isLt.trans (by decide))))

theorem crc32c_lt (bs : List Byte) : crc32c bs < 2 ^ 32 := Nat.xor_lt_two_pow (crcFeed_lt bs (by decide)) (by decide)

/-! The directory (16 R560) -/

/-- The twelve bytes of a copy of the directory. -/
def dirBytes (seq active pending tries : Nat) : List Byte :=
  let bs := leBytes 4 seq ++ leBytes 1 active ++ leBytes 1 pending ++ leBytes 1 tries ++ leBytes 1 0
  bs ++ leBytes 4 (crc32c bs)

section
variable {flash : Memory} {seq active pending tries : Nat}

theorem dirCopy_write_same (hwf : flash.wf = true) (i : Nat) (hseq : seq < 2 ^ 32) (hactive : active < 256) (hpending : pending < 256)
    (htries : tries < 256) : dirCopy (flash.write (0x1000 * i) (dirBytes seq active pending tries)) i = some (seq, active, pending, tries) := by
  have hread := Memory.read_write_same (dirBytes seq active pending tries) (0x1000 * i) hwf
  rw [show (dirBytes seq active pending tries).length = 12 by simp [dirBytes]] at hread
  generalize hbytes : dirBytes seq active pending tries = bs at hread
  have hcrc : bytesLe bs 8 4 = crc32c (bs.take 8) := by
    rw [← hbytes, dirBytes, List.take_left' (by simp)]
    exact bytesLe_field (post := []) (by rw [List.append_nil]) (by simp) (crc32c_lt _)
  have hfields : bytesLe bs 0 4 = seq ∧ bytesLe bs 4 1 = active ∧ bytesLe bs 5 1 = pending ∧ bytesLe bs 6 1 = tries := by
    simp only [← hbytes, dirBytes, List.append_assoc]
    exact ⟨bytesLe_field (pre := []) rfl rfl hseq, bytesLe_field rfl (leBytes_length 4 seq) hactive,
      bytesLe_field (pre := leBytes 4 seq ++ leBytes 1 active) (by simp only [List.append_assoc]; rfl) (by simp) hpending,
      bytesLe_field (pre := leBytes 4 seq ++ (leBytes 1 active ++ leBytes 1 pending)) (by simp only [List.append_assoc]; rfl) (by simp) htries⟩
  obtain ⟨hseqRead, hactiveRead, hpendingRead, htriesRead⟩ := hfields
  rw [dirCopy, hread, if_pos hcrc, hseqRead, hactiveRead, hpendingRead, htriesRead]

theorem dirCopy_write_other (hwf : flash.wf = true) {i k : Nat} (h : i ≠ k) :
    dirCopy (flash.write (0x1000 * i) (dirBytes seq active pending tries)) k = dirCopy flash k := by
  have hread : (flash.write (0x1000 * i) (dirBytes seq active pending tries)).read (0x1000 * k) 12 = flash.read (0x1000 * k) 12 := by
    refine Memory.read_of_bytes fun j hlo hhi => ?_
    rw [Memory.byte_write _ _ _ hwf, if_neg]
    simp only [dirBytes, List.length_append, leBytes_length]
    omega
  rw [dirCopy, dirCopy, hread]

/-- The directory just written is the one in force. -/
theorem directory_putDirectory (hwf : flash.wf = true) (hseq : (directory flash).2.1 + 1 < 2 ^ 32) (hactive : active < 256) (hpending : pending < 256)
    (htries : tries < 256) :
    (directory (putDirectory flash active pending tries)).2 = ((directory flash).2.1 + 1, active, pending, tries) := by
  have hput : putDirectory flash active pending tries =
      flash.write (0x1000 * (1 - (directory flash).1)) (dirBytes ((directory flash).2.1 + 1) active pending tries) := rfl
  rw [hput]
  generalize hnewer : (directory flash).2.1 + 1 = seq at hseq ⊢
  generalize hside : (directory flash).1 = side
  have hsame := fun i => dirCopy_write_same hwf i hseq hactive hpending htries
  have hother := @dirCopy_write_other flash seq active pending tries hwf
  unfold directory at hnewer hside
  split at hnewer <;> rename_i h0 h1 <;> simp only [h0, h1] at hside hnewer
  · split at hnewer <;> rename_i hlt <;> dsimp only at hnewer
    · rw [if_pos hlt] at hside
      subst hside
      simp only [directory, hsame 0, hother (i := 0) (k := 1) (by decide), h1, Nat.sub_self]
      rw [if_neg (by omega)]
    · rw [if_neg hlt] at hside
      subst hside
      simp only [directory, hsame 1, hother (i := 1) (k := 0) (by decide), h0, Nat.sub_zero]
      rw [if_pos (by omega)]
  · subst hside
    simp only [directory, hsame 1, hother (i := 1) (k := 0) (by decide), h0, Nat.sub_zero]
    rw [if_pos (by omega)]
  · subst hside
    simp only [directory, hsame 0, hother (i := 0) (k := 1) (by decide), h1, Nat.sub_self]
    rw [if_neg (by omega)]
  · subst hside
    simp only [directory, hsame 0, hother (i := 0) (k := 1) (by decide), h1, Nat.sub_self]

theorem putDirectory_reads (hwf : flash.wf = true) (hseq : (directory flash).2.1 + 1 < 2 ^ 32) (hactive : active < 256) (hpending : pending < 256)
    (htries : tries < 256) : pendingSlot (putDirectory flash active pending tries) = (if pending < 2 then some pending else none) ∧
    activeSlot (putDirectory flash active pending tries) = active ∧ bootTries (putDirectory flash active pending tries) = tries := by
  have hput := directory_putDirectory hwf hseq hactive hpending htries
  simp only [pendingSlot, activeSlot, bootTries, hput, true_and]

theorem activeSlot_lt (flash : Memory) : activeSlot flash < 256 := by
  have hcopy : ∀ i a, dirCopy flash i = some a → a.2.1 < 256 := by
    intro i a h
    simp only [dirCopy, Option.ite_none_right_eq_some, Option.some.injEq] at h
    rw [← h.2]
    exact bytesLe_byte_lt ..
  unfold activeSlot directory
  split
  · split
    · exact hcopy 1 _ ‹_›
    · exact hcopy 0 _ ‹_›
  · exact hcopy 0 _ ‹_›
  · exact hcopy 1 _ ‹_›
  · decide

theorem bootTries_lt (flash : Memory) : bootTries flash < 256 := by
  have hcopy : ∀ i a, dirCopy flash i = some a → a.2.2.2 < 256 := by
    intro i a h
    simp only [dirCopy, Option.ite_none_right_eq_some, Option.some.injEq] at h
    rw [← h.2]
    exact bytesLe_byte_lt ..
  unfold bootTries directory
  split
  · split
    · exact hcopy 1 _ ‹_›
    · exact hcopy 0 _ ‹_›
  · exact hcopy 0 _ ‹_›
  · exact hcopy 1 _ ‹_›
  · decide

/-- FWU_ABORT leaves no slot to try and the running one as it was. -/
theorem clearPending_clears (hwf : flash.wf = true) (hseq : (directory flash).2.1 + 1 < 2 ^ 32) :
    pendingSlot (clearPending flash) = none ∧ activeSlot (clearPending flash) = activeSlot flash := by
  cases hpending : pendingSlot flash with
  | none => exact ⟨by rw [clearPending, hpending]; exact hpending, by rw [clearPending, hpending]; rfl⟩
  | some slot =>
    rw [clearPending, hpending]
    obtain ⟨hnone, hactive, -⟩ := putDirectory_reads hwf hseq (activeSlot_lt flash) (show 0xFF < 256 by decide) (bootTries_lt flash)
    exact ⟨hnone, hactive⟩

end

/-! The commands -/

section
variable (s : State) (req : MbxReq)

theorem exec_fwuBegin : exec (.fwuBegin req) s = execFwuBegin req s := rfl
theorem exec_fwuWrite (off n a : Nat) : exec (.fwuWrite req off n a) s = execFwuWrite req off n a s := rfl
theorem exec_fwuVerify : exec (.fwuVerify req) s = execFwuVerify req s := rfl
theorem exec_fwuActivate : exec (.fwuActivate req) s = execFwuActivate req s := rfl
theorem exec_fwuAbort : exec (.fwuAbort req) s = execFwuAbort req s := rfl

end

section
variable {s u : State} (h : s.Takes u)
include h

theorem State.Takes.busMaster (fn : Nat) : u.chip.busMaster fn = s.chip.busMaster fn := by
  obtain ⟨_, hchip⟩ := h.chip
  rw [hchip]
  rfl

theorem State.Takes.hostRead (a n : Nat) : u.chip.hostRead a n = s.chip.hostRead a n := by
  obtain ⟨_, hchip⟩ := h.chip
  rw [hchip]
  rfl

theorem State.Takes.refused (req : MbxReq) (st : Status) : s.Answered (u.answer req st) req st ∧ (u.answer req st).sys.fw = s.sys.fw :=
  ⟨h.silent.answered .., (State.answer_fw ..).trans h.fw⟩

/-- A command that changes the firmware and answers OK. -/
theorem State.Takes.updFw_answered (f : Firmware → Firmware) (req : MbxReq) (st : Status) :
    s.Answered ((u.updFw f).answer req st) req st ∧ ((u.updFw f).answer req st).sys.fw = f s.sys.fw :=
  ⟨State.Silent.answered (u := u.updFw f) ⟨h.silent.window, h.silent.mctp, h.silent.internal⟩ .., (State.answer_fw ..).trans (congrArg f h.fw)⟩

end

/-- Settles O47: each command is its row of the table in the state that has taken the request, and the directory written is read back. -/
theorem updatesOpenWriteVerifyAndActivate : Obligations.UpdatesOpenWriteVerifyAndActivate := by
  intro s req hfree hsource hwf hseq w
  have hserved {i : Instr} {o : Host.Outcome State Fault Refusal} (ho : exec i s = o) {code : Nat} {f : State → State}
      (hi : o = s.mailbox req code true f) {P : State → Prop} (hP : ∀ u, s.Takes u → P (f u)) : Completes i s P :=
    completes_inRecovery hfree hsource (ho.trans hi) hP
  refine ⟨fun hclosed hnothing => ?_, fun hbusy => ?_, fun off n a hbad => ?_, fun hclosed => ⟨?_, ?_, fun off n a hok => ?_⟩,
    fun up hopen hslot => ⟨fun off n a bs hok hbus hread => ?_, fun off n a e hok hread => ?_, fun st hfault => ?_, fun hgood holder => ?_,
      fun hgood hnewer => ?_, fun hverified => ?_, fun hverified => ?_⟩, fun htrial => ?_, fun htrial => ?_⟩
  · refine hserved (exec_fwuBegin s req) rfl fun u hu => ?_
    obtain ⟨hanswered, hfw⟩ := hu.updFw_answered (fun w => { w with
      update := some { slot := 1 - activeSlot s.sys.fw.flash }
      flash := w.flash.zero (slotBase (1 - activeSlot s.sys.fw.flash)) (slotBase (1 - activeSlot s.sys.fw.flash) + 0x1000) }) req .ok
    dsimp only
    rw [hu.fw, if_neg (by simp [show s.sys.fw.update = none from hclosed, show pendingSlot s.sys.fw.flash = none from hnothing])]
    exact ⟨hanswered, by rw [hfw], by rw [hfw]⟩
  · refine hserved (exec_fwuBegin s req) rfl fun u hu => ?_
    dsimp only
    rw [hu.fw, if_pos hbusy]
    exact hu.refused ..
  · refine hserved (exec_fwuWrite s req off n a) rfl fun u hu => ?_
    dsimp only
    rw [hbad]
    exact hu.refused ..
  · refine hserved (exec_fwuVerify s req) rfl fun u hu => ?_
    rw [hu.fw, hclosed]
    exact hu.refused ..
  · refine hserved (exec_fwuActivate s req) rfl fun u hu => ?_
    rw [hu.fw, hclosed]
    exact hu.refused ..
  · refine hserved (exec_fwuWrite s req off n a) rfl fun u hu => ?_
    dsimp only
    rw [hok, hu.fw, hclosed]
    exact hu.refused ..
  · refine hserved (exec_fwuWrite s req off n a) rfl fun u hu => ?_
    dsimp only
    rw [hok, hu.fw, hopen]
    obtain ⟨hanswered, hfw⟩ := hu.updFw_answered (fun w => { w with
      update := some { up with verified := false }, flash := w.flash.write (slotBase up.slot + off) bs }) req .ok
    simp only [Bool.not_true, Bool.false_eq_true, if_false, State.updFw, hu.busMaster, hbus, hu.hostRead, hread] at hanswered hfw ⊢
    exact ⟨hanswered, by rw [hfw], by rw [hfw]⟩
  · refine hserved (exec_fwuWrite s req off n a) rfl fun u hu => ?_
    dsimp only
    rw [hok, hu.fw, hopen]
    obtain ⟨hanswered, hfw⟩ := hu.updFw_answered (fun w => { w with update := some { up with verified := false } }) req .denied
    simp only [Bool.not_true, Bool.false_eq_true, if_false, State.updFw, hu.hostRead, hread, ite_self] at hanswered hfw ⊢
    exact ⟨hanswered, by rw [hfw]⟩
  · refine hserved (exec_fwuVerify s req) rfl fun u hu => ?_
    rw [hu.fw, hopen]
    dsimp only
    rw [hfault]
    exact hu.refused ..
  · refine hserved (exec_fwuVerify s req) rfl fun u hu => ?_
    rw [hu.fw, hopen]
    dsimp only
    rw [hgood]
    dsimp only
    rw [if_pos holder]
    exact hu.refused ..
  · refine hserved (exec_fwuVerify s req) rfl fun u hu => ?_
    rw [hu.fw, hopen]
    dsimp only
    rw [hgood]
    dsimp only
    rw [if_neg (by rw [hnewer]; decide)]
    exact hu.updFw_answered ..
  · refine hserved (exec_fwuActivate s req) rfl fun u hu => ?_
    rw [hu.fw, hopen]
    dsimp only
    rw [if_pos hverified]
    obtain ⟨hanswered, hfw⟩ := hu.updFw_answered (fun w => { w with flash := putDirectory w.flash (activeSlot w.flash) up.slot 0 }) req .ok
    refine ⟨hanswered, ?_⟩
    rw [hfw, ← if_pos (c := up.slot < 2) (t := some up.slot) (e := none) hslot]
    exact putDirectory_reads hwf hseq (activeSlot_lt _) (hslot.trans (by decide)) (by decide)
  · refine hserved (exec_fwuActivate s req) rfl fun u hu => ?_
    rw [hu.fw, hopen]
    dsimp only
    rw [if_neg (by rw [hverified]; decide)]
    exact hu.refused ..
  · refine hserved (exec_fwuAbort s req) rfl fun u hu => ?_
    rw [hu.fw, if_neg (by rw [htrial]; decide)]
    obtain ⟨hanswered, hfw⟩ := hu.updFw_answered (fun w => { w with update := none, flash := clearPending w.flash }) req .ok
    refine ⟨hanswered, ?_⟩
    rw [hfw]
    exact ⟨rfl, clearPending_clears hwf hseq⟩
  · refine hserved (exec_fwuAbort s req) rfl fun u hu => ?_
    rw [hu.fw, if_pos htrial]
    exact hu.refused ..

end Sys2Proof.Machine
end

section
/-! PROOFS. The Warden's keys and its register commands (14 R518, 15 R524): the byte of a key, the windows that a revoked key closes, and what
REG_READ and REG_WRITE reach. -/

namespace Sys2Proof.Machine

/-! The bytes of ILT.KEYS (14 R518) -/

/-- A field keeps what it holds where another one, apart from it, is replaced. -/
theorem field_putField_other (w : Word) {hi lo v hi' lo' : Nat} (hhi' : hi' < 32) (hapart : hi < lo' ∨ hi' < lo) :
    (putField w hi lo v).field hi' lo' = w.field hi' lo' := by
  refine Nat.eq_of_testBit_eq fun i => ?_
  rw [Word.field, Word.field, putField, BitVec.toNat_ofNat, show (0xFFFFFFFF : Nat) = 2 ^ 32 - 1 from rfl]
  simp only [Nat.testBit_mod_two_pow, Nat.testBit_shiftRight, Nat.testBit_or, Nat.testBit_and, Nat.testBit_xor, Nat.testBit_shiftLeft,
    Nat.testBit_two_pow_sub_one]
  by_cases hin : i < hi' + 1 - lo'
  · have hword : lo' + i < 32 := by omega
    rcases Nat.lt_or_ge (lo' + i) lo with hbelow | habove
    · simp [hin, hword, show ¬ lo ≤ lo' + i by omega]
    · simp [hin, hword, show ¬ lo' + i - lo < hi + 1 - lo by omega]
  · simp [hin]

theorem Chip.keyByte_eq (c : Chip) (k : Nat) : c.keyByte k = c.field (rg .iltKeys 0 (k / 4)) (8 * (k % 4) + 7) (8 * (k % 4)) := by
  rw [Chip.keyByte, Chip.field, Word.field, Nat.shiftRight_eq_div_pow, show 8 * (k % 4) + 7 + 1 - 8 * (k % 4) = 8 by omega]
  rfl

theorem Chip.keyByte_of_reg {c d : Chip} {k : Nat} (h : d.reg (rg .iltKeys 0 (k / 4)) = c.reg (rg .iltKeys 0 (k / 4))) :
    d.keyByte k = c.keyByte k := by
  rw [Chip.keyByte, Chip.keyByte, h]

theorem Chip.setKeyByte_same (c : Chip) (k : Nat) {v : Nat} (hv : v < 256) : (c.setKeyByte k v).keyByte k = v := by
  rw [Chip.keyByte_eq]
  refine Chip.field_setField c _ (by omega) ?_
  rwa [show 8 * (k % 4) + 7 + 1 - 8 * (k % 4) = 8 by omega]

theorem Chip.setKeyByte_other (c : Chip) {k j : Nat} (v : Nat) (h : j ≠ k) : (c.setKeyByte k v).keyByte j = c.keyByte j := by
  have hregs : (c.setKeyByte k v).regs = (c.setField (rg .iltKeys 0 (k / 4)) (8 * (k % 4) + 7) (8 * (k % 4)) v).regs := rfl
  by_cases hreg : j / 4 = k / 4
  · rw [Chip.keyByte_eq, Chip.keyByte_eq, Chip.field, Chip.field, Chip.reg_of_regs hregs, hreg, Chip.setField, Chip.reg_setReg_same]
    exact field_putField_other _ (by omega) (by omega)
  · refine Chip.keyByte_of_reg ?_
    rw [Chip.reg_of_regs hregs, Chip.setField, Chip.reg_setReg_other]
    simpa [rg] using hreg

/-! Windows that carry a key (07 R268) -/

theorem Tbl.mem_of_find? {κ ν : Type} [DecidableEq κ] {k : κ} {v : ν} {t : Tbl κ ν} (h : Tbl.find? k t = some v) : (k, v) ∈ t := by
  induction t with
  | nil => cases h
  | cons e t ih =>
    obtain ⟨j, w⟩ := e
    by_cases hj : j = k
    · simp only [Tbl.find?, hj, if_true, Option.some.injEq] at h
      rw [hj, h]
      exact .head _
    · simp only [Tbl.find?, hj, if_false] at h
      exact .tail _ (ih h)

/-- The words of a partition's window. -/
def Chip.windowOf (c : Chip) (q n : Nat) : Option (List Word) := (c.part q).bind (fun x => Tbl.find? n x.windows)

theorem Chip.windowOf_part {c : Chip} {q n : Nat} {x : Part} (hx : c.part q = some x) : c.windowOf q n = Tbl.find? n x.windows := by
  rw [Chip.windowOf, hx]
  rfl

theorem Chip.putWindow_outside (c : Chip) (p n : Nat) (ws : List Word) : (c.putWindow p n ws).mem = c.mem ∧
    (c.putWindow p n ws).mbxWindow = c.mbxWindow ∧ (∀ r : Reg, r.name ∉ windowRegs → (c.putWindow p n ws).reg r = c.reg r) := by
  obtain ⟨regs, hframe, hsame⟩ := c.storeWindow_frame p n ws
  rw [Chip.putWindow_eq, Chip.setWindow, Chip.updPart_mem, Chip.updPart_mbxWindow]
  refine ⟨by rw [hframe], by rw [hframe], fun r hr => (Chip.reg_of_regs (Chip.updPart_regs ..) r).trans (hsame r hr)⟩

theorem Chip.windowOf_putWindow (c : Chip) (p n q m : Nat) (ws : List Word) {vs : List Word} (h : (c.putWindow p n ws).windowOf q m = some vs) :
    (q = p ∧ m = n ∧ vs = ws) ∨ (¬ (q = p ∧ m = n) ∧ c.windowOf q m = some vs) := by
  obtain ⟨regs, hframe, -⟩ := c.storeWindow_frame p n ws
  have hpart (q : Nat) : (c.storeWindow p n ws).part q = c.part q := Chip.part_of_parts (by rw [hframe]) q
  rw [Chip.putWindow_eq, Chip.setWindow] at h
  cases hx : c.part p with
  | none =>
    rw [Chip.updPart, hpart, hx] at h
    refine .inr ⟨?_, by rwa [Chip.windowOf, hpart] at h⟩
    rintro ⟨rfl, rfl⟩
    rw [Chip.windowOf, hpart, hx] at h
    cases h
  | some x =>
    rw [Chip.updPart_eq ((hpart p).trans hx)] at h
    by_cases hq : q = p
    · subst hq
      rw [Chip.windowOf_part (Chip.part_setPart_same ..)] at h
      by_cases hm : m = n
      · subst hm
        rw [Tbl.find?_set_same, Option.some.injEq] at h
        exact .inl ⟨rfl, rfl, h.symm⟩
      · rw [Tbl.find?_set_other _ _ _ _ hm] at h
        exact .inr ⟨fun e => hm e.2, (Chip.windowOf_part hx).trans h⟩
    · rw [Chip.windowOf, Chip.part_setPart_other _ _ _ _ hq, hpart] at h
      exact .inr ⟨fun e => hq e.1, h⟩

theorem Chip.putWindows_facts (l : List (Nat × Nat × List Word)) (c : Chip) :
    let d := l.foldl (fun c w => c.putWindow w.1 w.2.1 w.2.2) c
    d.mem = c.mem ∧ d.mbxWindow = c.mbxWindow ∧ (∀ r : Reg, r.name ∉ windowRegs → d.reg r = c.reg r) ∧
    ∀ q n ws, d.windowOf q n = some ws → (q, n, ws) ∈ l ∨ ((∀ w ∈ l, ¬ (q = w.1 ∧ n = w.2.1)) ∧ c.windowOf q n = some ws) := by
  induction l generalizing c with
  | nil => exact ⟨rfl, rfl, fun _ _ => rfl, fun _ _ _ h => .inr ⟨fun _ hw => absurd hw List.not_mem_nil, h⟩⟩
  | cons w l ih =>
    obtain ⟨hmem, hmbx, hreg, hwindow⟩ := ih (c.putWindow w.1 w.2.1 w.2.2)
    obtain ⟨hmemPut, hmbxPut, hregPut⟩ := c.putWindow_outside w.1 w.2.1 w.2.2
    refine ⟨hmem.trans hmemPut, hmbx.trans hmbxPut, fun r hr => (hreg r hr).trans (hregPut r hr), fun q n ws h => ?_⟩
    rcases hwindow q n ws h with hlater | ⟨hnone, hput⟩
    · exact .inl (.tail _ hlater)
    · rcases c.windowOf_putWindow _ _ _ _ _ hput with ⟨hq, hn, hws⟩ | ⟨hother, hkept⟩
      · exact .inl (by rw [hq, hn, hws]; exact .head _)
      · exact .inr ⟨List.forall_mem_cons.mpr ⟨hother, hnone⟩, hkept⟩

/-- The windows that carry a key, with VALID clear. -/
def Chip.closedWindows (c : Chip) (key : Nat) : List (Nat × Nat × List Word) :=
  c.parts.flatMap (fun e => (e.2.windows.filter (fun w => (w.2.getD 4 0).field 15 0 == key)).map
    (fun w => (e.1, w.1, w.2.set 5 (w.2.getD 5 0 &&& ~~~(1 : Word)))))

theorem Chip.closeKeyWindows_eq (c : Chip) (key : Nat) :
    c.closeKeyWindows key = (c.closedWindows key).foldl (fun c w => c.putWindow w.1 w.2.1 w.2.2) c := by
  simp only [Chip.closeKeyWindows, Chip.closedWindows, List.foldl_flatMap, List.foldl_map]

theorem clearValid_bit (ws : List Word) : ((ws.set 5 (ws.getD 5 0 &&& ~~~(1 : Word))).getD 5 0).bit 0 = false := by
  by_cases h : 5 < ws.length
  · simp only [List.getD_eq_getElem?_getD, List.getElem?_set_self h, Option.getD_some, Word.bit, BitVec.toNat_and, Nat.testBit_and]
    rw [show (~~~(1 : Word)).toNat.testBit 0 = false by decide, Bool.and_false]
  · rw [List.set_eq_of_length_le (by omega), List.getD_eq_getElem?_getD, List.getElem?_eq_none (by omega)]
    rfl

/-- No window that carries the key is VALID once its windows have closed. -/
theorem Chip.closeKeyWindows_closed (c : Chip) {key q n : Nat} {ws : List Word} (h : (c.closeKeyWindows key).windowOf q n = some ws)
    (hkey : (ws.getD 4 0).field 15 0 = key) : (ws.getD 5 0).bit 0 = false := by
  rw [Chip.closeKeyWindows_eq] at h
  obtain ⟨-, -, -, hwindow⟩ := Chip.putWindows_facts (c.closedWindows key) c
  rcases hwindow q n ws h with hclosed | ⟨hnone, hkept⟩
  · obtain ⟨e, -, hmem⟩ := List.mem_flatMap.mp hclosed
    obtain ⟨w, -, hw⟩ := List.mem_map.mp hmem
    have hws : w.2.set 5 (w.2.getD 5 0 &&& ~~~(1 : Word)) = ws := congrArg (fun t => t.2.2) hw
    rw [← hws]
    exact clearValid_bit w.2
  · obtain ⟨x, hx, hfind⟩ := Option.bind_eq_some_iff.mp hkept
    refine absurd ⟨rfl, rfl⟩ (hnone (q, n, ws.set 5 (ws.getD 5 0 &&& ~~~(1 : Word))) ?_)
    exact List.mem_flatMap.mpr ⟨(q, x), Tbl.mem_of_find? hx, List.mem_map.mpr ⟨(n, ws), List.mem_filter.mpr ⟨Tbl.mem_of_find? hfind, by simpa using hkey⟩, rfl⟩⟩

/-- A revoked key is not VALID, and its windows close. -/
theorem Chip.revokeKey_facts (c : Chip) (key : Nat) : (c.revokeKey key).mem = c.mem ∧ (c.revokeKey key).mbxWindow = c.mbxWindow ∧
    (c.revokeKey key).keyByte key = 0 ∧ (∀ k, k ≠ key → (c.revokeKey key).keyByte k = c.keyByte k) ∧
    ∀ q n ws, (c.revokeKey key).windowOf q n = some ws → (ws.getD 4 0).field 15 0 = key → (ws.getD 5 0).bit 0 = false := by
  obtain ⟨hmem, hmbx, hreg, -⟩ := Chip.putWindows_facts ((c.setKeyByte key 0).closedWindows key) (c.setKeyByte key 0)
  rw [← Chip.closeKeyWindows_eq] at hmem hmbx hreg
  have hbyte (k : Nat) : (c.revokeKey key).keyByte k = (c.setKeyByte key 0).keyByte k := Chip.keyByte_of_reg (hreg _ (by simp [rg, windowRegs]))
  exact ⟨hmem, hmbx, (hbyte key).trans (c.setKeyByte_same key (by decide)), fun k hk => (hbyte k).trans (c.setKeyByte_other 0 hk),
    fun _ _ _ => Chip.closeKeyWindows_closed _⟩

/-! The commands -/

/-- A served command completes with what its body does in the state that has taken the request. -/
theorem State.Serves.completes_body {s : State} {req : MbxReq} (h : s.Serves req) {i : Instr} {o : Host.Outcome State Fault Refusal}
    (ho : exec i s = o) {code : Nat} {inRec : Bool} {f : State → State} (hi : o = s.mailbox req code inRec f) {P : State → Prop}
    (hP : ∀ u, s.Takes u → P (f u)) : Completes i s P := h.completes (ho.trans hi) hP

theorem exec_keyGrant (s : State) (req : MbxReq) (key p : Nat) : exec (.keyGrant req key p) s = execKeyGrant req key p s := rfl
theorem exec_keyRevoke (s : State) (req : MbxReq) (key : Nat) : exec (.keyRevoke req key) s = execKeyRevoke req key s := rfl
theorem exec_regRead (s : State) (req : MbxReq) (a : Nat) : exec (.regRead req a) s = execRegRead req a s := rfl
theorem exec_regWrite (s : State) (req : MbxReq) (a : Nat) (v : Word) : exec (.regWrite req a v) s = execRegWrite req a v s := rfl

section
variable {s u : State} (h : s.Takes u)
include h

theorem State.Takes.keyByte (k : Nat) : u.chip.keyByte k = s.chip.keyByte k := Chip.keyByte_of_reg (h.reg _)

theorem State.Takes.keyValid (k : Nat) : u.chip.keyValid k = s.chip.keyValid k := by rw [Chip.keyValid, Chip.keyValid, h.keyByte]

theorem State.Takes.keysOf (p : Nat) : u.chip.keysOf p = s.chip.keysOf p := by
  simp only [Chip.keysOf, h.regs, h.keyByte]

/-- A command whose data path has the window of the state that took the request. -/
theorem State.Takes.withChip_answered {c : Chip} (hwindow : c.mbxWindow = u.chip.mbxWindow) (req : MbxReq) (st : Status) (result : Nat := 0) :
    s.Answered (({ u with chip := c } : State).answer req st result) req st result :=
  State.Silent.answered (u := { u with chip := c }) ⟨hwindow.trans h.silent.window, h.silent.mctp, h.silent.internal⟩ ..

/-- A refusal of KEY_GRANT answers and changes no register. -/
theorem State.Takes.keyGrant_refused (req : MbxReq) {key p : Nat} {st : Status} (hgrant : u.chip.keyGrant key p = (u.chip, st)) :
    let t := ({ u with chip := (u.chip.keyGrant key p).1 } : State).answer req (u.chip.keyGrant key p).2
    s.Answered t req st ∧ t.chip.regs = s.chip.regs := by
  rw [hgrant]
  exact ⟨h.withChip_answered rfl .., (State.answer_regs ..).trans h.regs⟩

end

/-- A read that no latch answers gives the register as it stands; at most the latch of its high half is taken. -/
theorem State.busRead_reg (u : State) (who : Agent) {a : Nat} {r : Reg} (hspot : physSpot a = .reg r) (hlow : pairLow r.name = none) :
    (u.busRead (.phys who a)).2 = u.sysReg (u.chip.governs r) ∧
      ∃ latch, (u.busRead (.phys who a)).1 = { u with chip := { u.chip with latch := latch } } := by
  have hlow' : pairLow (u.chip.governs r).name = none := by
    rw [Chip.governs]
    split <;> exact hlow
  have hread : u.busRead (.phys who a) = u.regRead r := by
    simp only [State.busRead, Chip.spot, hspot]
  rw [hread, State.regRead]
  split
  · exact ⟨rfl, _, rfl⟩
  · rw [hlow']
    exact ⟨rfl, _, rfl⟩

section
variable {s : State} {a : Nat} (hfree : s.wardenServes = true) {req : MbxReq}
include hfree

theorem execRegRead_outside (hrange : registerRange a = false) : execRegRead req a s = .next ((s.logCommand 0x0020 req).answer req .denied) := by
  rw [execRegRead, hfree, hrange]
  rfl

theorem execRegRead_inside {r : Reg} (hrange : registerRange a = true) (hspot : physSpot a = .reg r) (hlow : pairLow r.name = none) :
    ∃ t, execRegRead req a s = .next (t.answer req .ok (s.sysReg (s.chip.governs r)).toNat) ∧ s.Silent t ∧ t.chip.regs = s.chip.regs ∧
      t.chip.parts = s.chip.parts := by
  obtain ⟨hvalue, latch, hstate⟩ := (s.logCommand 0x0020 req).busRead_reg s.chip.warden hspot hlow
  refine ⟨((s.logCommand 0x0020 req).busRead (.phys s.chip.warden a)).1, ?_, ?_⟩
  · rw [execRegRead, hfree, hrange, show s.sysReg (s.chip.governs r) = (s.logCommand 0x0020 req).sysReg (s.chip.governs r) from rfl]
    exact congrArg (fun v : Word => Host.Outcome.next (((s.logCommand 0x0020 req).busRead (.phys s.chip.warden a)).1.answer req .ok v.toNat)) hvalue
  · rw [hstate]
    exact ⟨⟨rfl, rfl, rfl⟩, rfl, rfl⟩

end

/-- The registers that hold a setting and that REG_WRITE stores as they are written. -/
def storedSettings : List RegName := [.iltChip, .iltTorus, .iltRoute, .iltNextHop, .linkMacLo, .linkMacHi, .linkIp, .telemCfg]

theorem storedSettings_facts {r : Reg} (h : r.name ∈ storedSettings) (c : Chip) (v : Word) :
    mayRegWrite r = true ∧ governedBlock r.name.info.block = false ∧ r.name.info.w1c = 0 ∧
      c.writeReg r v = { c.plainWrite r v with settingsDue := true } := by
  obtain ⟨name, blk, idx⟩ := r
  simp only [storedSettings, List.mem_cons, List.not_mem_nil, or_false] at h
  rcases h with rfl | rfl | rfl | rfl | rfl | rfl | rfl | rfl <;> exact ⟨rfl, rfl, rfl, rfl⟩

/-- Settles O43: the byte of a key is the one written and no other is; the windows of a revoked key close; a register command reaches the
register that its offset names. -/
theorem keysAndRegistersAreTheWardens : Obligations.KeysAndRegistersAreTheWardens := by
  refine ⟨fun s req key p hserves hp hkey => ⟨fun hnonzero hfree hpart hroom => ?_, fun hzero => ?_, fun hnonzero hbad => ?_,
    fun hnonzero hfree hpart hfull => ?_, fun hvalid => ?_, fun hinvalid => ?_⟩, fun s req a hfree => ⟨fun hrange => ?_, fun r hrange hspot hlow => ?_⟩,
    fun s req a v r hserves hspot => ⟨fun hname => ?_, fun hblock hname hctrl => ?_⟩⟩
  · refine hserves.completes_body (exec_keyGrant s req key p) rfl fun u hu => ?_
    have hgrant : u.chip.keyGrant key p = (u.chip.setKeyByte key (128 + p), .ok) := by
      rw [← hu.keyValid] at hfree
      rw [← hu.part] at hpart
      rw [← hu.keysOf] at hroom
      rw [Chip.keyGrant, if_neg hnonzero, if_neg (by simp [hfree, Option.isSome_iff_ne_none.mp hpart]), if_neg (by omega)]
    have hregs : ∀ st, (({ u with chip := u.chip.setKeyByte key (128 + p) } : State).answer req st).chip.regs =
      (u.chip.setKeyByte key (128 + p)).regs := fun _ => State.answer_regs ..
    have hbyte (k : Nat) : (({ u with chip := u.chip.setKeyByte key (128 + p) } : State).answer req .ok).chip.keyByte k =
      (u.chip.setKeyByte key (128 + p)).keyByte k := Chip.keyByte_of_reg (State.answer_reg ..)
    have hset := u.chip.setKeyByte_same key (v := 128 + p) (by omega)
    dsimp only
    rw [hgrant]
    refine ⟨hu.withChip_answered (c := u.chip.setKeyByte key (128 + p)) rfl .., ?_, (hbyte key).trans hset, fun k hk => ?_, (State.answer_parts ..).trans hu.parts, (State.answer_mem ..).trans hu.mem⟩
    · rw [Chip.keyValid, hbyte, hset]
      interval_cases p <;> rfl
    · rw [hbyte, Chip.setKeyByte_other _ _ hk, hu.keyByte]
  · refine hserves.completes_body (exec_keyGrant s req key p) rfl fun u hu => hu.keyGrant_refused req (if_pos hzero)
  · refine hserves.completes_body (exec_keyGrant s req key p) rfl fun u hu => hu.keyGrant_refused req ?_
    rw [Chip.keyGrant, if_neg hnonzero, if_pos]
    rw [hu.keyValid, hu.part]
    exact hbad.imp_right fun hnone => by rw [hnone]; rfl
  · refine hserves.completes_body (exec_keyGrant s req key p) rfl fun u hu => hu.keyGrant_refused req ?_
    rw [Chip.keyGrant, if_neg hnonzero, if_neg (by simp [hu.keyValid, hu.part, hfree, Option.isSome_iff_ne_none.mp hpart]), if_pos (by rwa [hu.keysOf])]
  · refine hserves.completes_body (exec_keyRevoke s req key) rfl fun u hu => ?_
    have hrevoke : u.chip.keyRevoke key = (u.chip.revokeKey key, .ok) := if_pos ((hu.keyValid key).trans hvalid)
    obtain ⟨hmem, hmbx, hzero, hother, hclosed⟩ := u.chip.revokeKey_facts key
    have hbyte (k : Nat) : (({ u with chip := u.chip.revokeKey key } : State).answer req .ok).chip.keyByte k = (u.chip.revokeKey key).keyByte k :=
      Chip.keyByte_of_reg (State.answer_reg ..)
    dsimp only
    rw [hrevoke]
    refine ⟨hu.withChip_answered (c := u.chip.revokeKey key) hmbx .., ?_, fun k hk => ?_, (State.answer_mem ..).trans (hmem.trans hu.mem),
      fun q x n ws hx hfind hkeyed => hclosed q n ws ?_ hkeyed⟩
    · rw [Chip.keyValid, hbyte, hzero]
      rfl
    · rw [hbyte, hother k hk, hu.keyByte]
    · exact (Chip.windowOf_part ((Chip.part_of_parts (State.answer_parts ..) q).symm.trans hx)).trans hfind
  · refine hserves.completes_body (exec_keyRevoke s req key) rfl fun u hu => ?_
    have hrevoke : u.chip.keyRevoke key = (u.chip, .state) := if_neg (by rw [hu.keyValid, hinvalid]; decide)
    dsimp only
    rw [hrevoke]
    exact ⟨hu.withChip_answered rfl .., (State.answer_regs ..).trans hu.regs⟩
  · refine ⟨_, (exec_regRead s req a).trans (execRegRead_outside hfree hrange), ?_⟩
    exact ⟨State.Silent.answered (u := s.logCommand 0x0020 req) ⟨rfl, rfl, rfl⟩ .., State.answer_regs ..⟩
  · obtain ⟨t, hread, hsilent, hregs, hparts⟩ := execRegRead_inside hfree hrange hspot hlow (req := req)
    exact ⟨_, (exec_regRead s req a).trans hread, hsilent.answered .., (State.answer_regs ..).trans hregs, (State.answer_parts ..).trans hparts⟩
  · refine hserves.completes_body (exec_regWrite s req a v) rfl fun u hu => ?_
    obtain ⟨hmay, hgov, hw1c, hwrite⟩ := storedSettings_facts hname u.chip v
    have hreaches : u.chip.Reaches (.phys u.chip.warden a) r :=
      ⟨hspot, by simp [Chip.mayWrite, agentOf], fun hgoverned => absurd (hgov.symm.trans hgoverned) (by decide), fun _ hbar => nomatch hbar⟩
    rw [hspot]
    dsimp only
    rw [if_pos hmay, Chip.agentWrite_reaches hreaches, hwrite, State.answer_settingsDue]
    refine ⟨hu.withChip_answered (c := { u.chip.plainWrite r v with settingsDue := true }) rfl .., rfl, (State.answer_mem ..).trans hu.mem, ?_, fun q hq => ?_⟩
    · rw [State.answer_reg, ← hu.reg]
      exact Chip.reg_plainWrite_rw u.chip v hw1c
    · rw [State.answer_reg, ← hu.reg]
      exact Chip.reg_plainWrite_other u.chip v hq
  · refine hserves.completes_body (exec_regWrite s req a v) rfl fun u hu => ?_
    rw [hspot]
    dsimp only
    rw [if_neg]
    · exact ⟨hu.silent.answered .., (State.answer_regs ..).trans hu.regs, (State.answer_parts ..).trans hu.parts⟩
    · simp only [List.mem_cons, List.not_mem_nil, or_false, not_or] at hblock hname
      simp [mayRegWrite, hblock, hname, hctrl]

end Sys2Proof.Machine
end

section
/-! PROOFS. Link ports (14 R517): the statement fails at the installation of a transmit key. -/

namespace Sys2Proof.Machine

/-- A port that sends with the key of association number 0, which its table lists twice. -/
def twiceListedPort : Port := { txAn := some 0, saks := [((true, 0), { key := [], pn := 1, valid := true }), ((true, 0), { key := [], pn := 1, valid := true })] }

/-- The part out of reset, with that port 0, and with association number 1 and transmission selected. -/
def twiceListedState : State :=
  State.reset.withChip { State.reset.chip with
    power := { State.reset.chip.power with inReset := false }
    regs := [(rg .linkSakSel 0, 1)]
    fab := { State.reset.chip.fab with ports := [(0, twiceListedPort)] } }

theorem twiceListedState_powered : twiceListedState.chip.powered = true := by decide

/-- Both entries of the key in use count against the two keys of a direction, so the key just installed is the one that goes. -/
theorem twiceListedState_install (v : Word) : Tbl.find? (true, 1) ((twiceListedState.chip.sakInstall 0 v).port 0).saks = none := by
  rfl

/-- Refutes O54: on a port whose table lists the key in use twice, the key that SAK_DATA7 installs is at once dropped as the oldest of
more than two that is not in use. -/
theorem not_portsSendTakeAndForward : ¬ Obligations.PortsSendTakeAndForward := by
  rintro ⟨hports, -⟩
  obtain ⟨-, -, hinstall, -⟩ := hports twiceListedState 0 twiceListedState_powered
  obtain ⟨t, hstep, -, -, -, hfind, -⟩ := hinstall 0
  have hnext : exec (.sakInstall 0 0) twiceListedState = .next (twiceListedState.withChip (twiceListedState.chip.sakInstall 0 0)) :=
    State.onChip_powered twiceListedState_powered (·.sakInstall 0 0)
  rw [hnext, Host.Outcome.next.injEq] at hstep
  subst hstep
  exact absurd ((twiceListedState_install 0).symm.trans hfind) nofun

end Sys2Proof.Machine
end

section
/-! PROOFS. Restarts of request processors (15 R536): the statement fails where two partitions overlap. -/

namespace Sys2Proof.Machine

/-- A partition on unit 1 that serves, with nothing running or queued, whose open round waits for engine 512 alone. -/
def roundPart : Part := { units := 1, serving := some {}, roundOpen := true, round := [512] }

/-- The part out of reset with that partition, and one on units 0 and 1 that runs a serving step; engine 512 has a READY Accord. -/
def overlapState : State :=
  State.reset.withChip { State.reset.chip with
    power := { State.reset.chip.power with inReset := false }
    parts := [(1, roundPart), (0, { units := 2, serving := some {}, run := some { serving := true } })]
    engines := [(512, { ready := some {} })] }

theorem overlapState_powered : overlapState.chip.powered = true := by decide


/-- The step that the restart ends takes the Accord into force, which counts for the other partition's round. -/
theorem overlapState_restart : ((overlapState.chip.restart ⟨0, 3⟩).part 1).map Part.roundOpen = some false := by
  rfl

theorem exec_cpWatchdogRestart_goes {s : State} {who : Agent} (hup : s.chip.powered = true) (hrun : s.wardenHalted = false) (hpair : who.num ≠ 2)
    (hhalt : who ∉ s.sys.dbg.halted) : exec (.cpWatchdogRestart who) s = .next (s.withChip (s.chip.restart who)) := by
  rw [show exec (.cpWatchdogRestart who) s = execCpWatchdogRestart who s from rfl, execCpWatchdogRestart, if_neg (by simp [hup, hrun, hpair, hhalt])]
  rfl

/-- Refutes O44: where a partition's engines lie within another's units, the restart that ends the other's step changes the partition,
which had no step of its own: the boundary completes its round. No PART_CREATE makes such a state, but the statement does not rule it out. -/
theorem not_wardenTakesOverRestartsAndAnswers : ¬ Obligations.WardenTakesOverRestartsAndAnswers := by
  rintro ⟨⟨-, -, hrestarts, -⟩, -⟩
  obtain ⟨t, hstep, -, -, -, hparts⟩ := hrestarts overlapState ⟨0, 3⟩ overlapState_powered rfl (by decide) (by decide)
  rw [exec_cpWatchdogRestart_goes overlapState_powered rfl (by decide) (by decide), Host.Outcome.next.injEq] at hstep
  subst hstep
  obtain ⟨-, hsame⟩ := hparts 1 roundPart {} (.inl ⟨rfl, by decide⟩) rfl
  have hopen : ((overlapState.chip.restart ⟨0, 3⟩).part 1).map Part.roundOpen = some true := congrArg (Option.map Part.roundOpen) (hsame rfl rfl)
  exact absurd (overlapState_restart.symm.trans hopen) (by decide)

end Sys2Proof.Machine
end

section
/-! PROOFS. The end of all work at the entry to Solstice (16 R550): the clocks, the host link and the mailbox window are not part of it. -/

namespace Sys2Proof.Machine

/-- One part follows another with the same clocks, host link and mailbox window. -/
structure Chip.Lasts (c d : Chip) : Prop where
  clocks : d.clocks = c.clocks
  hostUp : d.hostUp = c.hostUp
  mbxWindow : d.mbxWindow = c.mbxWindow

namespace Chip.Lasts

theorem refl (c : Chip) : c.Lasts c := ⟨rfl, rfl, rfl⟩

theorem trans {c d e : Chip} (h : c.Lasts d) (k : d.Lasts e) : c.Lasts e :=
  ⟨k.clocks.trans h.clocks, k.hostUp.trans h.hostUp, k.mbxWindow.trans h.mbxWindow⟩

theorem foldl {α : Type} (l : List α) (f : Chip → α → Chip) (h : ∀ (c : Chip) a, c.Lasts (f c a)) (c : Chip) : c.Lasts (l.foldl f c) :=
  List.foldlRecOn (motive := c.Lasts) l f (.refl c) fun d hd a _ => hd.trans (h d a)

theorem of_sameButMem {c d : Chip} (h : c.SameButMem d) : c.Lasts d := by
  obtain ⟨_, rfl⟩ := h
  exact ⟨rfl, rfl, rfl⟩

theorem setPart (c : Chip) (p : Nat) (y : Part) : c.Lasts (c.setPart p y) := ⟨rfl, rfl, rfl⟩

theorem updPart (c : Chip) (p : Nat) (f : Part → Part) : c.Lasts (c.updPart p f) := by
  unfold Chip.updPart
  split
  · exact .setPart ..
  · exact .refl c

theorem complete (c : Chip) (t : Ticket) (st : Status) (r : Nat) (m : Bool) (i g : Option Nat) : c.Lasts (c.complete t st r m i g) := ⟨rfl, rfl, rfl⟩

theorem completeSome (c : Chip) (t : Option Ticket) (st : Status) : c.Lasts (t.elim c fun t => c.complete t st) := by
  cases t with
  | none => exact .refl c
  | some t => exact .complete ..

theorem hostWrite (c : Chip) (fn a : Nat) (bs : List Byte) : c.Lasts (c.hostWrite fn a bs) :=
  ⟨Chip.hostWrite_clocks .., Chip.hostWrite_hostUp .., Chip.hostWrite_mbxWindow ..⟩

/-! The boundary (08 R307 action 7) -/

theorem noteMends (c : Chip) (p : Nat) : c.Lasts (c.noteMends p) := by
  obtain ⟨_, h⟩ := c.noteMends_frame p
  rw [h]
  exact ⟨rfl, rfl, rfl⟩

theorem endRecovery (c : Chip) (p : Nat) : c.Lasts (c.endRecovery p) := by
  obtain ⟨_, h⟩ := c.endRecovery_frame p
  rw [h]
  exact ⟨rfl, rfl, rfl⟩

theorem accordInForce (c : Chip) (e : Nat) : c.Lasts (c.accordInForce e) := by
  have hbanks (g : Chip → Nat × Nat → Bank) (l : List (Nat × Nat)) (d : Chip) :
      d.Lasts (l.foldl (fun d k => d.setBank k.1 k.2 (g d k)) d) :=
    .foldl l (fun d k => d.setBank k.1 k.2 (g d k)) (fun _ _ => ⟨rfl, rfl, rfl⟩) d
  have hengine (x : Engine) : c.Lasts (c.setEngine e x) := ⟨rfl, rfl, rfl⟩
  simp only [Chip.accordInForce]
  split
  · exact .refl c
  · split
    · exact (((hengine _).trans (hbanks _ _ _)).trans (.updPart _ _ _)).trans (.endRecovery _ _)
    · exact (hengine _).trans (hbanks _ _ _)

theorem switchEpoch (c : Chip) (p : Nat) : c.Lasts (c.switchEpoch p) := by
  simp only [Chip.switchEpoch]
  split
  · exact .refl c
  · split
    · exact .refl c
    · exact ((setPart ..).trans (.of_sameButMem (Chip.resetMonitors_sameButMem ..))).trans
        (.foldl _ (fun c t => c.complete t .ok) (fun _ _ => .complete ..) _)

theorem retire (c : Chip) (p : Nat) : c.Lasts (c.retire p) := by
  simp only [Chip.retire]
  split
  · exact .refl c
  · split
    · exact .refl c
    · split
      · exact .refl c
      · exact .setPart ..

theorem iftBoundary (c : Chip) (p : Nat) : c.Lasts (c.iftBoundary p) := by
  simp only [Chip.iftBoundary]
  split
  · exact .refl c
  · split
    · exact .refl c
    · split
      · exact .setPart ..
      · split <;> exact ⟨rfl, rfl, rfl⟩

theorem boundary (c : Chip) (p : Nat) : c.Lasts (c.boundary p) := by
  simp only [Chip.boundary]
  split
  · exact .refl c
  · next x hx =>
    have haccords : c.Lasts ((((c.readyEngines p x).foldl Chip.accordInForce c).noteMends p).banksAtBoundary p x) :=
      ((foldl _ Chip.accordInForce accordInForce c).trans (.noteMends _ p)).trans ⟨rfl, rfl, rfl⟩
    refine .trans ?_ (.updPart _ p _)
    exact (haccords.trans ((switchEpoch _ p).trans (.retire _ p))).trans
      (((endRecovery _ p).trans (.updPart _ p _)).trans (.iftBoundary _ p))

/-! The end of the steps (08 R309) -/

theorem kvUndo (c : Chip) (p : Nat) (x : Part) (us : List SeqUse) : c.Lasts (c.kvUndo p x us) :=
  .of_sameButMem (.foldl _ _ (fun c _ => .trans (.foldl _ _ (fun _ _ => Chip.dropEntry_sameButMem ..) c) (Chip.setSeq_sameButMem ..)) c)

theorem spoil (c : Chip) (rs : List (Nat × Nat)) : c.Lasts (c.spoil rs) := by
  unfold Chip.spoil
  refine .foldl rs _ (fun d r => ?_) c
  exact ⟨rfl, rfl, rfl⟩

theorem endStep (c : Chip) (p : Nat) (st : Status) (idx : Nat) : c.Lasts (c.endStep p st idx) := by
  unfold Chip.endStep
  split
  · exact .refl c
  · next x _ =>
    split
    · exact .refl c
    · next step _ =>
      extract_lets undone cleared failed ended told
      have hundone : c.Lasts undone := (kvUndo c p x step.uses).trans (.spoil ..)
      have hcleared : undone.Lasts cleared := ⟨rfl, rfl, rfl⟩
      have hfailed : cleared.Lasts failed := ⟨rfl, rfl, rfl⟩
      have htold : ended.Lasts told := by
        simp only [told]
        split
        · exact .complete ..
        · exact .refl ended
      exact ((((hundone.trans hcleared).trans hfailed).trans (.setPart ..)).trans htold).trans (.boundary told p)

theorem endSteps (c : Chip) (p : Nat) (st : Status) : c.Lasts (c.endSteps p st) := by
  unfold Chip.endSteps
  extract_lets ended
  have hended : c.Lasts ended := by
    simp only [ended]
    split
    · exact .refl c
    · exact .endStep ..
  split
  · exact hended
  · refine (hended.trans (.setPart ..)).trans (.foldl _ _ (fun c q => ?_) _)
    split
    · exact .complete ..
    · exact .refl c

/-! The end of requests (09 R331, R346) -/

theorem updSrv (c : Chip) (p : Nat) (f : Serving → Serving) : c.Lasts (c.updSrv p f) := .updPart c p _

theorem importEnd (c : Chip) (p slot : Nat) (st : Status) : c.Lasts (c.importEnd p slot st) := by
  have hwindow (n : Nat) (ws : List Word) : c.Lasts (c.putWindow p n ws) := by
    obtain ⟨_, hframe, -⟩ := c.storeWindow_frame p n ws
    rw [Chip.putWindow_eq, hframe]
    unfold Chip.setWindow
    refine .trans ?_ (.updPart _ p _)
    exact ⟨rfl, rfl, rfl⟩
  unfold Chip.importEnd
  split
  · exact .refl c
  · split
    · exact .refl c
    · exact ((hwindow _ _).trans (.updSrv _ p _)).trans (.complete ..)

theorem outHeader (c : Chip) (p n : Nat) : c.Lasts (c.outHeader p n) := by
  unfold Chip.outHeader
  split
  · exact .refl c
  · exact .hostWrite ..

theorem freeReq (c : Chip) (p n : Nat) : c.Lasts (c.freeReq p n) := by
  unfold Chip.freeReq
  split
  · exact .refl c
  · refine .trans (.trans ?_ (.foldl _ _ (fun c q => ?_) _)) (.updSrv _ p _)
    · exact .trans (.setPart ..) (.foldl _ _ (fun c (e : KvEdit) => .completeSome c e.ticket .state) _)
    split
    · exact .of_sameButMem (Chip.editApply_sameButMem (e := fwEdit q 3 0 0 0) (Nat.lt_succ_self 3) c p _)
    · exact .refl c

theorem closeReq (c : Chip) (p n : Nat) : c.Lasts (c.closeReq p n) := by
  simp only [Chip.closeReq]
  split
  · exact .refl c
  · split
    · exact .refl c
    · have hshut (f : Request → Request) : c.Lasts (((c.freeReq p n).updReq p n f).outHeader p n) :=
        ((freeReq c p n).trans (.updSrv _ p _)).trans (.outHeader _ p n)
      refine .trans ?_ (.foldl _ _ (fun _ _ => .complete ..) _)
      split
      · exact (hshut _).trans (.complete ..)
      · exact hshut _

theorem endRequest (c : Chip) (p n : Nat) (st : Status) : c.Lasts (c.endRequest p n st) := by
  simp only [Chip.endRequest]
  split
  · exact .refl c
  · split
    · exact .refl c
    · refine .trans (.trans ?_ (.updSrv ..)) (.closeReq ..)
      have htold (l : List ReqCmd) : c.Lasts (l.foldl (fun c w => c.complete w.ticket st) c) := .foldl l _ (fun _ _ => .complete ..) c
      split
      · exact (htold _).trans ⟨rfl, rfl, rfl⟩
      · exact htold _

theorem endRequests (c : Chip) (p : Nat) (st : Status) : c.Lasts (c.endRequests p st) := by
  unfold Chip.endRequests
  split
  · exact .refl c
  · next x v _ =>
    extract_lets told edited unheld imported
    have htold : c.Lasts told := .foldl _ _ (fun c (e : KvEdit) => .completeSome c e.ticket st) c
    have hunheld : told.Lasts unheld := (updPart told p _).trans (.updSrv edited p _)
    have himported : unheld.Lasts imported := .foldl _ _ (fun c (i : Nat × Import) => .importEnd c p i.1 st) unheld
    exact ((htold.trans hunheld).trans himported).trans (.foldl _ _ (fun c (r : Nat × Request) => .endRequest c p r.1 st) _)

/-! The end of commands and builds (13 R461, 16 R550) -/

theorem endCommands (c : Chip) (p : Nat) (st : Status) : c.Lasts (c.endCommands p st) := by
  unfold Chip.endCommands
  extract_lets fn
  split
  · exact .refl c
  · extract_lets opened edited switched ended mine
    have hopened : c.Lasts opened := ⟨rfl, rfl, rfl⟩
    have hedited : opened.Lasts edited := .foldl _ _ (fun c (e : KvEdit) => .completeSome c e.ticket st) opened
    have hswitched : edited.Lasts switched := .foldl _ _ (fun _ _ => .complete ..) edited
    have hended : switched.Lasts ended := by
      refine .foldl _ _ (fun c k => ?_) switched
      unfold Chip.endCommand
      split <;> exact .complete ..
    refine .trans ?_ (.foldl _ _ (fun _ _ => .complete ..) _)
    exact (((hopened.trans hedited).trans hswitched).trans hended).trans ⟨rfl, rfl, rfl⟩

theorem endBuild (c : Chip) (p : Nat) (st : Status) : c.Lasts (c.endBuild p st) := by
  unfold Chip.endBuild
  split
  · exact .refl c
  · next x hx =>
    cases x.build with
    | none => exact .setPart ..
    | some b => exact (setPart ..).trans (.complete ..)

theorem endWork (c : Chip) (p : Nat) (st : Status) : c.Lasts (c.endWork p st) :=
  ((((updPart c p _).trans (.foldl _ _ (fun _ _ => .complete ..) _)).trans (.endSteps ..)).trans ((endRequests ..).trans (.endCommands ..))).trans
    (.endBuild ..)

theorem endPf (c : Chip) (st : Status) : c.Lasts (c.endPf st) := by
  unfold Chip.endPf
  extract_lets acc era ended mine
  have hended : c.Lasts ended := by
    refine .trans ?_ (.foldl _ _ (fun _ _ => .complete ..) _)
    exact ⟨rfl, rfl, rfl⟩
  refine .trans ?_ (.foldl _ _ (fun _ _ => .complete ..) _)
  exact hended.trans ⟨rfl, rfl, rfl⟩

theorem endAll (c : Chip) (st : Status) : c.Lasts (c.endAll st) := by
  unfold Chip.endAll
  refine .trans ?_ (.endPf _ st)
  exact .foldl c.parts (fun c e => c.endWork e.1 st) (fun c e => .endWork c e.1 st) c

/-! The end of a function's rings (16 R550) -/

theorem completionWrite (c : Chip) (fn n : Nat) : c.Lasts (c.completionWrite fn n) := by
  unfold Chip.completionWrite
  split
  · exact .refl c
  · split
    · exact .refl c
    · unfold Chip.putCompletion
      extract_lets tail phase next written stored
      have hstored : c.Lasts stored := ⟨Chip.hostWrite_clocks .., Chip.hostWrite_hostUp .., Chip.hostWrite_mbxWindow ..⟩
      split
      · exact hstored.trans ⟨rfl, rfl, rfl⟩
      · exact hstored

theorem closeFunc (c : Chip) (fn : Nat) : c.Lasts (c.closeFunc fn) := by
  have hflush : c.Lasts (c.flushCompletions fn) := .foldl _ _ (fun c q => .foldl _ _ (fun c _ => .completionWrite c fn q) c) c
  unfold Chip.closeFunc
  extract_lets flushed
  refine hflush.trans (.trans (d := if flushed.statOn fn && flushed.busMaster fn then flushed.putPage fn else flushed) ?_ ⟨rfl, rfl, rfl⟩)
  split
  · exact ⟨Chip.hostWrite_clocks .., Chip.hostWrite_hostUp .., Chip.hostWrite_mbxWindow ..⟩
  · exact .refl _

theorem toSolstice (c : Chip) (st : Status) : c.Lasts (c.toSolstice st) := by
  unfold Chip.toSolstice
  split
  · exact .refl c
  · exact ((endAll c st).trans (.foldl _ _ closeFunc _)).trans ⟨rfl, rfl, rfl⟩

end Chip.Lasts

theorem Chip.Lasts.now {c d : Chip} (h : c.Lasts d) : d.now = c.now := Chip.now_of_clocks h.clocks

end Sys2Proof.Machine
end

section
/-! PROOFS. PWR_SET, PWR_CFG, PWR_LIMIT and PKG_RESET (16 R546-R553, R564). -/

namespace Sys2Proof.Machine

/-! The power that a taken request finds (16 R548) -/

section
variable {s u : State} (h : s.Takes u)
include h

theorem State.Takes.inReset : u.chip.power.inReset = s.chip.power.inReset := by
  rw [h.power, Chip.wake]
  split <;> rfl

theorem State.Takes.woken (hstate : s.chip.power.state ≠ .solstice) : u.chip.power.state = .live := by
  rw [h.power, Chip.wake]
  cases hs : s.chip.power.state <;> simp_all

theorem State.Takes.asleep (hstate : s.chip.power.state = .solstice) : u.chip.power.state = .solstice := by
  rw [h.power, Chip.wake, if_neg (by simp [hstate])]
  exact hstate

theorem State.Takes.idle : u.chip.idle = s.chip.idle := by
  obtain ⟨_, hchip⟩ := h.chip
  rw [hchip]
  rfl

end

/-! Eve and Vigil (16 R545-R549) -/

/-- The package in a state that it leaves Live for now. -/
def Chip.leaveLive (c : Chip) (target : PowerState) : Chip := { c with power := { c.power with state := target, awayFrom := c.now } }

theorem Chip.enterEve_eq (c : Chip) : c.enterEve = (c.leaveLive .eve).count (rg .pwrEvtEve) := rfl

theorem Chip.enterVigil_live {c : Chip} (h : c.power.state = .live) : c.enterVigil = (c.leaveLive .vigil).count (rg .pwrEvtVigil) := by
  rw [Chip.enterVigil, if_neg (by simp [h])]
  rfl

section
variable {s u : State} {req : MbxReq} (hu : s.Takes u) (hstate : s.chip.power.state ≠ .solstice)
include hu hstate

/-- PWR_SET below Live on an idle package: the package enters the state, counts the entry and answers OK. -/
theorem State.pwrSet_enters (hidle : s.chip.idle = true) {f : Chip → Chip} {target : PowerState} {r : Reg}
    (hf : ∀ c : Chip, c.power.state = .live → f c = (c.leaveLive target).count r) :
    let t := u.pwrSet req f
    s.Answered t req .ok ∧ t.chip.power.state = target ∧ t.chip.power.awayFrom = s.chip.now ∧ t.chip.mem = s.chip.mem ∧
      t.chip.parts = s.chip.parts ∧ t.chip.reg r = (s.chip.count r).reg r := by
  have hlive := hu.woken hstate
  have hset : u.pwrSet req f = ({ u with chip := f u.chip } : State).answer req .ok := if_pos ⟨hlive, hu.idle.trans hidle⟩
  rw [hset, hf _ hlive]
  refine ⟨hu.withChip_answered (c := (u.chip.leaveLive target).count r) rfl .., congrArg Power.state (State.answer_power ..), (congrArg Power.awayFrom (State.answer_power ..)).trans hu.now,
    (State.answer_mem ..).trans hu.mem, (State.answer_parts ..).trans hu.parts, ?_⟩
  rw [State.answer_reg]
  exact Chip.reg_count_of_reg (hu.reg r) 1

theorem State.pwrSet_refused (hbusy : s.chip.idle = false) (f : Chip → Chip) :
    let t := u.pwrSet req f
    s.Answered t req .state ∧ t.chip.power.state = .live ∧ t.chip.regs = s.chip.regs := by
  have hset : u.pwrSet req f = u.answer req .state := if_neg (by simp [hu.idle, hbusy])
  rw [hset]
  exact ⟨hu.silent.answered .., (congrArg Power.state (State.answer_power ..)).trans (hu.woken hstate), (State.answer_regs ..).trans hu.regs⟩

end

/-! The entry to Solstice (16 R550) -/

section
variable {s : State} (h : ¬ (s.chip.power.inReset = true ∨ s.chip.power.state = .solstice)) (st : Status)
include h

theorem State.toSolstice_settled : (s.toSolstice st).chip.settingsDue = false := by
  simp only [State.toSolstice, if_neg h, State.flushSettings]
  split
  · rfl
  · exact Bool.eq_false_iff.mpr ‹_›

theorem Chip.toSolstice_closed : (s.chip.toSolstice st).power.ready = false ∧ (s.chip.toSolstice st).fab.flows = [] ∧
    ∀ q, ((s.chip.toSolstice st).port q).up = false := by
  rw [Chip.toSolstice, if_neg h]
  refine ⟨rfl, rfl, fun q => ?_⟩
  rw [Chip.port, Tbl.get]
  exact (congrArg (fun o => (Option.getD o ({} : Port)).up) (Tbl.find?_mapValues q (fun _ (x : Port) => ({ mode := x.mode } : Port)) _)).trans
    (by cases Tbl.find? q _ <;> rfl)

end

/-- The entry answers nothing and moves neither time nor the host link. -/
theorem State.toSolstice_lasts (s : State) (st : Status) : s.Silent (s.toSolstice st) ∧ (s.toSolstice st).chip.now = s.chip.now ∧
    (s.toSolstice st).chip.hostUp = s.chip.hostUp ∧ (s.toSolstice st).sys.pins = s.sys.pins := by
  by_cases h : s.chip.power.inReset = true ∨ s.chip.power.state = .solstice
  · have hsame : s.toSolstice st = s := if_pos h
    rw [hsame]
    exact ⟨⟨rfl, rfl, rfl⟩, rfl, rfl, rfl⟩
  · obtain ⟨_, _, hentry⟩ := State.toSolstice_enters h st
    have hlasts := Chip.Lasts.toSolstice s.chip st
    rw [hentry]
    exact ⟨⟨hlasts.mbxWindow, rfl, rfl⟩, hlasts.now, hlasts.hostUp, rfl⟩

/-! The commands -/

section
variable (s : State) (req : MbxReq)

theorem exec_pwrSetEve : exec (.pwrSetEve req) s = execPwrSetEve req s := rfl
theorem exec_pwrSetVigil : exec (.pwrSetVigil req) s = execPwrSetVigil req s := rfl
theorem exec_pwrSetLive (b : Start) : exec (.pwrSetLive req b) s = execPwrSetLive req b s := rfl
theorem exec_pwrSetSolstice : exec (.pwrSetSolstice req) s = execPwrSetSolstice req s := rfl
theorem exec_pkgReset (b : Start) : exec (.pkgReset req b) s = execPkgReset req b s := rfl
theorem exec_pwrCfg (v : Word) : exec (.pwrCfg req v) s = execPwrCfg req v s := rfl
theorem exec_pwrLimit (watts : Nat) : exec (.pwrLimit req watts) s = execPwrLimit req watts s := rfl

end

theorem State.Silent.trans {s t u : State} (h : s.Silent t) (k : t.Silent u) : s.Silent u :=
  ⟨k.window.trans h.window, k.mctp.trans h.mctp, k.internal.trans h.internal⟩

theorem State.readyNow_silent (s : State) : s.Silent s.readyNow := by
  obtain ⟨_, _, hready⟩ := s.readyNow_frame
  rw [hready]
  exact ⟨rfl, rfl, rfl⟩

theorem State.readyNow_chip (s : State) : s.readyNow.chip = s.chip := by
  obtain ⟨_, _, hready⟩ := s.readyNow_frame
  rw [hready]

theorem State.flushSettings_frame (s : State) (body : List Byte) :
    ∃ due fw, s.flushSettings body = { s with chip := { s.chip with settingsDue := due }, sys := { s.sys with fw := fw } } := by
  unfold State.flushSettings
  split <;> exact ⟨_, _, rfl⟩

/-- The exit from Solstice leaves the part up, with its mailbox as it was. -/
theorem State.exitSolstice_starts (s : State) (b : Start) : s.Silent (s.exitSolstice b) ∧ Chip.StartsAs false s.chip (s.exitSolstice b).chip ∧
    (s.exitSolstice b).chip.power.ready = true ∧ (s.exitSolstice b).chip.power.last = .solstice := by
  obtain ⟨due, fw, hflush⟩ := s.flushSettings_frame []
  unfold State.exitSolstice
  extract_lets flushed fresh ws up c
  have hflushed : s.Silent flushed ∧ flushed.chip.now = s.chip.now ∧ flushed.chip.hostUp = s.chip.hostUp := by
    rw [show flushed = _ from hflush]
    exact ⟨⟨rfl, rfl, rfl⟩, rfl, rfl⟩
  clear_value flushed
  obtain ⟨hsilent, hnowSame, hhostSame⟩ := hflushed
  have hstart : Chip.StartsAs false flushed.chip up ∧ up.power.ready = true ∧ up.power.last = .solstice :=
    flushed.chip.comeUp_starts false ws.2 b .solstice 2
  have hc : ∃ regs, c = { up with regs := regs } := by
    simp only [c]
    split
    · exact ⟨_, rfl⟩
    · exact ⟨_, rfl⟩
  clear_value up
  obtain ⟨⟨hout, hlive, hnow, hmem, hhost, hwindow, hidle⟩, hready, hlast⟩ := hstart
  obtain ⟨regs, hregs⟩ := hc
  rw [State.readyNow_chip]
  refine ⟨.trans ?_ (State.readyNow_silent _), ?_, ?_, ?_⟩
  · exact hsilent.trans ⟨(congrArg Chip.mbxWindow hregs).trans hwindow, rfl, rfl⟩
  · rw [hregs]
    exact ⟨hout, hlive, hnow.trans hnowSame, hmem, hhost.trans hhostSame, hwindow.trans hsilent.window, hidle⟩
  · rw [hregs]
    exact hready
  · rw [hregs]
    exact hlast

theorem pwrSet_serves {s : State} {req : MbxReq} (hserves : s.Serves req) (hstate : s.chip.power.state ≠ .solstice) :
    Completes (.pwrSetSolstice req) s (fun t => s.Answered t req .ok ∧ t.chip.power.state = .solstice ∧ t.chip.power.ready = false ∧
      (∀ p, t.chip.running p = none) ∧ t.chip.fab.flows = [] ∧ (∀ q, (t.chip.port q).up = false) ∧ t.chip.settingsDue = false ∧
      t.sys.dbg.unlocked = false ∧ t.sys.dbg.halted = []) := by
  refine hserves.completes_body (exec_pwrSetSolstice s req) rfl fun u hu => ?_
  have hout : s.chip.power.inReset = false := by
    have hfree := hserves.free
    simp only [State.wardenServes, Bool.and_eq_true, Bool.not_eq_true'] at hfree
    exact hfree.1.1.1.1
  have henter : ¬ (u.chip.power.inReset = true ∨ u.chip.power.state = .solstice) := by
    simp [hu.inReset, hout, hu.woken hstate]
  obtain ⟨hsilent, -, -, -⟩ := u.toSolstice_lasts .cancelled
  have hsettled := State.toSolstice_settled henter .cancelled
  obtain ⟨hsolstice, -, hidle⟩ := Chip.toSolstice_enters henter .cancelled
  obtain ⟨hready, hflows, hports⟩ := Chip.toSolstice_closed henter .cancelled
  obtain ⟨due, fw, hentry⟩ := State.toSolstice_enters henter .cancelled
  obtain ⟨_, _, _, hanswer⟩ := (u.toSolstice .cancelled).answer_frame req .ok 0 []
  refine ⟨(hu.silent.trans hsilent).answered .., ?_⟩
  rw [hanswer]
  refine ⟨?_, ?_, ?_, ?_, ?_, hsettled, ?_, ?_⟩ <;> rw [hentry]
  · exact hsolstice
  · exact hready
  · exact hidle
  · exact hflows
  · exact hports
  · rfl
  · rfl

/-- Settles O48: a request finds the package awake; the entry to Solstice and the boot leave the mailbox, the time and the host link alone. -/
theorem packageStatesAreEnteredAndLeft : Obligations.PackageStatesAreEnteredAndLeft := by
  refine ⟨fun s req hserves hstate => ⟨fun hidle => ⟨?_, ?_⟩, fun hbusy => ⟨?_, ?_⟩, fun b => ?_, pwrSet_serves hserves hstate⟩,
    fun s req b hserves hstate => ⟨fun htrip => ?_, fun htrip => ?_⟩, fun s req b hfree hsource => ?_,
    fun s req v watts hserves hwatts => ⟨fun hvigil heve => ?_, fun hzero => ?_, fun hleast hmost => ?_, fun hout => ?_⟩⟩
  · exact hserves.completes_body (exec_pwrSetEve s req) rfl fun u hu => State.pwrSet_enters hu hstate hidle fun c _ => c.enterEve_eq
  · exact hserves.completes_body (exec_pwrSetVigil s req) rfl fun u hu => State.pwrSet_enters hu hstate hidle fun c => Chip.enterVigil_live
  · exact hserves.completes_body (exec_pwrSetEve s req) rfl fun u hu => State.pwrSet_refused hu hstate hbusy _
  · exact hserves.completes_body (exec_pwrSetVigil s req) rfl fun u hu => State.pwrSet_refused hu hstate hbusy _
  · refine hserves.completes_body (exec_pwrSetLive s req b) rfl fun u hu => ?_
    have hlive := hu.woken hstate
    rw [if_pos (by simp [hlive])]
    exact ⟨hu.silent.answered .., (congrArg Power.state (State.answer_power ..)).trans hlive, (State.answer_mem ..).trans hu.mem,
      (State.answer_parts ..).trans hu.parts⟩
  · refine hserves.completes_body (exec_pwrSetLive s req b) rfl fun u hu => ?_
    obtain ⟨hsilent, hstarts, hready, hlast⟩ := u.exitSolstice_starts b
    rw [if_neg (by simp [hu.asleep hstate]), if_neg (by simp [hu.pins, htrip])]
    obtain ⟨-, hlive, hnow, hmem, -, -, -⟩ := hstarts
    obtain ⟨_, _, _, hanswer⟩ := (u.exitSolstice b).answer_frame req .ok 0 []
    refine ⟨(hu.silent.trans hsilent).answered .., ?_⟩
    rw [hanswer]
    exact ⟨hlive, hready, hlast, hnow.trans hu.now, hmem⟩
  · refine hserves.completes_body (exec_pwrSetLive s req b) rfl fun u hu => ?_
    rw [if_neg (by simp [hu.asleep hstate]), if_pos (by simp [hu.pins, htrip])]
    exact ⟨hu.silent.answered .., (congrArg Power.state (State.answer_power ..)).trans (hu.asleep hstate)⟩
  · refine completes_inRecovery hfree hsource ((exec_pkgReset s req b).trans rfl) fun u hu => ?_
    obtain ⟨window, mctp, internal, hanswer⟩ := u.answer_frame req .ok 0 []
    obtain ⟨hsilent, hnow, hhost, hpins⟩ := (u.answer req .ok).toSolstice_lasts .cancelled
    obtain ⟨⟨hout, hlive, hnowUp, hmem, hhostUp, hwindow, hidle⟩, hlocked, hclosed, htrip⟩ :=
      ((u.answer req .ok).toSolstice .cancelled).boot_boots b false
    have hnowAnswer : (u.answer req .ok).chip.now = u.chip.now := by rw [hanswer]; rfl
    have hhostAnswer : (u.answer req .ok).chip.hostUp = u.chip.hostUp := by rw [hanswer]
    refine ⟨fun hpf => ?_, hnowUp.trans (hnow.trans (hnowAnswer.trans hu.now)), hhostUp.trans (hhost.trans (hhostAnswer.trans hu.hostUp)),
      ?_, hout, hlive, hmem, hidle, hlocked, hclosed⟩
    · have hanswered := hu.silent.answered req .ok 0 []
      simp only [State.Answered, hpf] at hanswered ⊢
      exact hwindow.trans (hsilent.window.trans hanswered)
    · rw [htrip, hpins, State.answer_pins, hu.pins]
  · refine hserves.completes_body (exec_pwrCfg s req v) rfl fun u hu => ?_
    have hcfg : u.chip.pwrCfg v = ({ u.chip.plainWrite (rg .pwrCfg) v with settingsDue := true }, .ok) := if_neg (by simp [hvigil, heve])
    dsimp only
    rw [hcfg, State.answer_settingsDue]
    refine ⟨hu.withChip_answered (c := { u.chip.plainWrite (rg .pwrCfg) v with settingsDue := true }) rfl .., rfl, ?_, fun q hq => ?_⟩
    · rw [State.answer_reg, ← hu.reg]
      exact Chip.reg_plainWrite_rw u.chip v rfl
    · rw [State.answer_reg, ← hu.reg]
      exact Chip.reg_plainWrite_other u.chip v hq
  · refine hserves.completes_body (exec_pwrCfg s req v) rfl fun u hu => ?_
    have hcfg : u.chip.pwrCfg v = (u.chip, .malformed) := if_pos hzero
    dsimp only
    rw [hcfg]
    exact ⟨hu.withChip_answered rfl .., (State.answer_regs ..).trans hu.regs⟩
  · refine hserves.completes_body (exec_pwrLimit s req watts) rfl fun u hu => ?_
    have hlimit : u.chip.pwrLimit watts = ({ u.chip.setReg (rg .pwrLimit) (BitVec.ofNat 32 watts) with settingsDue := true }, .ok) :=
      if_pos ⟨hleast, hmost⟩
    dsimp only
    rw [hlimit, State.answer_settingsDue]
    refine ⟨hu.withChip_answered (c := { u.chip.setReg (rg .pwrLimit) (BitVec.ofNat 32 watts) with settingsDue := true }) rfl .., rfl, ?_, fun q hq => ?_⟩
    · rw [State.answer_reg]
      exact Chip.reg_setReg_same ..
    · rw [State.answer_reg, ← hu.reg]
      exact Chip.reg_setReg_other _ _ _ _ hq
  · refine hserves.completes_body (exec_pwrLimit s req watts) rfl fun u hu => ?_
    have hlimit : u.chip.pwrLimit watts = (u.chip, .malformed) := if_neg (by omega)
    dsimp only
    rw [hlimit]
    exact ⟨hu.withChip_answered rfl .., (State.answer_regs ..).trans hu.regs⟩

end Sys2Proof.Machine
end

section
/-! PROOFS. The fabric (14 R488-R507): what sending, receiving and acknowledging leave alone. -/

namespace Sys2Proof.Machine

/-! Sending (14 R491-R493, R503) -/

/-- One part follows another by what it hands to its ports. -/
def Chip.Sends (c d : Chip) : Prop := ∃ ports tx, d = { c with fab := { c.fab with ports := ports, tx := tx } }

/-- One part follows another by what its ports take and send, and by waking. -/
def Chip.Hears (c d : Chip) : Prop := ∃ ports tx power, d = { c with fab := { c.fab with ports := ports, tx := tx }, power := power }

/-- One part follows another by its fabric alone. -/
def Chip.OnWire (c d : Chip) : Prop := ∃ fab, d = { c with fab := fab }

namespace Chip.Sends

theorem refl (c : Chip) : c.Sends c := ⟨_, _, rfl⟩

theorem trans {c d e : Chip} (h : c.Sends d) (k : d.Sends e) : c.Sends e := by
  obtain ⟨_, _, rfl⟩ := h
  obtain ⟨_, _, rfl⟩ := k
  exact ⟨_, _, rfl⟩

theorem foldl {α : Type} (l : List α) (f : Chip → α → Chip) (h : ∀ (c : Chip) a, c.Sends (f c a)) (c : Chip) : c.Sends (l.foldl f c) :=
  List.foldlRecOn (motive := c.Sends) l f (.refl c) fun d hd a _ => hd.trans (h d a)

theorem setPort (c : Chip) (q : Nat) (x : Port) : c.Sends (c.setPort q x) := ⟨_, _, rfl⟩

theorem emit (c : Chip) (q : Nat) (bytes : List Byte) : c.Sends (c.emit q bytes) := by
  unfold Chip.emit
  extract_lets x send
  have hsend (y : Port) (sa : Option (Nat × Nat)) : c.Sends (send c y sa) := ⟨_, _, rfl⟩
  split
  · split
    · exact .refl c
    · split
      · exact .refl c
      · exact hsend ..
  · exact hsend ..

theorem sendBy (c : Chip) (link : Nat) (hop : Option Nat) (k : Packet) : c.Sends (c.sendBy link hop k) := by
  unfold Chip.sendBy
  split
  · exact .refl c
  · split <;> exact .emit ..

theorem transmit (c : Chip) (k : Packet) : c.Sends (c.transmit k) := by
  unfold Chip.transmit
  split
  · exact .refl c
  · exact .sendBy ..

theorem sendOpen (c : Chip) (typ peer flow : Nat) : c.Sends (c.sendOpen typ peer flow) := .transmit ..

variable {c d : Chip} (h : c.Sends d)
include h

theorem hears : c.Hears d := by
  obtain ⟨_, _, rfl⟩ := h
  exact ⟨_, _, _, rfl⟩

theorem onWire : c.OnWire d := by
  obtain ⟨_, _, rfl⟩ := h
  exact ⟨_, rfl⟩

theorem flow (i : Nat) : d.flow i = c.flow i := by
  obtain ⟨_, _, rfl⟩ := h
  rfl

theorem flows : d.fab.flows = c.fab.flows := by
  obtain ⟨_, _, rfl⟩ := h
  rfl

end Chip.Sends

namespace Chip.OnWire

theorem refl (c : Chip) : c.OnWire c := ⟨_, rfl⟩

theorem trans {c d e : Chip} (h : c.OnWire d) (k : d.OnWire e) : c.OnWire e := by
  obtain ⟨_, rfl⟩ := h
  obtain ⟨_, rfl⟩ := k
  exact ⟨_, rfl⟩

theorem setFlow (c : Chip) (i : Nat) (x : Flow) : c.OnWire (c.setFlow i x) := ⟨_, rfl⟩

theorem dropFlow (c : Chip) (i : Nat) : c.OnWire (c.dropFlow i) := ⟨_, rfl⟩

variable {c d : Chip} (h : c.OnWire d)
include h

theorem mem : d.mem = c.mem := by
  obtain ⟨_, rfl⟩ := h
  rfl

theorem parts : d.parts = c.parts := by
  obtain ⟨_, rfl⟩ := h
  rfl

theorem regs : d.regs = c.regs := by
  obtain ⟨_, rfl⟩ := h
  rfl

theorem reg (r : Reg) : d.reg r = c.reg r := Chip.reg_of_regs h.regs r

end Chip.OnWire

namespace Chip.Hears

theorem trans {c d e : Chip} (h : c.Hears d) (k : d.Hears e) : c.Hears e := by
  obtain ⟨_, _, _, rfl⟩ := h
  obtain ⟨_, _, _, rfl⟩ := k
  exact ⟨_, _, _, rfl⟩

theorem wake (c : Chip) (cause : Nat) : c.Hears (c.wake cause) := by
  obtain ⟨_, h⟩ := c.wake_frame cause
  exact ⟨_, _, _, h⟩

variable {c u : Chip} (h : c.Hears u)
include h

theorem mem : u.mem = c.mem := by
  obtain ⟨_, _, _, rfl⟩ := h
  rfl

theorem parts : u.parts = c.parts := by
  obtain ⟨_, _, _, rfl⟩ := h
  rfl

theorem flows : u.fab.flows = c.fab.flows := by
  obtain ⟨_, _, _, rfl⟩ := h
  rfl

theorem regs : u.regs = c.regs := by
  obtain ⟨_, _, _, rfl⟩ := h
  rfl

theorem reg (r : Reg) : u.reg r = c.reg r := Chip.reg_of_regs h.regs r

theorem now : u.now = c.now := by
  obtain ⟨_, _, _, rfl⟩ := h
  rfl

theorem flow (i : Nat) : u.flow i = c.flow i := by rw [Chip.flow, Chip.flow, h.flows]

theorem rxFlow (peer id : Nat) : u.rxFlow peer id = c.rxFlow peer id := by rw [Chip.rxFlow, Chip.rxFlow, h.flows]

theorem ownFlow (peer id : Nat) : u.ownFlow peer id = c.ownFlow peer id := by rw [Chip.ownFlow, Chip.ownFlow, h.flow]

theorem ackedFlow (peer id : Nat) : u.ackedFlow peer id = c.ackedFlow peer id := by rw [Chip.ackedFlow, Chip.ackedFlow, h.ownFlow, h.rxFlow]

theorem freeFlow (lo : Nat) : u.freeFlow lo = c.freeFlow lo := by simp only [Chip.freeFlow, h.flow]

theorem part (p : Nat) : u.part p = c.part p := Chip.part_of_parts h.parts p

end Chip.Hears

/-! Receiving (14 R492-R495) -/

theorem Chip.macsecIn_sends {c : Chip} {f : Frame} (h : (c.macsecIn f).2 = true) : c.Sends (c.macsecIn f).1 := by
  revert h
  unfold Chip.macsecIn
  extract_lets q x drop
  have hdrop : drop.2 = true → c.Sends drop.1 := nofun
  split
  · exact hdrop
  · split
    · exact hdrop
    · split
      · exact hdrop
      · exact fun _ => .setPort ..

/-- A frame that its port takes changes nothing but the port. -/
theorem Chip.portRx_sends {c : Chip} {f : Frame} (h : (c.portRx f).2 = true) : c.Sends (c.portRx f).1 := by
  revert h
  unfold Chip.portRx
  extract_lets q r
  have hr : r.2 = true → c.Sends r.1 := by
    simp only [r]
    split
    · exact Chip.macsecIn_sends
    · exact fun _ => .refl c
  split
  · nofun
  · split
    · nofun
    · split
      · nofun
      · exact hr

/-- A packet for this chip is acted on once its port has taken the frame and, but for an ACK, the package is awake. -/
theorem Chip.Gets.acted {c : Chip} {f : Frame} {k : Packet} (h : c.Gets f k) :
    ∃ u, c.Hears u ∧ ∀ act, c.rxTyped f k.typ act = act u k := by
  obtain ⟨htaken, hpacket, hhere⟩ := h
  refine ⟨if k.typ = 0 ∨ k.typ = 7 then (c.portRx f).1 else (c.portRx f).1.wake 3, ?_, fun act => ?_⟩
  · split
    · exact (Chip.portRx_sends htaken).hears
    · exact (Chip.portRx_sends htaken).hears.trans (.wake ..)
  · simp only [Chip.rxTyped, htaken, hpacket, hhere, Bool.not_true, Bool.false_eq_true, if_false, and_self, or_true, if_true]

/-! Flows (14 R496-R498) -/

@[simp] theorem Chip.flow_setFlow_same (c : Chip) (i : Nat) (x : Flow) : (c.setFlow i x).flow i = some x := Tbl.find?_set_same ..

theorem Chip.flow_setFlow_other (c : Chip) {i j : Nat} (x : Flow) (h : j ≠ i) : (c.setFlow i x).flow j = c.flow j := Tbl.find?_set_other _ _ _ _ h

theorem Chip.flow_dropFlow (c : Chip) (i j : Nat) : (c.dropFlow i).flow j = if j = i then none else c.flow j := Tbl.find?_del ..

/-- The ACK of a flow is sent, and none is due. -/
theorem Chip.sendAck_flow {c : Chip} {i : Nat} {x : Flow} (hx : c.flow i = some x) :
    c.OnWire (c.sendAck i) ∧ (c.sendAck i).flow i = some { x with since := 0, ackDue := none } := by
  simp only [Chip.sendAck, hx]
  exact ⟨(Chip.OnWire.setFlow ..).trans (Chip.Sends.transmit ..).onWire, ((Chip.Sends.transmit ..).flow i).trans (Chip.flow_setFlow_same ..)⟩

/-- A packet calls for an ACK, which is sent or becomes due; nothing else of its flow changes. -/
theorem Chip.noteAck_flow {c : Chip} {i : Nat} {x : Flow} (hx : c.flow i = some x) (k : Packet) :
    c.OnWire (c.noteAck i k) ∧ ∃ since due, (c.noteAck i k).flow i = some { x with since := since, ackDue := due, used := c.now } := by
  simp only [Chip.noteAck, hx]
  split
  · obtain ⟨hwire, hflow⟩ := Chip.sendAck_flow (c.flow_setFlow_same i { x with
      since := x.since + 1, ackDue := x.ackDue.or (some (c.now + 2000)), used := c.now })
    exact ⟨(Chip.OnWire.setFlow ..).trans hwire, _, _, hflow⟩
  · exact ⟨.setFlow .., _, _, Chip.flow_setFlow_same ..⟩

/-- A refused packet is counted and answered, and nothing else changes. -/
theorem Chip.sendNak_sends (c : Chip) (peer flow key ack code psn : Nat) :
    (c.count (rg .iltEvtNak)).Sends (c.sendNak peer flow key ack code psn) := Chip.Sends.transmit ..

theorem Chip.drainHeld_none {c : Chip} {i : Nat} {x : Flow} (hx : c.flow i = some x) (hheld : x.held = []) (n : Nat) :
    Chip.drainHeld i n c = c := by
  cases n with
  | zero => rfl
  | succ n => simp only [Chip.drainHeld, hx, hheld, List.find?_nil]

theorem Chip.landRest_none {c : Chip} {i : Nat} {x : Flow} (hx : c.flow i = some x) (hblock : x.block = []) :
    c.landRest i = c.setFlow i { x with acked := x.expect } := by
  simp only [Chip.landRest, hx, hblock, List.filter_nil, List.foldl_nil]

end Sys2Proof.Machine
end

section
/-! PROOFS. Packets in their turn (14 R497, R500, R507, R511, 08 R304). -/

namespace Sys2Proof.Machine

/-! A data packet reaches its flow (14 R497) -/

theorem psnSub_self {a : Nat} (h : a < 2 ^ 32) : psnSub a a = 0 := by
  rw [psnSub, Nat.mod_eq_of_lt h, Nat.add_sub_cancel_left, Nat.mod_self]

/-- The group whose table entry stands at an address (14 R509). -/
def groupAt (m : Memory) (a : Nat) : CollGroup :=
  let n := m.le (a + 4) 2
  ⟨m.le a 4, n, m.le (a + 8) 8, m.le (a + 16) 8, (List.range (min n 256)).map (fun r => (m.le (a + 64 + 4 * r) 2, m.le (a + 66 + 4 * r) 2)),
    bytesZero (m.read a 64) 6 7 && bytesZero (m.read a 64) 24 63⟩

theorem Chip.collGroup_eq (c : Chip) (p : Nat) (y : Part) (st : StepCtx) (g : Nat) :
    c.collGroup p y st g = if st.collCfg.field 7 0 ≤ g then none else (y.collEntry p st g).map (groupAt c.mem) := by
  unfold Chip.collGroup
  congr 1
  cases y.collEntry p st g <;> rfl

section
variable {c u : Chip} (h : c.Hears u)
include h

theorem Chip.Hears.keyPart (key : Nat) : u.keyPart key = c.keyPart key := by
  obtain ⟨_, _, _, rfl⟩ := h
  rfl

theorem Chip.Hears.headerFits (k : Packet) : u.headerFits k = c.headerFits k := by
  obtain ⟨_, _, _, rfl⟩ := h
  rfl

theorem Chip.Hears.collGroup (p : Nat) (y : Part) (st : StepCtx) (g : Nat) : u.collGroup p y st g = c.collGroup p y st g := by
  rw [Chip.collGroup_eq, Chip.collGroup_eq, h.mem]

theorem Chip.Hears.groupById (p : Nat) (y : Part) (id : Nat) : u.groupById p y id = c.groupById p y id := by
  simp only [Chip.groupById, Chip.groupCtx, Chip.pair, h.reg, h.collGroup]

theorem Chip.Hears.refusal (k : Packet) : u.refusal k = c.refusal k := by
  simp only [Chip.refusal, h.keyPart, h.groupById]

end

section
variable {c d : Chip} (h : c.OnWire d)
include h

theorem Chip.OnWire.keyPart (key : Nat) : d.keyPart key = c.keyPart key := by
  obtain ⟨_, rfl⟩ := h
  rfl

theorem Chip.OnWire.groupById (p : Nat) (y : Part) (id : Nat) : d.groupById p y id = c.groupById p y id := by
  simp only [Chip.groupById, Chip.groupCtx, Chip.pair, h.reg, Chip.collGroup_eq, h.mem]

end

/-- What follows a packet that its flow takes: those held behind it, and its ACK. -/
def Chip.taken (c : Chip) (i : Nat) (x : Flow) (k : Packet) : Chip :=
  let r := c.takePacket i x k
  if r.2 then (Chip.drainHeld i (x.held.length + 1) r.1).noteAck i k else r.1

theorem Chip.inOrder_next (c : Chip) (hub i : Nat) {x : Flow} {k : Packet} (hturn : k.psn = x.expect) (hsmall : k.psn < 2 ^ 32) :
    c.inOrder hub i x k = c.taken i x k := by
  have hahead : psnSub k.psn x.expect = 0 := hturn ▸ psnSub_self hsmall
  have hnear : ¬ 2 ^ 31 ≤ psnSub k.psn x.expect := by rw [hahead]; exact Nat.not_le.mpr (Nat.two_pow_pos 31)
  rw [Chip.inOrder, if_neg hnear, if_pos hahead, Chip.taken]

/-- A packet in its turn is taken by its flow, in a part that differs by what it has heard alone. -/
theorem Chip.InTurn.takes {c : Chip} {f : Frame} {k : Packet} {i : Nat} {x : Flow} (h : c.InTurn f k i x) :
    ∃ u, c.Hears u ∧ c.dataPacket f k.typ = u.taken i { x with key := k.key } k := by
  obtain ⟨u, hears, hacted⟩ := h.gets.acted
  obtain ⟨hfits, hlength⟩ := h.header
  refine ⟨u, hears, ?_⟩
  rw [Chip.dataPacket, hacted]
  simp only [hears.rxFlow, h.known, hears.flow, h.flow, hears.headerFits, hfits, hlength, Bool.not_true, Bool.false_eq_true, ne_eq, not_true,
    or_self, if_false]
  exact u.inOrder_next _ i h.turn h.small

/-- A flow that holds nothing ahead goes on with the ACK of the packet it took. -/
theorem Chip.taken_of_true {c d : Chip} {i : Nat} {x y : Flow} {k : Packet} (htake : c.takePacket i x k = (d, true)) (hflow : d.flow i = some y)
    (hheld : y.held = []) : c.taken i x k = d.noteAck i k := by
  simp only [Chip.taken, htake, if_true]
  rw [Chip.drainHeld_none hflow hheld]

/-! What a packet does in its turn (14 R500, R511) -/

section
variable {c : Chip} {i : Nat} {x y : Flow} {k : Packet} (hflow : c.flow i = some y)
include hflow

theorem Chip.takePacket_response (htyp : k.typ = 5) : c.takePacket i x k =
    (c.setFlow i { y with data := y.data ++ k.data, expect := psnAdd k.psn 1, acked := psnAdd k.psn 1 }, true) := by
  simp only [Chip.takePacket, htyp, if_true, hflow]

theorem Chip.takePacket_read (htyp : k.typ = 4) (hok : c.refusal k = none) : c.takePacket i x k =
    ((c.setFlow i { y with expect := psnAdd k.psn 1, acked := psnAdd k.psn 1 }).answerRead i k, true) := by
  simp only [Chip.takePacket, htyp, hok, hflow, if_true]
  rw [if_neg (by decide)]

/-- The last packet of a message, with nothing of its block held before it, lands. -/
theorem Chip.takePacket_last (hresponse : k.typ ≠ 5) (hread : k.typ ≠ 4) (hok : c.refusal k = none) (hblock : x.block = [])
    (hcrc : k.hasCrc = true → crc32c k.data = k.crc) (hlast : k.isLast = true) : c.takePacket i x k =
      ((c.setFlow i { y with block := [], expect := psnAdd k.psn 1, acked := psnAdd k.psn 1 }).landBlock i [k], true) := by
  have hsound : ¬ (k.hasCrc = true ∧ crc32c k.data ≠ k.crc) := fun ⟨hcarries, hwrong⟩ => hwrong (hcrc hcarries)
  simp only [Chip.takePacket, if_neg hresponse, hok, if_neg hread, hblock, List.nil_append, List.flatMap_cons, List.flatMap_nil, List.append_nil,
    if_neg hsound, hlast, Bool.or_true, Bool.true_or, if_true, hflow]

end

section
variable {c : Chip} {p : Nat} {y : Part} {k : Packet} (hkey : c.keyPart k.key = some (p, y))
include hkey

theorem Chip.keyPart_owner : c.keyOwner k.key = some p ∧ c.part p = some y := by
  rw [Chip.keyPart] at hkey
  split at hkey
  · cases hkey
  · obtain ⟨q, howner, hpart⟩ := Option.bind_eq_some_iff.mp hkey
    obtain ⟨z, hz, heq⟩ := Option.map_eq_some_iff.mp hpart
    cases heq
    exact ⟨howner, hz⟩

theorem Chip.landBytes_eq {a : Nat} (hphys : y.phys p k.offset = some a) : c.landBytes k = c.write a k.data := by
  obtain ⟨howner, hpart⟩ := Chip.keyPart_owner hkey
  rw [Chip.landBytes, howner, Option.bind_some, hpart, Option.bind_some, hphys]

/-- The last WRITE of a message lands, and counts where it names an arrival counter; firmware's counters are not asked about here. -/
theorem Chip.landWrite_last {a : Nat} (hphys : y.phys p k.offset = some a) (hlast : k.isLast = true) (harrive : k.arrive < 8 ∨ 16 ≤ k.arrive) :
    c.landWrite k = if k.arrive < 8 then (c.write a k.data).count (rg .seqArrive p k.arrive) else c.write a k.data := by
  simp only [Chip.landWrite, hkey, Chip.landBytes_eq hkey hphys, hlast, true_and]
  rcases harrive with hcounts | hnone
  · rw [if_pos (by omega), if_pos hcounts, Chip.arrived, if_neg (by omega)]
  · rw [if_neg (by omega), if_neg (by omega)]

end

/-! A READ_REQ is answered (14 R497) -/

/-- The packets of a message hold its bytes from an offset on, in order. -/
theorem cutMsg_data (m : Msg) {payload : Nat} (base : Nat) (hpayload : 64 ≤ payload) (hsome : m.data.length ≠ 0) (fuel off start : Nat)
    (hfuel : m.data.length ≤ off + 64 * fuel) :
    ((cutMsg m.data.length payload base false fuel off start).map m.packet).flatMap (fun e => e.1.data) = m.data.drop off := by
  induction fuel generalizing off start with
  | zero => rw [List.drop_eq_nil_of_le (by omega)]; rfl
  | succ fuel ih =>
    rw [cutMsg, if_neg hsome]
    split
    · next hend => rw [List.drop_eq_nil_of_le hend]; rfl
    · next hmore =>
      rw [List.map_cons, List.flatMap_cons, ih _ _ (by simp only [Bool.false_eq_true, if_false]; omega)]
      simp only [Msg.packet, Bool.false_eq_true, if_false]
      rw [← List.drop_drop, List.take_append_drop]

/-- Queued packets are sent while fewer than 128 wait for an ACK; the flow holds the same packets' bytes. -/
theorem Chip.pump_flow {c : Chip} {i : Nat} {x : Flow} (hx : c.flow i = some x) : c.OnWire (c.pump i) ∧
    ∃ sent queued psn used, (c.pump i).flow i = some { x with sent := x.sent ++ sent, queued := queued, psn := psn, used := used } ∧
      (sent.map Sent.pkt ++ queued.map Prod.fst).flatMap Packet.data = x.queued.flatMap (fun e => e.1.data) := by
  simp only [Chip.pump, hx]
  have hsends : ∀ (d : Chip) (l : List Sent), d.Sends (l.foldl (fun c s => c.transmit s.pkt) d) := fun d l =>
    .foldl l _ (fun c s => .transmit c s.pkt) d
  refine ⟨(Chip.OnWire.setFlow ..).trans (hsends _ _).onWire, _, _, _, _, ((hsends _ _).flow i).trans (Chip.flow_setFlow_same ..), ?_⟩
  rw [List.flatMap_append]
  conv_rhs => rw [← List.take_append_drop (128 - x.sent.length) x.queued, List.flatMap_append]
  congr 1
  · rw [List.map_map, List.flatMap_map]
    generalize x.queued.take (128 - x.sent.length) = l
    conv_rhs => rw [← List.zipIdx_map_fst 0 l, List.flatMap_map]
    rfl
  · rw [List.flatMap_map]

theorem Chip.maxPayload_ge (c : Chip) : 64 ≤ c.maxPayload := by
  have hpow : 0 < 2 ^ c.field (rg .iltEncap) 15 14 := Nat.two_pow_pos _
  rw [Chip.maxPayload]
  omega

/-- The answer to a READ_REQ goes out on the flow, with the bytes that it names. -/
theorem Chip.answerRead_flow {c : Chip} {i p a : Nat} {x : Flow} {y : Part} {k : Packet} (hkey : c.keyPart k.key = some (p, y))
    (hx : c.flow i = some x) (hphys : y.phys p k.offset = some a) (hlen : k.readLen ≠ 0) (hsent : x.sent = []) (hqueued : x.queued = []) :
    c.OnWire (c.answerRead i k) ∧ ∃ sent queued psn used, (c.answerRead i k).flow i =
      some { x with sent := sent, queued := queued, psn := psn, used := used } ∧
        (sent.map Sent.pkt ++ queued.map Prod.fst).flatMap Packet.data = c.read a k.readLen := by
  simp only [Chip.answerRead, hkey, hx, physOr, hphys, Option.getD_some, hqueued, List.nil_append]
  generalize hm : (⟨{ typ := 5, key := k.key, dst := k.src, src := c.chipNumber, flow := beAt k.ext 4 2 }, c.read a k.readLen, false, 0, .reply,
    true⟩ : Msg) = m
  have hdata : m.data = c.read a k.readLen := by rw [← hm]
  have hlength : m.data.length = k.readLen := by rw [hdata]; exact Memory.read_length ..
  generalize hout : (cutMsg k.readLen (min c.maxPayload (2 ^ (bitsOf x.caps 7 4 + 6))) 0 false (k.readLen / 64 + 2) 0 0).map m.packet = out
  have hbytes : out.flatMap (fun e => e.1.data) = c.read a k.readLen := by
    have hpow : 0 < 2 ^ bitsOf x.caps 7 4 := Nat.two_pow_pos _
    have hpayload : 64 ≤ min c.maxPayload (2 ^ (bitsOf x.caps 7 4 + 6)) := le_min c.maxPayload_ge (by rw [Nat.pow_add]; omega)
    have hcut := cutMsg_data m 0 hpayload (by rwa [hlength]) (k.readLen / 64 + 2) 0 0 (by omega)
    rwa [hlength, List.drop_zero, hdata, hout] at hcut
  obtain ⟨hwire, sent, queued, psn, used, hflow, hsame⟩ := Chip.pump_flow (c.flow_setFlow_same i { x with queued := out })
  refine ⟨(Chip.OnWire.setFlow ..).trans hwire, sent, queued, psn, used, ?_, hsame.trans hbytes⟩
  rw [hflow, hsent]
  rfl

/-! A COLL packet is staged, and a refused packet is answered (14 R507, R511) -/

/-- The last COLL packet of a part joins what is staged, on a partition that runs no step. -/
theorem Chip.landColl_stages {c : Chip} {i p gi : Nat} {y : Part} {g : CollGroup} {k : Packet} (hkey : c.keyPart k.key = some (p, y))
    (hgroup : c.groupById p y k.group = some (gi, g)) (hidle : y.run = none) (hlast : k.isLast = true) :
    let old := (y.staged.find? (fun w => w.group == gi && w.tag == k.tag && w.rank == k.rank)).getD
      ⟨gi, k.tag, k.rank, k.kind, k.fmt, k.bytesField, 0, false, i, k.psn⟩
    ∃ z, c.landColl i k = (c.write (physOr y p g.stage + slotOff g.stageBytes k.tag k.rank k.bytesField + old.got) k.data).setPart p z ∧
      { old with got := old.got + k.data.length, done := true, flow := i, psn := k.psn } ∈ z.staged := by
  intro old
  simp only [Chip.landColl, hkey, hgroup, hidle, hlast]
  exact ⟨_, rfl, List.mem_append_right _ (List.mem_singleton_self _)⟩

/-- A refusal but one of a collective: WIN_DENIED at most, and a NAK. -/
theorem Chip.refuse_answers (c : Chip) (x : Flow) (k : Packet) {code : Nat} (hcode : code < 6) : (c.refuse x k code).mem = c.mem ∧
    (c.refuse x k code).parts = c.parts ∧ (c.refuse x k code).fab.flows = c.fab.flows ∧
    (c.refuse x k code).reg (rg .iltEvtNak) = (c.count (rg .iltEvtNak)).reg (rg .iltEvtNak) := by
  have hnak : ∀ d : Chip, d.mem = c.mem → d.parts = c.parts → d.fab = c.fab → d.reg (rg .iltEvtNak) = c.reg (rg .iltEvtNak) →
      ∀ peer id key ack psn, let e := d.sendNak peer id key ack code psn
        e.mem = c.mem ∧ e.parts = c.parts ∧ e.fab.flows = c.fab.flows ∧ e.reg (rg .iltEvtNak) = (c.count (rg .iltEvtNak)).reg (rg .iltEvtNak) := by
    intro d hmem hparts hfab hreg peer id key ack psn
    have hsends := d.sendNak_sends peer id key ack code psn
    exact ⟨hsends.onWire.mem.trans hmem, hsends.onWire.parts.trans hparts, hsends.flows.trans (congrArg Fabric.flows hfab),
      (hsends.onWire.reg _).trans (Chip.reg_count_of_reg hreg 1)⟩
  unfold Chip.refuse
  split
  · next p y _ =>
    split
    · have hreg : ((c.setBits (rg .scrStatus p) 8).count (rg .scrEvtWinDenied p)).reg (rg .iltEvtNak) = c.reg (rg .iltEvtNak) :=
        (Chip.reg_count_other _ (by simp [rg]) 1).trans (Chip.reg_setBits_other c (by simp [rg]) 8)
      exact hnak ((c.setBits (rg .scrStatus p) 8).count (rg .scrEvtWinDenied p)) rfl rfl rfl hreg ..
    · rw [if_neg (by omega)]
      exact hnak c rfl rfl rfl rfl ..
  · exact hnak c rfl rfl rfl rfl ..

/-- A packet that its flow refuses changes no byte and no partition, and is answered with a NAK. -/
theorem Chip.taken_refused {c : Chip} {i : Nat} {x y : Flow} {k : Packet} {code : Nat} (hflow : c.flow i = some y) (hresponse : k.typ ≠ 5)
    (hrefused : c.refusal k = some code) (hcode : code < 6) (hblock : y.block = []) (hheld : y.held = []) :
    (c.taken i x k).mem = c.mem ∧ (c.taken i x k).parts = c.parts ∧
      (c.taken i x k).reg (rg .iltEvtNak) = (c.count (rg .iltEvtNak)).reg (rg .iltEvtNak) := by
  by_cases hlater : code = 5
  · have htake : c.takePacket i x k = (c.refuse y k 5, false) := by
      simp only [Chip.takePacket, if_neg hresponse, hrefused, hlater, if_true, hflow, Option.getD_some]
    obtain ⟨hmem, hparts, -, hreg⟩ := c.refuse_answers y k (show 5 < 6 by decide)
    simp only [Chip.taken, htake, Bool.false_eq_true, if_false]
    exact ⟨hmem, hparts, hreg⟩
  · have hrest := Chip.landRest_none hflow hblock
    have hlanded : (c.landRest i).flow i = some { y with acked := y.expect } := by rw [hrest]; exact Chip.flow_setFlow_same ..
    obtain ⟨hmem, hparts, hflows, hreg⟩ := (c.landRest i).refuse_answers { y with acked := y.expect } k hcode
    have hafter : ((c.landRest i).refuse { y with acked := y.expect } k code).flow i = some { y with acked := y.expect } := by
      rw [Chip.flow, hflows]
      exact hlanded
    have htake : c.takePacket i x k = (((c.landRest i).refuse { y with acked := y.expect } k code).setFlow i
        { y with acked := y.expect, expect := psnAdd k.psn 1 }, true) := by
      simp only [Chip.takePacket, if_neg hresponse, hrefused, if_neg hlater, hlanded, Option.getD_some, hafter]
    rw [Chip.taken_of_true htake (Chip.flow_setFlow_same ..) hheld]
    obtain ⟨hwire, -⟩ := Chip.noteAck_flow (((c.landRest i).refuse { y with acked := y.expect } k code).flow_setFlow_same i
      { y with acked := y.expect, expect := psnAdd k.psn 1 }) k
    have hset := (Chip.OnWire.setFlow ((c.landRest i).refuse { y with acked := y.expect } k code) i
      { y with acked := y.expect, expect := psnAdd k.psn 1 }).trans hwire
    have hbefore : c.OnWire (c.landRest i) := by rw [hrest]; exact .setFlow ..
    exact ⟨hset.mem.trans (hmem.trans hbefore.mem), hset.parts.trans (hparts.trans hbefore.parts),
      (hset.reg _).trans (hreg.trans (Chip.reg_count_of_reg (hbefore.reg _) 1))⟩

/-! The commands -/

theorem exec_dataPacket {s : State} {f : Frame} {typ : Nat} {cmd : Instr} (hup : s.chip.powered = true)
    (h : (typ, cmd) ∈ [(3, Instr.iltWrite f), (4, .iltReadReq f), (6, .iltColl f)]) :
    typ ≠ 5 ∧ exec cmd s = .next (s.withChip (s.chip.dataPacket f typ)) := by
  simp only [List.mem_cons, Prod.mk.injEq, List.not_mem_nil, or_false] at h
  rcases h with ⟨rfl, rfl⟩ | ⟨rfl, rfl⟩ | ⟨rfl, rfl⟩
  · exact ⟨by decide, State.onChip_powered hup (·.dataPacket f 3)⟩
  · exact ⟨by decide, State.onChip_powered hup (·.dataPacket f 4)⟩
  · exact ⟨by decide, State.onChip_powered hup (·.dataPacket f 6)⟩

section
variable {s : State} {f : Frame} {k : Packet} {i : Nat} {x : Flow} {p : Nat} {y : Part} (hup : s.chip.powered = true) (hturn : s.chip.InTurn f k i x)
  (hkey : s.chip.keyPart k.key = some (p, y)) (hok : s.chip.refusal k = none)
include hup hturn hkey hok

theorem write_lands {a : Nat} (hcrc : k.hasCrc = true → crc32c k.data = k.crc) (htyp : k.typ = 3) (hphys : y.phys p k.offset = some a)
    (hlast : k.isLast = true) (harrive : k.arrive < 8 ∨ 16 ≤ k.arrive) :
    Completes (.iltWrite f) s (fun t => t.chip.mem = s.chip.mem.write a k.data ∧ t.chip.parts = s.chip.parts ∧
      (∃ z, t.chip.flow i = some z ∧ z.expect = psnAdd k.psn 1 ∧ z.acked = psnAdd k.psn 1) ∧
      (k.arrive < 8 → t.chip.reg (rg .seqArrive p k.arrive) = (s.chip.count (rg .seqArrive p k.arrive)).reg (rg .seqArrive p k.arrive))) := by
  obtain ⟨u, hears, htaken⟩ := hturn.takes
  obtain ⟨hheld, hblock⟩ := hturn.clear
  rw [htyp] at htaken
  have hexec : exec (.iltWrite f) s = .next (s.withChip (s.chip.dataPacket f 3)) := State.onChip_powered hup (·.dataPacket f 3)
  refine ⟨_, hexec, ?_⟩
  let z : Flow := { x with block := [], expect := psnAdd k.psn 1, acked := psnAdd k.psn 1 }
  have hkeyU : (u.setFlow i z).keyPart k.key = some (p, y) := ((Chip.OnWire.setFlow u i z).keyPart _).trans ((hears.keyPart _).trans hkey)
  have htake := Chip.takePacket_last (x := { x with key := k.key }) ((hears.flow i).trans hturn.flow) (by omega) (by omega)
    ((hears.refusal k).trans hok) hblock hcrc hlast
  have hland : (u.setFlow i z).landBlock i [k] = (u.setFlow i z).landWrite k := if_pos htyp
  rw [hland, Chip.landWrite_last hkeyU hphys hlast harrive] at htake
  obtain ⟨d, hd⟩ : ∃ d, d = if k.arrive < 8 then ((u.setFlow i z).write a k.data).count (rg .seqArrive p k.arrive)
      else (u.setFlow i z).write a k.data := ⟨_, rfl⟩
  have hflow : d.flow i = some z := by
    rw [hd]
    split <;> exact Chip.flow_setFlow_same ..
  rw [← hd] at htake
  obtain ⟨hwire, _, _, hnoted⟩ := Chip.noteAck_flow hflow k
  simp only [State.withChip, htaken, Chip.taken_of_true htake hflow hheld]
  refine ⟨hwire.mem.trans ?_, hwire.parts.trans ?_, ⟨_, hnoted, rfl, rfl⟩, fun hcounts => (hwire.reg _).trans ?_⟩
  · rw [← hears.mem, hd]
    split <;> rfl
  · rw [← hears.parts, hd]
    split <;> rfl
  · rw [hd, if_pos hcounts]
    exact Chip.reg_count_of_reg (hears.reg _) 1

theorem read_answers {a : Nat} (htyp : k.typ = 4) (hphys : y.phys p k.offset = some a) (hqueued : x.queued = []) (hsent : x.sent = []) :
    Completes (.iltReadReq f) s (fun t => t.chip.mem = s.chip.mem ∧ t.chip.parts = s.chip.parts ∧ ∃ z, t.chip.flow i = some z ∧
      z.expect = psnAdd k.psn 1 ∧ (z.sent.map Sent.pkt ++ z.queued.map Prod.fst).flatMap Packet.data = s.chip.read a k.readLen) := by
  obtain ⟨u, hears, htaken⟩ := hturn.takes
  obtain ⟨hheld, -⟩ := hturn.clear
  obtain ⟨hfits, -⟩ := hturn.header
  rw [htyp] at htaken
  have hexec : exec (.iltReadReq f) s = .next (s.withChip (s.chip.dataPacket f 4)) := State.onChip_powered hup (·.dataPacket f 4)
  refine ⟨_, hexec, ?_⟩
  let z : Flow := { x with expect := psnAdd k.psn 1, acked := psnAdd k.psn 1 }
  have hkeyU : (u.setFlow i z).keyPart k.key = some (p, y) := ((Chip.OnWire.setFlow u i z).keyPart _).trans ((hears.keyPart _).trans hkey)
  have hlen : k.readLen ≠ 0 := by
    simp only [Chip.headerFits, htyp, Bool.and_eq_true, decide_eq_true_eq, show ¬ (4 = 3) by decide, if_false, if_true] at hfits
    omega
  have htake := Chip.takePacket_read (x := { x with key := k.key }) ((hears.flow i).trans hturn.flow) htyp ((hears.refusal k).trans hok)
  obtain ⟨hanswer, sent, queued, psn, used, hanswered, hbytes⟩ :=
    Chip.answerRead_flow hkeyU (u.flow_setFlow_same i z) hphys hlen hsent hqueued
  obtain ⟨hwire, _, _, hnoted⟩ := Chip.noteAck_flow hanswered k
  have hset := ((Chip.OnWire.setFlow u i z).trans hanswer).trans hwire
  simp only [State.withChip, htaken, Chip.taken_of_true htake hanswered hheld]
  refine ⟨hset.mem.trans hears.mem, hset.parts.trans hears.parts, _, hnoted, rfl, hbytes.trans ?_⟩
  exact congrArg (fun m : Memory => m.read a k.readLen) hears.mem

theorem coll_stages {gi : Nat} {g : CollGroup} (hcrc : k.hasCrc = true → crc32c k.data = k.crc) (htyp : k.typ = 6) (hlast : k.isLast = true) 
    (hidle : y.run = none) (hgroup : s.chip.groupById p y k.group = some (gi, g)) :
    let old := (y.staged.find? (fun w => w.group == gi && w.tag == k.tag && w.rank == k.rank)).getD
      ⟨gi, k.tag, k.rank, k.kind, k.fmt, k.bytesField, 0, false, i, k.psn⟩
    Completes (.iltColl f) s (fun t =>
      t.chip.mem = s.chip.mem.write (physOr y p g.stage + slotOff g.stageBytes k.tag k.rank k.bytesField + old.got) k.data ∧
      ∃ z, t.chip.part p = some z ∧ { old with got := old.got + k.data.length, done := true, flow := i, psn := k.psn } ∈ z.staged) := by
  intro old
  obtain ⟨u, hears, htaken⟩ := hturn.takes
  obtain ⟨hheld, hblock⟩ := hturn.clear
  rw [htyp] at htaken
  have hexec : exec (.iltColl f) s = .next (s.withChip (s.chip.dataPacket f 6)) := State.onChip_powered hup (·.dataPacket f 6)
  refine ⟨_, hexec, ?_⟩
  let z : Flow := { x with block := [], expect := psnAdd k.psn 1, acked := psnAdd k.psn 1 }
  have hkeyU : (u.setFlow i z).keyPart k.key = some (p, y) := ((Chip.OnWire.setFlow u i z).keyPart _).trans ((hears.keyPart _).trans hkey)
  have hgroupU : (u.setFlow i z).groupById p y k.group = some (gi, g) :=
    ((Chip.OnWire.setFlow u i z).groupById ..).trans ((hears.groupById ..).trans hgroup)
  have htake := Chip.takePacket_last (x := { x with key := k.key }) ((hears.flow i).trans hturn.flow) (by omega) (by omega)
    ((hears.refusal k).trans hok) hblock hcrc hlast
  have hland : (u.setFlow i z).landBlock i [k] = (u.setFlow i z).landColl i k := (if_neg (by omega)).trans (if_pos htyp)
  obtain ⟨w, hstaged, hmem⟩ := Chip.landColl_stages (i := i) hkeyU hgroupU hidle hlast
  rw [hland, hstaged] at htake
  obtain ⟨hwire, -⟩ := Chip.noteAck_flow (c := ((u.setFlow i z).write (physOr y p g.stage + slotOff g.stageBytes k.tag k.rank k.bytesField + old.got)
    k.data).setPart p w) (u.flow_setFlow_same i z) k
  simp only [State.withChip, htaken, Chip.taken_of_true htake (u.flow_setFlow_same i z) hheld]
  refine ⟨hwire.mem.trans (congrArg (fun m : Memory => m.write _ k.data) hears.mem), w, ?_, hmem⟩
  exact (Chip.part_of_parts hwire.parts p).trans (Chip.part_setPart_same ..)

end

/-- Settles O56: a packet in its turn is what its type does to the flow and to memory, then its ACK; a refused one is a NAK. -/
theorem packetsActInTurn : Obligations.PacketsActInTurn := by
  refine ⟨fun s f k i x p y hup hturn hkey hok hcrc => ⟨fun a htyp hphys hlast harrive => write_lands hup hturn hkey hok hcrc htyp hphys hlast harrive,
      fun a htyp hphys hqueued hsent => read_answers hup hturn hkey hok htyp hphys hqueued hsent,
      fun gi g htyp hlast hidle hgroup => coll_stages hup hturn hkey hok hcrc htyp hlast hidle hgroup⟩,
    fun s f k i x code cmd hup hturn hrefused hcode hcmd => ?_, fun s f k cmd hup hgets hnone hcmd => ?_,
    fun s f k i x hup hgets htyp hown hflow hnext hsmall hheld => ?_⟩
  · obtain ⟨hresponse, hexec⟩ := exec_dataPacket hup hcmd
    obtain ⟨u, hears, htaken⟩ := hturn.takes
    obtain ⟨hheld, hblock⟩ := hturn.clear
    obtain ⟨hmem, hparts, hreg⟩ := Chip.taken_refused (x := { x with key := k.key }) ((hears.flow i).trans hturn.flow) hresponse
      ((hears.refusal k).trans hrefused) hcode hblock hheld
    refine ⟨_, hexec, ?_⟩
    simp only [State.withChip, htaken]
    exact ⟨hmem.trans hears.mem, hparts.trans hears.parts, hreg.trans (Chip.reg_count_of_reg (hears.reg _) 1)⟩
  · obtain ⟨-, hexec⟩ := exec_dataPacket hup hcmd
    obtain ⟨u, hears, hacted⟩ := hgets.acted
    have hnak (code : Nat) : let e := u.sendNak k.src k.flow k.key 0 code k.psn
        e.mem = s.chip.mem ∧ e.parts = s.chip.parts ∧ e.fab.flows = s.chip.fab.flows ∧
          e.reg (rg .iltEvtNak) = (s.chip.count (rg .iltEvtNak)).reg (rg .iltEvtNak) := by
      have hsends := u.sendNak_sends k.src k.flow k.key 0 code k.psn
      exact ⟨hsends.onWire.mem.trans hears.mem, hsends.onWire.parts.trans hears.parts, hsends.flows.trans hears.flows,
        (hsends.onWire.reg _).trans (Chip.reg_count_of_reg (hears.reg _) 1)⟩
    refine ⟨_, hexec, ?_⟩
    simp only [State.withChip, Chip.dataPacket, hacted, hears.rxFlow, hnone]
    split <;> exact hnak _
  · obtain ⟨u, hears, hacted⟩ := hgets.acted
    rw [htyp] at hacted
    have hexec : exec (.iltReadResp f) s = .next (s.withChip (s.chip.iltReadResp f)) := State.onChip_powered hup (·.iltReadResp f)
    refine ⟨_, hexec, ?_⟩
    have hflowU := (hears.flow i).trans hflow
    have htake := Chip.takePacket_response (c := u) (x := x) hflowU htyp
    have hresp : s.chip.iltReadResp f = (u.setFlow i { x with data := x.data ++ k.data, expect := psnAdd k.psn 1, acked := psnAdd k.psn 1 }).noteAck i k := by
      rw [Chip.iltReadResp, hacted]
      simp only [hears.ownFlow, hown, hflowU]
      rw [Chip.inOrder_next _ _ _ hnext hsmall]
      exact Chip.taken_of_true htake (Chip.flow_setFlow_same ..) hheld
    obtain ⟨hwire, _, _, hnoted⟩ := Chip.noteAck_flow (u.flow_setFlow_same i
      { x with data := x.data ++ k.data, expect := psnAdd k.psn 1, acked := psnAdd k.psn 1 }) k
    have hset := (Chip.OnWire.setFlow ..).trans hwire
    simp only [State.withChip, hresp]
    exact ⟨hset.mem.trans hears.mem, hset.parts.trans hears.parts, _, hnoted, rfl, rfl⟩

end Sys2Proof.Machine
end

section
/-! PROOFS. Flows (14 R496-R501, R507): OPEN, ACK, NAK, retransmission and CLOSE. -/

namespace Sys2Proof.Machine

/-! The end of a step leaves what was sent (14 R515) -/

theorem Chip.accordInForce_fab (c : Chip) (e : Nat) : (c.accordInForce e).fab = c.fab := by
  simp only [Chip.accordInForce]
  split
  · rfl
  · next a _ =>
    have hbanks (g : Chip → Nat × Nat → Bank) (l : List (Nat × Nat)) (d : Chip) : (l.foldl (fun d k => d.setBank k.1 k.2 (g d k)) d).fab = d.fab :=
      List.foldlRecOn (motive := fun e : Chip => e.fab = d.fab) l _ rfl fun _ h _ _ => h
    split
    · obtain ⟨_, hrecovery⟩ := Chip.endRecovery_frame (Chip.roundStep _ _ e) _
      rw [hrecovery]
      exact (Chip.updPart_fab ..).trans (hbanks _ _ _)
    · exact hbanks _ _ _

theorem Chip.switchEpoch_fab (c : Chip) (p : Nat) : (c.switchEpoch p).fab = c.fab := by
  simp only [Chip.switchEpoch]
  split
  · rfl
  · next x _ =>
    split
    · rfl
    · refine List.foldlRecOn (motive := fun e : Chip => e.fab = c.fab) _ _ ?_ fun _ h _ _ => h
      obtain ⟨_, hreset⟩ := Chip.resetMonitors_sameButMem (c.setPart p _) p _
      rw [hreset]
      rfl

theorem Chip.retire_fab (c : Chip) (p : Nat) : (c.retire p).fab = c.fab := by
  simp only [Chip.retire]
  split
  · rfl
  · split
    · rfl
    · split <;> rfl

theorem Chip.iftBoundary_fab (c : Chip) (p : Nat) : (c.iftBoundary p).fab = c.fab := by
  simp only [Chip.iftBoundary]
  split
  · rfl
  · split
    · rfl
    · split
      · rfl
      · split <;> rfl

theorem Chip.boundary_fab (c : Chip) (p : Nat) : (c.boundary p).fab = c.fab := by
  simp only [Chip.boundary]
  split
  · rfl
  · next x _ =>
    have haccords : ((c.readyEngines p x).foldl Chip.accordInForce c).fab = c.fab :=
      List.foldlRecOn (motive := fun e : Chip => e.fab = c.fab) _ _ rfl fun d h e _ => (d.accordInForce_fab e).trans h
    rw [Chip.updPart_fab, Chip.iftBoundary_fab, Chip.takeSafeCfg, Chip.updPart_fab]
    generalize (c.readyEngines p x).foldl Chip.accordInForce c = d at haccords ⊢
    obtain ⟨_, hmends⟩ := d.noteMends_frame p
    obtain ⟨_, hrecovery⟩ := Chip.endRecovery_frame ((((d.noteMends p).banksAtBoundary p x).switchEpoch p).retire p) p
    rw [hrecovery, ← haccords]
    refine (Chip.retire_fab _ p).trans ((Chip.switchEpoch_fab _ p).trans ?_)
    rw [hmends]
    rfl

/-- A flow without what a step has not sent on it. -/
def Flow.dropUnsent (x : Flow) (p no : Nat) : Flow :=
  { x with waiting := x.waiting.filter (fun m => !m.use.ofStep p no), queued := x.queued.filter (fun q => !q.2.1.ofStep p no) }

def Fabric.dropUnsent (b : Fabric) (p no : Nat) : Fabric := { b with flows := b.flows.map (fun f => (f.1, f.2.dropUnsent p no)) }

theorem Chip.dropUnsent_fab (c : Chip) (p no : Nat) : (c.dropUnsent p no).fab = c.fab.dropUnsent p no := rfl

/-- A flow after the end of a step: what the step had not sent is gone. -/
theorem Chip.endStep_flow {c : Chip} {p : Nat} {x : Part} {st : StepCtx} (hrun : c.running p = some (x, st)) (status : Status) (idx i : Nat) :
    ((c.endStep p status idx).flow i).map Flow.sent = (c.flow i).map Flow.sent := by
  obtain ⟨hpart, hst⟩ := Chip.part_of_running hrun
  have hfab : (c.endStep p status idx).fab = (c.dropUnsent p st.no).fab := by
    simp only [Chip.endStep, hpart, hst]
    rw [Chip.boundary_fab]
    have hundone : ((c.kvUndo p x st.uses).spoil (st.issued.flatMap Issued.writes)).fab = c.fab := by
      obtain ⟨_, hundo⟩ : c.SameButMem (c.kvUndo p x st.uses) :=
        .foldl _ _ (fun c _ => .trans (.foldl _ _ (fun _ _ => Chip.dropEntry_sameButMem ..) c) (Chip.setSeq_sameButMem ..)) c
      unfold Chip.spoil
      refine List.foldlRecOn (motive := fun e : Chip => e.fab = c.fab) _ _ ?_ fun _ h _ _ => h
      rw [hundo]
    generalize (c.kvUndo p x st.uses).spoil (st.issued.flatMap Issued.writes) = d at hundone
    have hdropped : ((d.clearStep p x).dropUnsent p st.no).fab = (c.dropUnsent p st.no).fab := congrArg (·.dropUnsent p st.no) hundone
    cases st.req.ticket <;> exact hdropped
  rw [Chip.flow, hfab, Chip.flow, Chip.dropUnsent_fab, Fabric.dropUnsent, Tbl.find?_mapValues i (fun _ (y : Flow) => y.dropUnsent p st.no), Option.map_map]
  rfl

/-! Uses of flows (14 R500, R515) -/

section
variable {c : Chip} {p no op : Nat} {y : Part} {st : StepCtx} (hrun : c.running p = some (y, st)) (hno : st.no = no) (hop : ∃ r ∈ st.remotes, r.op = op)
include hrun hno hop

theorem Chip.flowUses_done : c.flowUses [(.stepOp p no op, none)] = c.remoteDone p op := by
  have hany : st.remotes.any (fun r => r.op == op) = true := by simpa using hop
  simp [Chip.flowUses, Chip.flowUse, Chip.stepUse, hrun, hno, hany]

theorem Chip.flowUses_failed (status : Status) : c.flowUses [(.stepOp p no op, some status)] = c.endStep p status op := by
  have hany : st.remotes.any (fun r => r.op == op) = true := by simpa using hop
  simp [Chip.flowUses, Chip.flowUse, Chip.stepUse, hrun, hno, hany]

end

/-- The use of a flow has failed: the step ends with the status, and what the flow has sent stays as it is. -/
theorem Chip.flowUses_fails {c d : Chip} {p no op : Nat} {y : Part} {st : StepCtx} (hrun : c.running p = some (y, st)) (hno : st.no = no)
    (hop : ∃ r ∈ st.remotes, r.op = op) (hparts : d.parts = c.parts) (hfuncs : d.funcs = c.funcs) {status : Status} (hstatus : status ≠ .ok) :
    c.Failed (d.flowUses [(.stepOp p no op, some status)]) p y st status op ∧
      (∀ i, ((d.flowUses [(.stepOp p no op, some status)]).flow i).map Flow.sent = (d.flow i).map Flow.sent) ∧
      ∀ r, r ≠ rg .seqLastFail p → r ≠ rg .seqStatus p → r ≠ rg .seqEvtAbort p → r.name ≠ .safeEvtIftInsert →
        (d.flowUses [(.stepOp p no op, some status)]).reg r = d.reg r := by
  have hrunD : d.running p = some (y, st) := (Chip.running_of_parts hparts p).trans hrun
  rw [Chip.flowUses_failed hrunD hno hop]
  obtain ⟨-, -, -, hregs, -, -⟩ := Chip.endStep_facts hrunD status op
  exact ⟨Chip.failed_endStep hrun hparts hfuncs hstatus op, Chip.endStep_flow hrunD status op, hregs⟩

/-! What a flow does at the sender (14 R497-R500) -/

section
variable {c : Chip} {i : Nat} {x : Flow} (hx : c.flow i = some x)
include hx

theorem Chip.resend_flow (pick : Sent → Bool) : c.OnWire (c.resend i pick) ∧ (c.resend i pick).flow i = some { x with
    sent := x.sent.map (fun w => if pick w then
      { w with pkt := { w.pkt with flags := w.pkt.flags ||| 8 }, at_ := c.now, tries := w.tries + 1 } else w), used := c.now } := by
  simp only [Chip.resend, hx]
  have hsends (g : Sent → Packet) (d : Chip) (l : List Sent) : d.Sends (l.foldl (fun c s => c.transmit (g s)) d) :=
    .foldl l _ (fun c s => .transmit c (g s)) d
  exact ⟨(Chip.OnWire.setFlow ..).trans (hsends _ _ _).onWire, ((hsends _ _ _).flow i).trans (Chip.flow_setFlow_same ..)⟩

/-- A flow with nothing queued sends nothing more. -/
theorem Chip.pump_nothing (hqueued : x.queued = []) : c.OnWire (c.pump i) ∧ ∃ v, (c.pump i).flow i = some v ∧ v.sent = x.sent := by
  simp only [Chip.pump, hx, hqueued, List.take_nil, List.zipIdx_nil, List.map_nil, List.foldl_nil, List.append_nil, List.drop_nil]
  exact ⟨.setFlow .., _, Chip.flow_setFlow_same .., rfl⟩

variable {w : Sent} (hsent : x.sent = [w])
include hsent

/-- The ACK of all that a flow has sent ends its use. -/
theorem Chip.flowAck_ends (hqueued : x.queued = []) (hlast : w.last = true) {ack : Nat} (hnext : psnSub ack w.pkt.psn = 1) (bitmap : Nat) :
    ∃ d, c.flowAck i ack bitmap = (d, [(w.use, none)]) ∧ c.OnWire d ∧ ∃ v, d.flow i = some v ∧ v.sent = [] := by
  have hbefore : 2 ^ 31 ≤ psnSub w.pkt.psn ack := by
    unfold psnSub at hnext ⊢
    omega
  simp only [Chip.flowAck, hx, hsent, List.head?_cons, Option.map_some, Option.getD_some, hnext, List.length_singleton, Nat.lt_irrefl, if_false,
    List.filter_cons, decide_eq_true hbefore, if_true, List.filter_nil, Bool.not_true, Bool.false_eq_true, hlast, List.map_cons, List.map_nil]
  refine ⟨_, rfl, ?_⟩
  let y : Flow := { x with sent := [], used := c.now, reopens := if ([w] : List Sent).isEmpty then x.reopens else 0 }
  obtain ⟨hresend, hresent⟩ := Chip.resend_flow (c.flow_setFlow_same i y) (fun s => s.tries == 1 && !([] : List Nat).contains s.pkt.psn &&
    decide (3 ≤ (([] : List Nat).filter (fun q => decide (psnSub q s.pkt.psn < 2 ^ 31))).length))
  obtain ⟨hpump, v, hpumped, hsame⟩ := Chip.pump_nothing hresent hqueued
  exact ⟨((Chip.OnWire.setFlow c i y).trans hresend).trans hpump, v, hpumped, hsame⟩

theorem Chip.useRefused_only (st : Status) : ∃ v : Flow, c.useRefused i w.pkt.psn st = (c.setFlow i v, [(w.use, some st)]) ∧ v.sent = [] := by
  simp only [Chip.useRefused, hx, hsent, List.find?_cons, beq_self_eq_true]
  exact ⟨_, rfl, by simp⟩

/-- The uses of a flow that fails while one packet is all it holds. -/
theorem Chip.flowFail_only (hqueued : x.queued = []) (hwaiting : x.waiting = []) (st : Status) :
    c.flowFail i st = (c.dropFlow i, [(w.use, some st)]) := by
  simp [Chip.flowFail, hx, hsent, hqueued, hwaiting, List.eraseDups_cons]

end

section
variable {c u : Chip} (h : c.Hears u)
include h

theorem Chip.Hears.funcs : u.funcs = c.funcs := by
  obtain ⟨_, _, _, rfl⟩ := h
  rfl

theorem Chip.Hears.keyOwner (key : Nat) : u.keyOwner key = c.keyOwner key := by simp only [Chip.keyOwner, h.reg]

end

section
variable {c d : Chip} (h : c.OnWire d)
include h

theorem Chip.OnWire.funcs : d.funcs = c.funcs := by
  obtain ⟨_, rfl⟩ := h
  rfl

end

/-! OPEN, OPEN_ACK and CLOSE (14 R496) -/

section
variable {s : State} {f : Frame} {k : Packet} (hup : s.chip.powered = true) (hgets : s.chip.Gets f k)
include hup hgets

/-- A refused OPEN makes no flow and is answered with a NAK. -/
theorem open_refused (htyp : k.typ = 1) (hnew : s.chip.rxFlow k.src k.flow = none)
    (hno : (s.chip.reg (rg .iltChip)).bit 16 = true ∨ s.chip.freeFlow 4096 = none) : Completes (.iltOpen f) s (fun t =>
      t.chip.fab.flows = s.chip.fab.flows ∧ t.chip.reg (rg .iltEvtNak) = (s.chip.count (rg .iltEvtNak)).reg (rg .iltEvtNak)) := by
  obtain ⟨u, hears, hacted⟩ := hgets.acted
  rw [htyp] at hacted
  have hnak (code : Nat) : let e := u.sendNak k.src k.flow 0 0 code k.psn
      e.fab.flows = s.chip.fab.flows ∧ e.reg (rg .iltEvtNak) = (s.chip.count (rg .iltEvtNak)).reg (rg .iltEvtNak) := by
    have hsends := u.sendNak_sends k.src k.flow 0 0 code k.psn
    exact ⟨hsends.flows.trans hears.flows, (hsends.onWire.reg _).trans (Chip.reg_count_of_reg (hears.reg _) 1)⟩
  refine ⟨_, State.onChip_powered hup (·.iltOpen f), ?_⟩
  simp only [Chip.iltOpen, hacted, hears.rxFlow, hnew, hears.reg, hears.freeFlow]
  split
  · exact hnak 7
  · next hopen =>
    rw [hno.resolve_left hopen]
    exact hnak 9

theorem open_makes {i : Nat} (htyp : k.typ = 1) (hnew : s.chip.rxFlow k.src k.flow = none) (hopen : (s.chip.reg (rg .iltChip)).bit 16 = false)
    (hfree : s.chip.freeFlow 4096 = some i) : Completes (.iltOpen f) s (fun t => t.chip.mem = s.chip.mem ∧
      t.chip.flow i = some { peer := k.src, id := k.flow, opened := true, caps := beAt k.ext 0 4, used := s.chip.now } ∧
      ∀ j, j ≠ i → t.chip.flow j = s.chip.flow j) := by
  obtain ⟨u, hears, hacted⟩ := hgets.acted
  rw [htyp] at hacted
  refine ⟨_, State.onChip_powered hup (·.iltOpen f), ?_⟩
  simp only [Chip.iltOpen, hacted, hears.rxFlow, hnew, hears.reg, hears.freeFlow, hopen, hfree, hears.now, Bool.false_eq_true, if_false]
  have hsends (x : Flow) := Chip.Sends.sendOpen (u.setFlow i x) 2 k.src k.flow
  exact ⟨((Chip.OnWire.setFlow ..).trans (hsends _).onWire).mem.trans hears.mem, ((hsends _).flow i).trans (Chip.flow_setFlow_same ..),
    fun j hj => ((hsends _).flow j).trans ((Chip.flow_setFlow_other _ _ hj).trans (hears.flow j))⟩

theorem openAck_opens {i : Nat} {x : Flow} (htyp : k.typ = 2) (hown : s.chip.ownFlow k.src k.flow = some i) (hflow : s.chip.flow i = some x)
    (hopening : x.opened = false) (hable : ∀ m ∈ x.waiting, ∀ b, needCap m.pkt.typ = some b → (beAt k.ext 0 4).testBit b = true) :
    Completes (.iltOpenAck f) s (fun t => t.chip.mem = s.chip.mem ∧
      ∃ y, t.chip.flow i = some y ∧ y.opened = true ∧ y.caps = beAt k.ext 0 4 ∧ y.waiting = [] ∧ x.sent.map Sent.pkt <+: y.sent.map Sent.pkt) := by
  obtain ⟨u, hears, hacted⟩ := hgets.acted
  rw [htyp] at hacted
  refine ⟨_, State.onChip_powered hup (·.iltOpenAck f), ?_⟩
  have hnone : x.waiting.filter (fun m => !(needCap m.pkt.typ).all (fun b => (beAt k.ext 0 4).testBit b)) = [] := by
    refine List.filter_eq_nil_iff.mpr fun m hm => ?_
    cases hneed : needCap m.pkt.typ with
    | none => simp
    | some b => simp [hable m hm b hneed]
  simp only [Chip.iltOpenAck, hacted, hears.ownFlow, hown, hears.flow, hflow, hopening, Bool.false_eq_true, if_false, Chip.release,
    Chip.flow_setFlow_same, Bool.not_true, hnone, List.map_nil]
  have hpump (d : Chip) {z : Flow} (hz : z.opened = true ∧ z.caps = beAt k.ext 0 4 ∧ z.waiting = [] ∧ z.sent = x.sent) (hd : u.OnWire d) :
      let e := ((d.setFlow i z).pump i).flowUses []
      e.mem = s.chip.mem ∧ ∃ y, e.flow i = some y ∧ y.opened = true ∧ y.caps = beAt k.ext 0 4 ∧ y.waiting = [] ∧
        x.sent.map Sent.pkt <+: y.sent.map Sent.pkt := by
    obtain ⟨hopened, hcaps, hwaiting, hsent⟩ := hz
    obtain ⟨hwire, sent, _, _, _, hpumped, -⟩ := Chip.pump_flow (d.flow_setFlow_same i z)
    refine ⟨((hd.trans (.setFlow ..)).trans hwire).mem.trans hears.mem, _, hpumped, hopened, hcaps, hwaiting, ?_⟩
    rw [List.map_append, hsent]
    exact List.prefix_append ..
  exact hpump _ ⟨rfl, rfl, rfl, rfl⟩ (.setFlow ..)

theorem close_discards {i : Nat} {x : Flow} (htyp : k.typ = 9) (hknown : s.chip.rxFlow k.src k.flow = some i) (hflow : s.chip.flow i = some x) :
    let gone (t : State) := t.chip.flow i = none ∧ ∀ j, j ≠ i → t.chip.flow j = s.chip.flow j
    (x.block = [] → Completes (.iltClose f) s (fun t => t.chip.mem = s.chip.mem ∧ gone t)) ∧
    (∀ w p y a, x.block = [w] → w.typ = 3 → s.chip.keyOwner w.key = some p → s.chip.part p = some y → y.phys p w.offset = some a →
      Completes (.iltClose f) s (fun t => t.chip.mem = s.chip.mem.write a w.data ∧ gone t)) := by
  intro gone
  obtain ⟨u, hears, hacted⟩ := hgets.acted
  rw [htyp] at hacted
  have hclose : s.chip.iltClose f = (u.landRest i).dropFlow i := by
    rw [Chip.iltClose, hacted]
    simp only [hears.rxFlow, hknown]
  have hflowU := (hears.flow i).trans hflow
  have hgone (d : Chip) (z : Flow) (hd : d.fab = (u.setFlow i z).fab) (hrest : u.landRest i = d) : gone (s.withChip (s.chip.iltClose f)) := by
    have hflows (j : Nat) : d.flow j = (u.setFlow i z).flow j := congrArg (fun b : Fabric => Tbl.find? j b.flows) hd
    simp only [gone, State.withChip, hclose, hrest, Chip.flow_dropFlow, if_true, true_and]
    intro j hj
    rw [if_neg hj, hflows, Chip.flow_setFlow_other _ _ hj, hears.flow]
  refine ⟨fun hblock => ⟨_, State.onChip_powered hup (·.iltClose f), ?_⟩,
    fun w p y a hblock hwrite howner hpart hphys => ⟨_, State.onChip_powered hup (·.iltClose f), ?_⟩⟩
  · have hrest := Chip.landRest_none hflowU hblock
    refine ⟨?_, hgone _ _ rfl hrest⟩
    simp only [hclose, hrest]
    exact hears.mem
  · have hownerU : (u.setFlow i { x with block := [], acked := x.expect }).keyOwner w.key = some p := (hears.keyOwner w.key).trans howner
    have hpartU : (u.setFlow i { x with block := [], acked := x.expect }).part p = some y := (hears.part p).trans hpart
    have hrest : u.landRest i = (u.setFlow i { x with block := [], acked := x.expect }).write a w.data := by
      simp only [Chip.landRest, hflowU, hblock, List.filter_cons, hwrite, beq_self_eq_true, if_true, List.filter_nil, List.foldl_cons,
        List.foldl_nil]
      rw [Chip.landBytes, hownerU, Option.bind_some, hpartU, Option.bind_some, hphys]
    refine ⟨?_, hgone ((u.setFlow i _).write a w.data) { x with block := [], acked := x.expect } rfl hrest⟩
    simp only [hclose, hrest]
    exact congrArg (fun m : Memory => m.write a w.data) hears.mem

end

/-! ACK and NAK (14 R498-R500, R507) -/

section
variable {s : State} {f : Frame} {k : Packet} {i : Nat} {x : Flow} {w : Sent} {p no op : Nat} {y : Part} {st : StepCtx}
  (hup : s.chip.powered = true) (hgets : s.chip.Gets f k) (hacked : s.chip.ackedFlow k.src k.flow = some i) (hflow : s.chip.flow i = some x)
  (hsent : x.sent = [w]) (huse : w.use = .stepOp p no op) (hrun : s.chip.running p = some (y, st)) (hno : st.no = no)
  (hop : ∃ r ∈ st.remotes, r.op = op)
include hup hgets hacked hflow hsent huse hrun hno hop

theorem ack_ends (hqueued : x.queued = []) (htyp : k.typ = 7) (hlast : w.last = true) (hnext : psnSub k.ack w.pkt.psn = 1) :
    Completes (.iltAck f) s (fun t => t.chip.mem = s.chip.mem ∧
      (∃ v, t.chip.flow i = some v ∧ v.sent = []) ∧ ∃ z u, t.chip.running p = some (z, u) ∧ ∀ r ∈ u.remotes, r.op ≠ op) := by
  obtain ⟨u, hears, hacted⟩ := hgets.acted
  rw [htyp] at hacted
  obtain ⟨d, hends, hwire, v, hv, hempty⟩ := Chip.flowAck_ends ((hears.flow i).trans hflow) hsent hqueued hlast hnext (beAt k.ext 0 8)
  have hrunD : d.running p = some (y, st) := (Chip.running_of_parts (hwire.parts.trans hears.parts) p).trans hrun
  have hack : s.chip.iltAck f = d.remoteDone p op := by
    rw [Chip.iltAck, hacted]
    simp only [hears.ackedFlow, hacked, hends, huse]
    exact Chip.flowUses_done hrunD hno hop
  refine ⟨_, State.onChip_powered hup (·.iltAck f), ?_⟩
  simp only [hack]
  refine ⟨(Chip.updStep_mem ..).trans (hwire.mem.trans hears.mem), ⟨v, ?_, hempty⟩, _, _, Chip.running_updStep hrunD _, fun r hr => ?_⟩
  · rw [Chip.flow, Chip.remoteDone, Chip.updStep_fab]
    exact hv
  · simpa using (List.mem_filter.mp hr).2

/-- A NAK that refuses the packet fails its use with a status, after what else it does to flags and counters. -/
theorem nak_fails (htyp : k.typ = 8) (hpsn : beAt k.ext 4 4 = w.pkt.psn) {flag : Chip → Chip}
    (hflag : ∀ u, (flag u).parts = u.parts ∧ (flag u).funcs = u.funcs ∧ (flag u).fab = u.fab) {status : Status} (hstatus : status ≠ .ok)
    (hnak : ∀ u : Chip, u.flow i = some x → u.flowNak i (bytesLe k.ext 0 1) w.pkt.psn = (flag u).useRefused i w.pkt.psn status) :
    ∃ u, s.chip.Hears u ∧ Completes (.iltNak f) s (fun t => (s.chip.Failed t.chip p y st status op ∧ ∃ v, t.chip.flow i = some v ∧ v.sent = []) ∧
      ∀ r, r ≠ rg .seqLastFail p → r ≠ rg .seqStatus p → r ≠ rg .seqEvtAbort p → r.name ≠ .safeEvtIftInsert → t.chip.reg r = (flag u).reg r) := by
  obtain ⟨u, hears, hacted⟩ := hgets.acted
  rw [htyp] at hacted
  obtain ⟨hparts, hfuncs, hfab⟩ := hflag u
  have hflowU := (hears.flow i).trans hflow
  have hflowF : (flag u).flow i = some x := (congrArg (fun b : Fabric => Tbl.find? i b.flows) hfab).trans hflowU
  obtain ⟨v, hrefused, hempty⟩ := Chip.useRefused_only hflowF hsent status
  have hnacked : s.chip.iltNak f = ((flag u).setFlow i v).flowUses [(.stepOp p no op, some status)] := by
    rw [Chip.iltNak, hacted]
    simp only [hears.ackedFlow, hacked, hpsn, hnak u hflowU, hrefused, huse]
  obtain ⟨hfailed, hflows, hregs⟩ := Chip.flowUses_fails (d := (flag u).setFlow i v) hrun hno hop (hparts.trans hears.parts)
    (hfuncs.trans hears.funcs) hstatus
  refine ⟨u, hears, _, State.onChip_powered hup (·.iltNak f), ?_⟩
  simp only [hnacked]
  refine ⟨⟨hfailed, ?_⟩, hregs⟩
  have hsame := hflows i
  rw [Chip.flow_setFlow_same, Option.map_some, Option.map_eq_some_iff] at hsame
  obtain ⟨z, hz, hzsent⟩ := hsame
  exact ⟨z, hz, hzsent.trans hempty⟩

theorem nak_refuses (htyp : k.typ = 8) (hpsn : beAt k.ext 4 4 = w.pkt.psn) {status : Status}
    (hcode : (bytesLe k.ext 0 1, status) ∈ [(6, Status.malformed), (1, .denied), (2, .denied)]) : Completes (.iltNak f) s (fun t =>
      s.chip.Failed t.chip p y st status op ∧ ∃ v, t.chip.flow i = some v ∧ v.sent = []) := by
  have hstatus : status ≠ .ok ∧ ∀ u : Chip, u.flow i = some x → u.flowNak i (bytesLe k.ext 0 1) w.pkt.psn = u.useRefused i w.pkt.psn status := by
    simp only [List.mem_cons, Prod.mk.injEq, List.not_mem_nil, or_false] at hcode
    rcases hcode with ⟨hcode, rfl⟩ | ⟨hcode, rfl⟩ | ⟨hcode, rfl⟩ <;> exact ⟨by decide, fun u hu => by simp [Chip.flowNak, hu, hcode]⟩
  obtain ⟨_, -, t, hstep, hdone, -⟩ := nak_fails hup hgets hacked hflow hsent huse hrun hno hop htyp hpsn (flag := id) (fun _ => ⟨rfl, rfl, rfl⟩)
    hstatus.1 hstatus.2
  exact ⟨t, hstep, hdone⟩

/-- The second CRC mismatch of a block is the owner's integrity failure, and fails the op (12 R429). -/
theorem nak_crcTwice (htyp : k.typ = 8) (hpsn : beAt k.ext 4 4 = w.pkt.psn) (hcode : bytesLe k.ext 0 1 = 3) (hagain : w.crcAgain = true) :
    Completes (.iltNak f) s (fun t => s.chip.Failed t.chip p y st .integrityFail op ∧ (t.chip.reg (rg .safeIntStatus x.owner)).bit 2 = true ∧
      t.chip.reg (rg .safeEvtBlock x.owner) = (s.chip.count (rg .safeEvtBlock x.owner)).reg (rg .safeEvtBlock x.owner)) := by
  obtain ⟨u, hears, t, hstep, ⟨hfailed, -⟩, hregs⟩ := nak_fails hup hgets hacked hflow hsent huse hrun hno hop htyp hpsn
    (flag := fun u => (u.setBits (rg .safeIntStatus x.owner) 4).count (rg .safeEvtBlock x.owner)) (fun _ => ⟨rfl, rfl, rfl⟩)
    (status := .integrityFail) (by decide) (fun u hu => by simp [Chip.flowNak, hu, hcode, hsent, hagain])
  refine ⟨t, hstep, hfailed, ?_, ?_⟩
  · rw [hregs _ (by simp [rg]) (by simp [rg]) (by simp [rg]) (by simp [rg]), Chip.reg_count_other _ (by simp [rg])]
    exact Chip.setBits_bit u _ (by decide)
  · rw [hregs _ (by simp [rg]) (by simp [rg]) (by simp [rg]) (by simp [rg])]
    exact Chip.reg_count_of_reg ((Chip.reg_setBits_other u (by simp [rg]) 4).trans (hears.reg _)) 1

end

/-! Retransmission, due ACKs and idle flows (14 R496, R498, R499) -/

section
variable {s : State} {i psn : Nat} {x : Flow} (hup : s.chip.powered = true) (hflow : s.chip.flow i = some x)
include hup hflow

theorem rto_packet {w : Sent} (hopen : x.opened = true ∨ 4096 ≤ i) (hfind : x.sent.find? (fun w => w.pkt.psn == psn) = some w) :
    (s.chip.now < w.at_ + s.chip.rto → exec (.iltRtoExpiry i psn) s = .next s) ∧
    (w.at_ + s.chip.rto ≤ s.chip.now → w.tries < s.chip.maxTries → Completes (.iltRtoExpiry i psn) s (fun t => t.chip.mem = s.chip.mem ∧
      ∃ y, t.chip.flow i = some y ∧ y.sent = x.sent.map (fun v => if v.pkt.psn = psn then
        { v with pkt := { v.pkt with flags := v.pkt.flags ||| 8 }, at_ := s.chip.now, tries := v.tries + 1 } else v))) ∧
    (w.at_ + s.chip.rto ≤ s.chip.now → s.chip.maxTries ≤ w.tries → ∀ p no op y st, x.sent = [w] → x.queued = [] → x.waiting = [] →
      w.use = .stepOp p no op → s.chip.running p = some (y, st) → st.no = no → (∃ r ∈ st.remotes, r.op = op) →
      Completes (.iltRtoExpiry i psn) s (fun t => t.chip.flow i = none ∧ s.chip.Failed t.chip p y st .linkLost op)) := by
  have hpacket : ¬ ((!x.opened) = true ∧ i < 4096) := by
    rintro ⟨hclosed, hlow⟩
    rcases hopen with hopened | hhigh
    · rw [hopened] at hclosed
      cases hclosed
    · omega
  refine ⟨fun hearly => State.onChip_same (f := (·.rtoExpiry i psn)) ?_, fun hlate hfew => ⟨_, State.onChip_powered hup (·.rtoExpiry i psn), ?_⟩,
    fun hlate hmany p no op y st hsent hqueued hwaiting huse hrun hno hop => ⟨_, State.onChip_powered hup (·.rtoExpiry i psn), ?_⟩⟩
  · simp only [Chip.rtoExpiry, Chip.flowRto, hflow, if_neg hpacket, hfind, if_pos hearly]
    rfl
  · obtain ⟨hwire, hresent⟩ := Chip.resend_flow hflow (fun t => t.pkt.psn == psn)
    simp only [Chip.rtoExpiry, Chip.flowRto, hflow, if_neg hpacket, hfind, if_neg (Nat.not_lt.mpr hlate), if_neg (Nat.not_le.mpr hfew)]
    refine ⟨hwire.mem, _, hresent, ?_⟩
    simp only [beq_iff_eq]
  · simp only [Chip.rtoExpiry, Chip.flowRto, hflow, if_neg hpacket, hfind, if_neg (Nat.not_lt.mpr hlate), if_pos hmany,
      Chip.flowFail_only hflow hsent hqueued hwaiting, huse]
    obtain ⟨hfailed, hflows, -⟩ := Chip.flowUses_fails (d := s.chip.dropFlow i) hrun hno hop rfl rfl (show Status.linkLost ≠ .ok by decide)
    refine ⟨?_, hfailed⟩
    have hsame := hflows i
    rw [Chip.flow_dropFlow, if_pos rfl, Option.map_none, Option.map_eq_none_iff] at hsame
    exact hsame

theorem rto_open (hclosed : x.opened = false) (hlow : i < 4096) (hlate : x.openAt + s.chip.rto ≤ s.chip.now) (hfew : x.openTries < s.chip.maxTries) :
    Completes (.iltRtoExpiry i psn) s (fun t => t.chip.mem = s.chip.mem ∧
      t.chip.flow i = some { x with openAt := s.chip.now, openTries := x.openTries + 1 }) := by
  refine ⟨_, State.onChip_powered hup (·.rtoExpiry i psn), ?_⟩
  simp only [Chip.rtoExpiry, Chip.flowRto, hflow, hclosed, Bool.not_false, true_and, hlow, if_true, if_neg (Nat.not_lt.mpr hlate),
    if_neg (Nat.not_le.mpr hfew)]
  have hsends (z : Flow) := Chip.Sends.sendOpen (s.chip.setFlow i z) 1 x.peer i
  exact ⟨(hsends _).onWire.mem, ((hsends _).flow i).trans (Chip.flow_setFlow_same ..)⟩

end

/-- Settles O55: what each packet and timer does to its flow, and how the step whose use of the flow fails ends. -/
theorem flowsOpenAcknowledgeAndClose : Obligations.FlowsOpenAcknowledgeAndClose := by
  refine ⟨fun s f k hup hgets => ⟨fun htyp hnew hopen => ⟨fun i => open_makes hup hgets htyp hnew hopen,
      fun hfull => open_refused hup hgets htyp hnew (.inr hfull)⟩, fun htyp hnew hdrains => open_refused hup hgets htyp hnew (.inl hdrains),
      fun i x => openAck_opens hup hgets, fun i x => close_discards hup hgets,
      fun i x w p no op y st hacked hflow hsent hqueued huse hrun hno hop =>
        ⟨ack_ends hup hgets hacked hflow hsent huse hrun hno hop hqueued,
          fun htyp hpsn status => nak_refuses hup hgets hacked hflow hsent huse hrun hno hop htyp hpsn,
          nak_crcTwice hup hgets hacked hflow hsent huse hrun hno hop⟩⟩,
    fun s i psn x hup hflow => ⟨fun w => rto_packet hup hflow, rto_open hup hflow, fun hdue => ?_, fun hearly => ?_,
      fun hlow hopened hwaiting hqueued hsent hidle => ?_, fun hbusy => ?_⟩⟩
  · obtain ⟨d, hdue, hpast⟩ := hdue
    have htimer : s.chip.ackTimer i = s.chip.sendAck i := if_pos (by simp [hflow, hdue, hpast])
    obtain ⟨hwire, hsent⟩ := Chip.sendAck_flow hflow
    refine ⟨_, State.onChip_powered hup (·.ackTimer i), ?_⟩
    simp only [htimer]
    exact ⟨hwire.mem, hsent⟩
  · refine State.onChip_same (f := (·.ackTimer i)) (if_neg ?_)
    cases hdue : x.ackDue with
    | none => simp [hflow, hdue]
    | some d => simp [hflow, hdue, hearly d hdue]
  · have hclose : s.chip.idleClose i = (s.chip.dropFlow i).transmit
        { typ := 9, key := x.key, dst := x.peer, src := s.chip.chipNumber, flow := x.id } := by
      simp [Chip.idleClose, hflow, hlow, hopened, hwaiting, hqueued, hsent, hidle]
    refine (State.onChip_powered hup (·.idleClose i)).trans ?_
    rw [hclose]
    rfl
  · refine State.onChip_same (f := (·.idleClose i)) ?_
    simp only [Chip.idleClose, hflow]
    refine if_neg ?_
    simp only [Bool.and_eq_true, decide_eq_true_eq]
    rintro ⟨⟨⟨⟨⟨hlow, hopened⟩, -⟩, -⟩, -⟩, hidle⟩
    rcases hbusy with hhigh | hclosed | hrecent
    · omega
    · rw [hclosed] at hopened
      cases hopened
    · omega

end Sys2Proof.Machine
end
